-- ==== Sys2Proof/Word.lean ====
section
/-! DEFINITION. The machine's word types (R12, R55, R88). -/

namespace Sys2Proof

/-- An instruction word or header word (R12). -/
abbrev Word := BitVec 32

/-- A 64-bit scalar, a memory word of a span, or an address (R12, R88). -/
abbrev W64 := BitVec 64

/-- One byte of memory. -/
abbrev Byte := BitVec 8

/-- The sixteen 32-bit lanes of a V token; lane `n` occupies bits 32n+31 to 32n (R88, R131). -/
abbrev Lanes := BitVec 512

/-- The valid mask of a V token (R88). -/
abbrev Mask := BitVec 16

end Sys2Proof
end

