-- ==== Sys2Proof/Config.lean ====
section
/-! DEFINITION. What this part fixes (the figures of 00_scope.md and the fixed numbers of the rules) and the free
values: opaque constants that nothing in the model or in a proof can evaluate. -/

namespace Sys2Proof.Config

/-- First byte of every context's scratch window (R127). -/
def scratchBase : Nat := 0x007FFF0000000000

/-- First address after the scratch window (R127). -/
def scratchEnd : Nat := 0x0080000000000000

/-- First address beyond the 55-bit virtual space (R121). -/
def vaLimit : Nat := 2 ^ 55

/-- Size of HBM (R129). -/
def hbmBytes : Nat := 0xC000000000

/-- Base and size of the second tier (R129). -/
def tier2Base : Nat := 0x010000000000
def tier2Bytes : Nat := 0x018000000000

/-- Base and size of the on-chip windows (R129, R131). -/
def windowBase : Nat := 0x040000000000
def windowBytes : Nat := 0x200000000

/-- Base and size of the configuration range (R129, R134). -/
def cfgBase : Nat := 0x080000000000
def cfgBytes : Nat := 0x100000000

/-- Base of the CXL fabric range and the first address after it (R129, R135). -/
def fabricBase : Nat := 0x8000000000000
def fabricEnd : Nat := 0x10000000000000

/-- Bytes of one comb's comb store (R7, R131). -/
def combStoreBytes : Nat := 0x100000

/-- Entries of a comb's hardware deque (R43), its copy FIFO (R243), a slice's watch table (R231). -/
def dequeEntries : Nat := 64
def fifoEntries : Nat := 8
def watchEntries : Nat := 256

/-- Images of a comb's block cache (R114), entries of its TLB and of a die's last-level TLB (R126). -/
def blockImages : Nat := 128
def combTlbEntries : Nat := 256
def dieTlbEntries : Nat := 1536

/-- Lines a slice tracks for the host (R346). -/
def hostLines : Nat := 8192

/-- Entries of the return stack (R172). -/
def returnStack : Nat := 16

/-- The 1 ms, 2 ms and 2 µs bounds in ns (R231, R333, R161). -/
def watchNs : Nat := 1000000
def remoteNs : Nat := 2000000
/-- Within which a write becomes visible (R149), in ns. -/
def visibleNs : Nat := 2000
def guardNs : Nat := 2000

/-- The watchdog's limit in cc (R332). -/
def watchdogCc : Nat := 2 ^ 20

/-- The steps of the core clock in MHz (R4, R367). -/
def clockNominal : Nat := 850
def clockFloor : Nat := 425
def clockStep : Nat := 25

/-! ## Free values

Nothing constrains these. `State.fresh` is the counter they are applied to where each use needs a value of its own. -/

/-- A byte the spec calls undefined: scratch outside the saved set after a resume (R256, R318). DESIGN CHOICE, log 3. -/
opaque freeByte : Nat → Byte

/-- A value the spec calls undefined in a 64-bit word: a word whose write timed out (R333). DESIGN CHOICE, log 3. -/
opaque freeWord : Nat → W64

/-- A choice the spec leaves open: whether a timed-out AMO was performed (R228), or whether a byte of a faulting
chunk's destination was written (R166). DESIGN CHOICE, log 3. -/
opaque freeBool : Nat → Bool

/-- Bytes of other modules' memory and of host memory that this module never wrote (R135, R353). DESIGN CHOICE, log 3. -/
opaque remoteByte : Nat → Byte

/-- Whether another module refuses a read (false) or write of one of its bytes under its inbound windows (R353, R354).
DESIGN CHOICE, log 11. -/
opaque remoteRefuses : Bool → Nat → Bool

/-- The signature ATTEST makes with the part's identity key over its report (R365); the key is not given.
DESIGN CHOICE, log 3. -/
opaque identitySignature : Nat → Nat

/-- The vendor's public key, a point of P-256, whose SHA-256 is fused in the part (R362); the key is not given.
DESIGN CHOICE, log 3. -/
opaque vendorKey : Nat × Nat

/-- BODYHASH of the firmware image the part is delivered with (R361). DESIGN CHOICE, log 3. -/
opaque shippedHash : Nat

end Sys2Proof.Config
end

