-- ==== Sys2Proof/Syntax.lean ====
section
/-! DEFINITION. The instructions of the block architecture and the operations and events of the part: one
constructor for each row of the opcode table (R93 to R99 for the words, 95_what_each_step_holds.md for the rest). -/

namespace Sys2Proof

/-! ## Fields of instruction words -/

/-- Predication (R91): unpredicated, fires on a zero predicate, fires on a nonzero predicate. -/
inductive Pr where
  | always | ifZero | ifNonzero
  deriving DecidableEq, Repr

/-- The three operand slots (R89). `third` is the predicate slot, or the third data slot of a three-input
instruction. -/
inductive Slot where
  | left | right | third
  deriving DecidableEq, Repr

/-- A target field (R94). -/
inductive Target where
  | none
  | slot (k : Slot) (idx : BitVec 7)
  deriving DecidableEq, Repr

/-- A register-form destination (R95). -/
inductive RegDest where
  | none
  | reg (n : BitVec 6)
  deriving DecidableEq, Repr

/-- The element types, codes 0 to 13 in this order (R99). -/
inductive ElemTy where
  | i32 | u32 | f32 | i16x2 | u16x2 | f16x2 | bf16x2 | i8x4 | u8x4 | e4m3x4 | e5m2x4 | e2m1x8 | i4x8 | tern2x16
  deriving DecidableEq, Repr

/-- Signedness by xop of DIV, REM, MIN and MAX (R69, R70, R187). -/
inductive Sgn where
  | s | u
  deriving DecidableEq, Repr

/-- MULH's readings of its operands (R69). -/
inductive MulhKind where
  | ss | uu | su
  deriving DecidableEq, Repr

/-- VCMP's conditions (R198). -/
inductive CmpCond where
  | eq | ne | lt | le | gt | ge | un | or
  deriving DecidableEq, Repr

/-- Operations of VRED and VSCAN (R205). -/
inductive RedOp where
  | add | min | max | and | or | xor
  deriving DecidableEq, Repr

/-- Rounding modes (R63). -/
inductive Rnd where
  | ne | tz | dn | up
  deriving DecidableEq, Repr

/-- VSWZ's patterns (R204). -/
inductive SwzPat where
  | x1 | x2 | x4 | x8 | rev | rotu | rotd | bc0 | shu | shd
  deriving DecidableEq, Repr

/-- VSFU's functions (R211). -/
inductive SfuFn where
  | rcp | rsq | sqrt | exp2 | log2 | sin | cos | tanh
  deriving DecidableEq, Repr

/-- VMASK's forms (R213). -/
inductive MaskFn where
  | mtos | stom | getv | setv | andv | first
  deriving DecidableEq, Repr

/-- Load sizes (R217). -/
inductive LdSize where
  | b | h | w | d | sb | sh | sw
  deriving DecidableEq, Repr

/-- Store sizes (R217, R224). -/
inductive StSize where
  | b | h | w | d
  deriving DecidableEq, Repr

/-- Span hints (R93). -/
inductive Hint where
  | predict | exact | region | stream
  deriving DecidableEq, Repr

/-- AMO operations (R227). -/
inductive AmoOp where
  | add | and | or | xor | min | max | swap | fadd
  deriving DecidableEq, Repr

/-- AMO widths with signedness, WID 0 to 3 (R227). -/
inductive AmoWid where
  | w | d | wu | du
  deriving DecidableEq, Repr

/-- The two widths of CAS and WATCH (R229, R230). -/
inductive Wid2 where
  | w | d
  deriving DecidableEq, Repr

/-- WATCH's conditions (R230). -/
inductive WatchCond where
  | eq | ne | lt | ge | ltu | geu | any | none
  deriving DecidableEq, Repr

/-- FENCE kinds (R232). -/
inductive FenceKind where
  | full | acq | rel | eng | code
  deriving DecidableEq, Repr

/-- FLUSHR kinds (R156, R234). -/
inductive FlushKind where
  | clean | cinv | dinv
  deriving DecidableEq, Repr

/-- COPY modes (R240). -/
inductive CopyMode where
  | lin | d2 | d3 | rgath | rscat | fill
  deriving DecidableEq, Repr

/-- BAR modes (R251). -/
inductive BarMode where
  | wait | arr | tmd
  deriving DecidableEq, Repr

/-- PHINT's two forms (R256): ranges in X, in units of 4 KiB, or in the left operand. -/
inductive PhintForm where
  | imm (start0 count0 start1 count1 : BitVec 8)
  | reg
  deriving DecidableEq, Repr

/-- The system registers (R176). -/
inductive SysReg where
  | h (n : BitVec 3)
  | tcause | tval | tepc | tidx | tstat | tcause2 | tval2 | tvec | ppr
  | rpc (n : BitVec 2)
  | sqc | scrbase | scrsize | touched
  deriving DecidableEq, Repr

/-- MMA modes (R277). -/
inductive MmaMode where
  | f | i | fp | ip | t | maxp | minp
  deriving DecidableEq, Repr

/-- TLD's format source (R267): the format windows, or a stored format of R260. -/
inductive TldFmt where
  | auto
  | fmt (f : ElemTy)
  deriving DecidableEq, Repr

/-- TOP's zero fill values (R285). -/
inductive ZeroVal where
  | zero | ninf | pinf
  deriving DecidableEq, Repr

/-- TOP's operations with the fields each uses (R285). -/
inductive TopOp where
  | zeroBuf (dst : BitVec 4)
  | zeroAcc (dst : BitVec 4) (val : ZeroVal)
  | trans (dst src : BitVec 4)
  | conv (dst src : BitVec 4) (dty : ElemTy) (sat ns : Bool)
  | rmax (src : BitVec 4)
  | rsum (src : BitVec 4)
  | rscale (dst src : BitVec 4)
  | rsub (dst src : BitVec 4)
  | exp2 (dst src : BitVec 4)
  | a2b (dst src : BitVec 4) (dty : ElemTy) (sat si : Bool) (koff : BitVec 4)
  deriving DecidableEq, Repr

/-- TROW's operations (R287). -/
inductive TrowOp where
  | rb | wb | ra | wa
  deriving DecidableEq, Repr

/-! ## Operands of the operations and events -/

/-- Who performs a configuration access (R343). -/
inductive CfgAgent where
  | system
  | hostFn (f : Nat)
  | ctx (c : Nat)
  | queueProc (part : Nat)
  deriving DecidableEq, Repr

/-- A request of another module over the fabric (R354). -/
inductive FabricOp where
  | read
  | write (n : Nat) (data : BitVec 512)
  | amo (op : AmoOp) (wid : AmoWid) (v : W64)
  | cas (wid : Wid2) (c v : W64)
  | lease
  deriving DecidableEq, Repr

/-- An inbound RDMA operation (R357, R359). -/
inductive RdmaOp where
  | write (n : Nat) (data : BitVec 512)
  | read (n : Nat)
  | fetchAdd (v : W64)
  deriving DecidableEq, Repr

/-- What the host reaches (R343, R346, R352): device memory by physical address, its own memory, or, through one of the
module's functions, the configuration range by offset. -/
inductive HostAddr where
  | device (pa : Nat)
  | hostMem (addr : Nat)
  | cfg (fn off : Nat)
  deriving DecidableEq, Repr

/-- Where bits of a byte change unseen by SEC-DED (R338): in HBM, the second tier, a comb store or tile storage, by physical address;
in a comb cache's copy of it; in a copy that a slice of a die holds; or on its way to a cell in the reply to a load. -/
inductive UnseenSite where
  | byte (pa : Nat)
  | copy (comb pa : Nat)
  | slice (die pa : Nat)
  | reply (load pa : Nat)
  deriving DecidableEq, Repr

/-- Where an SRAM or link error is detected (R337, R338): a word of a home's memory or of its hive slice or of a comb store, a
comb cache's copy of a word, tile storage, a comb's control state, a hive slice's records, a sector whose carry code fails; or
where bits of a byte change unseen by SEC-DED. -/
inductive ErrorSite where
  | data (pa : Nat)
  | cached (comb pa : Nat)
  | unseen (at_ : UnseenSite) (flips : Byte)
  | tile (comb cell buf word : Nat) (acc : Bool)
  | control (comb : Nat)
  | records (slice : Nat)
  | carry (pa : Nat)
  deriving DecidableEq, Repr

/-! ## The instructions -/

/-- Every row of the opcode table. The first 135 constructors are instructions with words; the rest are the
operations and events of the part, whose operands say where they happen and what the outside supplies. -/
inductive Instr where
  -- control (R171 to R179)
  | nop
  | exit (p : Pr) (e : BitVec 3) (off : BitVec 20)
  | call (p : Pr) (e : BitVec 3) (off : BitVec 20)
  | exitr (p : Pr) (e : BitVec 3)
  | callr (p : Pr) (e : BitVec 3)
  | ret (p : Pr) (e : BitVec 3)
  | halt (p : Pr) (e : BitVec 3)
  | tret (p : Pr) (e : BitVec 3)
  -- constants, registers, moves (R180 to R184)
  | genc (imm : BitVec 16) (t0 : Target)
  | appc (imm : BitVec 16) (t0 : Target)
  | badr (imm : BitVec 16) (t0 : Target)
  | rd (n : BitVec 6) (t1 t0 : Target)
  | wr (n : BitVec 6)
  | mov (p : Pr) (t1 t0 : Target)
  | mov4 (p : Pr) (t3 t2 t1 t0 : Target)
  | null (p : Pr) (t1 t0 : Target)
  | sel (t1 t0 : Target)
  -- tests (R185, R186)
  | teq (p : Pr) (t1 t0 : Target)
  | tne (p : Pr) (t1 t0 : Target)
  | tlt (p : Pr) (t1 t0 : Target)
  | tle (p : Pr) (t1 t0 : Target)
  | tltu (p : Pr) (t1 t0 : Target)
  | tleu (p : Pr) (t1 t0 : Target)
  | teqi (p : Pr) (imm : BitVec 9) (t0 : Target)
  | tnei (p : Pr) (imm : BitVec 9) (t0 : Target)
  | tlti (p : Pr) (imm : BitVec 9) (t0 : Target)
  | tlei (p : Pr) (imm : BitVec 9) (t0 : Target)
  | tgti (p : Pr) (imm : BitVec 9) (t0 : Target)
  | tgei (p : Pr) (imm : BitVec 9) (t0 : Target)
  | trap (p : Pr) (code : BitVec 9)
  | gets (p : Pr) (r : SysReg) (t0 : Target)
  | sets (p : Pr) (r : SysReg)
  -- scalar integer (R187 to R194)
  | add (p : Pr) (t1 t0 : Target)
  | sub (p : Pr) (t1 t0 : Target)
  | mul (p : Pr) (t1 t0 : Target)
  | mulh (p : Pr) (k : MulhKind) (t1 t0 : Target)
  | div (p : Pr) (g : Sgn) (t1 t0 : Target)
  | rem (p : Pr) (g : Sgn) (t1 t0 : Target)
  | and (p : Pr) (t1 t0 : Target)
  | or (p : Pr) (t1 t0 : Target)
  | xor (p : Pr) (t1 t0 : Target)
  | andn (p : Pr) (t1 t0 : Target)
  | shl (p : Pr) (t1 t0 : Target)
  | shr (p : Pr) (t1 t0 : Target)
  | sar (p : Pr) (t1 t0 : Target)
  | ror (p : Pr) (t1 t0 : Target)
  | min (p : Pr) (g : Sgn) (t1 t0 : Target)
  | max (p : Pr) (g : Sgn) (t1 t0 : Target)
  | addi (p : Pr) (imm : BitVec 9) (t0 : Target)
  | muli (p : Pr) (imm : BitVec 9) (t0 : Target)
  | andi (p : Pr) (imm : BitVec 9) (t0 : Target)
  | ori (p : Pr) (imm : BitVec 9) (t0 : Target)
  | xori (p : Pr) (imm : BitVec 9) (t0 : Target)
  | shli (p : Pr) (imm : BitVec 9) (t0 : Target)
  | shri (p : Pr) (imm : BitVec 9) (t0 : Target)
  | sari (p : Pr) (imm : BitVec 9) (t0 : Target)
  | clz (p : Pr) (t1 t0 : Target)
  | ctz (p : Pr) (t1 t0 : Target)
  | popc (p : Pr) (t1 t0 : Target)
  | brev (p : Pr) (t1 t0 : Target)
  | bswap (p : Pr) (t1 t0 : Target)
  | sxb (p : Pr) (t1 t0 : Target)
  | sxh (p : Pr) (t1 t0 : Target)
  | sxw (p : Pr) (t1 t0 : Target)
  | zxb (p : Pr) (t1 t0 : Target)
  | zxh (p : Pr) (t1 t0 : Target)
  | zxw (p : Pr) (t1 t0 : Target)
  | neg (p : Pr) (t1 t0 : Target)
  | not (p : Pr) (t1 t0 : Target)
  | abs (p : Pr) (t1 t0 : Target)
  | lea (p : Pr) (sh : BitVec 3) (t1 t0 : Target)
  | bfx (p : Pr) (sgn : Bool) (t1 t0 : Target)
  | bfi (t1 t0 : Target)
  | lop3 (p : Pr) (imm : BitVec 24) (tt : BitVec 8) (t1 t0 : Target)
  | addc (p : Pr) (t1 t0 : Target)
  | adc (t1 t0 : Target)
  -- vector (R195 to R214)
  | vadd (p : Pr) (ty : ElemTy) (t1 t0 : Target)
  | vsub (p : Pr) (ty : ElemTy) (t1 t0 : Target)
  | vmul (p : Pr) (ty : ElemTy) (t1 t0 : Target)
  | vfma (ty : ElemTy) (t1 t0 : Target)
  | vmin (p : Pr) (ty : ElemTy) (t1 t0 : Target)
  | vmax (p : Pr) (ty : ElemTy) (t1 t0 : Target)
  | vand (p : Pr) (ty : ElemTy) (t1 t0 : Target)
  | vor (p : Pr) (ty : ElemTy) (t1 t0 : Target)
  | vxor (p : Pr) (ty : ElemTy) (t1 t0 : Target)
  | vshl (p : Pr) (ty : ElemTy) (t1 t0 : Target)
  | vshr (p : Pr) (ty : ElemTy) (t1 t0 : Target)
  | vsar (p : Pr) (ty : ElemTy) (t1 t0 : Target)
  | vcmp (p : Pr) (ty : ElemTy) (c : CmpCond) (t0 : Target)
  | vsel (t1 t0 : Target)
  | vsplat (p : Pr) (ty : ElemTy) (t1 t0 : Target)
  | vext (p : Pr) (ty : ElemTy) (t1 t0 : Target)
  | vins (ty : ElemTy) (t1 t0 : Target)
  | vperm (p : Pr) (t1 t0 : Target)
  | vswz (p : Pr) (pat : SwzPat) (t1 t0 : Target)
  | vred (p : Pr) (ty : ElemTy) (op : RedOp) (t0 : Target)
  | vscan (p : Pr) (ty : ElemTy) (op : RedOp) (t0 : Target)
  | vcvt (p : Pr) (src dst : ElemTy) (sat : Bool) (rnd : Rnd) (t0 : Target)
  | vpack (p : Pr) (ty : ElemTy) (t1 t0 : Target)
  | vunpk (p : Pr) (ty : ElemTy) (t1 t0 : Target)
  | vdot (ty : ElemTy) (t1 t0 : Target)
  | vsfu (p : Pr) (fn : SfuFn) (t1 t0 : Target)
  | vmask (p : Pr) (fn : MaskFn) (t1 t0 : Target)
  | vlop3 (p : Pr) (imm : BitVec 24) (tt : BitVec 8) (t1 t0 : Target)
  -- memory (R215 to R237)
  | ld (p : Pr) (ls : BitVec 5) (sz : LdSize) (hint : Hint) (off : BitVec 4) (t0 : Target)
  | ldv (p : Pr) (ls : BitVec 5) (masked : Bool) (hint : Hint) (off : BitVec 4) (t0 : Target)
  | ldg (p : Pr) (ls : BitVec 5) (sz : LdSize) (hint : Hint) (off : BitVec 4) (t0 : Target)
  | lda (p : Pr) (ls : BitVec 5) (sz : LdSize) (hint : Hint) (off : BitVec 4) (t0 : Target)
  | st (p : Pr) (ls : BitVec 5) (sz : StSize) (hint : Hint) (off : BitVec 4)
  | stv (p : Pr) (ls : BitVec 5) (hint : Hint) (off : BitVec 4)
  | sts (p : Pr) (ls : BitVec 5) (sz : StSize) (hint : Hint) (off : BitVec 4)
  | stl (p : Pr) (ls : BitVec 5) (sz : StSize) (hint : Hint) (off : BitVec 4)
  | amo (p : Pr) (ls : BitVec 5) (op : AmoOp) (wid : AmoWid) (off : BitVec 4) (d : RegDest)
  | cas (p : Pr) (ls : BitVec 5) (wid : Wid2) (off : BitVec 4) (d : RegDest)
  | watch (p : Pr) (ls : BitVec 5) (c : WatchCond) (wid : Wid2) (off : BitVec 4) (t0 : Target)
  | fence (p : Pr) (ls : BitVec 5) (k : FenceKind)
  | flushr (p : Pr) (ls : BitVec 5) (k : FlushKind)
  | span (p : Pr) (ls : BitVec 5) (hive : Bool) (off : BitVec 4) (t0 : Target)
  | claim (p : Pr) (ls : BitVec 5)
  | isync (p : Pr) (ls : BitVec 5)
  -- engine, children, barriers, hints (R238 to R258)
  | copy (p : Pr) (try_ : Bool) (mode : CopyMode) (ls : BitVec 5) (d : RegDest)
  | batch (p : Pr) (ls : BitVec 5) (d : RegDest)
  | waitb (p : Pr) (n : BitVec 9) (t0 : Target)
  | fork (p : Pr) (ls : BitVec 5) (d : RegDest)
  | join (p : Pr) (n : BitVec 9) (t0 : Target)
  | bar (p : Pr) (ch : BitVec 4) (ls : BitVec 5) (mode : BarMode)
  | phint (p : Pr) (form : PhintForm)
  | geti (p : Pr) (sel : BitVec 9) (t0 : Target)
  -- tensor (R267 to R288)
  | tld (p : Pr) (bc tr : Bool) (fmt : TldFmt) (cell ls : BitVec 5) (buf : BitVec 4) (t1 t0 : Target)
  | tst (p : Pr) (acc tr : Bool) (cell ls : BitVec 5) (idx : BitVec 4)
  | mma (p : Pr) (mode : MmaMode) (cell : BitVec 5) (acc : BitVec 3) (a b : BitVec 4) (rung : BitVec 2) (stk zc : Bool) (t1 t0 : Target)
  | top (p : Pr) (op : TopOp) (cell : BitVec 5) (t1 t0 : Target)
  | trow (p : Pr) (op : TrowOp) (cell : BitVec 5) (idx row : BitVec 4) (chunk : BitVec 3) (t1 t0 : Target)
  | pset (p : Pr) (mask : BitVec 6)
  | pget (p : Pr) (t0 : Target)
  -- the pipeline's steps (R39 to R42, R52, R53, R85 to R114, R279)
  | cellIssue (comb cell : Nat)
  | weightRecompute (comb cell : Nat)
  | tokenDelivery (n : Nat)
  | blockFetch (ctx : Nat) (addr : W64)
  | blockCommit (ctx : Nat)
  | growthComplete (ctx : Nat)
  | compactTimeout (ctx : Nat)
  | compositionRefused (ctx : Nat)
  | mmaPass (comb cell : Nat)
  -- the memory system's steps (R130 to R166, R231, R244, R252, R253)
  | loadReply (n : Nat)
  | registration (n : Nat)
  | homeRead (n lo hi : Nat)
  | sliceEcho (ctx slice : Nat)
  | writeAck (n : Nat)
  | amoAtHome (n : Nat)
  | watchExpired (n : Nat)
  | flushrWalk (n : Nat)
  | copyChunk (n : Nat)
  | barrierArrival (n : Nat)
  | barTimeout (ctx : Nat)
  | onchipWindowAccess (n : Nat)
  -- packets and queue processors (R290 to R302, R329, R360)
  | launch (part queue : Nat)
  | depwait (part queue : Nat)
  | depwaitReread (part queue : Nat)
  | signal (part queue : Nat)
  | copyb (part queue : Nat)
  | policy (part queue : Nat)
  | fwin (part queue : Nat)
  | tlbinv (part queue : Nat)
  | sealRange (part queue : Nat)
  | unsealRange (part queue : Nat)
  | resume (part queue : Nat)
  | marker (part queue : Nat)
  | packetComplete (part queue : Nat)
  | queueBind (die : Nat)
  | queueUnbind (die thread : Nat)
  | qpWatchdog (die : Nat)
  -- decisions, pre-emption and faults (R303 to R333)
  | dispatchDecision (part : Nat)
  | dispatchRetry (part : Nat)
  | preemptionDecision (part queue : Nat)
  | faultDecision (ctx : Nat)
  | starvationCheck (part : Nat)
  | reservation (part : Nat)
  | compaction (part : Nat)
  | preemptTimeout (ctx : Nat)
  | saveComplete (ctx : Nat)
  | preemptRetry (part : Nat)
  | noProgress (ctx : Nat)
  | remoteTimeout (n : Nat)
  -- peers, host and errors (R150, R161, R337 to R341, R346, R353 to R359, R367, R368)
  | leaseRequest (n : Nat)
  | leasedWriteApply (n : Nat)
  | hostRead (at_ : HostAddr)
  | hostWrite (at_ : HostAddr) (n : Nat) (data : BitVec 512)
  | bisnpResponse (line : Nat) (dirty : Option (BitVec 512))
  | fabricRequest (module pa : Nat) (op : FabricOp)
  | inboundRdma (part qp : Nat) (rkey : BitVec 32) (va : W64) (op : RdmaOp)
  | portDrop (port : Nat)
  | timeExchange (ok : Bool) (offs : BitVec 24) (master : Nat)
  | syncLoss
  | sramError (site : ErrorSite) (uncorrectable : Bool)
  | clockStepDown (watts celsius : Nat)
  | clockStepUp (watts celsius : Nat)
  | thermalTrip (celsius : Nat)
  -- start-up (R363, R364, R348, R349)
  | powerOn
  | startStage (retainedOk : Bool)
  | startFailure (code : BitVec 8)
  | frameScrubDone (frame : Nat)
  | stopComplete (part : Nat)
  -- register writes (R14, R290, R291, R336, R343 to R369)
  | qwr (by_ : CfgAgent) (part queue : Nat) (v : BitVec 32)
  | qbase (by_ : CfgAgent) (part queue : Nat) (v : W64)
  | qctl (by_ : CfgAgent) (part queue : Nat) (v : W64)
  | qflt (by_ : CfgAgent) (part queue : Nat)
  | partitionStop (by_ : CfgAgent) (part : Nat)
  | partitionStart (by_ : CfgAgent) (part : Nat)
  | pframes (by_ : CfgAgent) (part : Nat) (v : W64)
  | registerWrite (by_ : CfgAgent) (off size : Nat) (v : W64)
  -- the mailbox and power (R362 to R365)
  | imgchunk
  | imgcommit (written : Bool)
  | attest
  | owner
  | resetWarm
  | resetCold
  | resetClear
  | powerLoss
  | timeBaseResume
  | mailboxCommandComplete
  deriving DecidableEq, Repr

end Sys2Proof
end

