-- ==== Sys2Proof/WellFormed.lean ====
section
/-! DEFINITION. Well-formed instructions: the field values that R97 to R99, R113 and each instruction's own
description allow. -/

namespace Sys2Proof

namespace ElemTy

/-- The 5-bit type code (R99). -/
def code : ElemTy → Nat
  | i32 => 0 | u32 => 1 | f32 => 2 | i16x2 => 3 | u16x2 => 4 | f16x2 => 5 | bf16x2 => 6
  | i8x4 => 7 | u8x4 => 8 | e4m3x4 => 9 | e5m2x4 => 10 | e2m1x8 => 11 | i4x8 => 12 | tern2x16 => 13

/-- Sub-elements per lane (R99). -/
def count : ElemTy → Nat
  | i32 | u32 | f32 => 1
  | i16x2 | u16x2 | f16x2 | bf16x2 => 2
  | i8x4 | u8x4 | e4m3x4 | e5m2x4 => 4
  | e2m1x8 | i4x8 => 8
  | tern2x16 => 16

/-- Bits of one sub-element: 32 over the count (R195). -/
def width (t : ElemTy) : Nat := 32 / t.count

/-- Types of lane integer arithmetic (R72, R99). -/
def isLaneInt : ElemTy → Bool
  | i32 | u32 | i16x2 | u16x2 | i8x4 | u8x4 => true
  | _ => false

/-- Types of lane float arithmetic (R73, R99). -/
def isLaneFloat : ElemTy → Bool
  | f32 | f16x2 | bf16x2 => true
  | _ => false

/-- Types of lane arithmetic, codes 0 to 8 (R99). -/
def isLane (t : ElemTy) : Bool := t.isLaneInt || t.isLaneFloat

/-- Signed integer types, ternary apart (R56). -/
def isSigned : ElemTy → Bool
  | i32 | i16x2 | i8x4 | i4x8 => true
  | _ => false

/-- Integer types, ternary apart (R56). -/
def isInt : ElemTy → Bool
  | i32 | u32 | i16x2 | u16x2 | i8x4 | u8x4 | i4x8 => true
  | _ => false

/-- Floating-point types (R58). -/
def isFloat : ElemTy → Bool
  | f32 | f16x2 | bf16x2 | e4m3x4 | e5m2x4 | e2m1x8 => true
  | _ => false

/-- The eight stored formats of a tile buffer (R260). -/
def isStored : ElemTy → Bool
  | bf16x2 | e4m3x4 | e5m2x4 | e2m1x8 | i16x2 | i8x4 | i4x8 | tern2x16 => true
  | _ => false

/-- Stored formats that may carry block scales, which are also those of the float ladder (R261, R272). -/
def isStoredFloat : ElemTy → Bool
  | bf16x2 | e4m3x4 | e5m2x4 | e2m1x8 => true
  | _ => false

/-- Stored formats of the integer ladder (R272). -/
def isStoredInt : ElemTy → Bool
  | i16x2 | i8x4 | i4x8 => true
  | _ => false

/-- The type a code names (R99). -/
def ofCode : Nat → Option ElemTy
  | 0 => some i32 | 1 => some u32 | 2 => some f32 | 3 => some i16x2 | 4 => some u16x2 | 5 => some f16x2
  | 6 => some bf16x2 | 7 => some i8x4 | 8 => some u8x4 | 9 => some e4m3x4 | 10 => some e5m2x4
  | 11 => some e2m1x8 | 12 => some i4x8 | 13 => some tern2x16
  | _ => none

end ElemTy

/-- AMO's legal pairs of operation and width (R227). -/
def amoLegal : AmoOp → AmoWid → Bool
  | .fadd, k => k == .w
  | .min, _ => true
  | .max, _ => true
  | _, k => k == .w || k == .d

/-- TOP's legal field values (R285). -/
def TopOp.wf : TopOp → Bool
  | .conv _ _ dty _ ns => dty.isStored && (!ns || dty == .e4m3x4 || dty == .e2m1x8)
  | .a2b _ _ dty _ _ _ => dty.isStored
  | _ => true

namespace Instr

/-- Constructors that stand for an instruction word; the others are operations and events of the part. -/
def isWord : Instr → Bool
  | cellIssue .. | weightRecompute .. | tokenDelivery .. | blockFetch .. | blockCommit .. | growthComplete ..
  | compactTimeout .. | compositionRefused .. | mmaPass .. | loadReply .. | registration .. | homeRead ..
  | sliceEcho .. | writeAck .. | amoAtHome .. | watchExpired .. | flushrWalk .. | copyChunk ..
  | barrierArrival .. | barTimeout .. | onchipWindowAccess .. | launch .. | depwait .. | depwaitReread ..
  | signal .. | copyb .. | policy .. | fwin .. | tlbinv .. | sealRange .. | unsealRange .. | resume .. | marker ..
  | packetComplete .. | queueBind .. | queueUnbind .. | qpWatchdog .. | dispatchDecision .. | dispatchRetry ..
  | preemptionDecision .. | faultDecision .. | starvationCheck .. | reservation .. | compaction ..
  | preemptTimeout .. | saveComplete .. | preemptRetry .. | noProgress .. | remoteTimeout .. | leaseRequest ..
  | leasedWriteApply .. | hostRead .. | hostWrite .. | bisnpResponse .. | fabricRequest .. | inboundRdma ..
  | portDrop .. | timeExchange .. | syncLoss | sramError .. | clockStepDown .. | clockStepUp ..
  | thermalTrip .. | powerOn | startStage .. | startFailure .. | frameScrubDone .. | stopComplete ..
  | qwr .. | qbase .. | qctl .. | qflt .. | partitionStop .. | partitionStart .. | pframes ..
  | registerWrite .. | imgchunk | imgcommit .. | attest | owner | resetWarm | resetCold | resetClear
  | powerLoss | timeBaseResume | mailboxCommandComplete => false
  | _ => true

/-- The checks of R113's Fields row on an instruction's own fields. An operation or event has no word and so no
field to check. -/
def wf : Instr → Bool
  | shli _ imm _ | shri _ imm _ | sari _ imm _ => imm.toNat ≤ 63
  | vadd _ t _ _ | vsub _ t _ _ | vmul _ t _ _ | vfma t _ _ | vmin _ t _ _ | vmax _ t _ _
  | vand _ t _ _ | vor _ t _ _ | vxor _ t _ _ => t.isLane
  | vshl _ t _ _ | vshr _ t _ _ | vsar _ t _ _ => t.isLaneInt
  | vcmp _ t c _ => t.isLane && (t.isLaneFloat || !(c == .un || c == .or))
  | vred _ t _ _ | vscan _ t _ _ => t.isLane
  | vcvt _ s d _ _ _ => s.count == d.count
  | vpack _ t _ _ | vunpk _ t _ _ | vdot t _ _ => 3 ≤ t.code
  | ldg _ _ sz _ _ _ => !(sz == .d || sz == .sw)
  | sts _ _ sz _ _ => !(sz == .d)
  | amo _ _ op k _ _ => amoLegal op k
  | geti _ n _ => n.toNat ≤ 20
  | tld _ _ tr (.auto) _ _ _ _ _ => !tr
  | tld _ _ _ (.fmt f) _ _ _ _ _ => f.isStored
  | mma _ mode _ _ _ _ rung stk _ _ _ =>
      rung.toNat < 3 &&
      (match mode with
       | .f | .i => true
       | .fp | .ip => !stk
       | .t | .maxp | .minp => !stk && rung == 0)
  | top _ op _ _ _ => op.wf
  | trow _ op _ _ _ chunk _ _ =>
      match op with
      | .rb | .wb => true
      | .ra | .wa => chunk == 0
  | pset _ mask => mask != 0
  | _ => true

end Instr

end Sys2Proof
end

