-- ==== Sys2Proof/Decode.lean ====
section
/-! DEFINITION. Decoding of instruction words (R93 to R99 and each instruction's encoding), total on every pair of a
word and its extension word, and the encoder written from the same tables. -/

namespace Sys2Proof

/-- Why a word encodes nothing (R113); every one of these traps with cause 0x01. -/
inductive Reject where
  /-- A reserved opcode (R97). -/
  | reservedOpcode
  /-- Opcode 0x00 in a nonzero word (R97). -/
  | zeroOpcode
  /-- PR = 0b01, or a predicate on a three-input instruction (R91, R113). -/
  | predicate
  /-- An undefined xop, sub-field, ty or mode (R98, R113). -/
  | field
  /-- A type code outside the instruction's set (R99). -/
  | type
  /-- A field that the instruction does not use is not zero (R113). -/
  | unused
  /-- A target field that R94 or R95 calls illegal by itself. -/
  | target
  deriving DecidableEq, Repr

/-- The fields of formats G, G1 and I (R93). -/
structure GFields where
  pr : BitVec 2
  xop : BitVec 5
  t1 : BitVec 9
  t0 : BitVec 9
  deriving DecidableEq, Repr

/-- The opcode, bits [31:25] (R93). -/
def opcodeOf (w : Word) : BitVec 7 := w.extractLsb' 25 7

/-- Bits [24:0] as format G lays them out (R93). -/
def gFields (w : Word) : GFields :=
  { pr := w.extractLsb' 23 2, xop := w.extractLsb' 18 5, t1 := w.extractLsb' 9 9, t0 := w.extractLsb' 0 9 }

/-- Decoding of the PR field (R91). -/
def decPr (b : BitVec 2) : Except Reject Pr :=
  if b = 0 then .ok .always else if b = 2 then .ok .ifZero else if b = 3 then .ok .ifNonzero else .error .predicate

/-- A three-input instruction has PR = 0b00 (R89, R113). -/
def decNoPr (b : BitVec 2) : Except Reject Unit := if b = 0 then .ok () else .error .predicate

/-- Decoding of a target field (R94). -/
def decTarget (b : BitVec 9) : Except Reject Target :=
  let k : BitVec 2 := b.extractLsb' 7 2
  let i : BitVec 7 := b.extractLsb' 0 7
  if k = 0 then (if i = 0 then .ok .none else .error .target)
  else if k = 1 then .ok (.slot .left i)
  else if k = 2 then .ok (.slot .right i)
  else .ok (.slot .third i)

/-- Decoding of a register-form T0 (R95). -/
def decRegDest (b : BitVec 9) : Except Reject RegDest :=
  if b = 0 then .ok .none
  else if (b.extractLsb' 6 3 : BitVec 3) = 4 then .ok (.reg (b.extractLsb' 0 6))
  else .error .target

/-- A field that must be zero. -/
def decZero {n : Nat} (b : BitVec n) : Except Reject Unit := if b = 0 then .ok () else .error .unused

/-- A xop that must be zero because no other value is defined (R98). -/
def decXop0 (b : BitVec 5) : Except Reject Unit := if b = 0 then .ok () else .error .field

/-- Decoding of an element type code (R99). -/
def decTy (b : BitVec 5) : Except Reject ElemTy :=
  match ElemTy.ofCode b.toNat with
  | some t => .ok t
  | none => .error .type

/-- A condition on decoded fields. -/
def decCheck (ok : Bool) (r : Reject) : Except Reject Unit := if ok then .ok () else .error r

/-- xop of DIV, REM, MIN and MAX (R187). -/
def decSgn (b : BitVec 5) : Except Reject Sgn :=
  match b.toNat with
  | 0 => .ok .s
  | 1 => .ok .u
  | _ => .error .field

/-- The code that `decSgn` reads. -/
def encSgn : Sgn → BitVec 5
  | .s => 0
  | .u => 1

/-- xop of MULH (R69, R187). -/
def decMulh (b : BitVec 5) : Except Reject MulhKind :=
  match b.toNat with
  | 0 => .ok .ss
  | 1 => .ok .uu
  | 2 => .ok .su
  | _ => .error .field

/-- The code that `decMulh` reads. -/
def encMulh : MulhKind → BitVec 5
  | .ss => 0
  | .uu => 1
  | .su => 2

/-- VCMP condition codes (R198). -/
def decCmp (b : BitVec 3) : Except Reject CmpCond :=
  match b.toNat with
  | 0 => .ok .eq
  | 1 => .ok .ne
  | 2 => .ok .lt
  | 3 => .ok .le
  | 4 => .ok .gt
  | 5 => .ok .ge
  | 6 => .ok .un
  | 7 => .ok .or
  | _ => .error .field

/-- The code that `decCmp` reads. -/
def encCmp : CmpCond → BitVec 3
  | .eq => 0
  | .ne => 1
  | .lt => 2
  | .le => 3
  | .gt => 4
  | .ge => 5
  | .un => 6
  | .or => 7

/-- VRED and VSCAN operation codes (R205). -/
def decRed (b : BitVec 3) : Except Reject RedOp :=
  match b.toNat with
  | 0 => .ok .add
  | 1 => .ok .min
  | 2 => .ok .max
  | 3 => .ok .and
  | 4 => .ok .or
  | 5 => .ok .xor
  | _ => .error .field

/-- The code that `decRed` reads. -/
def encRed : RedOp → BitVec 3
  | .add => 0
  | .min => 1
  | .max => 2
  | .and => 3
  | .or => 4
  | .xor => 5

/-- Rounding field of VCVT (R63). -/
def decRnd (b : BitVec 2) : Except Reject Rnd :=
  match b.toNat with
  | 0 => .ok .ne
  | 1 => .ok .tz
  | 2 => .ok .dn
  | 3 => .ok .up
  | _ => .error .field

/-- The code that `decRnd` reads. -/
def encRnd : Rnd → BitVec 2
  | .ne => 0
  | .tz => 1
  | .dn => 2
  | .up => 3

/-- xop of VSWZ (R204). -/
def decSwz (b : BitVec 5) : Except Reject SwzPat :=
  match b.toNat with
  | 0 => .ok .x1
  | 1 => .ok .x2
  | 2 => .ok .x4
  | 3 => .ok .x8
  | 4 => .ok .rev
  | 5 => .ok .rotu
  | 6 => .ok .rotd
  | 7 => .ok .bc0
  | 8 => .ok .shu
  | 9 => .ok .shd
  | _ => .error .field

/-- The code that `decSwz` reads. -/
def encSwz : SwzPat → BitVec 5
  | .x1 => 0
  | .x2 => 1
  | .x4 => 2
  | .x8 => 3
  | .rev => 4
  | .rotu => 5
  | .rotd => 6
  | .bc0 => 7
  | .shu => 8
  | .shd => 9

/-- xop of VSFU (R211). -/
def decSfu (b : BitVec 5) : Except Reject SfuFn :=
  match b.toNat with
  | 0 => .ok .rcp
  | 1 => .ok .rsq
  | 2 => .ok .sqrt
  | 3 => .ok .exp2
  | 4 => .ok .log2
  | 5 => .ok .sin
  | 6 => .ok .cos
  | 7 => .ok .tanh
  | _ => .error .field

/-- The code that `decSfu` reads. -/
def encSfu : SfuFn → BitVec 5
  | .rcp => 0
  | .rsq => 1
  | .sqrt => 2
  | .exp2 => 3
  | .log2 => 4
  | .sin => 5
  | .cos => 6
  | .tanh => 7

/-- xop of VMASK (R213). -/
def decMaskFn (b : BitVec 5) : Except Reject MaskFn :=
  match b.toNat with
  | 0 => .ok .mtos
  | 1 => .ok .stom
  | 2 => .ok .getv
  | 3 => .ok .setv
  | 4 => .ok .andv
  | 5 => .ok .first
  | _ => .error .field

/-- The code that `decMaskFn` reads. -/
def encMaskFn : MaskFn → BitVec 5
  | .mtos => 0
  | .stom => 1
  | .getv => 2
  | .setv => 3
  | .andv => 4
  | .first => 5

/-- ty of LD, LDA and LDG (R217). -/
def decLdSize (b : BitVec 3) : Except Reject LdSize :=
  match b.toNat with
  | 0 => .ok .b
  | 1 => .ok .h
  | 2 => .ok .w
  | 3 => .ok .d
  | 4 => .ok .sb
  | 5 => .ok .sh
  | 6 => .ok .sw
  | _ => .error .field

/-- The code that `decLdSize` reads. -/
def encLdSize : LdSize → BitVec 3
  | .b => 0
  | .h => 1
  | .w => 2
  | .d => 3
  | .sb => 4
  | .sh => 5
  | .sw => 6

/-- ty of ST, STL and STS (R217). -/
def decStSize (b : BitVec 3) : Except Reject StSize :=
  match b.toNat with
  | 0 => .ok .b
  | 1 => .ok .h
  | 2 => .ok .w
  | 3 => .ok .d
  | _ => .error .field

/-- The code that `decStSize` reads. -/
def encStSize : StSize → BitVec 3
  | .b => 0
  | .h => 1
  | .w => 2
  | .d => 3

/-- Span hint (R93). -/
def decHint (b : BitVec 2) : Except Reject Hint :=
  match b.toNat with
  | 0 => .ok .predict
  | 1 => .ok .exact
  | 2 => .ok .region
  | 3 => .ok .stream
  | _ => .error .field

/-- The code that `decHint` reads. -/
def encHint : Hint → BitVec 2
  | .predict => 0
  | .exact => 1
  | .region => 2
  | .stream => 3

/-- ty of AMO (R227). -/
def decAmoOp (b : BitVec 3) : Except Reject AmoOp :=
  match b.toNat with
  | 0 => .ok .add
  | 1 => .ok .and
  | 2 => .ok .or
  | 3 => .ok .xor
  | 4 => .ok .min
  | 5 => .ok .max
  | 6 => .ok .swap
  | 7 => .ok .fadd
  | _ => .error .field

/-- The code that `decAmoOp` reads. -/
def encAmoOp : AmoOp → BitVec 3
  | .add => 0
  | .and => 1
  | .or => 2
  | .xor => 3
  | .min => 4
  | .max => 5
  | .swap => 6
  | .fadd => 7

/-- WID of AMO (R227). -/
def decAmoWid (b : BitVec 2) : Except Reject AmoWid :=
  match b.toNat with
  | 0 => .ok .w
  | 1 => .ok .d
  | 2 => .ok .wu
  | 3 => .ok .du
  | _ => .error .field

/-- The code that `decAmoWid` reads. -/
def encAmoWid : AmoWid → BitVec 2
  | .w => 0
  | .d => 1
  | .wu => 2
  | .du => 3

/-- WID of CAS and WATCH (R215). -/
def decWid2 (b : BitVec 2) : Except Reject Wid2 :=
  match b.toNat with
  | 0 => .ok .w
  | 1 => .ok .d
  | _ => .error .field

/-- The code that `decWid2` reads. -/
def encWid2 : Wid2 → BitVec 2
  | .w => 0
  | .d => 1

/-- ty of WATCH (R230). -/
def decWatchCond (b : BitVec 3) : Except Reject WatchCond :=
  match b.toNat with
  | 0 => .ok .eq
  | 1 => .ok .ne
  | 2 => .ok .lt
  | 3 => .ok .ge
  | 4 => .ok .ltu
  | 5 => .ok .geu
  | 6 => .ok .any
  | 7 => .ok .none
  | _ => .error .field

/-- The code that `decWatchCond` reads. -/
def encWatchCond : WatchCond → BitVec 3
  | .eq => 0
  | .ne => 1
  | .lt => 2
  | .ge => 3
  | .ltu => 4
  | .geu => 5
  | .any => 6
  | .none => 7

/-- ty of FENCE (R232). -/
def decFence (b : BitVec 3) : Except Reject FenceKind :=
  match b.toNat with
  | 0 => .ok .full
  | 1 => .ok .acq
  | 2 => .ok .rel
  | 3 => .ok .eng
  | 4 => .ok .code
  | _ => .error .field

/-- The code that `decFence` reads. -/
def encFence : FenceKind → BitVec 3
  | .full => 0
  | .acq => 1
  | .rel => 2
  | .eng => 3
  | .code => 4

/-- ty of FLUSHR (R234). -/
def decFlush (b : BitVec 3) : Except Reject FlushKind :=
  match b.toNat with
  | 0 => .ok .clean
  | 1 => .ok .cinv
  | 2 => .ok .dinv
  | _ => .error .field

/-- The code that `decFlush` reads. -/
def encFlush : FlushKind → BitVec 3
  | .clean => 0
  | .cinv => 1
  | .dinv => 2

/-- Mode of COPY (R238, R240). -/
def decCopyMode (b : BitVec 4) : Except Reject CopyMode :=
  match b.toNat with
  | 0 => .ok .lin
  | 1 => .ok .d2
  | 2 => .ok .d3
  | 3 => .ok .rgath
  | 4 => .ok .rscat
  | 5 => .ok .fill
  | _ => .error .field

/-- The code that `decCopyMode` reads. -/
def encCopyMode : CopyMode → BitVec 4
  | .lin => 0
  | .d2 => 1
  | .d3 => 2
  | .rgath => 3
  | .rscat => 4
  | .fill => 5

/-- Mode of BAR (R251). -/
def decBarMode (b : BitVec 2) : Except Reject BarMode :=
  match b.toNat with
  | 0 => .ok .wait
  | 1 => .ok .arr
  | 2 => .ok .tmd
  | _ => .error .field

/-- The code that `decBarMode` reads. -/
def encBarMode : BarMode → BitVec 2
  | .wait => 0
  | .arr => 1
  | .tmd => 2

/-- MODE of MMA (R277). -/
def decMmaMode (b : BitVec 5) : Except Reject MmaMode :=
  match b.toNat with
  | 0 => .ok .f
  | 1 => .ok .i
  | 2 => .ok .fp
  | 3 => .ok .ip
  | 4 => .ok .t
  | 5 => .ok .maxp
  | 6 => .ok .minp
  | _ => .error .field

/-- The code that `decMmaMode` reads. -/
def encMmaMode : MmaMode → BitVec 5
  | .f => 0
  | .i => 1
  | .fp => 2
  | .ip => 3
  | .t => 4
  | .maxp => 5
  | .minp => 6

/-- xop of TROW (R287). -/
def decTrow (b : BitVec 5) : Except Reject TrowOp :=
  match b.toNat with
  | 0 => .ok .rb
  | 1 => .ok .wb
  | 2 => .ok .ra
  | 3 => .ok .wa
  | _ => .error .field

/-- The code that `decTrow` reads. -/
def encTrow : TrowOp → BitVec 5
  | .rb => 0
  | .wb => 1
  | .ra => 2
  | .wa => 3

/-- VAL of TOP zero (R285). -/
def decZeroVal (b : BitVec 2) : Except Reject ZeroVal :=
  match b.toNat with
  | 0 => .ok .zero
  | 1 => .ok .ninf
  | 2 => .ok .pinf
  | _ => .error .field

/-- The code that `decZeroVal` reads. -/
def encZeroVal : ZeroVal → BitVec 2
  | .zero => 0
  | .ninf => 1
  | .pinf => 2

/-- Decoding of a system register number (R176). -/
def decSysReg (b : BitVec 9) : Except Reject SysReg :=
  let n := b.toNat
  if 0x008 ≤ n ∧ n ≤ 0x00F then .ok (.h (b.extractLsb' 0 3))
  else if 0x021 ≤ n ∧ n ≤ 0x024 then .ok (.rpc (BitVec.ofNat 2 (n - 0x021)))
  else match n with
  | 0x010 => .ok .tcause
  | 0x011 => .ok .tval
  | 0x012 => .ok .tepc
  | 0x013 => .ok .tidx
  | 0x014 => .ok .tstat
  | 0x015 => .ok .tcause2
  | 0x016 => .ok .tval2
  | 0x018 => .ok .tvec
  | 0x020 => .ok .ppr
  | 0x025 => .ok .sqc
  | 0x030 => .ok .scrbase
  | 0x031 => .ok .scrsize
  | 0x040 => .ok .touched
  | _ => .error .field

/-- The number of a system register (R176). -/
def SysReg.num : SysReg → BitVec 9
  | .h n => 0b000001#6 ++ n
  | .tcause => 0x010
  | .tval => 0x011
  | .tepc => 0x012
  | .tidx => 0x013
  | .tstat => 0x014
  | .tcause2 => 0x015
  | .tval2 => 0x016
  | .tvec => 0x018
  | .ppr => 0x020
  | .rpc n => 0x021 + n.zeroExtend 9
  | .sqc => 0x025
  | .scrbase => 0x030
  | .scrsize => 0x031
  | .touched => 0x040

/-- An instruction is accepted only when its own fields are well formed. -/
def decWf (i : Instr) (r : Reject := .field) : Except Reject Instr := if i.wf then .ok i else .error r

/-- Format G with xop 0 and two targets. -/
def decG2 (g : GFields) (mk : Pr → Target → Target → Instr) : Except Reject Instr := do
  let p ← decPr g.pr
  decXop0 g.xop
  let t1 ← decTarget g.t1
  let t0 ← decTarget g.t0
  .ok (mk p t1 t0)

/-- Format G with a xop that some table reads. -/
def decGX {α : Type} (g : GFields) (dx : BitVec 5 → Except Reject α) (mk : Pr → α → Target → Target → Instr) :
    Except Reject Instr := do
  let p ← decPr g.pr
  let x ← dx g.xop
  let t1 ← decTarget g.t1
  let t0 ← decTarget g.t0
  decWf (mk p x t1 t0) .type

/-- A three-input instruction with xop 0 (R89). -/
def decG3 (g : GFields) (mk : Target → Target → Instr) : Except Reject Instr := do
  decNoPr g.pr
  decXop0 g.xop
  let t1 ← decTarget g.t1
  let t0 ← decTarget g.t0
  .ok (mk t1 t0)

/-- A three-input instruction with a type in xop. -/
def decG3Ty (g : GFields) (mk : ElemTy → Target → Target → Instr) : Except Reject Instr := do
  decNoPr g.pr
  let y ← decTy g.xop
  let t1 ← decTarget g.t1
  let t0 ← decTarget g.t0
  decWf (mk y t1 t0) .type

/-- Format I with xop 0: an immediate in [17:9] and one target. -/
def decI (g : GFields) (mk : Pr → BitVec 9 → Target → Instr) : Except Reject Instr := do
  let p ← decPr g.pr
  decXop0 g.xop
  let t0 ← decTarget g.t0
  decWf (mk p g.t1 t0)

/-- Format K: imm16 in [24:9] and one target. -/
def decK (w : Word) (mk : BitVec 16 → Target → Instr) : Except Reject Instr := do
  let t0 ← decTarget (w.extractLsb' 0 9)
  .ok (mk (w.extractLsb' 9 16) t0)

/-- Format E with an offset (EXIT, CALL). -/
def decE (w : Word) (mk : Pr → BitVec 3 → BitVec 20 → Instr) : Except Reject Instr := do
  let p ← decPr (w.extractLsb' 23 2)
  .ok (mk p (w.extractLsb' 20 3) (w.extractLsb' 0 20))

/-- Format E whose off20 must be zero (R113, Exits). -/
def decE0 (w : Word) (mk : Pr → BitVec 3 → Instr) : Except Reject Instr := do
  let p ← decPr (w.extractLsb' 23 2)
  decZero (w.extractLsb' 0 20 : BitVec 20)
  .ok (mk p (w.extractLsb' 20 3))

/-- The fields of format M (R93). -/
structure MFields where
  pr : BitVec 2
  ls : BitVec 5
  ty : BitVec 3
  hint : BitVec 2
  off : BitVec 4
  t0 : BitVec 9
  deriving DecidableEq, Repr

/-- Bits [24:0] as format M lays them out. -/
def mFields (w : Word) : MFields :=
  { pr := w.extractLsb' 23 2, ls := w.extractLsb' 18 5, ty := w.extractLsb' 15 3, hint := w.extractLsb' 13 2,
    off := w.extractLsb' 9 4, t0 := w.extractLsb' 0 9 }

/-- A load with a size code, a hint and an ordinary target. -/
def decLoad (m : MFields) (mk : Pr → BitVec 5 → LdSize → Hint → BitVec 4 → Target → Instr) : Except Reject Instr := do
  let p ← decPr m.pr
  let sz ← decLdSize m.ty
  let h ← decHint m.hint
  let t0 ← decTarget m.t0
  decWf (mk p m.ls sz h m.off t0)

/-- A store with a size code and a hint; T0 is zero (R95). -/
def decStore (m : MFields) (mk : Pr → BitVec 5 → StSize → Hint → BitVec 4 → Instr) : Except Reject Instr := do
  let p ← decPr m.pr
  let sz ← decStSize m.ty
  let h ← decHint m.hint
  decZero m.t0
  decWf (mk p m.ls sz h m.off)

/-- A range instruction or fence: everything but PR, LSID and ty is zero (R215). -/
def decRange (m : MFields) : Except Reject Pr := do
  let p ← decPr m.pr
  decZero m.hint
  decZero m.off
  decZero m.t0
  .ok p

/-- Opcodes 0x00 to 0x0F (R97). -/
def decodeControl (op : Nat) (w x : Word) : Except Reject Instr :=
  match op with
  | 0x00 => if w = 0 then .ok .nop else .error .zeroOpcode
  | 0x01 => decE w .exit
  | 0x02 => decE w .call
  | 0x03 => decE0 w .exitr
  | 0x04 => decE0 w .callr
  | 0x05 => decE0 w .ret
  | 0x06 => decE0 w .halt
  | 0x07 => decE0 w .tret
  | 0x08 => decK w .genc
  | 0x09 => decK w .appc
  | 0x0A => decK w .badr
  | 0x0C => do
      decZero (w.extractLsb' 24 1 : BitVec 1)
      let t1 ← decTarget (w.extractLsb' 9 9)
      let t0 ← decTarget (w.extractLsb' 0 9)
      .ok (.rd (w.extractLsb' 18 6) t1 t0)
  | 0x0D => do
      decZero (w.extractLsb' 24 1 : BitVec 1)
      decZero (w.extractLsb' 0 18 : BitVec 18)
      .ok (.wr (w.extractLsb' 18 6))
  | 0x0E => decG2 (gFields w) .mov
  | 0x0F => do
      let g := gFields w
      let p ← decPr g.pr
      decXop0 g.xop
      let t1 ← decTarget g.t1
      let t0 ← decTarget g.t0
      decZero (x.extractLsb' 18 14 : BitVec 14)
      let t3 ← decTarget (x.extractLsb' 9 9)
      let t2 ← decTarget (x.extractLsb' 0 9)
      .ok (.mov4 p t3 t2 t1 t0)
  | _ => .error .reservedOpcode

/-- Opcodes 0x10 to 0x1F (R97). -/
def decodeTests (op : Nat) (w : Word) : Except Reject Instr :=
  let g := gFields w
  match op with
  | 0x10 => decG2 g .null
  | 0x11 => decG3 g .sel
  | 0x12 => decG2 g .teq
  | 0x13 => decG2 g .tne
  | 0x14 => decG2 g .tlt
  | 0x15 => decG2 g .tle
  | 0x16 => decG2 g .tltu
  | 0x17 => decG2 g .tleu
  | 0x18 => decI g .teqi
  | 0x19 => decI g .tnei
  | 0x1A => decI g .tlti
  | 0x1B => decI g .tlei
  | 0x1C => decI g .tgti
  | 0x1D => decI g .tgei
  | 0x1E => do
      let p ← decPr g.pr
      decXop0 g.xop
      decZero g.t0
      .ok (.trap p g.t1)
  | 0x1F => do
      let p ← decPr g.pr
      let r ← decSysReg g.t1
      if g.xop = 0 then
        let t0 ← decTarget g.t0
        .ok (.gets p r t0)
      else if g.xop = 1 then
        decZero g.t0
        .ok (.sets p r)
      else .error .field
  | _ => .error .reservedOpcode

/-- UNOP by its xop (R98). -/
def decodeUnop (g : GFields) : Except Reject Instr := do
  let p ← decPr g.pr
  let t1 ← decTarget g.t1
  let t0 ← decTarget g.t0
  match g.xop.toNat with
  | 0 => .ok (.clz p t1 t0)
  | 1 => .ok (.ctz p t1 t0)
  | 2 => .ok (.popc p t1 t0)
  | 3 => .ok (.brev p t1 t0)
  | 4 => .ok (.bswap p t1 t0)
  | 5 => .ok (.sxb p t1 t0)
  | 6 => .ok (.sxh p t1 t0)
  | 7 => .ok (.sxw p t1 t0)
  | 8 => .ok (.zxb p t1 t0)
  | 9 => .ok (.zxh p t1 t0)
  | 10 => .ok (.zxw p t1 t0)
  | 11 => .ok (.neg p t1 t0)
  | 12 => .ok (.not p t1 t0)
  | 13 => .ok (.abs p t1 t0)
  | _ => .error .field

/-- Opcodes 0x20 to 0x3F (R97). -/
def decodeScalar (op : Nat) (w x : Word) : Except Reject Instr :=
  let g := gFields w
  match op with
  | 0x20 => decG2 g .add
  | 0x21 => decG2 g .sub
  | 0x22 => decG2 g .mul
  | 0x23 => decGX g decMulh .mulh
  | 0x24 => decGX g decSgn .div
  | 0x25 => decGX g decSgn .rem
  | 0x26 => decG2 g .and
  | 0x27 => decG2 g .or
  | 0x28 => decG2 g .xor
  | 0x29 => decG2 g .andn
  | 0x2A => decG2 g .shl
  | 0x2B => decG2 g .shr
  | 0x2C => decG2 g .sar
  | 0x2D => decG2 g .ror
  | 0x2E => decGX g decSgn .min
  | 0x2F => decGX g decSgn .max
  | 0x30 => decI g .addi
  | 0x31 => decI g .muli
  | 0x32 => decI g .andi
  | 0x33 => decI g .ori
  | 0x34 => decI g .xori
  | 0x35 => decI g .shli
  | 0x36 => decI g .shri
  | 0x37 => decI g .sari
  | 0x38 => decodeUnop g
  | 0x39 => do
      decCheck ((g.xop.extractLsb' 3 2 : BitVec 2) == 0) .field
      let p ← decPr g.pr
      let t1 ← decTarget g.t1
      let t0 ← decTarget g.t0
      .ok (.lea p (g.xop.extractLsb' 0 3) t1 t0)
  | 0x3A => do
      decCheck ((g.xop.extractLsb' 1 4 : BitVec 4) == 0) .field
      let p ← decPr g.pr
      let t1 ← decTarget g.t1
      let t0 ← decTarget g.t0
      .ok (.bfx p (g.xop == 1) t1 t0)
  | 0x3B => decG3 g .bfi
  | 0x3C => decG2 g (fun p t1 t0 => .lop3 p (x.extractLsb' 8 24) (x.extractLsb' 0 8) t1 t0)
  | 0x3D => decG2 g .addc
  | 0x3E => decG3 g .adc
  | _ => .error .reservedOpcode

/-- Format G1 with a type in xop and a code in [17:15] (VCMP, VRED, VSCAN). -/
def decG1 {α : Type} (g : GFields) (dx : BitVec 3 → Except Reject α) (mk : Pr → ElemTy → α → Target → Instr) :
    Except Reject Instr := do
  let p ← decPr g.pr
  let y ← decTy g.xop
  let c ← dx (g.t1.extractLsb' 6 3)
  decZero (g.t1.extractLsb' 0 6 : BitVec 6)
  let t0 ← decTarget g.t0
  decWf (mk p y c t0) .type

/-- Opcodes 0x40 to 0x5F (R97). -/
def decodeVector (op : Nat) (w x : Word) : Except Reject Instr :=
  let g := gFields w
  match op with
  | 0x40 => decGX g decTy .vadd
  | 0x41 => decGX g decTy .vsub
  | 0x42 => decGX g decTy .vmul
  | 0x43 => decG3Ty g .vfma
  | 0x44 => decGX g decTy .vmin
  | 0x45 => decGX g decTy .vmax
  | 0x46 => decGX g decTy .vand
  | 0x47 => decGX g decTy .vor
  | 0x48 => decGX g decTy .vxor
  | 0x49 => decGX g decTy .vshl
  | 0x4A => decGX g decTy .vshr
  | 0x4B => decGX g decTy .vsar
  | 0x4C => decG1 g decCmp .vcmp
  | 0x4D => decG3 g .vsel
  | 0x4E => decGX g decTy .vsplat
  | 0x4F => decGX g decTy .vext
  | 0x50 => decG3Ty g .vins
  | 0x51 => decG2 g .vperm
  | 0x52 => decGX g decSwz .vswz
  | 0x53 => decG1 g decRed .vred
  | 0x54 => decG1 g decRed .vscan
  | 0x55 => do
      let p ← decPr g.pr
      let s ← decTy g.xop
      let d ← decTy (g.t1.extractLsb' 4 5)
      let m ← decRnd (g.t1.extractLsb' 1 2)
      decZero (g.t1.extractLsb' 0 1 : BitVec 1)
      let t0 ← decTarget g.t0
      decWf (.vcvt p s d ((g.t1.extractLsb' 3 1 : BitVec 1) == 1) m t0) .type
  | 0x56 => decGX g decTy .vpack
  | 0x57 => decGX g decTy .vunpk
  | 0x58 => decG3Ty g .vdot
  | 0x59 => decGX g decSfu .vsfu
  | 0x5A => decGX g decMaskFn .vmask
  | 0x5B => decG2 g (fun p t1 t0 => .vlop3 p (x.extractLsb' 8 24) (x.extractLsb' 0 8) t1 t0)
  | _ => .error .reservedOpcode

/-- Opcodes 0x60 to 0x6F (R97, R215). -/
def decodeMemory (op : Nat) (w : Word) : Except Reject Instr :=
  let m := mFields w
  match op with
  | 0x60 => decLoad m .ld
  | 0x61 => do
      decCheck ((m.ty.extractLsb' 1 2 : BitVec 2) == 0) .field
      let p ← decPr m.pr
      let h ← decHint m.hint
      let t0 ← decTarget m.t0
      .ok (.ldv p m.ls (m.ty == 1) h m.off t0)
  | 0x62 => decLoad m .ldg
  | 0x63 => decLoad m .lda
  | 0x64 => decStore m .st
  | 0x65 => do
      decCheck (m.ty == 0) .field
      let p ← decPr m.pr
      let h ← decHint m.hint
      decZero m.t0
      .ok (.stv p m.ls h m.off)
  | 0x66 => decStore m .sts
  | 0x67 => decStore m .stl
  | 0x68 => do
      let p ← decPr m.pr
      let o ← decAmoOp m.ty
      let wd ← decAmoWid m.hint
      let d ← decRegDest m.t0
      decWf (.amo p m.ls o wd m.off d)
  | 0x69 => do
      decCheck (m.ty == 0) .field
      let p ← decPr m.pr
      let wd ← decWid2 m.hint
      let d ← decRegDest m.t0
      .ok (.cas p m.ls wd m.off d)
  | 0x6A => do
      let p ← decPr m.pr
      let c ← decWatchCond m.ty
      let wd ← decWid2 m.hint
      let t0 ← decTarget m.t0
      .ok (.watch p m.ls c wd m.off t0)
  | 0x6B => do
      let k ← decFence m.ty
      let p ← decRange m
      .ok (.fence p m.ls k)
  | 0x6C => do
      let k ← decFlush m.ty
      let p ← decRange m
      .ok (.flushr p m.ls k)
  | 0x6D => do
      decCheck ((m.ty.extractLsb' 1 2 : BitVec 2) == 0) .field
      let p ← decPr m.pr
      decZero m.hint
      let t0 ← decTarget m.t0
      .ok (.span p m.ls (m.ty == 1) m.off t0)
  | 0x6E => do
      decCheck (m.ty == 0) .field
      let p ← decRange m
      .ok (.claim p m.ls)
  | 0x6F => do
      decCheck (m.ty == 0) .field
      let p ← decRange m
      .ok (.isync p m.ls)
  | _ => .error .reservedOpcode

/-- Opcodes 0x70 to 0x77 (R97, R238 to R257). In COPY, BATCH, FORK and BAR bits [17:13] hold the LSID. -/
def decodeSync (op : Nat) (w x : Word) : Except Reject Instr :=
  let g := gFields w
  let ls : BitVec 5 := g.t1.extractLsb' 4 5
  let low : BitVec 4 := g.t1.extractLsb' 0 4
  match op with
  | 0x70 => do
      let p ← decPr g.pr
      let m ← decCopyMode (g.xop.extractLsb' 0 4)
      decZero low
      let d ← decRegDest g.t0
      .ok (.copy p ((g.xop.extractLsb' 4 1 : BitVec 1) == 1) m ls d)
  | 0x71 => do
      let p ← decPr g.pr
      decXop0 g.xop
      decZero low
      let d ← decRegDest g.t0
      .ok (.batch p ls d)
  | 0x72 => decI g .waitb
  | 0x73 => do
      let p ← decPr g.pr
      decXop0 g.xop
      decZero low
      let d ← decRegDest g.t0
      .ok (.fork p ls d)
  | 0x74 => decI g .join
  | 0x75 => do
      let p ← decPr g.pr
      decCheck ((g.xop.extractLsb' 4 1 : BitVec 1) == 0) .field
      let m ← decBarMode (low.extractLsb' 2 2)
      decZero (low.extractLsb' 0 2 : BitVec 2)
      decZero g.t0
      .ok (.bar p (g.xop.extractLsb' 0 4) ls m)
  | 0x76 => do
      let p ← decPr g.pr
      decZero g.t1
      decZero g.t0
      if g.xop = 0 then
        .ok (.phint p (.imm (x.extractLsb' 24 8) (x.extractLsb' 16 8) (x.extractLsb' 8 8) (x.extractLsb' 0 8)))
      else if g.xop = 1 then
        decZero x
        .ok (.phint p .reg)
      else .error .field
  | 0x77 => decI g .geti
  | _ => .error .reservedOpcode

/-- TOP's operation from xop and X (R285): every field its row does not use is zero. -/
def decodeTopOp (xop : BitVec 5) (x : Word) : Except Reject TopOp :=
  let dk : BitVec 1 := x.extractLsb' 21 1
  let dst : BitVec 4 := x.extractLsb' 17 4
  let src : BitVec 4 := x.extractLsb' 13 4
  let dty : BitVec 5 := x.extractLsb' 8 5
  let sat : BitVec 1 := x.extractLsb' 7 1
  let val : BitVec 2 := x.extractLsb' 5 2
  let si : BitVec 1 := x.extractLsb' 4 1
  let koff : BitVec 4 := x.extractLsb' 0 4
  match xop.toNat with
  | 0 => do
      decZero (x.extractLsb' 7 10 : BitVec 10)
      decZero (x.extractLsb' 0 5 : BitVec 5)
      if dk = 1 then
        let v ← decZeroVal val
        .ok (.zeroAcc dst v)
      else
        decZero val
        .ok (.zeroBuf dst)
  | 1 => do
      decCheck (dk == 1) .field
      decZero (x.extractLsb' 0 13 : BitVec 13)
      .ok (.trans dst src)
  | 2 => do
      decCheck (dk == 0) .field
      decZero (x.extractLsb' 0 6 : BitVec 6)
      let y ← decTy dty
      .ok (.conv dst src y (sat == 1) ((val.extractLsb' 1 1 : BitVec 1) == 1))
  | 3 => do
      decZero (x.extractLsb' 17 5 : BitVec 5)
      decZero (x.extractLsb' 0 13 : BitVec 13)
      .ok (.rmax src)
  | 4 => do
      decZero (x.extractLsb' 17 5 : BitVec 5)
      decZero (x.extractLsb' 0 13 : BitVec 13)
      .ok (.rsum src)
  | 5 => do
      decCheck (dk == 1) .field
      decZero (x.extractLsb' 0 13 : BitVec 13)
      .ok (.rscale dst src)
  | 6 => do
      decCheck (dk == 1) .field
      decZero (x.extractLsb' 0 13 : BitVec 13)
      .ok (.rsub dst src)
  | 7 => do
      decCheck (dk == 1) .field
      decZero (x.extractLsb' 0 13 : BitVec 13)
      .ok (.exp2 dst src)
  | 8 => do
      decCheck (dk == 0) .field
      decZero val
      let y ← decTy dty
      .ok (.a2b dst src y (sat == 1) (si == 1) koff)
  | _ => .error .field

/-- Opcodes 0x78 to 0x7F (R97, R267 to R288). -/
def decodeTensor (op : Nat) (w x : Word) : Except Reject Instr :=
  let g := gFields w
  let cell : BitVec 5 := x.extractLsb' 27 5
  let ls : BitVec 5 := x.extractLsb' 22 5
  match op with
  | 0x78 => do
      let p ← decPr g.pr
      decZero (g.xop.extractLsb' 0 2 : BitVec 2)
      let t1 ← decTarget g.t1
      let t0 ← decTarget g.t0
      decZero (x.extractLsb' 0 13 : BitVec 13)
      let bc : BitVec 1 := g.xop.extractLsb' 4 1
      let tr : BitVec 1 := g.xop.extractLsb' 3 1
      let buf : BitVec 4 := x.extractLsb' 18 4
      let fmt : BitVec 5 := x.extractLsb' 13 5
      if (g.xop.extractLsb' 2 1 : BitVec 1) = 1 then
        decZero fmt
        decWf (.tld p (bc == 1) (tr == 1) .auto cell ls buf t1 t0)
      else
        let f ← decTy fmt
        decWf (.tld p (bc == 1) (tr == 1) (.fmt f) cell ls buf t1 t0) .type
  | 0x79 => do
      let p ← decPr g.pr
      decZero (g.xop.extractLsb' 0 3 : BitVec 3)
      decZero g.t1
      decZero g.t0
      decZero (x.extractLsb' 0 18 : BitVec 18)
      .ok (.tst p ((g.xop.extractLsb' 4 1 : BitVec 1) == 1) ((g.xop.extractLsb' 3 1 : BitVec 1) == 1) cell ls
        (x.extractLsb' 18 4))
  | 0x7A => do
      let p ← decPr g.pr
      let m ← decMmaMode g.xop
      let t1 ← decTarget g.t1
      let t0 ← decTarget g.t0
      decZero ls
      decZero (x.extractLsb' 0 7 : BitVec 7)
      decWf (.mma p m cell (x.extractLsb' 19 3) (x.extractLsb' 15 4) (x.extractLsb' 11 4) (x.extractLsb' 9 2)
        ((x.extractLsb' 8 1 : BitVec 1) == 1) ((x.extractLsb' 7 1 : BitVec 1) == 1) t1 t0)
  | 0x7B => do
      let p ← decPr g.pr
      let t1 ← decTarget g.t1
      let t0 ← decTarget g.t0
      decZero ls
      let o ← decodeTopOp g.xop x
      decWf (.top p o cell t1 t0)
  | 0x7C => do
      let p ← decPr g.pr
      let o ← decTrow g.xop
      let t1 ← decTarget g.t1
      let t0 ← decTarget g.t0
      decZero ls
      decZero (x.extractLsb' 0 11 : BitVec 11)
      decWf (.trow p o cell (x.extractLsb' 18 4) (x.extractLsb' 14 4) (x.extractLsb' 11 3) t1 t0)
  | 0x7D => do
      let p ← decPr g.pr
      if g.xop = 0 then
        decZero (g.t1.extractLsb' 6 3 : BitVec 3)
        decZero g.t0
        decWf (.pset p (g.t1.extractLsb' 0 6))
      else if g.xop = 1 then
        decZero g.t1
        let t0 ← decTarget g.t0
        .ok (.pget p t0)
      else .error .field
  | _ => .error .reservedOpcode

/-- The instruction that word `w` encodes when the word after it is `x` (R93, R96, R97). `x` is read only for a
paired instruction. -/
def decode (w x : Word) : Except Reject Instr :=
  let op := (opcodeOf w).toNat
  if op < 0x10 then decodeControl op w x
  else if op < 0x20 then decodeTests op w
  else if op < 0x40 then decodeScalar op w x
  else if op < 0x60 then decodeVector op w x
  else if op < 0x70 then decodeMemory op w
  else if op < 0x78 then decodeSync op w x
  else decodeTensor op w x

/-- The paired instructions, whose next word is an extension word (R96), judged by the opcode alone. -/
def isPairedWord (w : Word) : Bool :=
  match (opcodeOf w).toNat with
  | 0x0F | 0x3C | 0x5B | 0x76 | 0x78 | 0x79 | 0x7A | 0x7B | 0x7C => true
  | _ => false

/-- The decoder on an opcode-table word: bits 31 to 0 are the instruction word, bits 63 to 32 its extension word, as
the table counts bits (R12, R93). A word narrower than 32 bits is no instruction. -/
def decodeTableWord (nbits w : Nat) : Option Instr :=
  if nbits < 32 then none
  else match decode (BitVec.ofNat 32 w) (BitVec.ofNat 32 (w / 2 ^ 32)) with
    | .ok i => some i
    | .error _ => none

/-! ## The encoder -/

/-- The PR field (R91). -/
def encPr : Pr → BitVec 2
  | .always => 0
  | .ifZero => 2
  | .ifNonzero => 3

/-- A target field (R94). -/
def encTarget : Target → BitVec 9
  | .none => 0
  | .slot .left i => 1#2 ++ i
  | .slot .right i => 2#2 ++ i
  | .slot .third i => 3#2 ++ i

/-- A register-form T0 (R95). -/
def encRegDest : RegDest → BitVec 9
  | .none => 0
  | .reg n => 4#3 ++ n

/-- A type code (R99). -/
def encTy (t : ElemTy) : BitVec 5 := BitVec.ofNat 5 t.code

/-- A one-bit field. -/
def encBit (b : Bool) : BitVec 1 := if b then 1 else 0

/-- Formats G, G1 and I (R93). -/
def encG (op : BitVec 7) (p : Pr) (xop : BitVec 5) (t1 t0 : BitVec 9) : Word := op ++ encPr p ++ xop ++ t1 ++ t0

/-- Format K (R93). -/
def encK (op : BitVec 7) (imm : BitVec 16) (t0 : Target) : Word := op ++ imm ++ encTarget t0

/-- Format W (R93). -/
def encW (op : BitVec 7) (n : BitVec 6) (t1 t0 : BitVec 9) : Word := op ++ 0#1 ++ n ++ t1 ++ t0

/-- Format M (R93). -/
def encM (op : BitVec 7) (p : Pr) (ls : BitVec 5) (ty : BitVec 3) (hint : BitVec 2) (off : BitVec 4) (t0 : BitVec 9) :
    Word := op ++ encPr p ++ ls ++ ty ++ hint ++ off ++ t0

/-- Format E (R93). -/
def encE (op : BitVec 7) (p : Pr) (e : BitVec 3) (off : BitVec 20) : Word := op ++ encPr p ++ e ++ off

/-- TOP's xop and the low 22 bits of its X (R285). -/
def encTopOp : TopOp → BitVec 5 × BitVec 22
  | .zeroBuf d => (0, 0#1 ++ d ++ 0#17)
  | .zeroAcc d v => (0, 1#1 ++ d ++ 0#10 ++ encZeroVal v ++ 0#5)
  | .trans d s => (1, 1#1 ++ d ++ s ++ 0#13)
  | .conv d s y sat ns => (2, 0#1 ++ d ++ s ++ encTy y ++ encBit sat ++ encBit ns ++ 0#6)
  | .rmax s => (3, 0#5 ++ s ++ 0#13)
  | .rsum s => (4, 0#5 ++ s ++ 0#13)
  | .rscale d s => (5, 1#1 ++ d ++ s ++ 0#13)
  | .rsub d s => (6, 1#1 ++ d ++ s ++ 0#13)
  | .exp2 d s => (7, 1#1 ++ d ++ s ++ 0#13)
  | .a2b d s y sat si koff => (8, 0#1 ++ d ++ s ++ encTy y ++ encBit sat ++ 0#2 ++ encBit si ++ koff)

/-- The word of a well-formed instruction and, for a paired one, its extension word; 0 and 0 for an operation or
event, which has none. An unpaired instruction's second word is 0. -/
def encode : Instr → Word × Word
  | .nop => (0, 0)
  | .exit p e off => (encE 0x01 p e off, 0)
  | .call p e off => (encE 0x02 p e off, 0)
  | .exitr p e => (encE 0x03 p e 0, 0)
  | .callr p e => (encE 0x04 p e 0, 0)
  | .ret p e => (encE 0x05 p e 0, 0)
  | .halt p e => (encE 0x06 p e 0, 0)
  | .tret p e => (encE 0x07 p e 0, 0)
  | .genc i t0 => (encK 0x08 i t0, 0)
  | .appc i t0 => (encK 0x09 i t0, 0)
  | .badr i t0 => (encK 0x0A i t0, 0)
  | .rd n t1 t0 => (encW 0x0C n (encTarget t1) (encTarget t0), 0)
  | .wr n => (encW 0x0D n 0 0, 0)
  | .mov p t1 t0 => (encG 0x0E p 0 (encTarget t1) (encTarget t0), 0)
  | .mov4 p t3 t2 t1 t0 => (encG 0x0F p 0 (encTarget t1) (encTarget t0), 0#14 ++ encTarget t3 ++ encTarget t2)
  | .null p t1 t0 => (encG 0x10 p 0 (encTarget t1) (encTarget t0), 0)
  | .sel t1 t0 => (encG 0x11 .always 0 (encTarget t1) (encTarget t0), 0)
  | .teq p t1 t0 => (encG 0x12 p 0 (encTarget t1) (encTarget t0), 0)
  | .tne p t1 t0 => (encG 0x13 p 0 (encTarget t1) (encTarget t0), 0)
  | .tlt p t1 t0 => (encG 0x14 p 0 (encTarget t1) (encTarget t0), 0)
  | .tle p t1 t0 => (encG 0x15 p 0 (encTarget t1) (encTarget t0), 0)
  | .tltu p t1 t0 => (encG 0x16 p 0 (encTarget t1) (encTarget t0), 0)
  | .tleu p t1 t0 => (encG 0x17 p 0 (encTarget t1) (encTarget t0), 0)
  | .teqi p i t0 => (encG 0x18 p 0 i (encTarget t0), 0)
  | .tnei p i t0 => (encG 0x19 p 0 i (encTarget t0), 0)
  | .tlti p i t0 => (encG 0x1a p 0 i (encTarget t0), 0)
  | .tlei p i t0 => (encG 0x1b p 0 i (encTarget t0), 0)
  | .tgti p i t0 => (encG 0x1c p 0 i (encTarget t0), 0)
  | .tgei p i t0 => (encG 0x1d p 0 i (encTarget t0), 0)
  | .trap p c => (encG 0x1E p 0 c 0, 0)
  | .gets p r t0 => (encG 0x1F p 0 r.num (encTarget t0), 0)
  | .sets p r => (encG 0x1F p 1 r.num 0, 0)
  | .add p t1 t0 => (encG 0x20 p 0 (encTarget t1) (encTarget t0), 0)
  | .sub p t1 t0 => (encG 0x21 p 0 (encTarget t1) (encTarget t0), 0)
  | .mul p t1 t0 => (encG 0x22 p 0 (encTarget t1) (encTarget t0), 0)
  | .mulh p k t1 t0 => (encG 0x23 p (encMulh k) (encTarget t1) (encTarget t0), 0)
  | .div p k t1 t0 => (encG 0x24 p (encSgn k) (encTarget t1) (encTarget t0), 0)
  | .rem p k t1 t0 => (encG 0x25 p (encSgn k) (encTarget t1) (encTarget t0), 0)
  | .and p t1 t0 => (encG 0x26 p 0 (encTarget t1) (encTarget t0), 0)
  | .or p t1 t0 => (encG 0x27 p 0 (encTarget t1) (encTarget t0), 0)
  | .xor p t1 t0 => (encG 0x28 p 0 (encTarget t1) (encTarget t0), 0)
  | .andn p t1 t0 => (encG 0x29 p 0 (encTarget t1) (encTarget t0), 0)
  | .shl p t1 t0 => (encG 0x2a p 0 (encTarget t1) (encTarget t0), 0)
  | .shr p t1 t0 => (encG 0x2b p 0 (encTarget t1) (encTarget t0), 0)
  | .sar p t1 t0 => (encG 0x2c p 0 (encTarget t1) (encTarget t0), 0)
  | .ror p t1 t0 => (encG 0x2d p 0 (encTarget t1) (encTarget t0), 0)
  | .min p k t1 t0 => (encG 0x2e p (encSgn k) (encTarget t1) (encTarget t0), 0)
  | .max p k t1 t0 => (encG 0x2f p (encSgn k) (encTarget t1) (encTarget t0), 0)
  | .addi p i t0 => (encG 0x30 p 0 i (encTarget t0), 0)
  | .muli p i t0 => (encG 0x31 p 0 i (encTarget t0), 0)
  | .andi p i t0 => (encG 0x32 p 0 i (encTarget t0), 0)
  | .ori p i t0 => (encG 0x33 p 0 i (encTarget t0), 0)
  | .xori p i t0 => (encG 0x34 p 0 i (encTarget t0), 0)
  | .shli p i t0 => (encG 0x35 p 0 i (encTarget t0), 0)
  | .shri p i t0 => (encG 0x36 p 0 i (encTarget t0), 0)
  | .sari p i t0 => (encG 0x37 p 0 i (encTarget t0), 0)
  | .clz p t1 t0 => (encG 0x38 p 0 (encTarget t1) (encTarget t0), 0)
  | .ctz p t1 t0 => (encG 0x38 p 1 (encTarget t1) (encTarget t0), 0)
  | .popc p t1 t0 => (encG 0x38 p 2 (encTarget t1) (encTarget t0), 0)
  | .brev p t1 t0 => (encG 0x38 p 3 (encTarget t1) (encTarget t0), 0)
  | .bswap p t1 t0 => (encG 0x38 p 4 (encTarget t1) (encTarget t0), 0)
  | .sxb p t1 t0 => (encG 0x38 p 5 (encTarget t1) (encTarget t0), 0)
  | .sxh p t1 t0 => (encG 0x38 p 6 (encTarget t1) (encTarget t0), 0)
  | .sxw p t1 t0 => (encG 0x38 p 7 (encTarget t1) (encTarget t0), 0)
  | .zxb p t1 t0 => (encG 0x38 p 8 (encTarget t1) (encTarget t0), 0)
  | .zxh p t1 t0 => (encG 0x38 p 9 (encTarget t1) (encTarget t0), 0)
  | .zxw p t1 t0 => (encG 0x38 p 10 (encTarget t1) (encTarget t0), 0)
  | .neg p t1 t0 => (encG 0x38 p 11 (encTarget t1) (encTarget t0), 0)
  | .not p t1 t0 => (encG 0x38 p 12 (encTarget t1) (encTarget t0), 0)
  | .abs p t1 t0 => (encG 0x38 p 13 (encTarget t1) (encTarget t0), 0)
  | .lea p s t1 t0 => (encG 0x39 p (0#2 ++ s) (encTarget t1) (encTarget t0), 0)
  | .bfx p s t1 t0 => (encG 0x3A p (0#4 ++ encBit s) (encTarget t1) (encTarget t0), 0)
  | .bfi t1 t0 => (encG 0x3b .always 0 (encTarget t1) (encTarget t0), 0)
  | .lop3 p i tt t1 t0 => (encG 0x3C p 0 (encTarget t1) (encTarget t0), i ++ tt)
  | .addc p t1 t0 => (encG 0x3d p 0 (encTarget t1) (encTarget t0), 0)
  | .adc t1 t0 => (encG 0x3e .always 0 (encTarget t1) (encTarget t0), 0)
  | .vadd p k t1 t0 => (encG 0x40 p (encTy k) (encTarget t1) (encTarget t0), 0)
  | .vsub p k t1 t0 => (encG 0x41 p (encTy k) (encTarget t1) (encTarget t0), 0)
  | .vmul p k t1 t0 => (encG 0x42 p (encTy k) (encTarget t1) (encTarget t0), 0)
  | .vfma y t1 t0 => (encG 0x43 .always (encTy y) (encTarget t1) (encTarget t0), 0)
  | .vmin p k t1 t0 => (encG 0x44 p (encTy k) (encTarget t1) (encTarget t0), 0)
  | .vmax p k t1 t0 => (encG 0x45 p (encTy k) (encTarget t1) (encTarget t0), 0)
  | .vand p k t1 t0 => (encG 0x46 p (encTy k) (encTarget t1) (encTarget t0), 0)
  | .vor p k t1 t0 => (encG 0x47 p (encTy k) (encTarget t1) (encTarget t0), 0)
  | .vxor p k t1 t0 => (encG 0x48 p (encTy k) (encTarget t1) (encTarget t0), 0)
  | .vshl p k t1 t0 => (encG 0x49 p (encTy k) (encTarget t1) (encTarget t0), 0)
  | .vshr p k t1 t0 => (encG 0x4a p (encTy k) (encTarget t1) (encTarget t0), 0)
  | .vsar p k t1 t0 => (encG 0x4b p (encTy k) (encTarget t1) (encTarget t0), 0)
  | .vcmp p y c t0 => (encG 0x4C p (encTy y) (encCmp c ++ 0#6) (encTarget t0), 0)
  | .vsel t1 t0 => (encG 0x4d .always 0 (encTarget t1) (encTarget t0), 0)
  | .vsplat p k t1 t0 => (encG 0x4e p (encTy k) (encTarget t1) (encTarget t0), 0)
  | .vext p k t1 t0 => (encG 0x4f p (encTy k) (encTarget t1) (encTarget t0), 0)
  | .vins y t1 t0 => (encG 0x50 .always (encTy y) (encTarget t1) (encTarget t0), 0)
  | .vperm p t1 t0 => (encG 0x51 p 0 (encTarget t1) (encTarget t0), 0)
  | .vswz p k t1 t0 => (encG 0x52 p (encSwz k) (encTarget t1) (encTarget t0), 0)
  | .vred p y c t0 => (encG 0x53 p (encTy y) (encRed c ++ 0#6) (encTarget t0), 0)
  | .vscan p y c t0 => (encG 0x54 p (encTy y) (encRed c ++ 0#6) (encTarget t0), 0)
  | .vcvt p s d sat m t0 =>
      (encG 0x55 p (encTy s) (encTy d ++ encBit sat ++ encRnd m ++ 0#1) (encTarget t0), 0)
  | .vpack p k t1 t0 => (encG 0x56 p (encTy k) (encTarget t1) (encTarget t0), 0)
  | .vunpk p k t1 t0 => (encG 0x57 p (encTy k) (encTarget t1) (encTarget t0), 0)
  | .vdot y t1 t0 => (encG 0x58 .always (encTy y) (encTarget t1) (encTarget t0), 0)
  | .vsfu p k t1 t0 => (encG 0x59 p (encSfu k) (encTarget t1) (encTarget t0), 0)
  | .vmask p k t1 t0 => (encG 0x5a p (encMaskFn k) (encTarget t1) (encTarget t0), 0)
  | .vlop3 p i tt t1 t0 => (encG 0x5B p 0 (encTarget t1) (encTarget t0), i ++ tt)
  | .ld p l z h o t0 => (encM 0x60 p l (encLdSize z) (encHint h) o (encTarget t0), 0)
  | .ldv p l m h o t0 => (encM 0x61 p l (0#2 ++ encBit m) (encHint h) o (encTarget t0), 0)
  | .ldg p l z h o t0 => (encM 0x62 p l (encLdSize z) (encHint h) o (encTarget t0), 0)
  | .lda p l z h o t0 => (encM 0x63 p l (encLdSize z) (encHint h) o (encTarget t0), 0)
  | .st p l z h o => (encM 0x64 p l (encStSize z) (encHint h) o 0, 0)
  | .stv p l h o => (encM 0x65 p l 0 (encHint h) o 0, 0)
  | .sts p l z h o => (encM 0x66 p l (encStSize z) (encHint h) o 0, 0)
  | .stl p l z h o => (encM 0x67 p l (encStSize z) (encHint h) o 0, 0)
  | .amo p l op wd o d => (encM 0x68 p l (encAmoOp op) (encAmoWid wd) o (encRegDest d), 0)
  | .cas p l wd o d => (encM 0x69 p l 0 (encWid2 wd) o (encRegDest d), 0)
  | .watch p l c wd o t0 => (encM 0x6A p l (encWatchCond c) (encWid2 wd) o (encTarget t0), 0)
  | .fence p l k => (encM 0x6B p l (encFence k) 0 0 0, 0)
  | .flushr p l k => (encM 0x6C p l (encFlush k) 0 0 0, 0)
  | .span p l h o t0 => (encM 0x6D p l (0#2 ++ encBit h) 0 o (encTarget t0), 0)
  | .claim p l => (encM 0x6E p l 0 0 0 0, 0)
  | .isync p l => (encM 0x6F p l 0 0 0 0, 0)
  | .copy p t m l d => (encG 0x70 p (encBit t ++ encCopyMode m) (l ++ 0#4) (encRegDest d), 0)
  | .batch p l d => (encG 0x71 p 0 (l ++ 0#4) (encRegDest d), 0)
  | .waitb p n t0 => (encG 0x72 p 0 n (encTarget t0), 0)
  | .fork p l d => (encG 0x73 p 0 (l ++ 0#4) (encRegDest d), 0)
  | .join p n t0 => (encG 0x74 p 0 n (encTarget t0), 0)
  | .bar p c l m => (encG 0x75 p (0#1 ++ c) (l ++ encBarMode m ++ 0#2) 0, 0)
  | .phint p (.imm a b c d) => (encG 0x76 p 0 0 0, a ++ b ++ c ++ d)
  | .phint p .reg => (encG 0x76 p 1 0 0, 0)
  | .geti p n t0 => (encG 0x77 p 0 n (encTarget t0), 0)
  | .tld p bc tr .auto cell l b t1 t0 =>
      (encG 0x78 p (encBit bc ++ encBit tr ++ 1#1 ++ 0#2) (encTarget t1) (encTarget t0), cell ++ l ++ b ++ 0#18)
  | .tld p bc tr (.fmt f) cell l b t1 t0 =>
      (encG 0x78 p (encBit bc ++ encBit tr ++ 0#3) (encTarget t1) (encTarget t0), cell ++ l ++ b ++ encTy f ++ 0#13)
  | .tst p a tr cell l i => (encG 0x79 p (encBit a ++ encBit tr ++ 0#3) 0 0, cell ++ l ++ i ++ 0#18)
  | .mma p m cell acc a b r stk zc t1 t0 =>
      (encG 0x7A p (encMmaMode m) (encTarget t1) (encTarget t0),
       cell ++ 0#5 ++ acc ++ a ++ b ++ r ++ encBit stk ++ encBit zc ++ 0#7)
  | .top p o cell t1 t0 =>
      (encG 0x7B p (encTopOp o).1 (encTarget t1) (encTarget t0), cell ++ 0#5 ++ (encTopOp o).2)
  | .trow p o cell i r c t1 t0 =>
      (encG 0x7C p (encTrow o) (encTarget t1) (encTarget t0), cell ++ 0#5 ++ i ++ r ++ c ++ 0#11)
  | .pset p m => (encG 0x7D p 0 (0#3 ++ m) 0, 0)
  | .pget p t0 => (encG 0x7D p 1 0 (encTarget t0), 0)
  | _ => (0, 0)

end Sys2Proof
end

