-- ==== Sys2Proof/Machine/Maps.lean ====
section
/-! DEFINITION. Sparse maps as lists of key and value pairs in rising key order, and the byte memory in the same
form (Host.Cell), where an unlisted address reads as zero and no listed byte is zero. -/

namespace Sys2Proof.Machine

/-- A sparse map: pairs in strictly rising key order. -/
abbrev SMap (α : Type) := List (Nat × α)

/-- The value at key `k`, if listed. -/
def mfind {α : Type} (k : Nat) : SMap α → Option α
  | [] => none
  | (j, v) :: m => if j = k then some v else mfind k m

/-- The value at key `k`, or `d` where none is listed. -/
def mget {α : Type} (d : α) (k : Nat) (m : SMap α) : α := (mfind k m).getD d

/-- The map with `v` at key `k`. -/
def mput {α : Type} (k : Nat) (v : α) : SMap α → SMap α
  | [] => [(k, v)]
  | (j, w) :: m => if k < j then (k, v) :: (j, w) :: m else if k = j then (k, v) :: m else (j, w) :: mput k v m

/-- The map without key `k`. -/
def mdel {α : Type} (k : Nat) : SMap α → SMap α
  | [] => []
  | (j, w) :: m => if k = j then m else if k < j then (j, w) :: m else (j, w) :: mdel k m

/-- The map with `f` applied to the value at `k`, or to `d` where none is listed. -/
def mmod {α : Type} (d : α) (k : Nat) (f : α → α) (m : SMap α) : SMap α := mput k (f (mget d k m)) m

/-- A set of numbers in rising order, as a list. -/
def sinsert (k : Nat) : List Nat → List Nat
  | [] => [k]
  | j :: l => if k < j then k :: j :: l else if k = j then j :: l else j :: sinsert k l

/-- The set without `k`. -/
def serase (k : Nat) : List Nat → List Nat
  | [] => []
  | j :: l => if k = j then l else j :: serase k l

/-- The first n numbers from `a` upward. -/
def rangeFrom (a : Nat) : Nat → List Nat
  | 0 => []
  | n + 1 => a :: rangeFrom (a + 1) n

/-- The numbers below n, rising. -/
def upTo (n : Nat) : List Nat := rangeFrom 0 n

/-- Element `n` of a list replaced by its image under `f`; the list itself where there is none. -/
def lmod {α : Type} (n : Nat) (f : α → α) : List α → List α
  | [] => []
  | a :: l => match n with
    | 0 => f a :: l
    | k + 1 => a :: lmod k f l

/-- Keys in strictly rising order, each above `lo`. -/
def risingFrom {α : Type} (lo : Nat) : SMap α → Bool
  | [] => true
  | (k, _) :: m => decide (lo ≤ k) && risingFrom (k + 1) m

/-! ## Byte memory -/

/-- What an unlisted address reads as: a cold start writes zeros to HBM and the second tier and scrubs every SRAM
(R363 stages 3 and 5). -/
def unlistedByte : Byte := 0

/-- The byte at an address. -/
def memGet (m : List Host.Cell) (a : Nat) : Byte := mget unlistedByte a m

/-- The memory with byte `b` at address `a`, in canonical form. -/
def memSet (m : List Host.Cell) (a : Nat) (b : Byte) : List Host.Cell :=
  if b = unlistedByte then mdel a m else mput a b m

/-- The canonical form: addresses strictly rising and no entry equal to what an unlisted address reads as. -/
def Memory.wf (m : List Host.Cell) : Bool := risingFrom 0 m && m.all (fun c => c.2 != unlistedByte)

/-- `n` bytes from address `a` as a little-endian number (R12). -/
def memRead (m : List Host.Cell) (a : Nat) : Nat → Nat
  | 0 => 0
  | n + 1 => (memGet m a).toNat + 256 * memRead m (a + 1) n

/-- The memory with the low `n` bytes of `d` stored little-endian from address `a` (R12). -/
def memWrite (m : List Host.Cell) (a : Nat) (n : Nat) (d : Nat) : List Host.Cell :=
  match n with
  | 0 => m
  | k + 1 => memWrite (memSet m a (BitVec.ofNat 8 d)) (a + 1) k (d / 256)

/-- The memory with every listed byte of addresses `lo` to `hi - 1` removed. -/
def memClear (m : List Host.Cell) (lo hi : Nat) : List Host.Cell := m.filter (fun c => c.1 < lo || hi ≤ c.1)

end Sys2Proof.Machine
end

