-- ==== Sys2Proof/Machine/State.lean ====
section
/-! DEFINITION. The machine's state as plain data, the faults and refusals, and the state after reset. A module of
four dies: contexts with their blocks in flight, comb and hive caches, memory, queues, partitions and start-up. -/

namespace Sys2Proof.Machine

/-! ## Tokens and registers -/

/-- A token (R88). -/
inductive Token where
  | s (x : W64)
  | v (l : Lanes) (m : Mask)
  | n
  deriving DecidableEq, Repr

/-- A register's content: an S or V token (R88), a register-form result whose reply has not arrived, or one poisoned
by a time-out (R228). -/
inductive RegVal where
  | s (x : W64)
  | v (l : Lanes) (m : Mask)
  | reply (req : Nat) (addr : W64)
  | poisoned (addr : W64)
  deriving DecidableEq, Repr

/-- The instruction a cell has issued, with the operands it captured: what the machine runs next (R52, R89). -/
structure Issue where
  ctx : Nat
  tag : Nat
  idx : Nat
  left : Option Token
  right : Option Token
  third : Option Token
  deriving DecidableEq, Repr

/-- The progress of one instruction of a mapped block (R89, R91): waiting for operands, ready since a time, fired and
waiting for a condition, waiting for a memory or unit reply, finished, or resolved by its predicate. -/
inductive NodeSt where
  | waiting
  | ready (since : Nat)
  | held
  | busy
  | done
  | resolved
  deriving DecidableEq, Repr

/-- Operand slots and progress of one instruction (R89). -/
structure Node where
  left : Option Token := none
  right : Option Token := none
  third : Option Token := none
  st : NodeSt := .waiting
  deriving DecidableEq, Repr

/-! ## Blocks in flight -/

/-- Bytes a store writes: address, length, little-endian data. -/
structure Piece where
  va : Nat
  n : Nat
  data : Nat
  deriving DecidableEq, Repr

/-- Which instruction a data store is: its ordering and its span hint (R143, R146). -/
inductive StKind where
  | plain | stream | rel | relStream
  deriving DecidableEq, Repr

/-- What a fired store-class instruction has recorded (R100). -/
inductive StoreOp where
  | data (k : StKind) (ps : List Piece)
  | amo (op : AmoOp) (wid : AmoWid) (a : W64) (v : W64) (d : RegDest)
  | cas (wid : Wid2) (a : W64) (c v : W64) (d : RegDest)
  | fence (k : FenceKind)
  | flushr (k : FlushKind) (a : W64) (len : Nat)
  | claim (a : W64) (len : Nat)
  | isync (a : W64) (len : Nat)
  | copy (try_ : Bool) (mode : CopyMode) (desc : Lanes) (d : RegDest)
  | batch (d : RegDest)
  | fork (arg : Lanes) (entry : W64) (d : RegDest)
  | bar (ch : Nat) (mode : BarMode) (count : Nat)
  deriving DecidableEq, Repr

/-- A store-class instruction that executed, or was nullified (`op = none`), by LSID (R107). -/
structure StoreRec where
  idx : Nat
  op : Option StoreOp
  comb : Nat
  deriving DecidableEq, Repr

/-- A range of bytes a load reads, within one word: virtual and physical address, length, place in the result, whether
it lies in the context's own scratch, and its page's mode and seal version (R155). -/
structure LPiece where
  va : Nat
  pa : Nat
  n : Nat
  pos : Nat
  scratch : Bool
  mode : Nat := 0
  sver : Nat := 0
  deriving DecidableEq, Repr

/-- What a load-class instruction makes of the bytes it read. -/
inductive LoadKind where
  | scalar (n : Nat) (sgn acq : Bool)
  | vec (mask : Mask)
  | gather (n : Nat) (sgn : Bool) (mask : Mask)
  | tile (f : ElemTy) (sc tr bc : Bool) (cell buf : Nat) (scales : Nat)
  | watch (c : WatchCond) (wid : Wid2) (cmp : W64)
  | span (hive : Bool)
  deriving DecidableEq, Repr

/-- A load-class access outstanding (R140): its pieces, the words obtained at homes so far (data and poison), the
comb cache it uses, what its span hint asks, the time it first asked a home (R333), and the expiry of a lease it obtained
with the epoch in force when it asked for it (R161, R162). `recheck` marks one performed again after an acquire (R145). -/
structure LoadReq where
  ctx : Nat
  tag : Nat
  idx : Nat
  lsid : Nat
  kind : LoadKind
  comb : Nat
  hint : Hint
  pieces : List LPiece
  got : SMap (W64 × Bool)
  t1 : Target
  t0 : Target
  since : Nat
  due : Nat
  asked : Option Nat := none
  lease : Nat := 0
  epoch : Nat := 0
  /-- When a TLD consulted its format windows (R266). -/
  win : Nat := 0
  recheck : Option Token := none
  armed : Option Nat := none
  /-- Whether an invalidation has left it no translation (R163). -/
  gone : Bool := false
  deriving DecidableEq, Repr

/-- A load-class instruction that has performed its access, by LSID: the bytes it read (R102). -/
structure LoadRec where
  idx : Nat
  ranges : List (Nat × Nat)
  acq : Bool
  finished : Bool
  req : Option LoadReq := none
  val : Token := .n
  deriving DecidableEq, Repr

/-- A fired exit (R171). -/
inductive ExitTo where
  | goto (a : W64)
  | call (a link : W64)
  | halt
  | tret
  deriving DecidableEq, Repr

/-- A recorded write of a system register by SETS or of PPR fields by PSET (R179, R288). -/
inductive SysWr where
  | sets (r : SysReg) (v : W64)
  | pset (mask : BitVec 6) (v : W64)
  deriving DecidableEq, Repr

/-- A tile buffer: 16 rows of 512 bytes, row r at bits 4096 r, with its tag, 128 scale bytes and poisoned words (R260,
R261, R337). -/
structure TBuf where
  data : BitVec 65536 := 0
  fmt : ElemTy := .bf16x2
  sc : Bool := false
  scales : BitVec 1024 := 0
  poison : List Nat := []
  deriving DecidableEq, Repr

/-- An accumulator: element (i, n) at bits 32 (16 i + n), with its sticky rung and poisoned words (R262, R337). -/
structure TAcc where
  data : BitVec 8192 := 0
  sr : Nat := 1
  poison : List Nat := []
  deriving DecidableEq, Repr

/-- A block in flight (R85, R105): its words, its operand slots and everything its instructions have recorded. -/
structure Block where
  tag : Nat
  addr : W64
  hdr : List Word
  words : List Word
  nodes : SMap Node := []
  faults : SMap (BitVec 8 × W64) := []
  exits : SMap ExitTo := []
  wr : SMap Token := []
  stores : SMap StoreRec := []
  loads : SMap LoadRec := []
  sys : SMap SysWr := []
  hints : SMap (List (Nat × Nat)) := []
  staging : SMap TBuf := []
  shadow : SMap TAcc := []
  /-- The cycles at which the captures of its TSTs end (R271), and the numbers in which its MMAs issued (R284). -/
  captures : SMap Nat := []
  issued : SMap Nat := []
  ranks : SMap (Nat × Nat) := []
  got : List Nat := []
  om : Bool := false
  mappedAt : Nat := 0
  mapTrap : Option (BitVec 8 × W64 × Nat) := none
  /-- The first fault word that a WAITB of the block has taken from its context (R246, R247). -/
  taken : W64 := 0
  fetchFault : Option (BitVec 8 × W64) := none
  deriving DecidableEq, Repr

/-! ## Contexts -/

/-- The trap registers (R322): TCAUSE with INH, TVAL, TEPC, TIDX, the fields of TSTAT, TCAUSE2 and TVAL2. -/
structure TrapRegs where
  inh : Bool := false
  cause : BitVec 8 := 0
  tval : W64 := 0
  tepc : W64 := 0
  tidx : BitVec 10 := 0
  retries : BitVec 8 := 0
  lastact : BitVec 4 := 0
  df : Bool := false
  trd : Bool := false
  hm : Bool := false
  cause2 : BitVec 8 := 0
  tval2 : W64 := 0
  deriving DecidableEq, Repr

/-- A task: its launch, identifier, root coordinates, parent, gang rank and start time (R22, R44, R49). -/
structure Task where
  launch : Nat
  id : Nat
  x : Nat
  y : Nat
  z : Nat
  parent : Option Nat := none
  rank : Option Nat := none
  start : Nat := 0
  deriving DecidableEq, Repr

/-- A child record (R43). -/
structure Child where
  launch : Nat
  id : Nat
  parent : Nat
  forkCtx : Nat
  entry : W64
  arg : Lanes
  x : Nat
  y : Nat
  z : Nat
  deriving DecidableEq, Repr

/-- A batch of copy requests (R245), with the first fault among requests of before a save (R248). -/
structure Batch where
  num : BitVec 32
  reqs : List Nat
  fault : W64 := 0
  deriving DecidableEq, Repr

/-- An effect a release holds back (R146). -/
inductive Held where
  | amo (id : Nat)
  | copy (id : Nat)
  | fork (comb : Nat) (c : Child)
  | arrive (ch : Nat)
  | uwrite (id : Nat)
  | stream (word : Nat) (data : W64) (mask : Byte)
  /-- A value that a release gives to its word's home although its context has stored the word again behind a later
  release, or its comb is sealed (R146, R341), with its poison and whether it was stored in parts (R339). -/
  | publish (word : Nat) (data : W64) (mask : Byte) (poison part : Bool)
  deriving DecidableEq, Repr

/-- A release in progress (R146): a fence holds back later effects; others only what they list. Once started it has sent
its probes, as message `at_`. -/
structure Release where
  id : Nat
  fence : Bool
  eng : Bool := false
  started : Bool := false
  at_ : Nat := 0
  probes : List Nat := []
  acks : List Nat := []
  held : List Held := []
  deriving DecidableEq, Repr

/-- The barrier status word (R255), and the channel it tells of. -/
structure BarStat where
  phase : BitVec 32 := 0
  done : Bool := false
  departed : Bool := false
  outcome : BitVec 2 := 3
  ch : Nat := 0
  deriving DecidableEq, Repr

/-- A barrier wait: channel, phase, and for a timed BAR the cycle it ends at, or, in a saved record, the cc left (R253). -/
structure BarWait where
  ch : Nat
  phase : Nat
  left : Option Nat := none
  deriving DecidableEq, Repr

/-- A wait for growth (R40, R42, R48): the size asked for, when it began, how many T_compact periods have passed,
whether it follows a HALT (which never traps), and whether a set-aside task resumes once it is complete (R48). -/
structure Growth where
  k : Nat
  since : Nat
  rounds : Nat := 0
  halting : Bool := false
  resume : Bool := false
  deriving DecidableEq, Repr

/-- A pre-emption request (R317) and the blocks committed since; `required` when a reassignment or stop needs it. -/
structure Preempt where
  since : Nat
  blocks : Nat := 0
  required : Bool := false
  deriving DecidableEq, Repr

/-- What changes by itself, as it stood at a context's last block boundary: SQC, the touched slices and the partition's PTVEC
(R178). -/
structure Bound where
  sqc : W64
  touched : List Nat
  tvec : W64
  deriving DecidableEq, Repr

/-- What a context slot is doing. -/
inductive Phase where
  | free
  | running
  | growing
  | barrier
  | deciding
  | parked
  | saving (full parked : Bool)
  | setAside (full : Bool)
  | retiring
  deriving DecidableEq, Repr

/-- The architectural state a task carries with it when it is saved (R318). DESIGN CHOICE, log 26. -/
structure Saved where
  task : Task
  k : Nat
  regs : SMap RegVal
  h : SMap W64
  trap : TrapRegs
  ppr : W64
  rpc : List W64
  sqc : W64
  next : W64
  scratch : List Host.Cell
  saveSet : Option (List (Nat × Nat))
  batch : BitVec 32
  batFault : W64
  bar : BarStat
  barWait : List BarWait
  arrived : List Nat
  bufs : SMap TBuf
  accs : SMap TAcc
  parked : Bool
  units : Nat
  place : Nat
  /-- The tasks set aside below it on its context (R48), as saved records. -/
  below : List Nat := []
  /-- The scratch ranges that the record holds (R256, R318), and the poisoned words among them (R339). -/
  ranges : List (Nat × Nat) := []
  poison : List Nat := []
  /-- The live mask of its last committed block, when that was a liveness point (R47). -/
  live : Option Nat := none
  /-- The context that was parked with it (R329). -/
  parkedAt : Option Nat := none
  /-- The first fault among its copy requests that no BATCH has sealed (R245, R248). -/
  unsealFault : W64 := 0
  /-- The CRC-32C the record carries (R319). -/
  crc : Nat := 0
  deriving DecidableEq, Repr

/-- A cached translation (R126): partition, first address and size of the page, and its entry (none: no valid
translation). -/
structure TlbEntry where
  part : Nat
  base : Nat
  size : Nat
  pte : Option W64
  pbase : Nat
  deriving DecidableEq, Repr

/-- One context slot, keyed by its 12-bit identifier (R308). DESIGN CHOICE, log 5. -/
structure Ctx where
  phase : Phase := .free
  task : Option Task := none
  part : Nat := 0
  k : Nat := 1
  regs : SMap RegVal := []
  h : SMap W64 := []
  trap : TrapRegs := {}
  ppr : W64 := 0xFFFF00
  rpc : List W64 := [0, 0, 0, 0]
  sqc : W64 := 0
  next : W64 := 0
  blocks : List Block := []
  touched : List Nat := []
  scrOff : Nat := 0
  scrSize : Nat := 0
  bases : SMap (Nat × Nat) := []
  saveSet : Option (List (Nat × Nat)) := none
  /-- The live mask of the block committed last, when it was a liveness point (R47, R317). -/
  live : Option Nat := none
  releases : List Release := []
  fifo : List Nat := []
  unsealed : List Nat := []
  /-- The first fault among requests of before a save that no BATCH has sealed (R245, R248). -/
  unsealFault : W64 := 0
  batches : List Batch := []
  batch : BitVec 32 := 0
  batFault : W64 := 0
  bar : BarStat := {}
  barWait : List BarWait := []
  arrived : List Nat := []
  asides : List Nat := []
  growth : Option Growth := none
  preempt : Option Preempt := none
  /-- The run of 64 KiB units reserved for the record being saved: first unit and number (R43, R319). -/
  saveAt : Option (Nat × Nat) := none
  lateFaults : List W64 := []
  /-- Blocks that run as if OM were 1 when they are fetched again (R102). -/
  strictAt : List W64 := []
  rstack : List W64 := []
  idle : Nat := 0
  placedAt : Nat := 0
  stalled : Bool := false
  kill : Bool := false
  /-- Its task has retired: the context waits for its composition before it takes its next work (R42, R46, R48). -/
  retired : Bool := false
  /-- A block fetch outstanding: its address and the time of its first request (R54, R332, R333). -/
  fetch : Option (W64 × Nat) := none
  /-- What GETS reads of the block boundary (R178); none before a first one. -/
  bound : Option Bound := none
  /-- The translations with which the block stalled at step 2 of R108 has passed its checks, by comb, and the number it was held at (R108, R163). -/
  xlat : Option (Nat × List (Nat × TlbEntry)) := none
  deriving DecidableEq, Repr

/-! ## Cells -/

/-- A cell's issue state (R52, R53), per slot: credit, weight (1 where none is listed) and the sum of ready-queue
occupancy, with the slot being visited, the cycle its weights were last recomputed at, and the cycle of its last issue. -/
structure Cell where
  credit : SMap Nat := []
  weight : SMap Nat := []
  sums : SMap Nat := []
  visit : Nat := 7
  weightAt : Nat := 0
  issuedAt : Option Nat := none
  deriving DecidableEq, Repr

/-- An MMA in a tensor cell's unit queue (R284). -/
structure MmaJob where
  ctx : Nat
  tag : Nat
  idx : Nat
  mode : MmaMode
  acc : Nat
  a : Nat
  b : Nat
  cell : Nat
  zc : Bool
  sticky : Bool
  adaptive : Bool
  ppr : W64
  rung : Nat
  top : Nat
  start : Nat
  replays : Nat
  ends : Option Nat
  order : Nat := 0
  t1 : Target
  t0 : Target
  deriving DecidableEq, Repr

/-! ## Caches and messages -/

/-- A word of a span (R137): data, bytes present, dirty, owned, the release it is pending on with the bytes written since
it is and whether they go home without an owner (span hint 0b11, R143), poison. `part` tells that only stores of some of its
bytes have written it since then, so that the poison at its home still counts (R339); `prev` is the value, with its poison, that
a recorded owner gives home in place of a pending one when its record ends (R143, R146). A word with no byte present that is
not owned is not valid: the span does not hold it. -/
structure CWord where
  data : W64 := 0
  valid : Byte := 0
  dirty : Bool := false
  owned : Bool := false
  pend : Option Nat := none
  wrote : Byte := 0
  home : Bool := false
  poison : Bool := false
  part : Bool := false
  prev : Option (W64 × Bool) := none
  deriving DecidableEq, Repr

/-- A span of a region with its words from word `s` on, its seal version (0: none), the partition whose mapping
sealed it, its lease expiry and epoch (0: none), and its last use (R136, R139, R160, R161). -/
structure Span where
  region : Nat
  s : Nat
  words : List CWord
  sver : Nat := 0
  lease : Nat := 0
  epoch : Nat := 0
  used : Nat := 0
  deriving DecidableEq, Repr

/-- An entry of the span predictor (R138); `old` tells that the region's span in which its words were touched has left the
comb. -/
structure SpanPred where
  block : W64
  idx : Nat
  region : Nat
  lo : Nat
  hi : Nat
  old : Bool := false
  deriving DecidableEq, Repr

/-- The owner a home records for a word (R143, R150). -/
inductive Owner where
  | comb (c : Nat)
  | host
  deriving DecidableEq, Repr

/-- A token on the operand network (R35), the instruction it comes from and the cycle at which that one emits it. -/
structure NetTok where
  ctx : Nat
  tag : Nat
  slot : Slot
  idx : Nat
  tok : Token
  due : Nat
  src : Nat := 0
  leaves : Nat := 0
  deriving DecidableEq, Repr

/-- A registration on its way to a home slice (R143): the word, the comb, the context, whether a host snoop must be
answered first, and for a write with span hint 0b11 the data it carries. -/
structure Reg where
  ctx : Nat
  comb : Nat
  word : Nat
  data : Option (W64 × Byte × Bool)
  grant : Bool
  since : Nat
  /-- The number of the release it comes from, or its own (R146, R163). -/
  born : Nat := 0
  /-- Whether only stores of some of its bytes made the data it carries (R339). -/
  part : Bool := false
  deriving DecidableEq, Repr

/-- An AMO or CAS on its way to its home, with its page's mode (R159, R228). -/
structure AmoReq where
  ctx : Nat
  op : StoreOp
  pa : Nat
  mode : Nat := 0
  sent : Bool
  since : Nat
  deriving DecidableEq, Repr

/-- A write that registers at no home slice (R130, R146): physical address, length, data; performed by its target
before the acknowledgement. -/
structure UWrite where
  ctx : Nat
  pa : Nat
  va : Nat
  n : Nat
  data : Nat
  sent : Bool
  since : Nat
  deriving DecidableEq, Repr

/-- An armed watch entry (R231): the load request it answers, its slice and word, and when it was armed. -/
structure Watch where
  req : Nat
  slice : Nat
  word : Nat
  since : Nat
  deriving DecidableEq, Repr

/-- A FLUSHR walk (R156): its context (none for a SEAL packet's walk), kind, physical ranges of words, and the
next set to visit; sets 0 to 63 are comb-cache sets, then come the home slices. -/
structure Walk where
  ctx : Option Nat
  kind : FlushKind
  ranges : List (Nat × Nat)
  at_ : Nat
  pkt : Option (Nat × Nat × Nat)
  deriving DecidableEq, Repr

/-- Who asked for a copy: a context's COPY, or a packet (partition, queue, index). -/
inductive CopyFor where
  | ctx (c : Nat)
  | packet (part queue idx : Nat)
  deriving DecidableEq, Repr

/-- A copy request (R238 to R247): mode, descriptor, the engine's comb, the next chunk and the time since which its bytes are
asked for (R333), its fault word. `cut` is the width of a source element by which it has been cut into chunks (0: none has moved
yet; R164, R266). A COPYB across the network holds its endpoint's entry, and whether it sends its writes (0) or awaits the
acknowledgement of all of them (1) or of its atomic (2) (R358). -/
structure CopyReq where
  who : CopyFor
  part : Nat
  comb : Nat
  mode : CopyMode
  desc : Lanes
  sent : Bool
  chunk : Nat
  started : Bool
  fault : W64
  finished : Bool
  scrOff : Nat
  scrSize : Nat
  net : Option Nat
  asked : Option Nat := none
  cut : Nat := 0
  entry : List W64 := []
  netPhase : Nat := 0
  deriving DecidableEq, Repr

/-- A message sent across the scale-out network (R358): the partition, the endpoint's number and entry, the port that carries it,
the remote virtual address, and either the bytes of a write, each with its poison (R339), or what an atomic adds. -/
structure RdmaOut where
  part : Nat
  peer : Nat
  entry : List W64
  port : Nat
  va : Nat
  bytes : List (Nat × Bool) := []
  add : Option W64 := none
  deriving DecidableEq, Repr

/-- An arrival on its way to its channel (R252). -/
structure Arrival where
  launch : Nat
  rank : Nat
  ctx : Nat
  ch : Nat
  due : Nat
  deriving DecidableEq, Repr

/-- A write to a leased region that waits for its leases to end (R161): the region, the time, and the message's number, of a
registration, a write, an atomic, a copy request or a request from outside. -/
structure Delayed where
  region : Nat
  until_ : Nat
  msg : Nat
  deriving DecidableEq, Repr

/-- A request from outside that waits at a home (R143, R146, R161, R346, R359): of the host, of another module, or of the
network for a partition's queue pair. -/
inductive Outside where
  | hostRead (pa : Nat)
  | hostWrite (pa n : Nat) (data : BitVec 512)
  | fabric (module pa : Nat) (op : FabricOp)
  | rdma (part qp : Nat) (rkey : BitVec 32) (va : W64) (op : RdmaOp)
  deriving DecidableEq, Repr

/-! ## Launches -/

/-- A spilled deque entry with the comb it left, its place in the area, when it was spilled among the entries of that
comb, and whether it awaits placement since its comb's frame has left (R43, R321). -/
structure Spilled where
  comb : Nat
  child : Child
  unit : Nat
  place : Nat
  order : Nat := 0
  waits : Bool := false
  deriving DecidableEq, Repr

/-- A barrier channel (R252, R254): phase, ranks arrived in it, and the ranks that have departed. -/
structure Channel where
  phase : Nat := 0
  arrived : List Nat := []
  deriving DecidableEq, Repr

/-- A launch, keyed by its number. -/
structure Launch where
  part : Nat
  queue : Nat
  idx : Nat
  hdr : List W64
  args : List W64
  x : Nat
  y : Nat
  z : Nat
  prio : Nat
  pin : Bool
  spill : Nat
  spillu : Nat
  start : Nat
  lastPlaced : Nat
  nextTile : Nat := 0
  live : Nat := 0
  seq : Nat := 0
  kids : SMap Nat := []
  preempted : List Nat := []
  relocated : List Child := []
  spilled : List Spilled := []
  channels : SMap Channel := []
  departed : List Nat := []
  killed : Bool := false
  killing : Bool := false
  ending : Bool := false
  /-- A dependency counter enabled it: its tasks start with an acquire (R144, R145). -/
  depends : Bool := false
  deriving DecidableEq, Repr

/-! ## Partitions and queues -/

/-- A started packet that has not completed (R297, R298): its eight words, its status once its effect has ended, whether
STATUS and DONE are written, the counter a DEPWAIT waits for or the message number an invalidation waits for, and a
note: a DEPWAIT's next re-read, or 1 when an UNSEAL advances the next version (R300, R360). -/
structure Packet where
  idx : Nat
  words : List W64
  status : Option Nat
  written : Bool := false
  effect : Bool := false
  wait : Option Nat := none
  note : Nat := 0
  /-- The address its slot has (R291), and the record due at its completion: kind, cause, TVAL (R370). -/
  slot : Nat := 0
  fail : Option (Nat × BitVec 8 × Nat) := none
  /-- Since when an access of the device's own for it waits for a far home (R333, R336). -/
  asked : Option Nat := none
  deriving DecidableEq, Repr

/-- A queue (R290). `gen` counts the writes of its base, from each of which its packets are numbered anew; `waited` tells that a
DEPWAIT has completed in it (R300). -/
structure Queue where
  base : W64 := 0
  gen : Nat := 0
  waited : Bool := false
  en : Bool := false
  die : Nat := 0
  log2sz : Nat := 4
  tenant : Nat := 0
  wr : Nat := 0
  rd : Nat := 0
  start : Nat := 0
  qflt : Bool := false
  err : Bool := false
  blocked : Bool := false
  thread : Option Nat := none
  rung : Nat := 0
  idle : Nat := 0
  /-- When something last happened on which it depends whether its next packet can start (R302). -/
  ready : Nat := 0
  /-- Since when the reads and the store of its next packet wait for a far home (R333, R336). -/
  asked : Option Nat := none
  pkts : SMap Packet := []
  lastPre : Nat := 0
  deriving DecidableEq, Repr

/-- A requested decision (R303). -/
inductive Decision where
  | dispatch
  | preempt (queue : Nat)
  | fault (ctx : Nat) (double : Bool)
  deriving DecidableEq, Repr

/-- A reservation (R315): the launch, its frames, when it began, and whether compaction has run. -/
structure Reservation where
  launch : Nat
  frames : List Nat
  since : Nat
  compacted : Bool := false
  deriving DecidableEq, Repr

/-- A format window (R264): BASE, END, SBASE, CTL. -/
structure FWin where
  base : W64 := 0
  fin : W64 := 0
  sbase : W64 := 0
  ctl : W64 := 0
  deriving DecidableEq, Repr

/-- A partition: its block of registers (R324, R351), its administration registers (R347), queues, windows, policy
and decisions in progress. -/
structure Partition where
  starve : Nat := 10000
  tgang : Nat := 1000
  tcomp : Nat := 5000
  ppre : Nat := 0
  tvec : W64 := 0
  saveb : W64 := 0
  savel : Nat := 0
  fqbase : W64 := 0
  fqen : Bool := false
  fqlog2 : Nat := 6
  fqvec : Nat := 0
  fqwr : Nat := 0
  fqrd : Nat := 0
  vertag : BitVec 32 := 0
  inst : Bool := false
  installs : BitVec 16 := 0
  inv : Bool := false
  pool : Bool := false
  lost : Bool := false
  ovr : Bool := false
  decn : W64 := 0
  povrn : W64 := 0
  plost : BitVec 32 := 0
  sw : List (BitVec 32) := [0, 0, 0, 0, 0, 0, 0, 0]
  compv : Nat := 0
  lease : Nat := 10
  mrbase : W64 := 0
  mrcnt : Nat := 0
  epbase : W64 := 0
  epcnt : Nat := 0
  sealv : Nat := 1
  en : Bool := false
  enWanted : Bool := false
  busy : Bool := false
  err : Bool := false
  stopped : Bool := true
  ddie : Nat := 0
  frames : W64 := 0
  root : W64 := 0
  qpriv : BitVec 128 := 0
  fwin : SMap FWin := []
  policy : List (BitVec 16) := []
  rand : BitVec 32 := 0
  lastovr : Bool := false
  reserve : Option Reservation := none
  decisions : List Decision := []
  /-- When a dispatch decision that placed nothing is to be followed by a request (R303). -/
  retryAt : List Nat := []
  checkAt : Nat := 0
  /-- Contexts whose pre-emption waits for pool room, and those whose record could not be written (R319, R336). -/
  poolRetry : List Nat := []
  /-- Whether pool room has freed since the last of them was added (R319). -/
  poolFreed : Bool := false
  writeRetry : List Nat := []
  saveUsed : List (Nat × Nat) := []
  /-- Fault records, as their words, whose place must be snooped from the host or wait for leases before they are written (R161,
  R334, R346). -/
  records : List (List W64) := []
  queues : SMap Queue := []
  deriving DecidableEq, Repr

/-- A frame (R321, R347): its owner, a scrub in progress and the partition it joins after it. -/
structure Frame where
  owner : Option Nat := none
  scrub : Bool := false
  joins : Option Nat := none
  deriving DecidableEq, Repr

/-- A comb: its deque, block cache, TLB, sealed mark, span predictor and copy-engine order (R43, R114, R126, R138,
R340). -/
structure Comb where
  deque : List Child := []
  /-- Children whose push waits for the deque's room (R43). DESIGN CHOICE, log 73. -/
  pushing : List Child := []
  images : List (W64 × Word × List Word) := []
  tlb : List TlbEntry := []
  preds : List SpanPred := []
  isSealed : Bool := false
  deriving DecidableEq, Repr

/-- A journal record (R302): a packet's start, a placement, a completion, a copy engine's effect or a counter's decrement
(kinds 0 to 4), its queue and packet, and the thread that serves the queue. -/
structure JournalRec where
  kind : Nat
  part : Nat
  queue : Nat
  idx : Nat
  thread : Option Nat := none
  deriving DecidableEq, Repr

/-- A queue's state in a checkpoint (R302): its numbering, start index and thread. -/
structure Mark where
  part : Nat
  queue : Nat
  gen : Nat
  start : Nat
  thread : Option Nat
  deriving DecidableEq, Repr

/-- A die: its queue-processor threads' bindings, the journal ring, the last checkpoint with the records since it, the
last-level TLB (R126, R301, R302). -/
structure Die where
  threads : SMap (Nat × Nat) := []
  journal : List JournalRec := []
  marks : List Mark := []
  since : Nat := 0
  tlb : List TlbEntry := []
  deriving DecidableEq, Repr

/-! ## The module -/

/-- What the module does (R363, R364, R368). -/
inductive Power where
  | off | starting | running | recovery | tripped
  deriving DecidableEq, Repr

/-- A firmware image: the vendor's, with which the part is delivered, or one staged through the mailbox, with its bytes
(R361, R365). -/
inductive Image where
  | shipped
  | staged (bytes : List Byte)
  deriving DecidableEq, Repr

/-- The always-on secure store (R362, R364). DESIGN CHOICE, log 4. -/
structure Always where
  fails : Nat := 0
  lastStage : Nat := 0
  owner : Option (Nat × Nat × Bool) := none
  seqNo : Nat := 0
  deriving DecidableEq, Repr

/-- Start-up, mailbox, management and time registers (R344, R356, R365, R366). DESIGN CHOICE, log 1, 4. -/
structure Mod where
  power : Power := .running
  always : Always := {}
  stage : Nat := 7
  warm : Bool := false
  code : BitVec 8 := 0
  fwver : BitVec 16 := 0
  stepping : BitVec 16 := 0
  modid : Nat := 0
  epoch : BitVec 32 := 1
  healthy : Bool := false
  master : Bool := false
  offs : BitVec 24 := 0
  lastSync : Nat := 0
  stopClock : Bool := false
  cmd : BitVec 8 := 0
  arg : BitVec 32 := 0
  busy : Bool := false
  result : BitVec 8 := 0
  pending : Nat := 0
  mblen : Nat := 0
  buf : SMap Byte := []
  flash : Option Image := some .shipped
  running : Option Image := some .shipped
  staging : List Byte := []
  pwrcap : Nat := 2800
  pwrnow : Nat := 0
  temp : Nat := 0
  clk : Nat := 850
  trip : Bool := false
  clearSince : Option Nat := none
  lastStepAt : Nat := 0
  cecnt : W64 := 0
  uecnt : W64 := 0
  sealcnt : BitVec 32 := 0
  events : List (Nat × Nat) := []
  ports : BitVec 16 := 0xFFFF
  deriving DecidableEq, Repr

/-- Memory, caches and every message of the memory system. -/
structure MemSys where
  mem : List Host.Cell := []
  poison : List Nat := []
  hives : SMap (List Span) := []
  owners : SMap Owner := []
  caches : SMap (List Span) := []
  remote : SMap Byte := []
  hostLines : SMap (List Nat) := []
  snoops : List Nat := []
  loads : SMap LoadReq := []
  regs : SMap Reg := []
  amos : SMap AmoReq := []
  uwrites : SMap UWrite := []
  watches : SMap Watch := []
  walks : SMap Walk := []
  copies : SMap CopyReq := []
  leases : SMap Nat := []
  delayed : SMap Delayed := []
  outside : SMap Outside := []
  lastHostRead : Option (BitVec 512 × Bool) := none
  lastReply : Option (BitVec 512) := none
  /-- Carry codes of sectors whose bytes an unseen error has changed; any other sector's code is that of its bytes (R338). -/
  codes : SMap (BitVec 16) := []
  ccfail : W64 := 0
  /-- The use counter of least-recently-used choices (R139). -/
  stamp : Nat := 0
  deriving DecidableEq, Repr

/-- An entry of the agenda: the environment lets `cc` cycles pass and then `op` happens. -/
structure Planned where
  cc : Nat
  op : Instr
  deriving DecidableEq, Repr

/-- The machine's state. `issue`, `agenda` and `fresh` are the model's own fields; everything else is the spec's. -/
structure State where
  issue : Option Issue
  agenda : List Planned
  fresh : Nat
  seq : Nat
  cycles : Nat
  gtime : Nat
  gfrac : Nat
  ms : MemSys
  ctxs : SMap Ctx
  tbufs : SMap TBuf
  taccs : SMap TAcc
  cells : SMap Cell
  jobs : SMap (List MmaJob)
  net : SMap NetTok
  arrivals : SMap Arrival
  combs : SMap Comb
  frames : SMap Frame
  dies : SMap Die
  parts : SMap Partition
  launches : SMap Launch
  saves : SMap Saved
  md : Mod
  apertures : SMap W64
  inbound : SMap W64
  msix : SMap Byte
  irqs : List (Nat × Nat)
  /-- What the module has sent across the scale-out network, oldest first (R358). -/
  rdmaOut : List RdmaOut
  deriving DecidableEq, Repr

/-- The machine right after a cold start (R363 stage 7): memory and every SRAM zero, no partition enabled, every frame
unowned and scrubbed, every register at its reset value. DESIGN CHOICE, log 1. -/
def State.reset : State where
  issue := none
  agenda := []
  fresh := 0
  seq := 0
  cycles := 0
  gtime := 0
  gfrac := 0
  ms := {}
  ctxs := []
  tbufs := []
  taccs := []
  cells := []
  jobs := []
  net := []
  arrivals := []
  combs := []
  frames := []
  dies := []
  parts := []
  launches := []
  saves := []
  md := {}
  apertures := []
  inbound := []
  msix := []
  irqs := []
  rdmaOut := []

/-! ## Outcomes that are no next state -/

/-- Where the machine stops. -/
inductive Fault where
  /-- Raised by the meaning of an instruction word that no cell has issued, or whose context or block is gone. Safe:
  the machine issues a word only from a block in flight. -/
  | noIssue
  deriving DecidableEq, Repr

/-- What the model refuses. -/
inductive Refusal where
  /-- Raised by an arm of exec whose instruction has no meaning yet. Safe: the model says nothing of it. -/
  | notModelled (mnemonic : String)
  deriving DecidableEq, Repr

end Sys2Proof.Machine
end

