-- ==== Sys2Proof/Machine/Operands.lean ====
section
/-! DEFINITION. What each instruction's fields name: slots, targets, predicate, exit number, LSID and class,
registers and tile state (R89, R91, R94, R95, R100, R104); the kinds its operands accept (R168); bit-field helpers. -/

namespace Sys2Proof.Machine

/-! ## Bits of scalars and lanes (R12, R55, R120) -/

/-- Bits [lo+n-1:lo] of a number. -/
def bits (x lo n : Nat) : Nat := (x >>> lo) % 2 ^ n

/-- `SExt(x, w)`: x[w-1:0] sign-extended to 64 bits. -/
def sext (x : W64) (w : Nat) : W64 := (x.truncate w).signExtend 64

/-- `ZExt(x, w)`: x[w-1:0] zero-extended to 64 bits. -/
def zext (x : W64) (w : Nat) : W64 := (x.truncate w).zeroExtend 64

/-- The w low bits of a number read as two's complement. -/
def signedOf (w x : Nat) : Int := if x % 2 ^ w < 2 ^ (w - 1) then (x % 2 ^ w : Nat) else (x % 2 ^ w : Nat) - (2 ^ w : Nat)

/-- An integer modulo 2^w as a number. -/
def wrapInt (w : Nat) (z : Int) : Nat := (z % (2 ^ w : Nat)).toNat

/-- Lane i of a V token. -/
def lane (l : Lanes) (i : Nat) : Word := l.extractLsb' (32 * i) 32

/-- Lanes from a function of the lane number. -/
def mkLanes (f : Nat → Word) : Lanes :=
  (upTo 16).foldr (fun i acc => (acc <<< 32) ||| (f i).zeroExtend 512) 0

/-- A mask from a function of the lane number. -/
def mkMask (f : Nat → Bool) : Mask :=
  (upTo 16).foldr (fun i acc => (acc <<< 1) ||| (if f i then 1 else 0)) 0

/-- `EA(base, off, size)` (R120) with off4 of an M word. -/
def ea (base : W64) (off : BitVec 4) (size : Nat) : W64 := base + off.signExtend 64 * BitVec.ofNat 64 size

/-- Bits [63:55] of an address are zero (R121). -/
def vaOk (a : W64) : Bool := a.toNat < Config.vaLimit

/-- A legal block address (R171). -/
def blockAddrOk (a : W64) : Bool := vaOk a && a.toNat % 32 == 0

/-! ## Fields of instructions -/

/-- The predicate sense of an instruction (R91). -/
def predOf (i : Instr) : Pr :=
  match i with
  | .exit p .. | .call p .. | .exitr p .. | .callr p .. | .ret p .. | .halt p .. | .tret p ..
  | .mov p .. | .mov4 p .. | .null p .. | .teq p .. | .tne p .. | .tlt p .. | .tle p .. | .tltu p .. | .tleu p ..
  | .teqi p .. | .tnei p .. | .tlti p .. | .tlei p .. | .tgti p .. | .tgei p .. | .trap p .. | .gets p .. | .sets p ..
  | .add p .. | .sub p .. | .mul p .. | .mulh p .. | .div p .. | .rem p .. | .and p .. | .or p .. | .xor p .. | .andn p ..
  | .shl p .. | .shr p .. | .sar p .. | .ror p .. | .min p .. | .max p .. | .addi p .. | .muli p .. | .andi p .. | .ori p ..
  | .xori p .. | .shli p .. | .shri p .. | .sari p .. | .clz p .. | .ctz p .. | .popc p .. | .brev p .. | .bswap p ..
  | .sxb p .. | .sxh p .. | .sxw p .. | .zxb p .. | .zxh p .. | .zxw p .. | .neg p .. | .not p .. | .abs p .. | .lea p ..
  | .bfx p .. | .lop3 p .. | .addc p .. | .vadd p .. | .vsub p .. | .vmul p .. | .vmin p .. | .vmax p .. | .vand p ..
  | .vor p .. | .vxor p .. | .vshl p .. | .vshr p .. | .vsar p .. | .vcmp p .. | .vsplat p .. | .vext p .. | .vperm p ..
  | .vswz p .. | .vred p .. | .vscan p .. | .vcvt p .. | .vpack p .. | .vunpk p .. | .vsfu p .. | .vmask p .. | .vlop3 p ..
  | .ld p .. | .ldv p .. | .ldg p .. | .lda p .. | .st p .. | .stv p .. | .sts p .. | .stl p .. | .amo p .. | .cas p ..
  | .watch p .. | .fence p .. | .flushr p .. | .span p .. | .claim p .. | .isync p .. | .copy p .. | .batch p ..
  | .waitb p .. | .fork p .. | .join p .. | .bar p .. | .phint p .. | .geti p .. | .tld p .. | .tst p .. | .mma p ..
  | .top p .. | .trow p .. | .pset p .. | .pget p .. => p
  | _ => .always

/-- Three-input instructions (R89). -/
def isThree (i : Instr) : Bool :=
  match i with
  | .sel .. | .bfi .. | .adc .. | .vfma .. | .vsel .. | .vins .. | .vdot .. => true
  | _ => false

/-- Uses of the left data slot. -/
def usesLeft (i : Instr) : Bool :=
  match i with
  | .nop | .exit .. | .call .. | .halt .. | .tret .. | .genc .. | .badr .. | .rd .. | .null .. | .trap .. | .gets ..
  | .fence .. | .batch .. | .waitb .. | .join .. | .geti .. | .pget .. | .bar _ _ _ .wait | .bar _ _ _ .arr
  | .phint _ (.imm ..) => false
  | i => i.isWord

/-- Uses of the right data slot. -/
def usesRight (i : Instr) : Bool :=
  match i with
  | .sel .. | .teq .. | .tne .. | .tlt .. | .tle .. | .tltu .. | .tleu ..
  | .add .. | .sub .. | .mul .. | .mulh .. | .div .. | .rem .. | .and .. | .or .. | .xor .. | .andn ..
  | .shl .. | .shr .. | .sar .. | .ror .. | .min .. | .max .. | .lea .. | .bfx .. | .bfi .. | .lop3 .. | .addc .. | .adc ..
  | .vadd .. | .vsub .. | .vmul .. | .vfma .. | .vmin .. | .vmax .. | .vand .. | .vor .. | .vxor .. | .vshl .. | .vshr ..
  | .vsar .. | .vcmp .. | .vsel .. | .vext .. | .vins .. | .vperm .. | .vpack .. | .vdot .. | .vlop3 ..
  | .vmask _ .setv .. | .vmask _ .andv .. | .ldv _ _ true .. | .ldg .. | .st .. | .stv .. | .sts .. | .stl .. | .amo ..
  | .cas .. | .watch .. | .flushr .. | .span .. | .claim .. | .isync .. | .fork .. | .tld .. | .tst ..
  | .top _ (.rscale ..) .. | .top _ (.rsub ..) .. => true
  | _ => false

/-- Whether an instruction uses a slot; the third slot is the predicate's or a three-input instruction's (R89). -/
def usesSlot (i : Instr) (k : Slot) : Bool :=
  match k with
  | .left => usesLeft i
  | .right => usesRight i
  | .third => isThree i || !(predOf i == .always)

/-- The targets an instruction names (R94). -/
def targetsOf (i : Instr) : List Target :=
  match i with
  | .genc _ t0 | .appc _ t0 | .badr _ t0 | .teqi _ _ t0 | .tnei _ _ t0 | .tlti _ _ t0 | .tlei _ _ t0 | .tgti _ _ t0
  | .tgei _ _ t0 | .gets _ _ t0 | .addi _ _ t0 | .muli _ _ t0 | .andi _ _ t0 | .ori _ _ t0 | .xori _ _ t0
  | .shli _ _ t0 | .shri _ _ t0 | .sari _ _ t0 | .vcmp _ _ _ t0 | .vred _ _ _ t0 | .vscan _ _ _ t0
  | .vcvt _ _ _ _ _ t0 | .ld _ _ _ _ _ t0 | .ldv _ _ _ _ _ t0 | .ldg _ _ _ _ _ t0 | .lda _ _ _ _ _ t0
  | .watch _ _ _ _ _ t0 | .span _ _ _ _ t0 | .waitb _ _ t0 | .join _ _ t0 | .geti _ _ t0 | .pget _ t0 => [t0]
  | .rd _ t1 t0 | .mov _ t1 t0 | .null _ t1 t0 | .sel t1 t0 | .teq _ t1 t0 | .tne _ t1 t0 | .tlt _ t1 t0 | .tle _ t1 t0
  | .tltu _ t1 t0 | .tleu _ t1 t0 | .add _ t1 t0 | .sub _ t1 t0 | .mul _ t1 t0 | .mulh _ _ t1 t0 | .div _ _ t1 t0
  | .rem _ _ t1 t0 | .and _ t1 t0 | .or _ t1 t0 | .xor _ t1 t0 | .andn _ t1 t0 | .shl _ t1 t0 | .shr _ t1 t0
  | .sar _ t1 t0 | .ror _ t1 t0 | .min _ _ t1 t0 | .max _ _ t1 t0 | .clz _ t1 t0 | .ctz _ t1 t0 | .popc _ t1 t0
  | .brev _ t1 t0 | .bswap _ t1 t0 | .sxb _ t1 t0 | .sxh _ t1 t0 | .sxw _ t1 t0 | .zxb _ t1 t0 | .zxh _ t1 t0
  | .zxw _ t1 t0 | .neg _ t1 t0 | .not _ t1 t0 | .abs _ t1 t0 | .lea _ _ t1 t0 | .bfx _ _ t1 t0 | .bfi t1 t0
  | .lop3 _ _ _ t1 t0 | .addc _ t1 t0 | .adc t1 t0 | .vadd _ _ t1 t0 | .vsub _ _ t1 t0 | .vmul _ _ t1 t0
  | .vfma _ t1 t0 | .vmin _ _ t1 t0 | .vmax _ _ t1 t0 | .vand _ _ t1 t0 | .vor _ _ t1 t0 | .vxor _ _ t1 t0
  | .vshl _ _ t1 t0 | .vshr _ _ t1 t0 | .vsar _ _ t1 t0 | .vsel t1 t0 | .vsplat _ _ t1 t0 | .vext _ _ t1 t0
  | .vins _ t1 t0 | .vperm _ t1 t0 | .vswz _ _ t1 t0 | .vpack _ _ t1 t0 | .vunpk _ _ t1 t0 | .vdot _ t1 t0
  | .vsfu _ _ t1 t0 | .vmask _ _ t1 t0 | .vlop3 _ _ _ t1 t0 | .tld _ _ _ _ _ _ _ t1 t0
  | .mma _ _ _ _ _ _ _ _ _ t1 t0 | .top _ _ _ t1 t0 | .trow _ _ _ _ _ _ t1 t0 => [t0, t1]
  | .mov4 _ t3 t2 t1 t0 => [t0, t1, t2, t3]
  | _ => []

/-- The exit number of an exit instruction (R171). -/
def exitNum (i : Instr) : Option Nat :=
  match i with
  | .exit _ e _ | .call _ e _ | .exitr _ e | .callr _ e | .ret _ e | .halt _ e | .tret _ e => some e.toNat
  | _ => none

/-- The LSID of a load-class instruction (R100). -/
def loadLsid (i : Instr) : Option Nat :=
  match i with
  | .ld _ ls .. | .ldv _ ls .. | .ldg _ ls .. | .lda _ ls .. | .watch _ ls .. | .span _ ls .. => some ls.toNat
  | .tld _ _ _ _ _ ls _ _ _ => some ls.toNat
  | _ => none

/-- The LSID of a store-class instruction (R100). -/
def storeLsid (i : Instr) : Option Nat :=
  match i with
  | .st _ ls .. | .stv _ ls .. | .sts _ ls .. | .stl _ ls .. | .amo _ ls .. | .cas _ ls .. | .fence _ ls ..
  | .flushr _ ls .. | .claim _ ls | .isync _ ls | .batch _ ls _ | .fork _ ls _ => some ls.toNat
  | .copy _ _ _ ls _ => some ls.toNat
  | .bar _ _ ls _ => some ls.toNat
  | .tst _ _ _ _ ls _ => some ls.toNat
  | _ => none

/-- Either LSID. -/
def lsidOf (i : Instr) : Option Nat := (loadLsid i).or (storeLsid i)

/-- The register-form destination (R95). -/
def regDestOf (i : Instr) : RegDest :=
  match i with
  | .amo _ _ _ _ _ d | .cas _ _ _ _ d | .copy _ _ _ _ d | .batch _ _ d | .fork _ _ d => d
  | _ => .none

/-- The register an instruction writes at commit: WR or a register form (R113). -/
def writesReg (i : Instr) : Option Nat :=
  match i, regDestOf i with
  | .wr n, _ => some n.toNat
  | _, .reg n => some n.toNat
  | _, .none => none

/-- The register an instruction names, for the declaration check of R113. -/
def namesReg (i : Instr) : Option Nat :=
  match i with
  | .rd n .. => some n.toNat
  | i => writesReg i

/-- CALL and CALLR (R108). -/
def isCall (i : Instr) : Bool :=
  match i with
  | .call .. | .callr .. => true
  | _ => false

/-- The tensor cell of a tensor instruction (R37). -/
def tensorCell (i : Instr) : Option Nat :=
  match i with
  | .tld _ _ _ _ c .. => some c.toNat
  | .tst _ _ _ c .. => some c.toNat
  | .mma _ _ c .. => some c.toNat
  | .top _ _ c .. => some c.toNat
  | .trow _ _ c .. => some c.toNat
  | _ => none

/-- Buffers a tile instruction reads, writes, accumulators it reads, writes (R104, R263, R286, R287). -/
structure TileUse where
  bufR : List Nat := []
  bufW : List Nat := []
  accR : List Nat := []
  accW : List Nat := []
  deriving DecidableEq, Repr

/-- The buffers and accumulators a TOP names. -/
def topUse (o : TopOp) : TileUse :=
  match o with
  | .zeroBuf d => { bufW := [d.toNat] }
  | .zeroAcc d _ => { accW := [d.toNat] }
  | .trans d r | .rscale d r | .rsub d r | .exp2 d r => { accR := [r.toNat], accW := [d.toNat] }
  | .conv d r _ _ _ => { bufR := [r.toNat], bufW := [d.toNat] }
  | .rmax r | .rsum r => { accR := [r.toNat] }
  | .a2b d r _ _ _ _ => { accR := [r.toNat], bufW := [d.toNat] }

/-- The tile state an instruction names. -/
def tileUse (i : Instr) : TileUse :=
  match i with
  | .tld _ _ _ _ _ _ b _ _ => { bufW := [b.toNat] }
  | .tst _ false _ _ _ b => { bufR := [b.toNat] }
  | .tst _ true _ _ _ a => { accR := [a.toNat] }
  | .mma _ _ _ acc a b _ _ zc _ _ =>
    { bufR := [a.toNat, b.toNat], accR := if zc then [] else [acc.toNat], accW := [acc.toNat] }
  | .top _ o _ _ _ => topUse o
  | .trow _ .rb _ b _ _ _ _ => { bufR := [b.toNat] }
  | .trow _ .wb _ b _ _ _ _ => { bufW := [b.toNat] }
  | .trow _ .ra _ a _ _ _ _ => { accR := [a.toNat] }
  | .trow _ .wa _ a _ _ _ _ => { accW := [a.toNat] }
  | _ => {}

/-- A broadcast TLD (R104). -/
def isBroadcast (i : Instr) : Bool :=
  match i with
  | .tld _ bc .. => bc
  | _ => false

/-- A TLD's buffer (R104). -/
def tldBuf (i : Instr) : Option Nat :=
  match i with
  | .tld _ _ _ _ _ _ b _ _ => some b.toNat
  | _ => none

/-! ## Words of a block -/

/-- Word k of a list of words. -/
def wordAt (ws : List Word) (k : Nat) : Word := ws.getD k 0

/-- The instruction at an index of a block's words: none for an extension word or a word that decodes to nothing.
`isX` says whether the word is an extension word (R96). -/
def isExtAt (ws : List Word) : Nat → Bool
  | 0 => false
  | k + 1 => !isExtAt ws k && isPairedWord (wordAt ws k)

/-- The decoded instruction at an index (R96). -/
def instrAt (ws : List Word) (k : Nat) : Option Instr :=
  if isExtAt ws k then none
  else match decode (wordAt ws k) (wordAt ws (k + 1)) with
    | .ok i => some i
    | .error _ => none

/-- Indices and instructions of a block that are instructions and not NOP, in index order. -/
def instrsFrom (ws : List Word) (k : Nat) (ext : Bool) : List (Nat × Instr) :=
  match ws with
  | [] => []
  | w :: rest =>
    if ext then instrsFrom rest (k + 1) false
    else
      let paired := isPairedWord w
      match decode w (rest.headD 0) with
      | .ok .nop => instrsFrom rest (k + 1) false
      | .ok i => (k, i) :: instrsFrom rest (k + 1) paired
      | .error _ => instrsFrom rest (k + 1) paired

/-- The instructions of a block. -/
def instrsOf (b : Block) : List (Nat × Instr) := instrsFrom b.words 0 false

/-! ## Block header fields (R86) -/

/-- Header word k as a number. -/
def hw (hdr : List Word) (k : Nat) : Nat := (hdr.getD k 0).toNat
/-- Tiers of a block. -/
def tiersOf (hdr : List Word) : Nat := bits (hw hdr 0) 25 3 + 1
/-- EXITS. -/
def exitsOf (hdr : List Word) : Nat := bits (hw hdr 0) 22 3
/-- PH. -/
def phOf (hdr : List Word) : Bool := bits (hw hdr 0) 21 1 == 1
/-- OM. -/
def omOf (hdr : List Word) : Bool := bits (hw hdr 0) 20 1 == 1
/-- The composition requested, as a number of combs; 0 for none. -/
def swreqOf (hdr : List Word) : Nat :=
  match bits (hw hdr 0) 17 3 with
  | 1 => 1 | 2 => 2 | 3 => 4 | 4 => 8 | _ => 0
/-- The write mask over g0 to g63. -/
def wmaskOf (hdr : List Word) : Nat := hw hdr 2 + 2 ^ 32 * hw hdr 3
/-- The live mask over g0 to g63. -/
def liveOf (hdr : List Word) : Nat := hw hdr 4 + 2 ^ 32 * hw hdr 5
/-- The byte directly after a block (R172). -/
def afterBlock (b : Block) : W64 := b.addr + BitVec.ofNat 64 (32 + 64 * tiersOf b.hdr)

/-! ## Kernel header fields (R25) -/

/-- Word k of a list of 64-bit words as a number. -/
def dw (l : List W64) (k : Nat) : Nat := (l.getD k 0).toNat
/-- REGS. -/
def kRegs (h : List W64) : Nat := bits (dw h 1) 13 7
/-- TBUFS. -/
def kTbufs (h : List W64) : Nat := bits (dw h 1) 20 5
/-- ACCS. -/
def kAccs (h : List W64) : Nat := bits (dw h 1) 25 4
/-- BARS. -/
def kBars (h : List W64) : Nat := bits (dw h 1) 29 5
/-- Block windows per comb, WINM1 + 1. -/
def kWins (h : List W64) : Nat := bits (dw h 1) 34 3 + 1
/-- SWARM as a number of combs; 0 for a reserved code. -/
def kSwarm (h : List W64) : Nat :=
  match bits (dw h 1) 37 3 with
  | 1 => 1 | 2 => 2 | 3 => 4 | 4 => 8 | _ => 0
/-- GANG. -/
def kGang (h : List W64) : Bool := bits (dw h 1) 40 1 == 1
/-- STEAL. -/
def kSteal (h : List W64) : Nat := bits (dw h 1) 41 3
/-- SCRATCH in bytes. -/
def kScratch (h : List W64) : Nat := bits (dw h 2) 0 13 * 256
/-- TLIVE. -/
def kTlive (h : List W64) : Nat := bits (dw h 2) 32 32

/-! ## Topology (R2, R32, R33, R35, R36, R37, R308) -/

/-- The comb (0 to 511) of a context identifier. -/
def homeOf (c : Nat) : Nat := c / 8
/-- The slot of a context identifier. -/
def slotOf (c : Nat) : Nat := c % 8
/-- The frame (0 to 63) of a comb. -/
def frameOf (comb : Nat) : Nat := comb / 8
/-- The die of a comb. -/
def dieOf (comb : Nat) : Nat := comb / 128
/-- Relative comb q of the swarm whose home comb is `home` (R33). -/
def memberAt (home q : Nat) : Nat := 8 * (home / 8) + ((home % 8) ^^^ q)
/-- The member combs of a context. -/
def membersOf (c k : Nat) : List Nat := (upTo k).map (memberAt (homeOf c))
/-- The cell within a comb of tensor cell c of the comb (R37). -/
def tcellCell (c : Nat) : Nat := match c % 4 with | 0 => 0 | 1 => 2 | 2 => 8 | _ => 10
/-- The comb and cell where instruction idx of a block of a swarm of k combs stands (R36, R37). -/
def placeOf (home k idx : Nat) (i : Option Instr) : Nat × Nat :=
  match i.bind tensorCell with
  | some t => (memberAt home (t / 4), tcellCell t)
  | none => (memberAt home (idx % (16 * k) / 16), idx % 16)
/-- Grid row and column of a cell in its frame (R35). -/
def gridOf (comb cell : Nat) : Nat × Nat :=
  (4 * (comb % 8 / 4) + cell / 4, 4 * (comb % 4) + cell % 4)
/-- Absolute difference. DEDUCED, log 15. -/
def adiff (a b : Nat) : Nat := (a - b) + (b - a)
/-- The cost in cc of a token's way: a hop for each step, 3 cc for each crossing in place of the hop (R35).
DEDUCED, log 15. -/
def hopCost (src dst : Nat × Nat) : Nat :=
  let a := gridOf src.1 src.2
  let b := gridOf dst.1 dst.2
  let rowCross := adiff (a.1 / 4) (b.1 / 4)
  let colCross := adiff (a.2 / 4) (b.2 / 4)
  adiff a.1 b.1 + adiff a.2 b.2 + 2 * (rowCross + colCross)
/-- The comb distance of two combs of a frame (R35). -/
def combDistance (a b : Nat) : Nat := adiff (a % 8 / 4) (b % 8 / 4) + adiff (a % 4) (b % 4)

end Sys2Proof.Machine
end

