-- ==== Sys2Proof/Machine/Flags.lean ====
section
/-! DEFINITION. Scalar results and the conditions they expose: tests, carries, division, shifts, bit fields and bit
counts (R69 to R71, R185 to R194). No instruction sets a flag: a condition is a token of value 0 or 1. -/

namespace Sys2Proof.Machine

/-- A condition as a token's value (R185). -/
def truth (b : Bool) : W64 := if b then 1 else 0

/-- The sum and carry of ADDC and ADC (R194). -/
def carrySum (a b : W64) (cin : Bool) : W64 × W64 :=
  let s := a.toNat + b.toNat + cin.toNat
  (BitVec.ofNat 64 s, BitVec.ofNat 64 (s / 2 ^ 64))

/-- MULH (R69). -/
def mulHigh (k : MulhKind) (a b : W64) : W64 :=
  let x : Int := if k == .uu then (a.toNat : Int) else a.toInt
  let y : Int := if k == .ss then b.toInt else (b.toNat : Int)
  BitVec.ofInt 64 (x * y / 2 ^ 64)

/-- DIV (R70). -/
def divide (g : Sgn) (a b : W64) : W64 :=
  if b = 0 then BitVec.allOnes 64
  else match g with
    | .u => BitVec.ofNat 64 (a.toNat / b.toNat)
    | .s => BitVec.ofInt 64 (a.toInt.tdiv b.toInt)

/-- REM (R70). -/
def remainder (g : Sgn) (a b : W64) : W64 :=
  if b = 0 then a
  else match g with
    | .u => BitVec.ofNat 64 (a.toNat % b.toNat)
    | .s => BitVec.ofInt 64 (a.toInt.tmod b.toInt)

/-- An operand that fits in 32 bits in the instruction's signedness (R70). -/
def fits32 (g : Sgn) (a : W64) : Bool :=
  match g with
  | .u => decide (a.toNat < 2 ^ 32)
  | .s => decide (-(2 ^ 31) ≤ a.toInt) && decide (a.toInt < 2 ^ 31)

/-- The latency of DIV and REM (R70). -/
def divLat (g : Sgn) (a b : W64) : Nat := if fits32 g a && fits32 g b then 18 else 34

/-- A scalar shift count (R71). -/
def shCount (b : W64) : Nat := b.toNat % 64

/-- MIN (R69). -/
def minOf (g : Sgn) (a b : W64) : W64 :=
  match g with
  | .s => if b.toInt < a.toInt then b else a
  | .u => if b.toNat < a.toNat then b else a

/-- MAX (R69). -/
def maxOf (g : Sgn) (a b : W64) : W64 :=
  match g with
  | .s => if a.toInt < b.toInt then b else a
  | .u => if a.toNat < b.toNat then b else a

/-- The immediate of format I (R188). -/
def imm9 (i : BitVec 9) : W64 := i.signExtend 64

/-- CLZ (R189). -/
def leadZeros (a : W64) : W64 :=
  BitVec.ofNat 64 ((upTo 64).foldl (fun n k => if a.getLsbD k then 63 - k else n) 64)

/-- The index of the lowest set bit below n, or n (R189, R213). -/
def lowestSet (x n : Nat) : Nat := ((upTo n).find? (fun k => x.testBit k)).getD n

/-- POPC (R189). -/
def popCount (a : W64) : W64 := BitVec.ofNat 64 ((upTo 64).foldl (fun n k => n + (a.getLsbD k).toNat) 0)

/-- BREV (R189). -/
def bitReverse (a : W64) : W64 := (upTo 64).foldl (fun y k => if a.getLsbD k then y ||| BitVec.twoPow 64 (63 - k) else y) 0

/-- BSWAP (R189). -/
def byteSwap (a : W64) : W64 :=
  (upTo 8).foldl (fun y k => y ||| ((a >>> (8 * k)) &&& 0xFF) <<< (56 - 8 * k)) 0

/-- ABS (R189). -/
def absOf (a : W64) : W64 := if a.msb then 0 - a else a

/-- A control token's field position and width (R191). -/
def fieldPos (c : W64) : Nat := bits c.toNat 0 6
def fieldLen (c : W64) : Nat := let n := bits c.toNat 8 6; if n == 0 then 64 else n

/-- BFX (R191). -/
def fieldExtract (sgn : Bool) (a c : W64) : W64 :=
  let w := fieldLen c
  let f := bits a.toNat (fieldPos c) w
  if sgn then BitVec.ofInt 64 (signedOf w f) else BitVec.ofNat 64 f

/-- BFI (R192). -/
def fieldInsert (a b c : W64) : W64 :=
  let mask : W64 := BitVec.ofNat 64 ((2 ^ fieldLen c - 1) * 2 ^ fieldPos c)
  (a &&& ~~~mask) ||| ((b <<< fieldPos c) &&& mask)

end Sys2Proof.Machine
end

