-- ==== Sys2Proof/Machine/Cache.lean ====
section
/-! DEFINITION. Words at their homes, spans in comb caches and hive slices, fills, merges, splits, evictions, and
owners (R130, R136 to R143, R146, R338, R339). -/

namespace Sys2Proof.Machine

/-! ## Addresses (R129, R130, R136) -/

/-- HBM or second tier: addresses with a home slice on this module (R129, R130). -/
def isLocal (pa : Nat) : Bool :=
  decide (pa < Config.hbmBytes) || (decide (Config.tier2Base ≤ pa) && decide (pa < Config.tier2Base + Config.tier2Bytes))

/-- On-chip windows (R131). -/
def isWindow (pa : Nat) : Bool := decide (Config.windowBase ≤ pa) && decide (pa < Config.windowBase + Config.windowBytes)

/-- The configuration range (R134). -/
def isCfg (pa : Nat) : Bool := decide (Config.cfgBase ≤ pa) && decide (pa < Config.cfgBase + Config.cfgBytes)

/-- The CXL fabric range (R135). -/
def isFabric (pa : Nat) : Bool := decide (Config.fabricBase ≤ pa) && decide (pa < Config.fabricEnd)

/-- The die that is home to a local address (R129). -/
def homeDie (pa : Nat) : Nat :=
  if pa < Config.hbmBytes then pa / 0x3000000000 else (pa - Config.tier2Base) / 0x6000000000

/-- The home slice, 64 × die + slice (R130, R146). -/
def homeSlice (pa : Nat) : Nat := 64 * homeDie pa + (bits pa 9 6 ^^^ bits pa 15 6)

/-- A comb's set of a region (R136). -/
def combSet (comb region : Nat) : Nat := 64 * comb + region % 64

/-- A slice's set of a region (R136). -/
def hiveSet (region : Nat) : Nat := 192 * homeSlice (region * 512) + (region * 512 / 2 ^ 15) % 192

/-- The comb and offset of an on-chip window address (R131). -/
def windowOf (pa : Nat) : Nat × Nat :=
  let o := pa - Config.windowBase
  (128 * (o / 0x80000000) + o % 0x80000000 / 0x1000000, o % 0x1000000)

/-- The base of a comb's on-chip window (R131). -/
def windowBaseOf (comb : Nat) : Nat := Config.windowBase + 0x80000000 * (comb / 128) + 0x1000000 * (comb % 128)

/-! ## Sets of spans -/

/-- The last word of a span. -/
def Span.last (sp : Span) : Nat := sp.s + sp.words.length - 1

/-- Whether a word of a span is a hole: the span does not hold it. -/
def isHole (c : CWord) : Bool := c.valid == 0 && !c.owned

/-- The span of a set that covers a word. -/
def setSpan (set : List Span) (region w : Nat) : Option Span :=
  set.find? (fun sp => sp.region == region && decide (sp.s ≤ w) && decide (w < sp.s + sp.words.length))

/-- A word of a set, by region and word number. -/
def setWord (set : List Span) (region w : Nat) : Option CWord :=
  match (setSpan set region w).bind (fun sp => sp.words[w - sp.s]?) with
  | some c => if isHole c then none else some c
  | none => none

/-- A set with one present word changed. -/
def updSet (set : List Span) (region w : Nat) (f : CWord → CWord) : List Span :=
  set.map (fun sp =>
    if sp.region == region && decide (sp.s ≤ w) && decide (w < sp.s + sp.words.length) then
      { sp with words := lmod (w - sp.s) f sp.words }
    else sp)

/-- The runs of a span's words that `keep` keeps, as spans of their own. -/
def runsOf (sp : Span) (keep : Nat → CWord → Bool) : List Span :=
  let step : (Nat × CWord) → List Span → List Span := fun x acc =>
    if keep x.1 x.2 then
      match acc with
      | r :: rest => if r.s == x.1 + 1 then { r with s := x.1, words := x.2 :: r.words } :: rest
                     else { sp with s := x.1, words := [x.2] } :: r :: rest
      | [] => [{ sp with s := x.1, words := [x.2] }]
    else acc
  (sp.words.zipIdx.map (fun p => (sp.s + p.2, p.1))).foldr step []

/-- Words held by a set's spans (R136). -/
def poolUsed (set : List Span) : Nat := set.foldl (fun a sp => a + sp.words.length) 0

/-- Whether a span may be evicted: no word pending, none waiting for its data, none with an access outstanding; `busy` tells
the last of a word by its number (R139). -/
def evictable (busy : Nat → Bool) (sp : Span) : Bool :=
  sp.words.zipIdx.all (fun p => p.1.pend == none && (p.1.valid == 0 || p.1.valid == 0xFF) && !busy (64 * sp.region + sp.s + p.2))

/-- The least recently used evictable span of other regions (R139). -/
def lruSpan (busy : Nat → Bool) (region : Nat) (set : List Span) : Option Span :=
  (set.filter (fun sp => sp.region != region && evictable busy sp)).foldl (fun acc sp =>
    match acc with
    | none => some sp
    | some b => if sp.used < b.used then some sp else some b) none

/-- A set with spans evicted until `need` more words and one tag fit; the evicted spans; none when they cannot
(R139 step 3). -/
def makeRoom (pool tags : Nat) (busy : Nat → Bool) (region need : Nat) :
    Nat → List Span → List Span → Option (List Span × List Span)
  | 0, _, _ => none
  | fuel + 1, set, out =>
    if poolUsed set + need ≤ pool && set.length < tags then some (set, out)
    else match lruSpan busy region set with
      | none => none
      | some v => makeRoom pool tags busy region need fuel (set.erase v) (v :: out)

/-- Spans of a region that overlap or adjoin [a, b], in rising order (R139 step 2). -/
def touching (set : List Span) (region a b : Nat) : List Span :=
  set.filter (fun sp => sp.region == region && decide (sp.s ≤ b + 1) && decide (a ≤ sp.s + sp.words.length))

/-- Words [a, b] merged with the touching spans of their region into one span; `new` gives the words of [a, b] that were not
present (R139 step 2). -/
def mergeSpan (set : List Span) (region a b : Nat) (new : Nat → CWord) (sver stamp : Nat) : List Span × Span :=
  let ts := touching set region a b
  let lo := ts.foldl (fun x sp => min x sp.s) a
  let hi := ts.foldl (fun x sp => max x sp.last) b
  let ws := (rangeFrom lo (hi + 1 - lo)).map (fun w => (setWord ts region w).getD (if a ≤ w && w ≤ b then new w else {}))
  (set.filter (fun sp => !ts.contains sp), { region := region, s := lo, words := ws, sver := sver, used := stamp })

/-- A fill of words [a, b] that trims predicted words, the farthest first and the higher of two equally far, until it fits
(R139 steps 2 to 5); `alo`, `ahi` are the accessed words. The new set and the evicted spans, or none when even the accessed
words have no room. -/
def fillSet (pool tags : Nat) (busy : Nat → Bool) (set : List Span) (region alo ahi : Nat) (new : Nat → CWord)
    (sver stamp : Nat) : Nat → Nat → Nat → Option (List Span × List Span)
  | 0, _, _ => none
  | fuel + 1, a, b =>
    let m := mergeSpan set region a b new sver stamp
    match makeRoom pool tags busy region m.2.words.length 64 m.1 [] with
    | some (set', out) => some (m.2 :: set', out)
    | none =>
      if a < alo && decide (b < ahi + (alo - a)) then fillSet pool tags busy set region alo ahi new sver stamp fuel (a + 1) b
      else if ahi < b then fillSet pool tags busy set region alo ahi new sver stamp fuel a (b - 1)
      else none

/-! ## Words dropped from a set (R141) -/

/-- Parts of one split span evicted until at most `room` are left: those that may go, the higher-addressed first. The parts
that stay, in rising order, and the evicted ones; none when too many may not go (R141). -/
def trimParts (busy : Nat → Bool) (inside : Span → Bool) (room : Nat) (parts : List Span) : Option (List Span × List Span) :=
  let free := parts.filter (fun sp => !inside sp && evictable busy sp)
  let need := parts.length - room
  if free.length < need then none
  else
    let out := free.drop (free.length - need)
    some (parts.filter (fun sp => !out.contains sp), out)

/-- One span of a set with words dropped: the runs of what stays, parts of it evicted when tags run out (R141). Where they may
not be evicted the span stays whole, and the words dropped are no longer valid in it (R137). DESIGN CHOICE, log 86. -/
def dropSpan (busy : Nat → Bool) (room : Nat) (sp : Span) (drop : Nat → CWord → Bool) : List Span × List Span :=
  let runs := runsOf sp (fun w c => !drop w c && !isHole c)
  match trimParts busy (fun _ => false) room runs with
  | some r => r
  | none => ([{ sp with words := sp.words.zipIdx.map (fun p => if drop (sp.s + p.2) p.1 then {} else p.1) }], [])

/-- A set of `tags` tags with words of one region dropped where `drop` says so: the spans that stay and the parts evicted
(R141). -/
def dropSpans (busy : Nat → Bool) (tags : Nat) (set : List Span) (region : Nat) (drop : Span → Nat → CWord → Bool) :
    List Span × List Span :=
  let out := set.foldl (fun (acc : List Span × List Span × Nat) sp =>
    if sp.region == region && (runsOf sp (fun w c => drop sp w c)) != [] then
      let r := dropSpan busy (tags - (acc.2.2 - 1)) sp (drop sp)
      (acc.1 ++ r.1, acc.2.1 ++ r.2, acc.2.2 - 1 + r.1.length)
    else (acc.1 ++ [sp], acc.2.1, acc.2.2)) ([], [], set.length)
  (out.1, out.2.1)

/-! ## Carry codes (R338) -/

/-- One bit of the carry code's CRC-16 (R338). -/
def carryBits : Nat → BitVec 16 → BitVec 16
  | 0, c => c
  | n + 1, c => carryBits n (if c.getLsbD 15 then (c <<< 1) ^^^ 0x8BB7 else c <<< 1)

/-- The carry code of a sector's bytes (R338). -/
def carryCode (bs : List Byte) : BitVec 16 :=
  bs.foldl (fun c b => carryBits 8 (c ^^^ BitVec.ofNat 16 (b.toNat * 256))) 0

/-- The bytes of a sector of memory. -/
def sectorBytes (m : MemSys) (k : Nat) : List Byte := (upTo 32).map (fun j => BitVec.ofNat 8 (memRead m.mem (32 * k + j) 1))

/-- Whether the check of a sector of memory fails (R338). -/
def sectorBad (m : MemSys) (k : Nat) : Bool :=
  match mfind k m.codes with
  | some c => carryCode (sectorBytes m k) != c
  | none => false

/-- A counter that saturates (R369). DEDUCED, log 49. -/
def satInc {n : Nat} (x : BitVec n) : BitVec n := if x == BitVec.allOnes n then x else x + 1

/-- A sector of memory checked: a failure poisons its words and is counted (R338, R369). -/
def checkSector (m : MemSys) (k : Nat) : MemSys :=
  if sectorBad m k then
    { m with poison := (upTo 4).foldl (fun l j => sinsert (4 * k + j) l) m.poison, codes := mdel k m.codes, ccfail := satInc m.ccfail }
  else m

/-- The sectors of words [a, b] checked (R338). -/
def checkWords (m : MemSys) (a b : Nat) : MemSys :=
  if m.codes.isEmpty then m else (rangeFrom (a / 4) (b / 4 + 1 - a / 4)).foldl checkSector m

/-! ## The home's view of a word -/

/-- A word of memory by its number (address / 8): data and poison, the hive slice's copy before HBM's (R137, R338). -/
def homeWord (m : MemSys) (w : Nat) : W64 × Bool :=
  match setWord (mget [] (hiveSet (w / 64)) m.hives) (w / 64) (w % 64) with
  | some c => (c.data, c.poison)
  | none => (BitVec.ofNat 64 (memRead m.mem (8 * w) 8), m.poison.contains w || sectorBad m (w / 4))

/-- A word written back to HBM or the second tier (R141, R156): its sector is checked, and then has the code of the merged bytes
(R338). -/
def memPutWord (m : MemSys) (w : Nat) (d : W64) (poison : Bool) : MemSys :=
  let m := checkSector m (w / 4)
  { m with mem := memWrite m.mem (8 * w) 8 d.toNat, poison := if poison then sinsert w m.poison else serase w m.poison,
           codes := mdel (w / 4) m.codes }

/-- Dirty words of spans evicted from a hive slice written back (R139). -/
def hiveEvict (m : MemSys) (out : List Span) : MemSys :=
  out.foldl (fun m sp => (sp.words.zipIdx).foldl (fun m p =>
    if p.1.dirty then memPutWord m (64 * sp.region + sp.s + p.2) p.1.data p.1.poison else m) m) m

/-- A word's data put where its home holds it now: in the slice when the slice holds the word, else in memory. What an
uncached access writes is never brought into a cache (R136, R159). -/
def rawPut (m : MemSys) (w : Nat) (d : W64) (poison : Bool) : MemSys :=
  let key := hiveSet (w / 64)
  let set := mget [] key m.hives
  match setWord set (w / 64) (w % 64) with
  | some _ => { m with hives := mput key (updSet set (w / 64) (w % 64) (fun c => { c with data := d, valid := 0xFF, dirty := true, poison := poison })) m.hives }
  | none => memPutWord m w d poison

/-- A word's data placed at its home slice (R137, R139): it differs from HBM until written back. -/
def homePut (m : MemSys) (w : Nat) (d : W64) (poison : Bool) : MemSys :=
  let key := hiveSet (w / 64)
  let set := mget [] key m.hives
  let upd : CWord → CWord := fun c => { c with data := d, valid := 0xFF, dirty := true, poison := poison }
  match setWord set (w / 64) (w % 64) with
  | some _ => { m with hives := mput key (updSet set (w / 64) (w % 64) upd) m.hives }
  | none =>
    match fillSet 1024 32 (fun _ => false) set (w / 64) (w % 64) (w % 64) (fun _ => upd {}) 0 m.stamp 2 (w % 64) (w % 64) with
    | some (set', out) => hiveEvict { m with hives := mput key set' m.hives, stamp := m.stamp + 1 } out
    | none => memPutWord m w d poison

/-- Words [a, b] of a region brought into the home slice clean (SPAN hive, R235). -/
def hiveFill (m : MemSys) (region a b : Nat) : MemSys :=
  let m := checkWords m (64 * region + a) (64 * region + b)
  let key := hiveSet region
  let set := mget [] key m.hives
  let new : Nat → CWord := fun k => let x := homeWord m (64 * region + k); { data := x.1, valid := 0xFF, poison := x.2 }
  match fillSet 1024 32 (fun _ => false) set region a b new 0 m.stamp 2 a b with
  | some (set', out) => hiveEvict { m with hives := mput key set' m.hives, stamp := m.stamp + 1 } out
  | none => m

/-- The least-recently-used order of a slice's span that a read has used (R139). -/
def hiveUsed (m : MemSys) (w : Nat) : MemSys :=
  let key := hiveSet (w / 64)
  match setSpan (mget [] key m.hives) (w / 64) (w % 64) with
  | some sp => { m with hives := mput key ((mget [] key m.hives).map (fun p => if p == sp then { p with used := m.stamp } else p)) m.hives
                        stamp := m.stamp + 1 }
  | none => m

/-- A word dropped from one set of a slice, parts of its span evicted when tags run out (R141). -/
def hiveDropIn (m : MemSys) (key w : Nat) : MemSys :=
  let r := dropSpans (fun _ => false) 32 (mget [] key m.hives) (w / 64) (fun _ k _ => k == w % 64)
  hiveEvict { m with hives := mput key r.1 m.hives } r.2

/-- A word's data dropped from its home slice, where the record of an owner takes its place (R137, R143). -/
def hiveDrop (m : MemSys) (w : Nat) : MemSys :=
  match setWord (mget [] (hiveSet (w / 64)) m.hives) (w / 64) (w % 64) with
  | some _ => hiveDropIn m (hiveSet (w / 64)) w
  | none => m

/-- Data merged into a word under a byte mask. -/
def mergeBytes (old new : W64) (mask : Byte) : W64 :=
  let sel : W64 := (upTo 8).foldl (fun acc k => if mask.getLsbD k then acc ||| BitVec.ofNat 64 (0xFF <<< (8 * k)) else acc) 0
  (new &&& sel) ||| (old &&& ~~~sel)

/-! ## Comb caches -/

/-- A word of a comb's cache. -/
def combWord (m : MemSys) (comb w : Nat) : Option CWord := setWord (mget [] (combSet comb (w / 64)) m.caches) (w / 64) (w % 64)

/-- A comb's copy of a present word changed. -/
def updComb (m : MemSys) (comb w : Nat) (f : CWord → CWord) : MemSys :=
  let key := combSet comb (w / 64)
  { m with caches := mput key (updSet (mget [] key m.caches) (w / 64) (w % 64) f) m.caches }

/-- An owner's word returned to its home: the home holds its data and the registration ends (R139, R143). -/
def writeBack (m : MemSys) (w : Nat) (c : CWord) : MemSys :=
  let old := homeWord m w
  let d := if c.valid == 0xFF then c.data else mergeBytes old.1 c.data c.valid
  { homePut m w d (c.poison || ((c.part || c.valid != 0xFF) && old.2)) with owners := mdel w m.owners }

/-- Whether an access of a comb to a word is outstanding: a load or a registration (R139). -/
def wordBusy (m : MemSys) (comb w : Nat) : Bool :=
  m.loads.any (fun p => p.2.comb == comb && p.2.pieces.any (fun q => q.pa / 8 == w))
    || m.regs.any (fun p => p.2.comb == comb && p.2.word == w)

/-- Spans evicted from a comb: dirty words return to their homes (R139). -/
def combEvict (m : MemSys) (out : List Span) : MemSys :=
  out.foldl (fun m sp => (sp.words.zipIdx).foldl (fun m p =>
    if p.1.dirty then writeBack m (64 * sp.region + sp.s + p.2) p.1 else m) m) m

/-- A fill of words [a, b] into a comb's set, `alo` to `ahi` accessed; none when it must wait (R139). -/
def combFill (m : MemSys) (comb region alo ahi a b : Nat) (new : Nat → CWord) (sver : Nat) : Option MemSys :=
  let key := combSet comb region
  match fillSet 512 24 (wordBusy m comb) (mget [] key m.caches) region alo ahi new sver m.stamp 64 a b with
  | some (set', out) => some (combEvict { m with caches := mput key set' m.caches, stamp := m.stamp + 1 } out)
  | none => none

/-- Words of a comb's region dropped where `drop` says so; the rest split into spans (R141, R145). -/
def combDropIn (m : MemSys) (comb region : Nat) (drop : Span → Nat → CWord → Bool) : MemSys :=
  let key := combSet comb region
  let out := dropSpans (wordBusy m comb) 24 (mget [] key m.caches) region drop
  combEvict { m with caches := mput key out.1 m.caches } out.2

/-- One span split at the edges of a range of words: its parts, outside ones evicted when `room` tags do not suffice; none
while that must wait (R141). -/
def splitSpan (busy : Nat → Bool) (room : Nat) (sp : Span) (inside : Nat → Bool) : Option (List Span × List Span) :=
  let ins := runsOf sp (fun w c => inside w && !isHole c)
  let outs := runsOf sp (fun w c => !inside w && !isHole c)
  trimParts busy (fun p => inside p.s) room (ins ++ outs)

/-- The spans of a set of `tags` tags split at the edges of a range, `inside` told by word number: the spans that stay and those
evicted; none while an outside part that must go may not be evicted (R141). -/
def splitIn (busy : Nat → Bool) (tags : Nat) (set : List Span) (inside : Nat → Bool) : Option (List Span × List Span) :=
  let out := set.foldl (fun (acc : Option (List Span × List Span × Nat)) sp =>
    match acc with
    | none => none
    | some (kept, gone, n) =>
      let mine : Nat → Bool := fun w => inside (64 * sp.region + w)
      if (runsOf sp (fun w _ => mine w)) == [] || (runsOf sp (fun w _ => !mine w)) == [] then some (kept ++ [sp], gone, n)
      else
        match splitSpan busy (tags - (n - 1)) sp mine with
        | none => none
        | some r => some (kept ++ r.1, gone ++ r.2, n - 1 + r.1.length)) (some ([], [], set.length))
  out.map (fun r => (r.1, r.2.1))

/-- A set of a comb cache split at the edges of a range; none while that must wait (R141). -/
def splitSet (m : MemSys) (key : Nat) (inside : Nat → Bool) : Option MemSys :=
  (splitIn (wordBusy m (key / 64)) 24 (mget [] key m.caches) inside).map (fun r => combEvict { m with caches := mput key r.1 m.caches } r.2)

/-- The least-recently-used order of a comb's span that an access has used (R139). -/
def combUsed (m : MemSys) (comb w : Nat) : MemSys :=
  let key := combSet comb (w / 64)
  match setSpan (mget [] key m.caches) (w / 64) (w % 64) with
  | some sp => { m with caches := mput key ((mget [] key m.caches).map (fun p => if p == sp then { p with used := m.stamp } else p)) m.caches
                        stamp := m.stamp + 1 }
  | none => m

/-- The regions a comb's set holds. -/
def regionsIn (set : List Span) : List Nat := set.foldl (fun acc sp => sinsert sp.region acc) []

/-- Words of a comb dropped where `drop` says so. -/
def combDrop (m : MemSys) (comb : Nat) (drop : Span → Nat → CWord → Bool) : MemSys :=
  (m.caches.filter (fun p => p.1 / 64 == comb)).foldl (fun m p =>
    (regionsIn p.2).foldl (fun m r => combDropIn m comb r drop) m) m

/-- What another comb's copy of a word must be dropped for: non-owned copies on the swarm's other combs (R142). -/
def dropCopies (m : MemSys) (combs : List Nat) (w : Nat) : MemSys :=
  combs.foldl (fun m comb =>
    match combWord m comb w with
    | some c => if c.owned || c.dirty then m else combDropIn m comb (w / 64) (fun _ k _ => k == w % 64)
    | none => m) m

/-! ## Owners (R143) -/

/-- Whether a word's owner withholds it: pending on a release (R146). DEDUCED, log 16, 22. -/
def withheld (m : MemSys) (w : Nat) : Bool :=
  match mfind w m.owners with
  | some (.comb c) => (combWord m c w).any (fun x => x.pend != none)
  | _ => false

/-- A word returned to its home by its owner, which keeps it valid but not owned (R143). A pending word stays as it is:
its owner answers only once the release completes (R146). DEDUCED, log 16. -/
def recallWord (m : MemSys) (w : Nat) : MemSys :=
  match mfind w m.owners with
  | some (.comb c) =>
    match combWord m c w with
    | some x =>
      if x.pend.isSome then m
      else
        let m' := if x.owned then writeBack m w x else { m with owners := mdel w m.owners }
        updComb m' c w (fun y => { y with owned := false, dirty := false })
    | none => { m with owners := mdel w m.owners }
  | some .host => { m with owners := mdel w m.owners }
  | none => m

/-- A word's first owner revoked: the owner drops it, its data having returned to the home (R143, R228). The store of a
pending word is not yet in the word's coherence order: the value before it goes home, the record ends, and its release registers
it anew (R146). -/
def revokeWord (m : MemSys) (w : Nat) : MemSys :=
  match mfind w m.owners with
  | some (.comb c) =>
    match combWord m c w with
    | some x =>
      if x.pend.isSome then
        let m1 : MemSys := { m with owners := mdel w m.owners }
        let m2 := match x.prev with
          | some p => homePut m1 w p.1 p.2
          | none => m1
        updComb m2 c w (fun y => { y with prev := none })
      else combDropIn (recallWord m w) c (w / 64) (fun _ k _ => k == w % 64)
    | none => { m with owners := mdel w m.owners }
  | _ => { m with owners := mdel w m.owners }

/-- One word of a comb that gives up its cache, written back in its turn (R143, R321, R340): after whatever another owner still
has of it. -/
def flushWord (comb : Nat) (m : MemSys) (w : Nat) (c : CWord) : MemSys :=
  if c.dirty then writeBack (if mfind w m.owners == some (.comb comb) then m else revokeWord m w) w c else m

/-- Everything of a comb's cache written back to its homes, and the cache emptied (R321, R340, R341). -/
def flushComb (m : MemSys) (comb : Nat) : MemSys :=
  let sets := m.caches.filter (fun p => p.1 / 64 == comb)
  let m := { m with caches := m.caches.filter (fun p => p.1 / 64 != comb) }
  let m := sets.foldl (fun m p => p.2.foldl (fun m sp =>
    (sp.words.zipIdx).foldl (fun m q => flushWord comb m (64 * sp.region + sp.s + q.2) q.1) m) m) m
  { m with owners := m.owners.filter (fun o => o.2 != .comb comb) }

/-- The value any agent obtains from a word's home, its owner's data included, of a pending word the value before it: what a
page-table walk reads (R126, R143, R146). -/
def coherentWord (m : MemSys) (w : Nat) : W64 × Bool :=
  match mfind w m.owners with
  | some (.comb c) =>
    match combWord m c w with
    | some x => if x.owned && x.pend == none && x.valid == 0xFF then (x.data, x.poison) else x.prev.getD (homeWord m w)
    | none => homeWord m w
  | _ => homeWord m w

/-- `n` bytes from a physical address as homes hold them, little-endian, and whether a word of them is poisoned. -/
def coherentRead (m : MemSys) (pa : Nat) : Nat → Nat × Bool
  | 0 => (0, false)
  | n + 1 =>
    let x := coherentWord m (pa / 8)
    let r := coherentRead m (pa + 1) n
    (bits x.1.toNat (8 * (pa % 8)) 8 + 256 * r.1, x.2 || r.2)

/-- A word written at its home by an agent that keeps no copy, any owner revoked first (R143, R151). -/
def homeWrite (m : MemSys) (w : Nat) (d : W64) (mask : Byte) (poison : Bool) : MemSys :=
  let m := revokeWord m w
  let old := homeWord m w
  homePut m w (mergeBytes old.1 d mask) (poison || (old.2 && mask != 0xFF))

/-- The same through a page that is never cached: nothing is brought into the slice (R136, R159). -/
def uncachedWrite (m : MemSys) (w : Nat) (d : W64) (mask : Byte) (poison : Bool) : MemSys :=
  let m := revokeWord m w
  let old := homeWord m w
  rawPut m w (mergeBytes old.1 d mask) (poison || (old.2 && mask != 0xFF))

end Sys2Proof.Machine
end

