-- ==== Sys2Proof/Machine/Translate.lean ====
section
/-! DEFINITION. Translation, permissions, apertures and where an address lies (R121 to R127, R129, R132, R135, R159,
R336, R343, R353), and what a home slice does before a write of a word takes effect there: the host's lines snooped, leases run
out, a word its owner withholds (R143, R146, R150, R161, R346). -/

namespace Sys2Proof.Machine

/-- Access kinds by what they require (R125). -/
inductive Acc where
  | rd | wr | rw | fetch
  deriving DecidableEq, Repr

/-- The page fault of an access kind (R125). -/
def Acc.faultCode (a : Acc) : BitVec 8 :=
  match a with
  | .rd => 0x0B
  | .wr | .rw => 0x0C
  | .fetch => 0x0D

/-! ## Page-table entries (R123, R124) -/

def pteV (p : W64) : Bool := p.getLsbD 0
def pteLeaf (p : W64) : Bool := p.getLsbD 1
def pteRd (p : W64) : Bool := p.getLsbD 2
def pteW (p : W64) : Bool := p.getLsbD 3
def pteX (p : W64) : Bool := p.getLsbD 4
def pteCont (p : W64) : Bool := p.getLsbD 5
def pteMode (p : W64) : Nat := bits p.toNat 6 2
def ptePpn (p : W64) : Nat := bits p.toNat 12 36
def pteSver (p : W64) : Nat := bits p.toNat 48 16

/-- A physical address in some range of R129. -/
def paExists (pa : Nat) : Bool := isLocal pa || isWindow pa || isCfg pa || isFabric pa

/-- Malformed entries of a level (R124), the contiguous-group rule apart. -/
def pteBad (level : Nat) (p : W64) : Bool :=
  bits p.toNat 8 4 != 0
  || (level == 1 && pteLeaf p) || (level == 3 && !pteLeaf p)
  || (!pteLeaf p && (pteRd p || pteW p || pteX p || pteCont p || pteMode p != 0 || pteSver p != 0))
  || ((pteSver p != 0) != (pteMode p == 1))
  || (level == 2 && pteCont p)
  || (level == 2 && pteLeaf p && ptePpn p % 2 ^ 13 != 0)
  || !paExists (2 ^ 16 * ptePpn p)

/-- The partition of a number. -/
def partOf (s : State) (p : Nat) : Partition := mget {} p s.parts

/-! ## Where an address lies -/

/-- A physical address as an agent of a partition reaches it (R129, R132, R135, R353): memory with a home slice here,
an on-chip window, a configuration register, another module, or the host. -/
inductive Place where
  | home (pa : Nat)
  | window (comb off : Nat)
  | cfg (off : Nat)
  | remote (module addr : Nat)
  | hostMem (addr : Nat)
  deriving DecidableEq, Repr

/-- The place of a physical address; none is a permission failure: a disabled or forbidden aperture, another
partition's on-chip window, or configuration registers outside the partition's block (R132, R343, R353). -/
def placeOfPa (s : State) (part pa : Nat) : Option Place :=
  if isLocal pa then some (.home pa)
  else if isWindow pa then
    let w := windowOf pa
    if (mget {} (frameOf w.1) s.frames).owner == some part then some (.window w.1 w.2) else none
  else if isCfg pa then
    let o := pa - Config.cfgBase
    if o / 0x100000 == 16 + part then some (.cfg o) else none
  else if isFabric pa then
    let ap := (mget 0 ((pa - Config.fabricBase) / 2 ^ 39) s.apertures).toNat
    let target := 2 ^ 39 * bits ap 0 13 + pa % 2 ^ 39
    if bits ap 63 1 == 0 || bits ap (32 + part) 1 == 0 then none
    else if bits ap 62 1 == 1 then some (.hostMem target)
    else if bits ap 20 12 == s.md.modid then (if isLocal target then some (.home target) else none)
    else some (.remote (bits ap 20 12) target)
  else none

/-- The key of a byte of another module or of the host, module 4,096 being the host. -/
def remoteKey (module addr : Nat) : Nat := 2 ^ 52 * module + addr

/-- A byte of another module or the host: what this module last wrote there, else a free value (R135, R353).
DESIGN CHOICE, log 11. -/
def remoteGet (m : MemSys) (k : Nat) : Byte := mget (Config.remoteByte k) k m.remote

/-- `n` bytes of another module. DESIGN CHOICE, log 11. -/
def remoteRead (m : MemSys) (k : Nat) : Nat → Nat
  | 0 => 0
  | n + 1 => (remoteGet m k).toNat + 256 * remoteRead m (k + 1) n

/-- The number under which the poison of a word of another module is kept, above every word of this one (R339). -/
def remoteTag (k : Nat) : Nat := 2 ^ 60 + k / 8

/-- The word of another module that holds a byte, and its poison (R339). DESIGN CHOICE, log 11. -/
def remoteWord (m : MemSys) (k : Nat) : W64 × Bool :=
  (BitVec.ofNat 64 (remoteRead m (k / 8 * 8) 8), m.poison.contains (remoteTag k))

/-- Whether some scale-up port is live, so that requests to other modules are answered (R353). -/
def linkUp (s : State) : Bool := s.md.ports != 0

/-! ## Walks (R122) -/

/-- Why a walk's read of a table failed: poison, no reply from another module (R333, R336), or a table where no device access
may go (R336). -/
inductive WalkErr where
  | poison | lost | denied
  deriving DecidableEq, Repr

/-- The cause that a failed walk gives the access that needed it (R336). -/
def WalkErr.cause (e : WalkErr) : BitVec 8 :=
  match e with
  | .poison => 0x0F
  | .lost => 0x14
  | .denied => 0x0E

/-- The entry at a table address as its home slice gives it, or its home on another module (R126, R336). A word that its owner
holds pending is read as its home has it: R126 lets an access use the old entry. DESIGN CHOICE, log 88. -/
def readPte (s : State) (part pa : Nat) : Except WalkErr W64 :=
  match placeOfPa s part pa with
  | some (.home q) => let x := coherentWord s.ms (q / 8); if x.2 then .error .poison else .ok x.1
  | some (.remote m a) =>
    let x := remoteWord s.ms (remoteKey m a)
    if !linkUp s then .error .lost else if x.2 then .error .poison else .ok x.1
  | some (.hostMem a) => let x := remoteWord s.ms (remoteKey 4096 a); if x.2 then .error .poison else .ok x.1
  | _ => .error .denied

/-- The outcome of a walk (R122): the leaf's entry, or none where there is no valid translation, with the first
address and size of what it covers, and the addresses of the entries it has read. -/
structure WalkOut where
  pte : Option W64
  base : Nat
  size : Nat
  reads : List Nat := []
  deriving DecidableEq, Repr

/-- A level-three entry, its contiguous group looked up through its first member (R124). -/
def walkLeaf3 (s : State) (part tbl va : Nat) (seen : List Nat) : Except WalkErr WalkOut := do
  let idx := bits va 16 13
  let a := tbl + 8 * idx
  let p ← readPte s part a
  let small : WalkOut := ⟨none, 2 ^ 16 * (va / 2 ^ 16), 2 ^ 16, a :: seen⟩
  if !pteV p || (pteBad 3 p && !pteCont p) then return small
  if pteCont p then
    let a1 := tbl + 8 * (idx / 32 * 32)
    let q ← readPte s part a1
    if !pteV q || !pteCont q || pteBad 3 q || ptePpn q % 32 != 0 then return { small with reads := a1 :: small.reads }
    return ⟨some q, 2 ^ 21 * (va / 2 ^ 21), 2 ^ 21, a1 :: small.reads⟩
  else return { small with pte := some p }

/-- The walk of R122 from a partition's translation root. -/
def walk (s : State) (part root va : Nat) : Except WalkErr WalkOut := do
  let a1 := root + 8 * bits va 42 13
  let small : List Nat → WalkOut := fun r => ⟨none, 2 ^ 16 * (va / 2 ^ 16), 2 ^ 16, r⟩
  let p1 ← readPte s part a1
  if !pteV p1 || pteBad 1 p1 then return small [a1]
  let a2 := 2 ^ 16 * ptePpn p1 + 8 * bits va 29 13
  let p2 ← readPte s part a2
  if !pteV p2 || pteBad 2 p2 then return small [a2, a1]
  if pteLeaf p2 then return ⟨some p2, 2 ^ 29 * (va / 2 ^ 29), 2 ^ 29, [a2, a1]⟩
  walkLeaf3 s part (2 ^ 16 * ptePpn p2) va [a2, a1]

/-! ## TLBs (R126) -/

/-- The entry of a TLB that covers an address of a partition. -/
def tlbFind (t : List TlbEntry) (part va : Nat) : Option TlbEntry :=
  t.find? (fun e => e.part == part && decide (e.base ≤ va) && decide (va < e.base + e.size))

/-- An entry put first in a TLB of n entries, the least recent leaving. DESIGN CHOICE, log 7. -/
def tlbPut (n : Nat) (t : List TlbEntry) (e : TlbEntry) : List TlbEntry := (e :: t.erase e).take n

/-- The translation in force for an address of a partition on a comb: a cached entry when one covers it, else a walk
(R122, R126). DESIGN CHOICE, log 7. -/
def lookup (s : State) (comb part va : Nat) : Except WalkErr TlbEntry :=
  match tlbFind (mget {} comb s.combs).tlb part va with
  | some e => .ok e
  | none =>
    match tlbFind (mget {} (dieOf comb) s.dies).tlb part va with
    | some e => .ok e
    | none =>
      match walk s part (partOf s part).root.toNat va with
      | .ok w => .ok { part := part, base := w.base, size := w.size, pte := w.pte,
                       pbase := match w.pte with | some p => 2 ^ 16 * ptePpn p | none => 0 }
      | .error x => .error x

/-- Whether a comb's or its die's TLB holds a translation of an address (R126). -/
def tlbHit (s : State) (comb part va : Nat) : Bool :=
  (tlbFind (mget {} comb s.combs).tlb part va).isSome || (tlbFind (mget {} (dieOf comb) s.dies).tlb part va).isSome

/-- The owners of the table entries that an access's walk reads write them back (R126, R143). -/
def walkRecall (s : State) (comb part va : Nat) : State :=
  if tlbHit s comb part va then s
  else match walk s part (partOf s part).root.toNat va with
    | .ok w => { s with ms := w.reads.foldl (fun m a => match placeOfPa s part a with | some (.home q) => recallWord m (q / 8) | _ => m) s.ms }
    | .error _ => s

/-- The comb's and the die's TLB after an access has used a translation, and the words its walk read (R126). -/
def tlbUse (s : State) (comb part va : Nat) : State :=
  let s := walkRecall s comb part va
  match lookup s comb part va with
  | .ok e =>
    let cb := mget {} comb s.combs
    let d := mget {} (dieOf comb) s.dies
    { s with combs := mput comb { cb with tlb := tlbPut Config.combTlbEntries cb.tlb e } s.combs,
             dies := mput (dieOf comb) { d with tlb := tlbPut Config.dieTlbEntries d.tlb e } s.dies }
  | .error _ => s

/-- A translated access: where it lies, its page mode and seal version, the physical address the page gives. -/
structure Trans where
  place : Place
  pa : Nat
  mode : Nat
  sver : Nat
  deriving DecidableEq, Repr

/-- The mode rules of R159: a page of normal or leased-remote mode reaching this module's own memory through its own
aperture behaves as normal; a normal page reaching another module, as uncached. A leased-remote page whose physical address is
HBM or the second tier itself, where R159 does not call that mode valid, is treated as normal too: DESIGN CHOICE, log 87. -/
def effMode (pl : Place) (mode : Nat) : Nat :=
  match pl with
  | .home _ => if mode == 2 then 0 else mode
  | .remote .. => if mode == 0 then 3 else mode
  | .hostMem _ => 3
  | .window .. => 3
  | .cfg _ => mode

/-- Whether another module refuses an access under its inbound windows (R353, R354). DESIGN CHOICE, log 11. -/
def refused (acc : Acc) (pl : Place) : Bool :=
  match pl with
  | .remote m a => Config.remoteRefuses (acc == .wr || acc == .rw) (remoteKey m a)
  | _ => false

/-- `Translate(va, acc)` for an address outside the scratch window (R121, R125): the place, or the fault code. Block
fetches from on-chip windows and the configuration range fault 0x0E (R85). -/
def translate (s : State) (comb part va : Nat) (acc : Acc) : Except (BitVec 8) Trans :=
  if va ≥ Config.vaLimit then .error acc.faultCode
  else match lookup s comb part va with
    | .error x => .error x.cause
    | .ok e =>
      match e.pte with
      | none => .error acc.faultCode
      | some p =>
        let okPerm := match acc with
          | .rd => pteRd p
          | .wr => pteW p && pteMode p != 1
          | .rw => pteRd p && pteW p && pteMode p != 1
          | .fetch => pteX p
        if !okPerm then .error 0x0E
        else
          let pa := e.pbase + (va - e.base)
          match placeOfPa s part pa with
          | none => .error 0x0E
          | some pl =>
            if refused acc pl then .error 0x0E
            else match acc, pl with
            | .fetch, .window .. => .error 0x0E
            | .fetch, .cfg _ => .error 0x0E
            | _, _ => .ok { place := pl, pa := match pl with | .home q => q | _ => pa,
                            mode := effMode pl (pteMode p), sver := pteSver p }

/-- Bytes of a range of addresses cut at 8-byte word boundaries: address and length (R155). -/
def wordPieces (va : Nat) : Nat → List (Nat × Nat)
  | 0 => []
  | n + 1 => match wordPieces (va + 1) n with
    | (a, k) :: r => if va / 8 == a / 8 then (va, k + 1) :: r else (va, 1) :: (a, k) :: r
    | [] => [(va, 1)]

/-- Bytes of a range cut at 64 KiB page boundaries. -/
def pagePieces (va n : Nat) : Nat → List (Nat × Nat)
  | 0 => []
  | fuel + 1 =>
    if n == 0 then []
    else
      let k := min n (2 ^ 16 - va % 2 ^ 16)
      (va, k) :: pagePieces (va + k) (n - k) fuel

/-- Whether an address lies in the scratch window (R127). -/
def inScratch (va : Nat) : Bool := decide (Config.scratchBase ≤ va) && decide (va < Config.scratchEnd)

/-! ## Access by the device on its own behalf (R336) -/

/-- A read or write of the device's own for a partition, translated, or the cause of its failure. A request to another module
gets no reply while no port is live (R333, R336). DEDUCED, log 30; DESIGN CHOICE, log 88. -/
def devTrans (s : State) (part va : Nat) (acc : Acc) : Except (BitVec 8) Trans :=
  if inScratch va then .error 0x09
  else match translate s (128 * (partOf s part).ddie) part va acc with
  | .error c => .error c
  | .ok t =>
    match t.place with
    | .window .. => .error 0x0E
    | .cfg _ => .error 0x0E
    | .remote .. => if linkUp s then .ok t else .error 0x14
    | _ => .ok t

/-- The place of the device's own access, or the cause of its failure (R336). -/
def devAddr (s : State) (part va : Nat) (acc : Acc) : Except (BitVec 8) Place :=
  match devTrans s part va acc with
  | .error c => .error c
  | .ok t => .ok t.place

/-- The home words that a read of the device's own reaches, with their addresses. -/
def devHomesAt (s : State) (part va n : Nat) : List (Nat × Nat) :=
  (upTo ((va % 8 + n + 7) / 8)).filterMap (fun k =>
    match devAddr s part (va / 8 * 8 + 8 * k) .rd with
    | .ok (.home pa) => some (va / 8 * 8 + 8 * k, pa / 8)
    | _ => none)

/-- The home words that a read of the device's own reaches. -/
def devHomes (s : State) (part va n : Nat) : List Nat := (devHomesAt s part va n).map (·.2)

/-- Whether a read of the device's own waits: a word's owner withholds it (R146). -/
def devHeld (s : State) (part va n : Nat) : Bool := (devHomes s part va n).any (withheld s.ms)

/-- The owners of the words that the device has read write them back (R143). -/
def devSeen (s : State) (part va n : Nat) : State :=
  let s := walkRecall s (128 * (partOf s part).ddie) part va
  { s with ms := (devHomes s part va n).foldl recallWord s.ms }

/-- Bytes written to another module; a whole word written is clear of poison (R339). DESIGN CHOICE, log 11. -/
def remoteWrite (m : MemSys) (k n d : Nat) : MemSys :=
  { m with remote := (upTo n).foldl (fun r j => mput (k + j) (BitVec.ofNat 8 (d >>> (8 * j))) r) m.remote
           poison := if n == 8 && k % 8 == 0 then serase (remoteTag k) m.poison else m.poison }

/-- `n` bytes within one page for the device itself: data or the cause (poison is 0x0F). DEDUCED, log 20. -/
def devReadIn (s : State) (part va n : Nat) : Except (BitVec 8 × Nat) Nat :=
  match devAddr s part va .rd with
  | .error c => .error (c, va)
  | .ok pl =>
    match pl with
    | .home pa =>
      let r := coherentRead s.ms pa n
      if r.2 then .error (0x0F, va) else .ok r.1
    | .remote md a =>
      if (remoteWord s.ms (remoteKey md a)).2 then .error (0x0F, va) else .ok (remoteRead s.ms (remoteKey md a) n)
    | .hostMem a =>
      if (remoteWord s.ms (remoteKey 4096 a)).2 then .error (0x0F, va) else .ok (remoteRead s.ms (remoteKey 4096 a) n)
    | _ => .error (0x0E, va)

/-- `n` 64-bit words of the device's own read, word by word (R336). -/
def devWords (s : State) (part va : Nat) : Nat → Except (BitVec 8 × Nat) (List W64)
  | 0 => .ok []
  | n + 1 =>
    match devReadIn s part va 8 with
    | .error x => .error x
    | .ok d =>
      match devWords s part (va + 8) n with
      | .error x => .error x
      | .ok r => .ok (BitVec.ofNat 64 d :: r)

/-- A write of at most 8 bytes within a word for the device itself, registered as any agent's (R336). -/
def devWrite (s : State) (part va n d : Nat) : Except (BitVec 8 × Nat) State :=
  match devTrans s part va .wr with
  | .error c => .error (c, va)
  | .ok t =>
    match t.place with
    | .home pa =>
      let sh := pa % 8
      let x : W64 := BitVec.ofNat 64 (d * 2 ^ (8 * sh))
      let mask : Byte := BitVec.ofNat 8 ((2 ^ n - 1) * 2 ^ sh)
      .ok { s with ms := (if t.mode == 3 then uncachedWrite else homeWrite) s.ms (pa / 8) x mask false }
    | .remote md a => .ok { s with ms := remoteWrite s.ms (remoteKey md a) n d }
    | .hostMem a => .ok { s with ms := remoteWrite s.ms (remoteKey 4096 a) n d }
    | _ => .error (0x0E, va)

/-- Words written by the device itself from an address on. -/
def devWriteWords (s : State) (part va : Nat) : List W64 → Except (BitVec 8 × Nat) State
  | [] => .ok s
  | d :: r =>
    match devWrite s part va 8 d.toNat with
    | .error x => .error x
    | .ok s' => devWriteWords s' part (va + 8) r

/-! ## The host's lines (R150, R346) -/

/-- The 64-byte line of a word. -/
def lineOf (w : Nat) : Nat := w / 8

/-- Whether a slice tracks a line as held by the host (R346). DEDUCED, log 17. -/
def hostHas (m : MemSys) (line : Nat) : Bool := (mget [] (homeSlice (64 * line)) m.hostLines).contains line

/-- A snoop sent for a line (R346). DEDUCED, log 17. -/
def snoopLine (m : MemSys) (line : Nat) : MemSys := { m with snoops := sinsert line m.snoops }

/-- Whether a slice has room to track a line: the line, or a free entry (R346). -/
def trackRoom (m : MemSys) (line : Nat) : Bool :=
  hostHas m line || decide ((mget [] (homeSlice (64 * line)) m.hostLines).length < Config.hostLines)

/-- The line that a full slice back-invalidates for another: the one tracked longest that has no snoop unanswered (R346).
DEDUCED, log 17. -/
def lineToSnoop (m : MemSys) (line : Nat) : Option Nat :=
  (mget [] (homeSlice (64 * line)) m.hostLines).find? (fun l => !m.snoops.contains l)

/-- A line tracked for the host, where its slice has room (R346). DEDUCED, log 17. -/
def trackLine (m : MemSys) (line : Nat) : MemSys :=
  let key := homeSlice (64 * line)
  if hostHas m line || !trackRoom m line then m
  else { m with hostLines := mput key (mget [] key m.hostLines ++ [line]) m.hostLines }

/-- A line the host holds no longer. -/
def untrackLine (m : MemSys) (line : Nat) : MemSys :=
  { m with hostLines := mmod [] (homeSlice (64 * line)) (fun l => l.filter (· != line)) m.hostLines
           snoops := serase line m.snoops }

/-! ## Leases (R161) -/

/-- Whether a word's region has leases in force at its home, the guard band included (R161). Words of other modules go by the
numbers of `remoteTag`. -/
def leased (s : State) (w : Nat) : Bool :=
  match mfind (w / 64) s.ms.leases with
  | some t => decide (s.gtime ≤ t + Config.guardNs)
  | none => false

/-- When every lease on a word's region will have ended, the guard band included (R161). -/
def leaseEnd (s : State) (w : Nat) : Nat := mget 0 (w / 64) s.ms.leases + Config.guardNs

/-- Whether a delayed write waits at a word's region, and its readers with it (R161). -/
def delayedAt (s : State) (w : Nat) : Bool := s.ms.delayed.any (fun d => d.2.region == w / 64)

/-- Whether a write to a byte of another module must wait: no port is live, or the home has leases of its region out to this
module (R161, R353). -/
def remoteBusy (s : State) (key : Nat) : Bool := (decide (key < remoteKey 4096 0) && !linkUp s) || leased s (remoteTag key)

/-- A lease's length in ns that another module gives: from 2 µs to 1 ms, which this module does not choose. DEDUCED, log 12. -/
def leaseLength (k : Nat) : Nat := 2000 + (Config.freeWord k).toNat % 998001

/-- A lease of a region of another module kept with those that its home's writes wait for (R161). -/
def holdLease (m : MemSys) (key expiry : Nat) : MemSys := { m with leases := mmod 0 (remoteTag key / 64) (max expiry) m.leases }

/-! ## A word that must wait -/

/-- Whether the host owns a word whose line it holds: a reader waits for its response (R143, R346). -/
def hostOwns (m : MemSys) (w : Nat) : Bool := mfind w m.owners == some .host && hostHas m (lineOf w)

/-- Whether a read of a word at its home must wait. DEDUCED, log 16. -/
def readBusy (s : State) (w : Nat) : Bool := withheld s.ms w || hostOwns s.ms w || delayedAt s w

/-- Whether a write of a word at its home by an agent without a copy must wait: its owner withholds it, the host holds
its line, or a lease is in force (R146, R161, R346). -/
def homeBusy (s : State) (w : Nat) : Bool := withheld s.ms w || hostHas s.ms (lineOf w) || leased s w

/-- Snoops sent for the lines of words to be written that the host holds (R346). -/
def snoopWords (s : State) (ws : List Nat) : State :=
  { s with ms := ws.foldl (fun m w => if hostHas m (lineOf w) then snoopLine m (lineOf w) else m) s.ms }

end Sys2Proof.Machine
end

