-- ==== Sys2Proof/Machine/Ops.lean ====
section
/-! DEFINITION. The shared operations: contexts and blocks, the captured operands, tokens, faults, registers in
flight, discards, taking a trap and returning from one, acquires, time, interrupts and fault records. -/

namespace Sys2Proof.Machine

/-- A next state. -/
abbrev Out := Host.Outcome State Fault Refusal

/-! ## Contexts, blocks and nodes -/

/-- A context slot. DESIGN CHOICE, log 5. -/
def ctxOf (s : State) (c : Nat) : Ctx := mget {} c s.ctxs
/-- A context slot replaced. -/
def setCtx (s : State) (c : Nat) (x : Ctx) : State := { s with ctxs := mput c x s.ctxs }
/-- A context slot changed. -/
def modCtx (s : State) (c : Nat) (f : Ctx → Ctx) : State := setCtx s c (f (ctxOf s c))
/-- The block of a context with a tag. -/
def blockOf (x : Ctx) (tag : Nat) : Option Block := x.blocks.find? (fun b => b.tag == tag)
/-- The block of a context with a tag changed. -/
def modBlock (s : State) (c tag : Nat) (f : Block → Block) : State :=
  modCtx s c (fun x => { x with blocks := x.blocks.map (fun b => if b.tag == tag then f b else b) })
/-- A node of a block. -/
def nodeOf (b : Block) (idx : Nat) : Node := mget {} idx b.nodes
/-- A node of a block changed. -/
def modNode (b : Block) (idx : Nat) (f : Node → Node) : Block := { b with nodes := mmod {} idx f b.nodes }
/-- The progress of the issued instruction recorded. -/
def setSt (s : State) (i : Issue) (st : NodeSt) : State :=
  modBlock s i.ctx i.tag (fun b => modNode b i.idx (fun n => { n with st := st }))
/-- The launch of a number. -/
def launchOf (s : State) (l : Nat) : Launch :=
  mget ⟨0, 0, 0, [], [], 0, 0, 0, 0, false, 0, 0, 0, 0, 0, 0, 0, [], [], [], [], [], [], false, false, false, false⟩ l s.launches
/-- A launch changed. -/
def modLaunch (s : State) (l : Nat) (f : Launch → Launch) : State := { s with launches := mput l (f (launchOf s l)) s.launches }
/-- A partition changed. -/
def modPart (s : State) (p : Nat) (f : Partition → Partition) : State := { s with parts := mput p (f (partOf s p)) s.parts }
/-- A queue of a partition. -/
def queueOf (s : State) (p q : Nat) : Queue := mget {} q (partOf s p).queues
/-- Whether the module runs. DESIGN CHOICE, log 11. -/
def isUp (s : State) : Bool := s.md.power == .running
/-- A queue changed. -/
def modQueue (s : State) (p q : Nat) (f : Queue → Queue) : State :=
  modPart s p (fun x => { x with queues := mput q (f (mget {} q x.queues)) x.queues })
/-- The kernel header of a context's task (R27). -/
def kernelOf (s : State) (x : Ctx) : List W64 :=
  match x.task with
  | some t => (launchOf s t.launch).hdr
  | none => []
/-- What GETS reads of the block boundary that a context stands at (R178). -/
def boundNow (s : State) (x : Ctx) : Bound := ⟨x.sqc, x.touched, (partOf s x.part).tvec⟩
/-- The block boundary noted of a context in use: what GETS of the next block reads (R178). -/
def markBound (s : State) (c : Nat) : State :=
  modCtx s c (fun x => if x.phase == .free then x else { x with bound := some (boundNow s x) })
/-- A fresh message number. -/
def bumpSeq (s : State) : State := { s with seq := s.seq + 1 }
/-- A free value's counter advanced. -/
def bumpFresh (s : State) : State := { s with fresh := s.fresh + 1 }
/-- Handler mode (R322). -/
def inHandler (x : Ctx) : Bool := x.trap.hm
/-- Whether a block is the oldest of its context. -/
def isOldest (x : Ctx) (tag : Nat) : Bool := (x.blocks.head?.map (·.tag)) == some tag
/-- The blocks of a context older than a tag, oldest first. -/
def olderThan (x : Ctx) (tag : Nat) : List Block := x.blocks.takeWhile (fun b => b.tag != tag)
/-- The blocks of a context younger than a tag, oldest first. -/
def youngerThan (x : Ctx) (tag : Nat) : List Block := (x.blocks.dropWhile (fun b => b.tag != tag)).drop 1

/-! ## Tokens (R35, R94, R120, R169) -/

/-- The place of an instruction of a context's block (R36, R37). -/
def instrPlace (x : Ctx) (c : Nat) (b : Block) (idx : Nat) : Nat × Nat := placeOf (homeOf c) x.k idx (instrAt b.words idx)

/-- `Deliver(f, t)` after `lat` cc and the hops of its way (R120, R35). DEDUCED, log 15. -/
def deliver (s : State) (i : Issue) (lat : Nat) (t : Target) (tok : Token) : State :=
  match t with
  | .none => s
  | .slot k idx =>
    let x := ctxOf s i.ctx
    match blockOf x i.tag with
    | none => s
    | some b =>
      let due := s.cycles + lat + hopCost (instrPlace x i.ctx b i.idx) (instrPlace x i.ctx b idx.toNat)
      bumpSeq { s with net := mput s.seq ⟨i.ctx, i.tag, k, idx.toNat, tok, due, i.idx, s.cycles + lat⟩ s.net }

/-- One token delivered to each target in order (R169). DEDUCED, log 15. -/
def emitTo (s : State) (i : Issue) (lat : Nat) (ts : List Target) (tok : Token) : State :=
  ts.foldl (fun s t => deliver s i lat t tok) s

/-- The instruction ends with its result emitted. -/
def finish (s : State) (i : Issue) (lat : Nat) (ts : List Target) (tok : Token) : State :=
  setSt (emitTo s i lat ts tok) i .done

/-- `Fault(c, v)` (R110, R120): recorded against the instruction, which emits nothing. Of two faults of one instruction the
later record stands; the spec names no order. DESIGN CHOICE, log 82. -/
def recordFault (s : State) (i : Issue) (cause : BitVec 8) (v : W64) : State :=
  setSt (modBlock s i.ctx i.tag (fun b => { b with faults := mput i.idx (cause, v) b.faults })) i .done

/-- Operand of the wrong kind (R90, R120). -/
def kindFault (s : State) (i : Issue) : State := recordFault s i 0x04 0

/-- Whether a predicate token lets an instruction fire (R91): none for a V token, which faults. -/
def prMatch (p : Pr) (t : Option Token) : Option Bool :=
  match p, t with
  | .always, _ => some true
  | .ifZero, some (.s v) => some (v == 0)
  | .ifNonzero, some (.s v) => some (v != 0)
  | _, some (.v _ _) => none
  | _, some .n => some false
  | _, none => some false

/-- The meaning of an issued word (R89): the latch is taken, and the block it came from is found. DEDUCED, log 56. -/
def withIssue (s : State) (k : Issue → Ctx → Block → State → State) : Out :=
  match s.issue with
  | none => .fault .noIssue
  | some i =>
    match blockOf (ctxOf s i.ctx) i.tag with
    | none => .fault .noIssue
    | some b => .next (k i (ctxOf s i.ctx) b { s with issue := none })

/-- An instruction that uses no data slot, under its predicate (R91). -/
def fire0 (p : Pr) (s : State) (k : Issue → Ctx → Block → State → State) : Out :=
  withIssue s (fun i x b s =>
    match prMatch p i.third with
    | none => kindFault s i
    | some false => setSt s i .resolved
    | some true => k i x b s)

/-- An N token emitted for an instruction with an N data operand, 1 cc after its last operand (R92, R170). -/
def emitNull (s : State) (i : Issue) (ts : List Target) : State := finish s i 1 ts .n

/-- One data operand, N apart (R91, R92). `nul` says what an N operand does. -/
def fire1 (p : Pr) (s : State) (nul : Issue → State → State) (k : Issue → Ctx → Block → Token → State → State) : Out :=
  fire0 p s (fun i x b s =>
    match i.left with
    | some .n => nul i s
    | some t => k i x b t s
    | none => setSt s i .waiting)

/-- Two data operands, N apart (R91, R92). -/
def fire2 (p : Pr) (s : State) (nul : Issue → State → State)
    (k : Issue → Ctx → Block → Token → Token → State → State) : Out :=
  fire0 p s (fun i x b s =>
    match i.left, i.right with
    | some .n, some _ => nul i s
    | some _, some .n => nul i s
    | some t, some u => k i x b t u s
    | _, _ => setSt s i .waiting)

/-- Three data operands, N apart (R89, R92). -/
def fire3 (s : State) (nul : Issue → State → State)
    (k : Issue → Ctx → Block → Token → Token → Token → State → State) : Out :=
  withIssue s (fun i x b s =>
    match i.left, i.right, i.third with
    | some t, some u, some w => if t == .n || u == .n || w == .n then nul i s else k i x b t u w s
    | _, _, _ => setSt s i .waiting)

/-- What an N operand does to an instruction that emits: N to every target (R92). -/
def nullTo (ts : List Target) : Issue → State → State := fun i s => emitNull s i ts

/-! ## Shapes shared by many instructions -/

/-- A scalar instruction of one S operand (R168). -/
def scalar1 (p : Pr) (lat : Nat) (ts : List Target) (f : W64 → W64) (s : State) : Out :=
  fire1 p s (nullTo ts) (fun i _ _ t s =>
    match t with
    | .s a => finish s i lat ts (.s (f a))
    | _ => kindFault s i)

/-- A scalar instruction of two S operands with its latency by their values (R168). -/
def scalar2l (p : Pr) (lat : W64 → W64 → Nat) (ts : List Target) (f : W64 → W64 → W64) (s : State) : Out :=
  fire2 p s (nullTo ts) (fun i _ _ t u s =>
    match t, u with
    | .s a, .s b => finish s i (lat a b) ts (.s (f a b))
    | _, _ => kindFault s i)

/-- A scalar instruction of two S operands (R168). -/
def scalar2 (p : Pr) (lat : Nat) (ts : List Target) (f : W64 → W64 → W64) (s : State) : Out :=
  scalar2l p (fun _ _ => lat) ts f s

/-- A vector instruction of one V operand (R168, R195). -/
def vector1 (p : Pr) (lat : Nat) (ts : List Target) (f : Lanes → Mask → Token) (s : State) : Out :=
  fire1 p s (nullTo ts) (fun i _ _ t s =>
    match t with
    | .v l m => finish s i lat ts (f l m)
    | _ => kindFault s i)

/-- A vector instruction of two V operands (R168, R195). -/
def vector2 (p : Pr) (lat : Nat) (ts : List Target) (f : Lanes → Mask → Lanes → Mask → Token) (s : State) : Out :=
  fire2 p s (nullTo ts) (fun i _ _ t u s =>
    match t, u with
    | .v l m, .v l' m' => finish s i lat ts (f l m l' m')
    | _, _ => kindFault s i)

/-- A vector instruction of three V operands (R168, R195). -/
def vector3 (lat : Nat) (ts : List Target) (f : Lanes → Mask → Lanes → Mask → Lanes → Mask → Token) (s : State) : Out :=
  fire3 s (nullTo ts) (fun i _ _ t u w s =>
    match t, u, w with
    | .v l m, .v l' m', .v l'' m'' => finish s i lat ts (f l m l' m' l'' m'')
    | _, _, _ => kindFault s i)

/-! ## Registers in flight (R106, R181) -/

/-- What RD of a register finds: not yet, a token, or a poisoned register. -/
inductive RegRead where
  | wait
  | tok (t : Token)
  | poison (a : W64)
  deriving DecidableEq, Repr

/-- The register file's content (R88, R228). -/
def regRead (x : Ctx) (n : Nat) : RegRead :=
  match mget (.s 0) n x.regs with
  | .s v => .tok (.s v)
  | .v l m => .tok (.v l m)
  | .reply _ _ => .wait
  | .poisoned a => .poison a

/-- Whether a block's write of a register is one that only its commit gives: a register form (R95). -/
def regFormIn (b : Block) (n : Nat) : Bool :=
  (instrsOf b).any (fun p => match regDestOf p.2 with | .reg r => r.toNat == n | .none => false)

/-- The register as the blocks given (youngest first) leave it, then the register file (R106). -/
def readThrough (x : Ctx) (n : Nat) : List Block → RegRead
  | [] => regRead x n
  | b :: r =>
    let calls := n == 62 && (instrsOf b).any (fun p => isCall p.2)
    let link := b.exits.findSome? (fun e => match e.2 with | .call _ l => some l | _ => none)
    if calls && b.exits.isEmpty then .wait
    else if let (true, some l) := (calls, link) then .tok (.s l)
    else if (wmaskOf b.hdr).testBit n then
      match mfind n b.wr with
      | some .n => readThrough x n r
      | some t => .tok t
      | none => .wait
    else readThrough x n r

/-- `ReadReg(n)` for a block of a context (R106, R120). -/
def readReg (x : Ctx) (tag n : Nat) : RegRead := readThrough x n (olderThan x tag).reverse

/-! ## Discards (R105, R110, R112) -/

/-- Messages of the blocks of a context with given tags cancelled (R221, R231, R280). -/
def cancelBlocks (s : State) (c : Nat) (tags : List Nat) : State :=
  let mine : Nat → Nat → Bool := fun c' t => c' == c && tags.contains t
  let gone := s.ms.loads.filter (fun p => mine p.2.ctx p.2.tag)
  { s with
    net := s.net.filter (fun p => !mine p.2.ctx p.2.tag)
    jobs := s.jobs.map (fun p => (p.1, p.2.filter (fun j => !mine j.ctx j.tag)))
    ms := { s.ms with
      loads := s.ms.loads.filter (fun p => !mine p.2.ctx p.2.tag)
      watches := s.ms.watches.filter (fun w => !gone.any (fun p => p.1 == w.2.req)) } }

/-- The fault word that WAITBs of discarded blocks have taken from their context given back: a WAITB executed again returns it
(R110, R246). -/
def giveBack (gone : List Block) (x : Ctx) : Ctx :=
  { x with batFault := match gone.find? (fun b => b.taken != 0) with
    | some b => b.taken
    | none => x.batFault }

/-- Every block of a context from position n on discarded, each counting in SQC (R112), and a fetch under way given up. -/
def discardFrom (s : State) (c n : Nat) : State :=
  let x := ctxOf s c
  let gone := x.blocks.drop n
  let s := cancelBlocks s c (gone.map (·.tag))
  modCtx s c (fun x => { giveBack gone x with
    blocks := x.blocks.take n, sqc := x.sqc + BitVec.ofNat 64 gone.length, fetch := none
    xlat := if n == 0 then none else x.xlat })

/-- The block with a tag and every younger one discarded. -/
def discardAt (s : State) (c tag : Nat) : State := discardFrom s c (olderThan (ctxOf s c) tag).length

/-- Blocks younger than a tag discarded. -/
def discardYounger (s : State) (c tag : Nat) : State := discardFrom s c ((olderThan (ctxOf s c) tag).length + 1)

/-! ## Decisions and fault records (R303, R334) -/

/-- A decision requested (R303): dispatch requests combine, and the checks of R314 are due. -/
def requestDecision (s : State) (p : Nat) (d : Decision) : State :=
  modPart s p (fun x => if d == .dispatch && x.decisions.contains .dispatch then x
    else { x with decisions := x.decisions ++ [d], checkAt := 0 })

/-- A byte of a partition's MSI-X table (R342, R351): an entry's mask bit is set until it is cleared.
DESIGN CHOICE, log 4; PRESUMED, log 32. -/
def msixByte (s : State) (p off : Nat) : Byte :=
  mget (if off < 0x8000 && off % 16 == 12 then 1 else 0) (65536 * p + off) s.msix

/-- An MSI-X message sent, or the pending bit of a masked entry set (R351). The pending-bit array lies at offset 0x8000
of the table's 64 KiB. PRESUMED, log 32. -/
def raiseIrq (s : State) (p vec : Nat) : State :=
  if (msixByte s p (16 * vec + 12)).getLsbD 0 then
    let k := 0x8000 + vec / 8
    { s with msix := mput (65536 * p + k) (msixByte s p k ||| BitVec.ofNat 8 (2 ^ (vec % 8))) s.msix }
  else { s with irqs := s.irqs ++ [(p, vec)] }

/-- The fields of a fault record (R334). DESIGN CHOICE, log 40. -/
structure FaultRec where
  kind : Nat
  cause : Nat := 0
  action : Option Nat := none
  ctx : Nat := 0xFFF
  tval : Nat := 0
  tepc : Nat := 0
  cause2 : Nat := 0
  tidx : Nat := 0
  tval2 : Nat := 0
  task : Nat := 0xFFFFFFFFFFFFFFFF
  index : Nat := 0
  queue : Nat := 0
  deriving DecidableEq, Repr

/-- The eight words of a fault record (R334). ACTION is 0xFF in kinds 5 and 8 (R370); in another record with which no fault
action goes it is a free value. DESIGN CHOICE, log 40. -/
def recordWords (s : State) (r : FaultRec) : List W64 :=
  ([2 ^ 56 * r.kind + 2 ^ 48 * r.cause + 2 ^ 40 * r.action.getD (Config.freeByte s.fresh).toNat + r.ctx, r.tval, r.tepc, 2 ^ 40 * r.cause2 + r.tidx, r.tval2,
    r.task, 2 ^ 32 * r.index + r.queue, s.gtime] : List Nat).map (BitVec.ofNat 64)

/-- How far one 32-bit packet or record number is ahead of another (R290, R336). -/
def ringDist (a b : Nat) : Nat := if b ≤ a then a - b else a + 2 ^ 32 - b

/-- Words under leases that a message of a number is to write: their regions' readers wait from now on (R161). -/
def delayFor (s : State) (msg : Nat) (ws : List Nat) : State :=
  (ws.filter (leased s)).foldl (fun s w =>
    if s.ms.delayed.any (fun d => d.2.region == w / 64 && d.2.msg == msg) then s
    else bumpSeq { s with ms := { s.ms with delayed := mput s.seq ⟨w / 64, leaseEnd s w, msg⟩ s.ms.delayed } }) s

/-- What a message that has been performed no longer waits for (R161). -/
def undelay (m : MemSys) (n : Nat) : MemSys := { m with delayed := m.delayed.filter (fun d => d.2.msg != n) }

/-- The number under which a partition's fault records wait for leases: above every message's and below every packet's. -/
def recordMsg (p : Nat) : Nat := 2 ^ 95 + p

/-- The words at their homes that the device is to write at some addresses of a partition; words of other modules by their
`remoteTag` (R161, R336). -/
def writeHomes (s : State) (p : Nat) (vas : List Nat) : List Nat :=
  vas.filterMap (fun va => match devAddr s p va .wr with
    | .ok (.home pa) => some (pa / 8)
    | .ok (.remote m a) => some (remoteTag (remoteKey m a))
    | _ => none)

/-- The address of a partition's next fault record (R334). -/
def recordSlot (x : Partition) : Nat := x.fqbase.toNat + 64 * (x.fqwr % 2 ^ x.fqlog2)

/-- A fault record lost (R334). -/
def loseRecord (s : State) (p : Nat) : State := modPart s p (fun x => { x with lost := true, plost := x.plost + 1 })

/-- A record's words written to the partition's ring, or lost (R334, R336). DEDUCED, log 41, 49. -/
def writeRecord (s : State) (p : Nat) (ws : List W64) : State :=
  let x := partOf s p
  if !x.fqen || ringDist x.fqwr x.fqrd == 2 ^ x.fqlog2 then loseRecord s p
  else match devWriteWords s p (recordSlot x) ws with
    | .error _ => loseRecord s p
    | .ok s => raiseIrq (modPart s p (fun x => { x with fqwr := (x.fqwr + 1) % 2 ^ 32 })) p x.fqvec

/-- The words of a partition's next record whose lines the host holds or whose regions are leased: they are snooped, and the leases
run out, before it is written (R161, R346). DEDUCED, log 41. -/
def recordWaits (s : State) (p : Nat) : List Nat :=
  let a := recordSlot (partOf s p)
  (writeHomes s p ((upTo 8).map (fun k => a + 8 * k))).filter (fun w => hostHas s.ms (lineOf w) || leased s w)

/-- The records that wait written in their order, as far as they can be (R161, R346). -/
def drainRecords (s : State) (p : Nat) : Nat → State
  | 0 => s
  | n + 1 =>
    match (partOf s p).records with
    | [] => s
    | ws :: rest =>
      let wait := recordWaits s p
      if !(partOf s p).fqen || wait.isEmpty then
        let t := { s with ms := undelay s.ms (recordMsg p) }
        drainRecords (writeRecord (modPart t p (fun x => { x with records := rest })) p ws) p n
      else delayFor (snoopWords s wait) (recordMsg p) wait

/-- A fault record made: written to the partition's ring at once where its place is free to be written, behind those that wait, or
lost (R334, R336, R346). DEDUCED, log 41, 49. -/
def faultRecord (s : State) (p : Nat) (r : FaultRec) : State :=
  let x := partOf s p
  let ws := recordWords s r
  if !x.fqen || ringDist x.fqwr x.fqrd + x.records.length == 2 ^ x.fqlog2 then loseRecord s p
  else
    let s := modPart (bumpFresh s) p (fun x => { x with records := x.records ++ [ws] })
    drainRecords s p (x.records.length + 1)

/-- Every partition's waiting records tried again (R161, R346). -/
def drainAll (s : State) : State := s.parts.foldl (fun s p => drainRecords s p.1 p.2.records.length) s

/-- A record of kind 10: a failure of the device's own access (R336). DEDUCED, log 41. -/
def deviceFault (s : State) (p : Nat) (e : BitVec 8 × Nat) (index queue : Nat) : State :=
  faultRecord s p { kind := 10, cause := e.1.toNat, tval := e.2, index := index, queue := queue }

/-- A record about a context's task; a double fault's has cause 0x17 (R323). DEDUCED, log 41. -/
def taskRecord (s : State) (c kind : Nat) (action : Option Nat) : State :=
  let x := ctxOf s c
  let l := x.task.map (fun t => launchOf s t.launch)
  faultRecord s x.part
    { kind := kind, cause := if kind == 3 then 0x17 else x.trap.cause.toNat, action := action, ctx := c, tval := x.trap.tval.toNat,
      tepc := x.trap.tepc.toNat, cause2 := x.trap.cause2.toNat, tidx := x.trap.tidx.toNat, tval2 := x.trap.tval2.toNat,
      task := (x.task.map (·.id)).getD 0xFFFFFFFFFFFFFFFF, index := (l.map (·.idx)).getD 0, queue := (l.map (·.queue)).getD 0 }

/-! ## Taking a trap, and returning from one (R110, R325, R328, R174) -/

/-- The trap registers after a trap: frozen but for TCAUSE2, TVAL2 and DF at a double fault (R325, R328). -/
def trapRegs (t : TrapRegs) (cause : BitVec 8) (tval : W64) (tepc : W64) (tidx : Nat) : TrapRegs :=
  if t.hm && !t.trd then { t with cause2 := cause, tval2 := tval, df := true }
  else { t with inh := t.hm, cause := cause, tval := tval, tepc := tepc, tidx := BitVec.ofNat 10 tidx }

/-- A trap taken by a context (R110, R325): every block in flight is discarded with no effect, the trap registers are
written or a double fault is recognised, and the context waits for its fault decision. -/
def takeTrap (s : State) (c : Nat) (cause : BitVec 8) (tval tepc : W64) (tidx : Nat) : State :=
  let s := discardFrom s c 0
  let x := ctxOf s c
  let dbl := x.trap.hm && !x.trap.trd
  let s := setCtx s c { x with trap := trapRegs x.trap cause tval tepc tidx, phase := .deciding, growth := none, stalled := false }
  requestDecision s x.part (.fault c dbl)

/-- The return from a trap: task mode, at the block TEPC names (R174). -/
def trapReturn (x : Ctx) : Ctx := { x with trap := { x.trap with hm := false }, next := x.trap.tepc }

/-- Entry of the trap handler (R326, R327): HM := 1, TRD := 0 and the next block is VEC. -/
def enterHandler (x : Ctx) (vec : W64) : Ctx :=
  { x with trap := { x.trap with hm := true, trd := false }, next := vec, phase := .running }

/-! ## Acquires (R145) -/

/-- Whether a leased word may still be used (R162). -/
def leaseLive (s : State) (sp : Span) : Bool :=
  s.md.healthy && decide (s.gtime < sp.lease) && sp.epoch == s.md.epoch.toNat

/-- Whether a page that a translation of a comb or its die covers is sealed under a span's version: its SVER matches (R145,
R160). DEDUCED, log 89. -/
def sealInForce (s : State) (part comb : Nat) (sp : Span) : Bool :=
  ((mget {} comb s.combs).tlb ++ (mget {} (dieOf comb) s.dies).tlb).any (fun e =>
    let base := match placeOfPa s part e.pbase with | some (.home q) => q | _ => e.pbase
    e.part == part && e.pte.any (fun p => pteMode p == 1 && pteSver p == sp.sver)
      && decide (base ≤ 512 * sp.region) && decide (512 * sp.region < base + e.size))

/-- What an acquire drops: words the comb does not own, except those of sealed spans whose version matches and of leased ones
in force (R145). -/
def acquireDrops (s : State) (part comb : Nat) (sp : Span) (c : CWord) : Bool :=
  !c.owned && !c.dirty && !(sp.sver != 0 && sealInForce s part comb sp) && !(sp.lease != 0 && leaseLive s sp)

/-- The self-invalidation of every member comb (R145). -/
def selfInval (s : State) (c : Nat) : State :=
  let x := ctxOf s c
  { s with ms := (membersOf c x.k).foldl (fun m comb => combDrop m comb (fun sp _ w => acquireDrops s x.part comb sp w)) s.ms }

/-- Whether the access of (tag, lsid) comes later in R101's order than an acquire: in a younger block, or in the
acquire's own block with an LSID from `lo` up. -/
def laterThan (x : Ctx) (tag lo tag' lsid' : Nat) : Bool :=
  if tag' == tag then decide (lo ≤ lsid') else (youngerThan x tag).any (fun b => b.tag == tag')

/-- A load that has executed performed again: its reply is compared with the value it delivered (R145). One that has no
translation any more gets no value: its block is discarded (R163). -/
def again (s : State) (c tag lsid : Nat) (l : LoadRec) (r : LoadReq) : State :=
  if (blockOf (ctxOf s c) tag).isNone then s
  else if r.gone then discardAt s c tag
  else
  let s1 := modBlock s c tag (fun b => { b with loads := mput lsid { l with finished := false } b.loads })
  let r1 : LoadReq := { r with got := [], recheck := some l.val, since := s.gtime, lease := 0, epoch := 0 }
  bumpSeq { s1 with ms := { s1.ms with loads := mput s.seq r1 s1.ms.loads } }

/-- An acquire completes (R145): the self-invalidation; later loads still outstanding fetch afresh, and those that have
executed are performed again. `tag` none: every load of the context is later. -/
def acquire (s : State) (c : Nat) (tag : Option Nat) (lo : Nat) : State :=
  let s := selfInval s c
  let x := ctxOf s c
  let later : Nat → Nat → Bool := fun t l => match tag with | none => true | some g => laterThan x g lo t l
  let fresh := s.ms.loads.map (fun p =>
    if p.2.ctx == c && later p.2.tag p.2.lsid && p.2.armed == none then (p.1, { p.2 with got := [] }) else p)
  let s := { s with ms := { s.ms with loads := fresh } }
  x.blocks.foldl (fun s b => b.loads.foldl (fun s l =>
    match l.2.finished && later b.tag l.1, l.2.req with
    | true, some r => if r.pieces.any (fun p => p.mode == 3) then s else again s c b.tag l.1 l.2 r
    | _, _ => s) s) s

/-! ## Time (R4, R257, R332, R367) -/

/-- Whether something holds a context's watchdog still (R332). -/
def heldStill (s : State) (c : Nat) (x : Ctx) : Bool :=
  x.phase != .running || x.stalled || x.blocks.isEmpty || x.fetch.isSome || x.blocks.any (fun b => decide (s.cycles < b.mappedAt))
  || s.ms.loads.any (fun p => p.2.ctx == c) || s.ms.amos.any (fun p => p.2.ctx == c)
  || s.ms.regs.any (fun p => p.2.ctx == c) || s.ms.uwrites.any (fun p => p.2.ctx == c) || s.ms.walks.any (fun p => p.2.ctx == some c)
  || s.ms.copies.any (fun p => p.2.who == .ctx c && !p.2.finished)
  || x.blocks.any (fun b => (instrsOf b).any (fun p =>
      (match p.2 with | .waitb .. => true | .join .. => true | _ => false)
      && (nodeOf b p.1).st == .held && isOldest x b.tag))

/-- A cell's weights from its occupancy over 1,024 cc (R53). DEDUCED, log 59. -/
def newWeights (sums : SMap Nat) : SMap Nat := (sums.map (fun p => (p.1, min 8 (1 + p.2 / 1024)))).filter (fun p => p.2 != 1)

/-- A cell whose 1,024 cc have ended: its weights recomputed, and its next sums begun (R53). -/
def recomputeWeights (k : Cell) : Cell := { k with weight := newWeights k.sums, sums := [], weightAt := k.weightAt + 1024 }

/-- The ready instructions of every context: the cell of each, its slot, and when it became ready (R52). -/
def readyAll (s : State) : List (Nat × Nat × Nat) :=
  (s.ctxs.map (fun p => (p.2.blocks.map (fun b => b.nodes.filterMap (fun n =>
    match n.2.st with
    | .ready since => let pl := instrPlace p.2 p.1 b n.1; some (16 * pl.1 + pl.2, slotOf p.1, since)
    | _ => none))).flatten)).flatten

/-- Samples of ready-queue occupancy of cycles `lo` to `hi - 1` added to sums, one for each instruction and cycle in which it
is ready (R53). -/
def addSamples (rs : List (Nat × Nat)) (lo hi : Nat) (sums : SMap Nat) : SMap Nat :=
  rs.foldl (fun m r => if max lo r.2 < hi then mmod 0 r.1 (· + (hi - max lo r.2)) m else m) sums

/-- A cell after time has passed from cycle `lo` to cycle `hi`: credit lost by contexts with no ready instruction (R52),
weights recomputed at every boundary of 1,024 cc passed, and its samples since the last one (R53). At `hi` itself
WEIGHT_RECOMPUTE recomputes them. DESIGN CHOICE, log 53. -/
def passCell (rs : List (Nat × Nat)) (lo hi : Nat) (k : Cell) : Cell :=
  let k := { k with credit := k.credit.filter (fun p => rs.any (fun r => r.1 == p.1)) }
  let n := (hi - 1 - k.weightAt) / 1024
  if n == 0 then { k with sums := addSamples rs lo hi k.sums }
  else
    let last := k.weightAt + 1024 * n
    let old := addSamples rs (max lo (last - 1024)) last (if n == 1 then k.sums else [])
    { k with weight := newWeights old, sums := addSamples rs last hi [], weightAt := last }

/-- The cells after some cc have passed. DEDUCED, log 15, 59. -/
def sampleReady (s : State) (cc : Nat) : SMap Cell :=
  let rs := readyAll s
  let keys := (rs.map (·.1)).foldl (fun l k => sinsert k l) (s.cells.map (·.1))
  keys.foldl (fun m key =>
    mput key (passCell ((rs.filter (fun r => r.1 == key)).map (·.2)) s.cycles (s.cycles + cc) (mget {} key s.cells)) m) s.cells

/-- Time advances: cc, global time at the clock in force unless its base has stopped, the watchdog counts, and
ready queues are sampled. DESIGN CHOICE, log 2, 53. -/
def advance (s : State) (cc : Nat) : State :=
  if cc == 0 then s
  else
    let t := s.gfrac + 1000 * cc
    let ctxs := s.ctxs.map (fun p => if heldStill s p.1 p.2 then p else (p.1, { p.2 with idle := p.2.idle + cc }))
    { s with cycles := s.cycles + cc
             gtime := if s.md.stopClock then s.gtime else s.gtime + t / s.md.clk
             gfrac := if s.md.stopClock then s.gfrac else t % s.md.clk
             ctxs := ctxs
             cells := sampleReady s cc }

/-- The cc until a global time is reached at the clock in force. DESIGN CHOICE, log 2. -/
def ccUntil (s : State) (t : Nat) : Nat := ((t - s.gtime) * s.md.clk + 999) / 1000

end Sys2Proof.Machine
end

