-- ==== Sys2Proof/Machine/NumFmt.lean ====
section
/-! DEFINITION. Number formats, exact values, rounding, conversion and the lane operations of integers and floats
(R55 to R73, R76, R77). -/

namespace Sys2Proof.Machine

/-! ## Exact values -/

/-- A value: NaN, an infinity, or (-1)^neg * m * 2^e; m = 0 is a signed zero. -/
inductive FVal where
  | nan
  | inf (neg : Bool)
  | fin (neg : Bool) (m : Nat) (e : Int)
  deriving DecidableEq, Repr

/-- A float format: exponent bits, mantissa bits, bias, and what its top codes mean (R58). -/
structure FFmt where
  eb : Nat
  mb : Nat
  bias : Nat
  /-- Infinities, as in binary32. -/
  infs : Bool
  /-- NaN encodings; the canonical one. -/
  nan : Option Nat
  /-- The largest finite value's bits, sign clear. -/
  maxBits : Nat
  deriving DecidableEq, Repr

/-- The formats of R58. -/
def fmtF32 : FFmt := ⟨8, 23, 127, true, some 0x7FC00000, 0x7F7FFFFF⟩
def fmtF16 : FFmt := ⟨5, 10, 15, true, some 0x7E00, 0x7BFF⟩
def fmtBF16 : FFmt := ⟨8, 7, 127, true, some 0x7FC0, 0x7F7F⟩
def fmtE5M2 : FFmt := ⟨5, 2, 15, true, some 0x7E, 0x7B⟩
def fmtE4M3 : FFmt := ⟨4, 3, 7, false, some 0x7F, 0x7E⟩
def fmtE2M1 : FFmt := ⟨2, 1, 1, false, none, 0x7⟩

/-- The float format of an element type (R99). -/
def fmtOf (t : ElemTy) : FFmt :=
  match t with
  | .f16x2 => fmtF16
  | .bf16x2 => fmtBF16
  | .e4m3x4 => fmtE4M3
  | .e5m2x4 => fmtE5M2
  | .e2m1x8 => fmtE2M1
  | _ => fmtF32

/-- The exact value of an encoding (R58, R59). -/
def decodeFloat (f : FFmt) (x : Nat) : FVal :=
  let neg := bits x (f.eb + f.mb) 1 == 1
  let ex := bits x f.mb f.eb
  let mt := bits x 0 f.mb
  let top := 2 ^ f.eb - 1
  if f.infs && ex == top then (if mt == 0 then .inf neg else .nan)
  else if !f.infs && f.nan == some (bits x 0 (f.eb + f.mb)) then .nan
  else if ex == 0 then .fin neg mt (1 - (f.bias : Int) - f.mb)
  else .fin neg (2 ^ f.mb + mt) ((ex : Int) - f.bias - f.mb)

/-- Whether rounding moves a truncated magnitude `n` with remainder `r` of `2^d` up (R63). -/
def roundsUp (mode : Rnd) (neg : Bool) (n r half : Nat) : Bool :=
  match mode with
  | .ne => r > half || (r == half && n % 2 == 1)
  | .tz => false
  | .dn => neg && r != 0
  | .up => !neg && r != 0

/-- m * 2^e as an integer multiple of 2^q, rounded under the mode (R63). -/
def roundAt (mode : Rnd) (neg : Bool) (m : Nat) (e q : Int) : Nat :=
  if q ≤ e then m * 2 ^ (e - q).toNat
  else
    let d := (q - e).toNat
    let n := m >>> d
    let r := m % 2 ^ d
    if m != 0 && roundsUp mode neg n r (2 ^ (d - 1)) then n + 1 else n

/-- The exponent of the last place a magnitude m * 2^e is rounded to (R64, R67). -/
def lastPlace (f : FFmt) (m : Nat) (e : Int) : Int :=
  max (e + m.log2 - f.mb) (1 - (f.bias : Int) - f.mb)

/-- The sign bit's weight times the sign. -/
def signBits (f : FFmt) (neg : Bool) : Nat := if neg then 2 ^ (f.eb + f.mb) else 0

/-- What an overflowing result becomes (R65). -/
def overflowBits (f : FFmt) (mode : Rnd) (sat neg : Bool) : Nat :=
  let mx := signBits f neg + f.maxBits
  let beyond : Nat :=
    if f.infs then signBits f neg + (2 ^ f.eb - 1) * 2 ^ f.mb else f.nan.getD mx
  if sat || f.nan == none then mx
  else match mode with
    | .ne => beyond
    | .tz => mx
    | .dn => if neg then beyond else mx
    | .up => if neg then mx else beyond

/-- A finite magnitude m * 2^e rounded and encoded (R63 to R67). -/
def encodeFinite (f : FFmt) (mode : Rnd) (sat neg : Bool) (m : Nat) (e : Int) : Nat :=
  if m == 0 then signBits f neg
  else
    let q := lastPlace f m e
    let n := roundAt mode neg m e q
    let mag : Nat :=
      if n < 2 ^ f.mb then n
      else
        let n' := if n ≥ 2 ^ (f.mb + 1) then n / 2 else n
        let q' : Int := if n ≥ 2 ^ (f.mb + 1) then q + 1 else q
        ((q' + f.mb + f.bias).toNat) * 2 ^ f.mb + (n' - 2 ^ f.mb)
    if mag > f.maxBits then overflowBits f mode sat neg else signBits f neg + mag

/-- `Round(x, fmt, mode)` with the saturate flag (R64 to R67, R60). -/
def encodeFloat (f : FFmt) (mode : Rnd) (sat : Bool) (v : FVal) : Nat :=
  match v with
  | .nan => f.nan.getD 0
  | .inf neg =>
    if sat || f.nan == none then signBits f neg + f.maxBits
    else if f.infs then signBits f neg + (2 ^ f.eb - 1) * 2 ^ f.mb
    else f.nan.getD 0
  | .fin neg m e => encodeFinite f mode sat neg m e

/-- The value of an integer. -/
def ofInt (z : Int) : FVal := .fin (z < 0) z.natAbs 0

/-- A magnitude rounded to an integer under the mode (R68). -/
def toIntRnd (mode : Rnd) (neg : Bool) (m : Nat) (e : Int) : Int :=
  let n := roundAt mode neg m e 0
  if neg then -(n : Int) else n

/-- The range of an integer type (R56, R57). -/
def intRange (t : ElemTy) : Int × Int :=
  match t with
  | .tern2x16 => (-1, 1)
  | t => if t.isSigned then (-(2 ^ (t.width - 1) : Nat), (2 ^ (t.width - 1) : Nat) - 1) else (0, (2 ^ t.width : Nat) - 1)

/-- `Clamp(x, lo, hi)` (R120). -/
def clampInt (z lo hi : Int) : Int := max lo (min z hi)

/-- An integer in an integer or ternary type: clamped, or wrapped (R57, R68). -/
def encodeInt (t : ElemTy) (sat : Bool) (z : Int) : Nat :=
  let r := intRange t
  if sat || t == .tern2x16 then wrapInt t.width (clampInt z r.1 r.2) else wrapInt t.width z

/-- The exact value of a sub-element (R56 to R59). -/
def decodeElem (t : ElemTy) (x : Nat) : FVal :=
  if t.isFloat then decodeFloat (fmtOf t) x
  else match t with
    | .tern2x16 => match x % 4 with
      | 1 => .fin false 1 0
      | 3 => .fin true 1 0
      | _ => .fin false 0 0
    | t => if t.isSigned then ofInt (signedOf t.width x) else ofInt (x % 2 ^ t.width : Nat)

/-- A value rounded to an element type (R63 to R68, R57). -/
def encodeElem (t : ElemTy) (mode : Rnd) (sat : Bool) (v : FVal) : Nat :=
  if t.isFloat then encodeFloat (fmtOf t) mode sat v
  else match v with
    | .nan => 0
    | .inf neg => encodeInt t true (if neg then (intRange t).1 else (intRange t).2)
    | .fin neg m e => encodeInt t sat (toIntRnd mode neg m e)

/-! ## Exact arithmetic -/

/-- A value's sign. -/
def FVal.neg? : FVal → Bool
  | .nan => false
  | .inf n => n
  | .fin n _ _ => n

/-- The value with the other sign. -/
def fneg : FVal → FVal
  | .nan => .nan
  | .inf n => .inf !n
  | .fin n m e => .fin (!n) m e

/-- m * 2^e as an integer multiple of 2^q for q at most e. -/
def scaleTo (neg : Bool) (m : Nat) (e q : Int) : Int :=
  let n : Int := ((m * 2 ^ (e - q).toNat : Nat) : Int)
  if neg then -n else n

/-- The exact sum (R61, R73): an exact zero is +0 unless both are −0. DEDUCED, log 63. -/
def fadd (a b : FVal) : FVal :=
  match a, b with
  | .nan, _ => .nan
  | _, .nan => .nan
  | .inf x, .inf y => if x == y then .inf x else .nan
  | .inf x, _ => .inf x
  | _, .inf y => .inf y
  | .fin n₁ m₁ e₁, .fin n₂ m₂ e₂ =>
    if m₁ == 0 && m₂ == 0 then .fin (n₁ && n₂) 0 0
    else if m₁ == 0 then .fin n₂ m₂ e₂
    else if m₂ == 0 then .fin n₁ m₁ e₁
    else
      let q := min e₁ e₂
      let z := scaleTo n₁ m₁ e₁ q + scaleTo n₂ m₂ e₂ q
      .fin (z < 0) z.natAbs q

/-- The exact product (R73). -/
def fmul (a b : FVal) : FVal :=
  match a, b with
  | .nan, _ => .nan
  | _, .nan => .nan
  | .inf x, .inf y => .inf (x != y)
  | .inf x, .fin n m _ => if m == 0 then .nan else .inf (x != n)
  | .fin n m _, .inf y => if m == 0 then .nan else .inf (n != y)
  | .fin n₁ m₁ e₁, .fin n₂ m₂ e₂ => .fin (n₁ != n₂) (m₁ * m₂) (e₁ + e₂)

/-- A finite value compared with another: less than. -/
def fltFin (n₁ : Bool) (m₁ : Nat) (e₁ : Int) (n₂ : Bool) (m₂ : Nat) (e₂ : Int) : Bool :=
  let q := min e₁ e₂
  decide (scaleTo n₁ m₁ e₁ q < scaleTo n₂ m₂ e₂ q)

/-- Less than, of two numbers; zeros equal; false with a NaN (R73). DEDUCED, log 63. -/
def flt (a b : FVal) : Bool :=
  match a, b with
  | .nan, _ => false
  | _, .nan => false
  | .inf x, .inf y => x && !y
  | .inf x, _ => x
  | _, .inf y => !y
  | .fin n₁ m₁ e₁, .fin n₂ m₂ e₂ => fltFin n₁ m₁ e₁ n₂ m₂ e₂

/-- Whether a value is NaN. -/
def FVal.isNan : FVal → Bool
  | .nan => true
  | _ => false

/-- Equal numbers; zeros equal; false with a NaN (R73). -/
def feq (a b : FVal) : Bool := !a.isNan && !b.isNan && !flt a b && !flt b a

/-- The order of VMIN and VMAX: −0 below +0 (R73). -/
def fless (a b : FVal) : Bool := flt a b || (feq a b && a.neg? && !b.neg?)

/-- VMIN (R73). -/
def fmin (a b : FVal) : FVal :=
  if a.isNan then b else if b.isNan then a else if fless b a then b else a

/-- VMAX (R73). -/
def fmax (a b : FVal) : FVal :=
  if a.isNan then b else if b.isNan then a else if fless a b then b else a

/-- Multiplication by a power of two. -/
def fscale (v : FVal) (s : Int) : FVal :=
  match v with
  | .fin n m e => .fin n m (e + s)
  | v => v

/-- f32 bits of a value rounded to nearest even (R63, R65). -/
def toF32 (v : FVal) : Nat := encodeFloat fmtF32 .ne false v

/-- The value of f32 bits. -/
def ofF32 (x : Nat) : FVal := decodeFloat fmtF32 x

/-! ## Narrowing to a rung (R75 to R77) -/

/-- The value of an E8M0 scale as an exponent; none for NaN (R62). -/
def scaleExp (code : Nat) : Option Int := if code % 256 == 0xFF then none else some ((code % 256 : Nat) - 127)

/-- An element's value under its block scale (R62). -/
def scaled (t : ElemTy) (x : Nat) (scale : Option Int) : FVal :=
  match scale with
  | none => .nan
  | some k => fscale (decodeElem t x) k

/-- ⌊log2⌋ of the largest magnitude among the finite elements; none when it is zero (R76 steps 1, 2). -/
def blockLog (xs : List FVal) : Option Int :=
  xs.foldl (fun acc x =>
    match x with
    | .fin _ m e =>
      if m == 0 then acc else
        match acc with
        | none => some (e + m.log2)
        | some a => some (max a (e + m.log2))
    | _ => acc) none

/-- A rung: its format (none for an integer rung, with the width), L's bits, emax and the scale floor (R75). -/
structure Rung where
  ty : ElemTy
  emax : Int
  floor : Int
  lim : FVal
  deriving DecidableEq, Repr

/-- The rungs by ladder and rank (R75). -/
def rungOf (isFloat : Bool) (rank : Nat) : Rung :=
  if isFloat then
    match rank with
    | 1 => ⟨.e2m1x8, 2, -127, .fin false 6 0⟩
    | 2 => ⟨.e4m3x4, 8, -127, .fin false 448 0⟩
    | _ => ⟨.bf16x2, 127, -127, .fin false 255 120⟩
  else
    match rank with
    | 1 => ⟨.i4x8, 2, 0, .fin false 7 0⟩
    | 2 => ⟨.i8x4, 6, 0, .fin false 127 0⟩
    | _ => ⟨.i16x2, 14, 0, .fin false 32767 0⟩

/-- The scale exponent of a block (R76 steps 2, 3). -/
def rungScale (r : Rung) (xs : List FVal) : Int :=
  let s : Int := match blockLog xs with
    | none => 0
    | some l => l - r.emax
  min (max s r.floor) 127

/-- One element narrowed under scale s: its value before the scale, whether it clipped, whether it underflowed
(R76 steps 4 to 6). -/
def narrowElem (r : Rung) (s : Int) (x : FVal) : FVal × Bool × Bool :=
  match x with
  | .fin neg m e =>
    if m == 0 then (.fin neg 0 0, false, false)
    else
      let q : Int := if r.ty.isFloat then lastPlace (fmtOf r.ty) m (e - s) else 0
      let n := roundAt .ne neg m (e - s) q
      let y : FVal := .fin neg n q
      if n == 0 then (.fin neg 0 0, false, true)
      else if flt r.lim (.fin false n q) then (if neg then fneg r.lim else r.lim, true, false)
      else (y, false, false)
  | x => (x, true, false)

/-- A narrowed block: element values times their scale, the scale (none for NaN), and the numbers clipped and
underflowed (R76, R77). DEDUCED, log 71. -/
structure Narrowed where
  vals : List FVal
  codes : List FVal
  scale : Option Int
  sat : Nat
  und : Nat
  deriving DecidableEq, Repr

/-- Narrowing of one block of 32 elements; `stored` is its stored scale (R76, R77). A finite element of a block
narrowed to NaN still counts as R76 would count it. DEDUCED, log 71. -/
def narrowBlock (r : Rung) (stored : Option Int) (xs : List FVal) : Narrowed :=
  let s := rungScale r xs
  let ys := xs.map (narrowElem r s)
  let sat := (ys.filter (fun y => y.2.1)).length
  let und := (ys.filter (fun y => y.2.2)).length
  let bad := stored == none || xs.any (fun x => match x with | .fin .. => false | _ => true)
  if bad then ⟨xs.map (fun _ => .nan), ys.map (·.1), none, if stored == none then xs.length else sat, if stored == none then 0 else und⟩
  else ⟨ys.map (fun y => fscale y.1 s), ys.map (·.1), some s, sat, und⟩

end Sys2Proof.Machine
end

