-- ==== Sys2Proof/Machine/Lanes.lean ====
section
/-! DEFINITION. Operations on packed lanes: element-wise arithmetic, comparison, reduction, scan, conversion,
packing and dot products (R55, R71 to R74, R82, R83, R195 to R214). -/

namespace Sys2Proof.Machine

/-- `Sub(x, j, w)` (R55). -/
def sub (x : Word) (j w : Nat) : Nat := bits x.toNat (j * w) w

/-- A lane from its sub-elements, number 0 lowest (R55). -/
def packLane (w : Nat) (ys : List Nat) : Word :=
  BitVec.ofNat 32 (ys.foldr (fun y acc => acc * 2 ^ w + y % 2 ^ w) 0)

/-- A lane computed sub-element by sub-element. -/
def mapSubs (t : ElemTy) (f : Nat → Nat) : Word := packLane t.width ((upTo t.count).map f)

/-- `SetSub(x, j, w, y)` (R120). -/
def setSub (x : Word) (j w y : Nat) : Word :=
  let m : Word := BitVec.ofNat 32 ((2 ^ w - 1) * 2 ^ (j * w))
  (x &&& ~~~m) ||| (BitVec.ofNat 32 (y % 2 ^ w * 2 ^ (j * w)))

/-- The two-operand lane operations of R196. -/
inductive LaneOp where
  | add | sub | mul | min | max | and | or | xor | shl | shr | sar
  deriving DecidableEq, Repr

/-- A sub-element's integer reading by its type (R56). -/
def intElem (t : ElemTy) (x : Nat) : Int := if t.isSigned then signedOf t.width x else (x % 2 ^ t.width : Nat)

/-- Float results of a lane operation (R73). -/
def floatOp (t : ElemTy) (op : LaneOp) (a b : Nat) : Nat :=
  let f := fmtOf t
  let x := decodeFloat f a
  let y := decodeFloat f b
  let enc := encodeFloat f .ne false
  match op with
  | .add => enc (fadd x y)
  | .sub => enc (fadd x (fneg y))
  | .mul => enc (fmul x y)
  | .min => enc (fmin x y)
  | .max => enc (fmax x y)
  | _ => 0

/-- Integer results of a lane operation (R71, R72). -/
def intOp (t : ElemTy) (op : LaneOp) (a b : Nat) : Nat :=
  let w := t.width
  let x := intElem t a
  let y := intElem t b
  let c := b % w
  match op with
  | .add => (a + b) % 2 ^ w
  | .sub => wrapInt w ((a : Int) - b)
  | .mul => (a * b) % 2 ^ w
  | .min => if y < x then b else a
  | .max => if x < y then b else a
  | .shl => (a * 2 ^ c) % 2 ^ w
  | .shr => a >>> c
  | .sar => wrapInt w (x / (2 ^ c : Nat))
  | _ => 0

/-- `Op(a, b)` of R196 on one sub-element. -/
def laneOp (t : ElemTy) (op : LaneOp) (a b : Nat) : Nat :=
  match op with
  | .and => a &&& b
  | .or => a ||| b
  | .xor => a ^^^ b
  | op => if t.isLaneFloat then floatOp t op a b else intOp t op a b

/-- One lane of an element-wise operation. -/
def laneOp2 (t : ElemTy) (op : LaneOp) (a b : Word) : Word :=
  mapSubs t (fun j => laneOp t op (sub a j t.width) (sub b j t.width))

/-- Lanes of a result, zero where the mask is clear (R195). -/
def maskedLanes (m : Mask) (f : Nat → Word) : Lanes := mkLanes (fun i => if m.getLsbD i then f i else 0)

/-- The element-wise two-operand instructions (R196). -/
def vec2 (f : Word → Word → Word) (la : Lanes) (ma : Mask) (lb : Lanes) (mb : Mask) : Token :=
  let m := ma &&& mb
  .v (maskedLanes m (fun i => f (lane la i) (lane lb i))) m

/-- VFMA on one sub-element (R197). -/
def fmaSub (t : ElemTy) (a b c : Nat) : Nat :=
  if t.isLaneFloat then
    let f := fmtOf t
    encodeFloat f .ne false (fadd (fmul (decodeFloat f a) (decodeFloat f b)) (decodeFloat f c))
  else (a * b + c) % 2 ^ t.width

/-- A condition on one sub-element (R198). -/
def cmpSub (t : ElemTy) (c : CmpCond) (a b : Nat) : Bool :=
  if t.isLaneFloat then
    let x := decodeFloat (fmtOf t) a
    let y := decodeFloat (fmtOf t) b
    match c with
    | .eq => feq x y
    | .ne => !feq x y
    | .lt => flt x y
    | .le => flt x y || feq x y
    | .gt => flt y x
    | .ge => flt y x || feq x y
    | .un => x.isNan || y.isNan
    | .or => !x.isNan && !y.isNan
  else
    let x := intElem t a
    let y := intElem t b
    match c with
    | .eq => x == y
    | .ne => x != y
    | .lt => decide (x < y)
    | .le => decide (x ≤ y)
    | .gt => decide (y < x)
    | .ge => decide (y ≤ x)
    | .un => false
    | .or => true

/-- An element mask's lane (R198). -/
def cmpLane (t : ElemTy) (c : CmpCond) (a b : Word) : Word :=
  mapSubs t (fun j => if cmpSub t c (sub a j t.width) (sub b j t.width) then 2 ^ t.width - 1 else 0)

/-- LOP3's truth table on one bit (R193). -/
def ttBit (tt : BitVec 8) (a b c : Bool) : Bool := tt.getLsbD (4 * a.toNat + 2 * b.toNat + c.toNat)

/-- A truth table over w bits, as an or of its minterms (R193). -/
def lop3 {w : Nat} (tt : BitVec 8) (a b c : BitVec w) : BitVec w :=
  (upTo 8).foldl (fun acc k =>
    if tt.getLsbD k then
      acc ||| ((if k.testBit 2 then a else ~~~a) &&& (if k.testBit 1 then b else ~~~b) &&&
        (if k.testBit 0 then c else ~~~c))
    else acc) 0

/-- The ternary code of a clamped value (R57). -/
def ternCode (z : Int) : Nat := wrapInt 2 (clampInt z (-1) 1)

/-! ## Reductions and scans (R82, R83) -/

/-- The lane operation of a reduction (R205). -/
def redLaneOp (op : RedOp) : LaneOp :=
  match op with
  | .add => .add | .min => .min | .max => .max | .and => .and | .or => .or | .xor => .xor

/-- The identity of a reduction, one sub-element (R82). -/
def redIdentity (t : ElemTy) (op : RedOp) : Nat :=
  let f := fmtOf t
  match op with
  | .add => if t.isLaneFloat then signBits f true else 0
  | .min => if t.isLaneFloat then encodeFloat f .ne false (.inf false) else wrapInt t.width (intRange t).2
  | .max => if t.isLaneFloat then encodeFloat f .ne false (.inf true) else wrapInt t.width (intRange t).1
  | .and => 2 ^ t.width - 1
  | .or | .xor => 0

/-- One level of the tree: neighbours combined, left first (R82). -/
def pairUp (f : Word → Word → Word) : List Word → List Word
  | a :: b :: r => f a b :: pairUp f r
  | l => l

/-- The four levels of the tree over 16 lanes (R82). -/
def tree16 (f : Word → Word → Word) (xs : List Word) : Word :=
  (pairUp f (pairUp f (pairUp f (pairUp f xs)))).headD 0

/-- Lanes with invalid ones replaced by the identity (R82). -/
def redLanes (t : ElemTy) (op : RedOp) (l : Lanes) (m : Mask) : List Word :=
  (upTo 16).map (fun i => if m.getLsbD i then lane l i else mapSubs t (fun _ => redIdentity t op))

/-- VRED's packed result lane (R82, R205): with no valid lane float add gives +0. -/
def vred (t : ElemTy) (op : RedOp) (l : Lanes) (m : Mask) : Word :=
  if m == 0 && op == .add then 0 else tree16 (laneOp2 t (redLaneOp op)) (redLanes t op l m)

/-- One step of the scan at distance d (R83). -/
def scanStep (f : Word → Word → Word) (d : Nat) (xs : List Word) : List Word :=
  (upTo 16).map (fun i => if d ≤ i then f (xs.getD (i - d) 0) (xs.getD i 0) else xs.getD i 0)

/-- VSCAN's lanes (R83, R206). -/
def vscan (t : ElemTy) (op : RedOp) (l : Lanes) (m : Mask) : Lanes :=
  let f := laneOp2 t (redLaneOp op)
  let r := scanStep f 8 (scanStep f 4 (scanStep f 2 (scanStep f 1 (redLanes t op l m))))
  mkLanes (fun i => r.getD i 0)

/-! ## Conversions (R207 to R209) -/

/-- One sub-element converted (R207). -/
def convSub (src dst : ElemTy) (sat : Bool) (mode : Rnd) (x : Nat) : Nat := encodeElem dst mode sat (decodeElem src x)

/-- VCVT on a lane (R207). -/
def convLane (src dst : ElemTy) (sat : Bool) (mode : Rnd) (x : Word) : Word :=
  mapSubs dst (fun j => convSub src dst sat mode (sub x j src.width))

/-- The wide partner of a narrow type (R208). -/
def widePartner (t : ElemTy) : ElemTy :=
  match t with
  | .i16x2 => .i32
  | .u16x2 => .u32
  | .f16x2 => .f32
  | .bf16x2 => .f32
  | .i8x4 => .i16x2
  | .u8x4 => .u16x2
  | .e4m3x4 => .bf16x2
  | .e5m2x4 => .bf16x2
  | .e2m1x8 => .e4m3x4
  | .i4x8 => .i8x4
  | .tern2x16 => .i4x8
  | t => t

/-- VPACK on a pair of lanes (R208). -/
def vpackLane (t : ElemTy) (a b : Word) : Word :=
  let wt := widePartner t
  mapSubs t (fun j =>
    let x := if j < wt.count then sub a j wt.width else sub b (j - wt.count) wt.width
    convSub wt t true .ne x)

/-- VUNPK's lanes, low or high half (R209). -/
def vunpkLane (t : ElemTy) (high : Bool) (a : Word) : Word :=
  let wt := widePartner t
  mapSubs wt (fun j => convSub t wt false .ne (sub a (if high then j + wt.count else j) t.width))

/-! ## Dot products (R74, R210) -/

/-- VDOT on one lane: float operands sum exactly and round once to f32; integers clamp to i32, or u32 for the u
types. DEDUCED, log 63. -/
def vdotLane (t : ElemTy) (a b c : Word) : Word :=
  let js := upTo t.count
  if t.isFloat then
    let f := fmtOf t
    let v := js.foldl (fun acc j =>
      fadd acc (fmul (decodeFloat f (sub a j t.width)) (decodeFloat f (sub b j t.width)))) (ofF32 c.toNat)
    BitVec.ofNat 32 (toF32 v)
  else
    let elem : Nat → Int := fun x => if t == .tern2x16 then (match x % 4 with | 1 => 1 | 3 => -1 | _ => 0) else intElem t x
    let isU := t == .u16x2 || t == .u8x4
    let c0 : Int := if isU then (c.toNat : Int) else signedOf 32 c.toNat
    let z := js.foldl (fun acc j => acc + elem (sub a j t.width) * elem (sub b j t.width)) c0
    if isU then BitVec.ofNat 32 (wrapInt 32 (clampInt z 0 (2 ^ 32 - 1)))
    else BitVec.ofNat 32 (wrapInt 32 (clampInt z (-(2 ^ 31)) (2 ^ 31 - 1)))

/-! ## Selection of lanes (R204) -/

/-- The source lane of VSWZ's pattern; none where the lane becomes 0 and invalid (R204). -/
def swzSrc (p : SwzPat) (i : Nat) : Option Nat :=
  match p with
  | .x1 => some (i ^^^ 1)
  | .x2 => some (i ^^^ 2)
  | .x4 => some (i ^^^ 4)
  | .x8 => some (i ^^^ 8)
  | .rev => some (15 - i)
  | .rotu => some ((i + 15) % 16)
  | .rotd => some ((i + 1) % 16)
  | .bc0 => some 0
  | .shu => if i = 0 then none else some (i - 1)
  | .shd => if i = 15 then none else some (i + 1)

/-- Lanes moved whole from source lanes with their valid bits (R203, R204). -/
def pickLanes (src : Nat → Option Nat) (l : Lanes) (m : Mask) : Token :=
  .v (mkLanes (fun i => match src i with | some k => if m.getLsbD k then lane l k else 0 | none => 0))
    (mkMask (fun i => match src i with | some k => m.getLsbD k | none => false))

end Sys2Proof.Machine
end

