-- ==== Sys2Proof/Machine/Sfu.lean ====
section
/-! DEFINITION. The special functions of VSFU: each finite result is the exact value rounded once to f32, nearest
even (R211, R212). Irrational values are computed in fixed point to 2^-512 and rounded as a value strictly between
that and its successor. -/

namespace Sys2Proof.Machine

/-- Bits of the fixed point. DEDUCED, log 54. -/
def fx : Nat := 512

/-- ⌊√n⌋ by its bits from number k - 1 down. -/
def isqrtFrom (n : Nat) : Nat → Nat → Nat
  | 0, r => r
  | k + 1, r => if (r + 2 ^ k) * (r + 2 ^ k) ≤ n then isqrtFrom n k (r + 2 ^ k) else isqrtFrom n k r

/-- ⌊√n⌋ of a number below 2^(2k). -/
def isqrt (k n : Nat) : Nat := isqrtFrom n k 0

/-- A magnitude n * 2^e known to be short of the exact value unless `exact`: one more place records that. -/
def sticky (neg : Bool) (n : Nat) (exact : Bool) (e : Int) : FVal := .fin neg (2 * n + if exact then 0 else 1) (e - 1)

/-- 1 / (m 2^e). -/
def recipVal (neg : Bool) (m : Nat) (e : Int) : FVal :=
  sticky neg (2 ^ 64 / m) (2 ^ 64 % m == 0) (-e - 64)

/-- √(m 2^e). -/
def sqrtVal (m : Nat) (e : Int) : FVal :=
  let odd := e % 2 != 0
  let n := (if odd then 2 * m else m) * 2 ^ 64
  let r := isqrt 48 n
  sticky false r (r * r == n) ((if odd then e - 1 else e) / 2 - 32)

/-- 1 / √(m 2^e). -/
def rsqrtVal (m : Nat) (e : Int) : FVal :=
  let odd := e % 2 != 0
  let d := if odd then 2 * m else m
  let q := 2 ^ 128 / d
  let r := isqrt 66 q
  sticky false r (r * r * d == 2 ^ 128) (-((if odd then e - 1 else e) / 2) - 64)

/-- Σ over k < n of (-1)^k or 1 times x^(2k+1)/(2k+1), fixed point: arctangent (`alt`) or its hyperbolic twin; `p` is
the current power and `x2` the square. -/
def atanSum (alt : Bool) (x2 : Int) : Nat → Nat → Int → Int
  | 0, _, _ => 0
  | n + 1, k, p =>
    (if alt && k % 2 == 1 then -(p / (2 * k + 1 : Nat)) else p / (2 * k + 1 : Nat))
      + atanSum alt x2 n (k + 1) (p * x2 / (2 ^ fx : Nat))

/-- Arctangent of 1/q. -/
def atanInv (q : Nat) : Int :=
  let p : Int := ((2 ^ fx / q : Nat) : Int)
  atanSum true (p * p / (2 ^ fx : Nat)) 120 0 p

/-- π. -/
def piFx : Int := 16 * atanInv 5 - 4 * atanInv 239

/-- ln 2 = 2 artanh(1/3). -/
def ln2Fx : Int :=
  let p : Int := ((2 ^ fx / 3 : Nat) : Int)
  2 * atanSum false (p * p / (2 ^ fx : Nat)) 170 0 p

/-- Σ over k from `k` of x^k / k!, `p` the term before. -/
def expSum (x : Int) : Nat → Nat → Int → Int
  | 0, _, _ => 0
  | n + 1, k, p =>
    let p' := p * x / ((2 ^ fx * k : Nat) : Int)
    p' + expSum x n (k + 1) p'

/-- e^x - 1 of a fixed-point x of magnitude at most 1. -/
def expm1Fx (x : Int) : Int := expSum x 110 1 (2 ^ fx : Nat)

/-- Σ of the sine or cosine series: `p` the current term, its factorial index `k`. -/
def trigSum (x2 : Int) : Nat → Nat → Int → Int
  | 0, _, p => p
  | n + 1, k, p => p + trigSum x2 n (k + 2) (-(p * x2 / ((2 ^ fx * ((k + 1) * (k + 2)) : Nat) : Int)))

/-- Sine and cosine of a fixed-point x of magnitude at most 1. -/
def sinFx (x : Int) : Int := trigSum (x * x / (2 ^ fx : Nat)) 60 1 x
def cosFx (x : Int) : Int := trigSum (x * x / (2 ^ fx : Nat)) 60 0 (2 ^ fx : Nat)

/-- A fixed-point result as a value that is not exact. -/
def inexact (z : Int) : FVal := sticky (z < 0) z.natAbs false (-(fx : Int))

/-- m 2^e in fixed point (exact when e is at least -512). -/
def toFx (neg : Bool) (m : Nat) (e : Int) : Int :=
  let n := roundAt .tz neg m e (-(fx : Int))
  if neg then -(n : Int) else n

/-- 2^x for x = ± m 2^e: exact at integers (R211). DEDUCED, log 54. -/
def exp2Val (neg : Bool) (m : Nat) (e : Int) : FVal :=
  let z := toFx neg m e
  let k := z / (2 ^ fx : Nat)
  let f := z % (2 ^ fx : Nat)
  if f == 0 then .fin false 1 k
  else fscale (inexact ((2 ^ fx : Nat) + expm1Fx (f * ln2Fx / (2 ^ fx : Nat)))) k

/-- log2 (m 2^e): exact at powers of two (R211). DEDUCED, log 54. -/
def log2Val (m : Nat) (e : Int) : FVal :=
  let l := m.log2
  let k := e + l
  if m == 2 ^ l then ofInt k
  else
    -- m / 2^l = y in (1, 2); above √2 it is halved so that the logarithm stays near zero
    let big := m * m > 2 * 2 ^ (2 * l)
    let d : Nat := if big then 2 ^ (l + 1) else 2 ^ l
    let k' : Int := if big then k + 1 else k
    let p : Int := (((m : Int) - d) * (2 ^ fx : Nat)) / ((m + d : Nat) : Int)
    let ln := 2 * atanSum false (p * p / (2 ^ fx : Nat)) 200 0 p
    inexact (k' * (2 ^ fx : Nat) + ln * (2 ^ fx : Nat) / ln2Fx)

/-- Sine (or cosine, as the sine a quarter turn on) of ± m 2^e, reduced by quarter turns of π (R211). DEDUCED, log 54. -/
def sinCosVal (cos : Bool) (neg : Bool) (m : Nat) (e : Int) : FVal :=
  let z := toFx neg m e
  let half := piFx / 2
  let k := (z + half / 2) / half
  let r := z - k * half
  let q := ((k + if cos then 1 else 0) % 4).toNat
  let v := match q with
    | 0 => sinFx r
    | 1 => cosFx r
    | 2 => -(sinFx r)
    | _ => -(cosFx r)
  inexact v

/-- tanh of ± m 2^e = (e^2x - 1) / (e^2x + 1); from 16 on it rounds to 1. DEDUCED, log 54. -/
def tanhVal (neg : Bool) (m : Nat) (e : Int) : FVal :=
  let z := toFx false m e
  if z ≥ 16 * (2 ^ fx : Nat) then .fin neg 1 0
  else
    -- 2x = 32 y with |y| ≤ 1: five squarings of 1 + u
    let y := 2 * z / 32
    let sq : Int → Int := fun u => 2 * u + u * u / (2 ^ fx : Nat)
    let u := sq (sq (sq (sq (sq (expm1Fx y)))))
    let t := u * (2 ^ fx : Nat) / (u + 2 * (2 ^ fx : Nat))
    inexact (if neg then -t else t)

/-- A VSFU function on a value (R211, R212). DEDUCED, log 54. -/
def sfuVal (fn : SfuFn) (x : FVal) : FVal :=
  match fn, x with
  | _, .nan => .nan
  | .rcp, .inf n => .fin n 0 0
  | .rcp, .fin n m e => if m == 0 then .inf n else recipVal n m e
  | .rsq, .inf n => if n then .nan else .fin false 0 0
  | .rsq, .fin n m e => if m == 0 then .inf n else if n then .nan else rsqrtVal m e
  | .sqrt, .inf n => if n then .nan else .inf false
  | .sqrt, .fin n m e => if m == 0 then .fin n 0 0 else if n then .nan else sqrtVal m e
  | .exp2, .inf n => if n then .fin false 0 0 else .inf false
  | .exp2, .fin n m e =>
    if m == 0 then .fin false 1 0
    else if !n && !flt (.fin n m e) (.fin false 128 0) then .inf false
    else if n && flt (.fin n m e) (.fin true 150 0) then .fin false 0 0
    else exp2Val n m e
  | .log2, .inf n => if n then .nan else .inf false
  | .log2, .fin n m e => if m == 0 then .inf true else if n then .nan else log2Val m e
  | .sin, .inf _ => .nan
  | .sin, .fin n m e => if m == 0 then .fin n 0 0 else sinCosVal false n m e
  | .cos, .inf _ => .nan
  | .cos, .fin n m e => if m == 0 then .fin false 1 0 else sinCosVal true n m e
  | .tanh, .inf n => .fin n 1 0
  | .tanh, .fin n m e => if m == 0 then .fin n 0 0 else tanhVal n m e

/-- VSFU on an f32 lane (R211). -/
def sfuLane (fn : SfuFn) (x : Word) : Word := BitVec.ofNat 32 (toF32 (sfuVal fn (ofF32 x.toNat)))

end Sys2Proof.Machine
end

