-- ==== Sys2Proof/Machine/TileMath.lean ====
section
/-! DEFINITION. Tiles, passes of the matrix unit and the operations of TOP on tile state (R78 to R82, R260 to R262,
R272 to R282, R285 to R287). -/

namespace Sys2Proof.Machine

/-- A zeroed accumulator with SR 1 (R262). -/
def TAcc.zero : TAcc := {}

/-- Scales all 0x7F (R261). -/
def unitScales : BitVec 1024 := BitVec.allOnes 1024 / 0xFF * 0x7F

/-- A buffer as TOP zero leaves it: data 0, tag FMT 6, SC 0, scales 0x7F (R260, R261, R286). -/
def TBuf.zero : TBuf := { scales := unitScales }

/-- Row r of a buffer as a little-endian number of 512 bytes (R260). -/
def bufRow (b : TBuf) (r : Nat) : Nat := bits b.data.toNat (4096 * r) 4096

/-- A buffer's data from its rows (R260). -/
def rowsData (rows : List Nat) : BitVec 65536 :=
  BitVec.ofNat 65536 (rows.foldr (fun x acc => 2 ^ 4096 * acc + x % 2 ^ 4096) 0)

/-- The codes of a row's 256 elements of width w. -/
def rowCodes (w row : Nat) : List Nat := (upTo 256).map (fun k => bits row (w * k) w)

/-- A row from its element codes. -/
def packRow (w : Nat) (cs : List Nat) : Nat := cs.foldr (fun c acc => acc * 2 ^ w + c % 2 ^ w) 0

/-- The stored scale of group g of row r (R261, R62). -/
def bufScale (b : TBuf) (r g : Nat) : Option Int :=
  if b.sc then scaleExp (bits b.scales.toNat (8 * (8 * r + g)) 8) else some 0

/-- A list cut into runs of n. -/
def chunksOf {α : Type} (n : Nat) : Nat → List α → List (List α)
  | 0, _ => []
  | k + 1, l => l.take n :: chunksOf n k (l.drop n)

/-- The eight groups of 32 values of row r, decoded with their scales (R62, R261). -/
def rowGroups (b : TBuf) (r : Nat) : List (List FVal) :=
  (chunksOf 32 8 (rowCodes b.fmt.width (bufRow b r))).zipIdx.map (fun g => g.1.map (fun c => scaled b.fmt c (bufScale b r g.2)))

/-- The rank of a stored format on its ladder (R75). -/
def storedRank (t : ElemTy) : Nat :=
  match t with
  | .e2m1x8 | .i4x8 => 1
  | .e4m3x4 | .e5m2x4 | .i8x4 => 2
  | _ => 3

/-- A row entering a pass: group values and the counts of elements clipped and underflowed (R76, R77, R272, R274). -/
def rungRow (isFloat : Bool) (rank : Nat) (b : TBuf) (r : Nat) : List (List FVal) × Nat × Nat :=
  if storedRank b.fmt ≤ rank then (rowGroups b r, 0, 0)
  else
    let ns := (rowGroups b r).zipIdx.map (fun g => narrowBlock (rungOf isFloat rank) (bufScale b r g.2) g.1)
    (ns.map (·.vals), ns.foldl (fun a n => a + n.sat) 0, ns.foldl (fun a n => a + n.und) 0)

/-- Products of two groups. -/
def products (xs ys : List FVal) : List FVal := List.zipWith fmul xs ys

/-- The exact sum of a group's products, starting at the first so that a group of −0 sums to −0 (R78, R79). -/
def sumVals (xs : List FVal) : FVal :=
  match xs with
  | [] => .fin false 0 0
  | x :: r => r.foldl fadd x

/-- Absolute value. -/
def fabsVal : FVal → FVal
  | .nan => .nan
  | .inf _ => .inf false
  | .fin _ m e => .fin false m e

/-- Whether an output element counts in CANC: M > 0 and |S| < M 2^-CT, no NaN or infinity among its products (R274). -/
def cancels (ct : Nat) (ps : List FVal) : Bool :=
  if ps.any (fun p => match p with | .fin .. => false | _ => true) then false
  else
    let m := sumVals (ps.map fabsVal)
    match m with
    | .fin _ k _ => k != 0 && flt (fabsVal (sumVals ps)) (fscale m (-(ct : Int)))
    | _ => false

/-- One element of a float pass: a rounding per group (R78, R79). -/
def floatElem (c : Nat) (a b : List (List FVal)) : Nat :=
  (List.zipWith products a b).foldl (fun acc g => toF32 (fadd (ofF32 acc) (sumVals g))) c

/-- A value known to be an integer. -/
def intVal (v : FVal) : Int :=
  match v with
  | .fin n m e => toIntRnd .ne n m e
  | _ => 0

/-- One element of an integer or ternary pass with its clamping steps (R80). -/
def intElemPass (c : Nat) (a b : List (List FVal)) : Nat × Nat :=
  let r := (List.zipWith products a b).foldl (fun (acc : Int × Nat) g =>
    let z := acc.1 + intVal (sumVals g)
    let z' := clampInt z (-(2 ^ 31)) (2 ^ 31 - 1)
    (z', if z' == z then acc.2 else acc.2 + 1)) (signedOf 32 c, 0)
  (wrapInt 32 r.1, r.2)

/-- One element of a semiring pass: products in increasing K, NaN ignored (R81). -/
def semiElem (isMax : Bool) (c : Nat) (a b : List (List FVal)) : Nat :=
  (List.zipWith (fun xs ys => List.zipWith fadd xs ys) a b).foldl (fun acc g =>
    g.foldl (fun acc p =>
      let q := ofF32 (toF32 p)
      if q.isNan then acc
      else toF32 (if isMax then fmax (ofF32 acc) q else fmin (ofF32 acc) q)) acc) c

/-- Element (i, n) of an accumulator (R262). -/
def accElem (a : TAcc) (i n : Nat) : Nat := bits a.data.toNat (32 * (16 * i + n)) 32

/-- An accumulator's data from its elements (R262). -/
def accData (f : Nat → Nat → Nat) : BitVec 8192 :=
  BitVec.ofNat 8192 ((upTo 256).foldr (fun k acc => 2 ^ 32 * acc + f (k / 16) (k % 16) % 2 ^ 32) 0)

/-- The outcome of one pass: the new accumulator data and SATC, UNDC, CANC (R274, R279). -/
structure PassResult where
  data : BitVec 8192
  satc : Nat
  undc : Nat
  canc : Nat
  deriving DecidableEq, Repr

/-- The identity of a mode (R279). -/
def mmaIdentity (mode : MmaMode) : Nat :=
  match mode with
  | .maxp => 0xFF800000
  | .minp => 0x7F800000
  | _ => 0

/-- The operands a mode takes by their stored formats (R278). -/
def mmaTagsOk (mode : MmaMode) (a b : ElemTy) : Bool :=
  match mode with
  | .f | .fp => a.isStoredFloat && b.isStoredFloat
  | .i | .ip => a.isStoredInt && b.isStoredInt
  | .t => (a == .tern2x16 && b == .i8x4) || (a == .i8x4 && b == .tern2x16)
  | .maxp | .minp => a.isStoredFloat && b.isStoredFloat

/-- One pass of a mode at a rank (R78 to R81, R274). -/
def mmaPassOn (mode : MmaMode) (rank ct : Nat) (cin : BitVec 8192) (a b : TBuf) : PassResult :=
  let isFloat := mode == .f || mode == .fp
  let ladder := isFloat || mode == .i || mode == .ip
  let row : TBuf → Nat → List (List FVal) × Nat × Nat := fun t r =>
    if ladder then rungRow isFloat rank t r else (rowGroups t r, 0, 0)
  let ra := (upTo 16).map (row a)
  let rb := (upTo 16).map (row b)
  let tot := fun (f : List (List FVal) × Nat × Nat → Nat) => (ra ++ rb).foldl (fun acc x => acc + f x) 0
  let cell : Nat → Nat × Nat × Bool := fun k =>
    let x := (ra.getD (k / 16) ([], 0, 0)).1
    let y := (rb.getD (k % 16) ([], 0, 0)).1
    let c := bits cin.toNat (32 * k) 32
    let canc := ladder || mode == .t
    let cv := canc && cancels ct (List.zipWith products x y).flatten
    match mode with
    | .f | .fp => (floatElem c x y, 0, cv)
    | .i | .ip | .t => let r := intElemPass c x y; (r.1, r.2, cv)
    | .maxp => (semiElem true c x y, 0, false)
    | .minp => (semiElem false c x y, 0, false)
  let cells := (upTo 256).map cell
  { data := BitVec.ofNat 8192 (cells.foldr (fun z acc => 2 ^ 32 * acc + z.1 % 2 ^ 32) 0)
    satc := tot (·.2.1) + cells.foldl (fun acc z => acc + z.2.1) 0
    undc := tot (·.2.2)
    canc := (cells.filter (·.2.2)).length }

/-- Cycles of a pass (R273). -/
def passCc (mode : MmaMode) (rank : Nat) : Nat :=
  match mode with
  | .t => 4
  | .maxp | .minp => 16
  | .f | .fp => match rank with | 1 => 4 | 2 => 8 | _ => 16
  | .i | .ip => match rank with | 1 => 4 | 2 => 8 | _ => 32

/-- The status token of an MMA (R281). -/
def mmaStatus (r : PassResult) (replays start rank : Nat) : W64 :=
  BitVec.ofNat 64 (2 ^ 40 * r.canc + 2 ^ 24 * min r.undc 0xFFFF + 2 ^ 8 * min r.satc 0xFFFF + replays * 16 + start * 4 + rank)

/-! ## TOP and TROW -/

/-- A buffer with rows of one format's codes and tag (R260): shorter rows leave the rest zero. -/
def bufOf (t : ElemTy) (sc : Bool) (scales : BitVec 1024) (rows : List (List Nat)) : TBuf :=
  { data := rowsData (rows.map (packRow t.width)), fmt := t, sc := sc, scales := scales }

/-- TOP conv without narrowing (R286). -/
def topConv (b : TBuf) (dty : ElemTy) (sat : Bool) : TBuf :=
  bufOf dty false unitScales ((upTo 16).map (fun r => (rowGroups b r).flatten.map (encodeElem dty .ne sat)))

/-- TOP conv with NS: each block narrowed to the rung of DTYPE's format, its scales kept (R286). -/
def topConvNs (b : TBuf) (dty : ElemTy) : TBuf :=
  let rank := storedRank dty
  let rows := (upTo 16).map (fun r =>
    (rowGroups b r).zipIdx.map (fun g => narrowBlock (rungOf true rank) (bufScale b r g.2) g.1))
  let codes := rows.map (fun gs => (gs.map (fun n =>
    match n.scale with
    | none => n.codes.map (fun _ => 0)
    | some _ => n.codes.map (encodeElem dty .ne true))).flatten)
  let scales := rows.flatten.foldr (fun n acc =>
    acc * 256 + (match n.scale with | none => 0xFF | some s => (s + 127).toNat)) 0
  bufOf dty true (BitVec.ofNat 1024 scales) codes

/-- TOP a2b (R286): what lies beyond the rows of the format is zero after it (R260). -/
def topA2b (b : TBuf) (a : TAcc) (dty : ElemTy) (sat si : Bool) (koff : Nat) : TBuf :=
  let keep := b.fmt == dty && !b.sc
  let w := dty.width
  let rows := (upTo 16).map (fun i =>
    let old := if keep then bufRow b i % 2 ^ (256 * w) else 0
    let lo := w * 16 * koff
    let new := packRow w ((upTo 16).map (fun n =>
      let x := accElem a i n
      encodeElem dty .ne sat (if si then ofInt (signedOf 32 x) else ofF32 x)))
    old - bits old lo (16 * w) * 2 ^ lo + new * 2 ^ lo)
  { data := rowsData rows, fmt := dty, sc := false, scales := unitScales }

/-- Row i of an accumulator as f32 words. -/
def accRow (a : TAcc) (i : Nat) : List Word := (upTo 16).map (fun n => BitVec.ofNat 32 (accElem a i n))

/-- TOP rmax: the greatest of each row under VMAX (R286). -/
def topRmax (a : TAcc) : Lanes :=
  mkLanes (fun i => match accRow a i with
    | [] => 0
    | x :: r => r.foldl (laneOp2 .f32 .max) (laneOp2 .f32 .max x x))

/-- TOP rsum: each row in the tree of R82 (R286). -/
def topRsum (a : TAcc) : Lanes := mkLanes (fun i => tree16 (laneOp2 .f32 .add) (accRow a i))

/-- TOP rscale and rsub: element-wise with a lane per row; an invalid lane copies its row (R286). -/
def topRow (op : LaneOp) (a : TAcc) (l : Lanes) (m : Mask) : TAcc :=
  { a with data := accData (fun i n =>
      if m.getLsbD i then laneOp .f32 op (accElem a i n) (lane l i).toNat else accElem a i n) }

/-- TOP exp2 (R286). -/
def topExp2 (a : TAcc) : TAcc :=
  { a with data := accData (fun i n => (sfuLane .exp2 (BitVec.ofNat 32 (accElem a i n))).toNat) }

/-- TOP trans (R286). -/
def topTrans (a : TAcc) : TAcc := { a with data := accData (fun i n => accElem a n i) }

/-- TROW's read of 64 bytes of a buffer (R287). -/
def trowRead (b : TBuf) (row chunk : Nat) : Lanes := BitVec.ofNat 512 (bits b.data.toNat (4096 * row + 512 * chunk) 512)

/-- 512 bits at a bit position replaced where the lane mask is set (R287). -/
def mergeLanes {w : Nat} (x : BitVec w) (pos : Nat) (l : Lanes) (m : Mask) : BitVec w :=
  let sel : Lanes := mkLanes (fun i => if m.getLsbD i then 0xFFFFFFFF else 0)
  let old : Lanes := BitVec.ofNat 512 (bits x.toNat pos 512)
  let new := (l &&& sel) ||| (old &&& ~~~sel)
  (x ^^^ BitVec.ofNat w (old.toNat * 2 ^ pos)) ||| BitVec.ofNat w (new.toNat * 2 ^ pos)

end Sys2Proof.Machine
end

