-- ==== Sys2Proof/Machine/Window.lean ====
section
/-! DEFINITION. On-chip windows: the comb store, tile storage, scale areas, accumulators, registers, kind words and
tile map words of a comb, as agents read and write them (R131 to R133). -/

namespace Sys2Proof.Machine

/-- The context that holds a slot of a comb: home or member (R32, R131). -/
def occupant (s : State) (comb slot : Nat) : Option Nat :=
  (s.ctxs.find? (fun p => p.2.phase != .free && slotOf p.1 == slot && (membersOf p.1 p.2.k).contains comb)).map (·.1)

/-- Every context with a member on a comb. -/
def residents (s : State) (comb : Nat) : List Nat :=
  (s.ctxs.filter (fun p => p.2.phase != .free && (membersOf p.1 p.2.k).contains comb)).map (·.1)

/-- The relative number of a comb in a context's swarm (R33). -/
def relOf (c comb : Nat) : Nat := (homeOf c % 8) ^^^ (comb % 8)

/-- The run bases of a context on a comb: first buffer and first accumulator (R133). -/
def basesAt (x : Ctx) (c comb : Nat) : Nat × Nat := mget (0, 0) (relOf c comb) x.bases

/-- The key of a physical buffer: tensor cell of the module, buffer. -/
def bufKey (comb c b : Nat) : Nat := (4 * comb + c) * 16 + b
/-- The key of a physical accumulator. -/
def accKey (comb c a : Nat) : Nat := (4 * comb + c) * 8 + a

/-- The key of a context's buffer n on swarm tensor cell t (R37, R133). -/
def ctxBufKey (x : Ctx) (c t n : Nat) : Nat :=
  let comb := memberAt (homeOf c) (t / 4)
  bufKey comb (t % 4) ((basesAt x c comb).1 + n)
/-- The key of a context's accumulator a on swarm tensor cell t (R37, R133). -/
def ctxAccKey (x : Ctx) (c t a : Nat) : Nat :=
  let comb := memberAt (homeOf c) (t / 4)
  accKey comb (t % 4) ((basesAt x c comb).2 + a)

/-- The context whose run holds a physical buffer of a comb (R133). -/
def bufOwner (s : State) (comb b : Nat) : Option Nat :=
  (residents s comb).find? (fun c =>
    let x := ctxOf s c
    let t := (basesAt x c comb).1
    decide (t ≤ b) && decide (b < t + kTbufs (kernelOf s x)))

/-- The context whose run holds a physical accumulator of a comb (R133). -/
def accOwner (s : State) (comb a : Nat) : Option Nat :=
  (residents s comb).find? (fun c =>
    let x := ctxOf s c
    let t := (basesAt x c comb).2
    decide (t ≤ a) && decide (a < t + kAccs (kernelOf s x)))

/-- The context slot whose registers a comb's window shows: none in a member comb that is not the home (R131). -/
def regSlot (s : State) (comb slot : Nat) : Option Nat :=
  match occupant s comb slot with
  | some c => if homeOf c == comb then some c else none
  | none => some (8 * comb + slot)

/-- A register as the window shows it: 64 bytes, kind, mask (R131). -/
def regImage (r : RegVal) : Nat × Bool × Mask :=
  match r with
  | .s v => (v.toNat, false, 0)
  | .v l m => (l.toNat, true, m)
  | .reply _ _ => (0, false, 0)
  | .poisoned _ => (0, false, 0)

/-- The register that a word of a comb's window belongs to, with its kind word: context and number (R131). -/
def windowRegOf (s : State) (comb off : Nat) : Option (Nat × Nat) :=
  if 0x190000 ≤ off && off < 0x198000 then
    (regSlot s comb ((off - 0x190000) / 0x1000)).map (fun c => (c, (off - 0x190000) % 0x1000 / 0x40))
  else if 0x198000 ≤ off && off < 0x199000 then
    (regSlot s comb ((off - 0x198000) / 0x200)).map (fun c => (c, (off - 0x198000) % 0x200 / 8))
  else none

/-- The number of the atomic whose reply a window's register waits for (R132, R228). -/
def windowReply (s : State) (comb off : Nat) : Option Nat :=
  match windowRegOf s comb off with
  | some (c, n) => match mget (.s 0) n (ctxOf s c).regs with
    | .reply r _ => some r
    | _ => none
  | none => none

/-- Whether an access of a window waits for a register's reply: the result belongs to the commit point of its atomic (R132,
R228). A write or atomic of number n waits for earlier atomics only; a load or an engine has no number. DESIGN CHOICE, log 94. -/
def windowWaits (s : State) (comb off : Nat) (n : Option Nat) : Bool :=
  match windowReply s comb off with
  | some r => n.all (fun k => decide (r < k))
  | none => false

/-- The tile map word of a slot on a comb (R133). -/
def tileMapWord (s : State) (comb slot : Nat) : Nat :=
  match occupant s comb slot with
  | none => 0
  | some c =>
    let x := ctxOf s c
    let h := kernelOf s x
    let b := basesAt x c comb
    2 ^ 31 + 2 ^ 24 * kTbufs h + 2 ^ 16 * b.1 + 2 ^ 8 * kAccs h + b.2

/-- An aligned 8-byte word of a comb's window (R131). -/
def windowWord (s : State) (comb off : Nat) : W64 :=
  let n : Nat :=
    if off < 0x100000 then memRead s.ms.mem (windowBaseOf comb + off) 8
    else if off < 0x180000 then
      let o := off - 0x100000
      let b := o % 0x20000 / 0x2000
      if (bufOwner s comb b).isSome then bits (mget {} (bufKey comb (o / 0x20000) b) s.tbufs).data.toNat (8 * (o % 0x2000)) 64 else 0
    else if off < 0x184000 then
      let o := off - 0x180000
      let b := o % 0x1000 / 0x100
      if (bufOwner s comb b).isSome then bits (mget {} (bufKey comb (o / 0x1000) b) s.tbufs).scales.toNat (8 * (o % 0x100)) 64 else 0
    else if off < 0x18C000 then
      let o := off - 0x184000
      let a := o % 0x2000 / 0x400
      if (accOwner s comb a).isSome then bits (mget {} (accKey comb (o / 0x2000) a) s.taccs).data.toNat (8 * (o % 0x400)) 64 else 0
    else if 0x190000 ≤ off && off < 0x198000 then
      let o := off - 0x190000
      match regSlot s comb (o / 0x1000) with
      | some c => bits (regImage (mget (.s 0) (o % 0x1000 / 0x40) (ctxOf s c).regs)).1 (8 * (o % 0x40)) 64
      | none => 0
    else if 0x198000 ≤ off && off < 0x199000 then
      let o := off - 0x198000
      match regSlot s comb (o / 0x200) with
      | some c =>
        let r := regImage (mget (.s 0) (o % 0x200 / 8) (ctxOf s c).regs)
        if r.2.1 then 2 ^ 16 + r.2.2.toNat else 0
      | none => 0
    else if 0x199000 ≤ off && off < 0x199040 then tileMapWord s comb ((off - 0x199000) / 8)
    else 0
  BitVec.ofNat 64 n

/-- 64 bits of a wider vector replaced, under a byte mask. -/
def mergeAt {w : Nat} (x : BitVec w) (pos : Nat) (d : W64) (mask : Byte) : BitVec w :=
  let old : W64 := BitVec.ofNat 64 (bits x.toNat pos 64)
  let new := (upTo 8).foldl (fun (acc : W64) k =>
    if mask.getLsbD k then (acc &&& ~~~(BitVec.ofNat 64 (0xFF * 2 ^ (8 * k)))) ||| (d &&& BitVec.ofNat 64 (0xFF * 2 ^ (8 * k))) else acc) old
  BitVec.ofNat w (x.toNat - old.toNat * 2 ^ pos + new.toNat * 2 ^ pos)

/-- Poison of a word after a write of it under a byte mask: a whole-word write clears it (R339). DEDUCED, log 19. -/
def poisonAfter (l : List Nat) (k : Nat) (mask : Byte) : List Nat := if mask == 0xFF then serase k l else l

/-- Whether a word of a comb's window is poisoned (R228, R337, R339): comb store, tile storage, scale areas, accumulators, and
registers that a time-out has poisoned. DESIGN CHOICE, log 94. -/
def windowPoison (s : State) (comb off : Nat) : Bool :=
  if off < 0x100000 then s.ms.poison.contains ((windowBaseOf comb + off) / 8)
  else if off < 0x180000 then
    let o := off - 0x100000
    let b := o % 0x20000 / 0x2000
    (bufOwner s comb b).isSome && (mget {} (bufKey comb (o / 0x20000) b) s.tbufs).poison.contains (o % 0x2000 / 8)
  else if off < 0x184000 then
    let o := off - 0x180000
    let b := o % 0x1000 / 0x100
    (bufOwner s comb b).isSome && (mget {} (bufKey comb (o / 0x1000) b) s.tbufs).poison.contains (1024 + o % 0x100 / 8)
  else if off < 0x18C000 then
    let o := off - 0x184000
    let a := o % 0x2000 / 0x400
    (accOwner s comb a).isSome && (mget {} (accKey comb (o / 0x2000) a) s.taccs).poison.contains (o % 0x400 / 8)
  else match windowRegOf s comb off with
    | some (c, n) => match mget (.s 0) n (ctxOf s c).regs with
      | .poisoned _ => decide (off < 0x198000)
      | _ => false
    | none => false

/-- A context's blocks in flight behind the boundary discarded for a write to its state (R132). -/
def disturb (s : State) (c : Nat) : State := if (ctxOf s c).blocks.isEmpty then s else discardFrom s c 0

/-- A register written through the window (R131): an S token's bytes 8 to 63 ignore writes; one whose atomic's reply is still to
come takes that; a poisoned one is written by a whole word. DESIGN CHOICE, log 94. -/
def windowReg (r : RegVal) (o : Nat) (d : W64) (mask : Byte) : RegVal :=
  match r with
  | .v l m => .v (mergeAt l (8 * o) d mask) m
  | .s x => if o < 8 then .s (mergeAt x 0 d mask) else .s x
  | .reply _ _ => r
  | .poisoned _ => if o < 8 && mask == 0xFF then .s d else r

/-- A kind word written (R131): KIND 0 clears bytes 8 to 63, and MASK is ignored there. A register that waits for a reply or is
poisoned keeps its kind. DESIGN CHOICE, log 94. -/
def windowKind (r : RegVal) (d : W64) (mask : Byte) : RegVal :=
  let im := regImage r
  let old : W64 := BitVec.ofNat 64 (if im.2.1 then 2 ^ 16 + im.2.2.toNat else 0)
  let new := mergeAt old 0 d mask
  match r with
  | .reply _ _ => r
  | .poisoned _ => r
  | _ =>
  if new.getLsbD 16 then .v (BitVec.ofNat 512 im.1) (new.truncate 16)
  else .s (BitVec.ofNat 64 im.1)

/-- A write of bytes within an aligned word of a comb's window (R131 to R133). -/
def windowWrite (s : State) (comb off : Nat) (d : W64) (mask : Byte) : State :=
  if off < 0x100000 then
    let old : W64 := BitVec.ofNat 64 (memRead s.ms.mem (windowBaseOf comb + off) 8)
    { s with ms := { s.ms with
        mem := memWrite s.ms.mem (windowBaseOf comb + off) 8 (mergeAt old 0 d mask).toNat
        poison := poisonAfter s.ms.poison ((windowBaseOf comb + off) / 8) mask } }
  else if off < 0x180000 then
    let o := off - 0x100000
    let b := o % 0x20000 / 0x2000
    match bufOwner s comb b with
    | none => s
    | some c =>
      let s := disturb s c
      let key := bufKey comb (o / 0x20000) b
      { s with tbufs := mmod {} key (fun t => { t with data := mergeAt t.data (8 * (o % 0x2000)) d mask, poison := poisonAfter t.poison (o % 0x2000 / 8) mask }) s.tbufs }
  else if off < 0x184000 then
    let o := off - 0x180000
    let b := o % 0x1000 / 0x100
    match bufOwner s comb b with
    | none => s
    | some c =>
      if o % 0x100 ≥ 128 then s
      else
        let s := disturb s c
        let key := bufKey comb (o / 0x1000) b
        { s with tbufs := mmod {} key (fun t => { t with scales := mergeAt t.scales (8 * (o % 0x100)) d mask, poison := poisonAfter t.poison (1024 + o % 0x100 / 8) mask }) s.tbufs }
  else if off < 0x18C000 then
    let o := off - 0x184000
    let a := o % 0x2000 / 0x400
    match accOwner s comb a with
    | none => s
    | some c =>
      let s := disturb s c
      let key := accKey comb (o / 0x2000) a
      { s with taccs := mmod {} key (fun t => { t with data := mergeAt t.data (8 * (o % 0x400)) d mask, poison := poisonAfter t.poison (o % 0x400 / 8) mask }) s.taccs }
  else if 0x190000 ≤ off && off < 0x198000 then
    let o := off - 0x190000
    match regSlot s comb (o / 0x1000) with
    | some c => modCtx (disturb s c) c (fun x => { x with regs := mmod (.s 0) (o % 0x1000 / 0x40) (fun r => windowReg r (o % 0x40) d mask) x.regs })
    | none => s
  else if 0x198000 ≤ off && off < 0x199000 then
    let o := off - 0x198000
    match regSlot s comb (o / 0x200) with
    | some c => modCtx (disturb s c) c (fun x => { x with regs := mmod (.s 0) (o % 0x200 / 8) (fun r => windowKind r d mask) x.regs })
    | none => s
  else s

/-- `n` bytes of a window from an offset on, within its bytes. -/
def windowRead (s : State) (comb off n : Nat) : Nat :=
  (upTo n).foldr (fun j acc => bits (windowWord s comb ((off + j) / 8 * 8)).toNat (8 * ((off + j) % 8)) 8 + 256 * acc) 0

end Sys2Proof.Machine
end

