-- ==== Sys2Proof/Machine/SysRegs.lean ====
section
/-! DEFINITION. The system registers as GETS reads them and SETS and PSET write them: fields and access (R14, R112,
R128, R176 to R179, R275, R282, R288, R322). -/

namespace Sys2Proof.Machine

/-- TSTAT's bits (R322). -/
def tstatBits (t : TrapRegs) : W64 :=
  BitVec.ofNat 64 (2 ^ 24 * t.retries.toNat + 2 ^ 16 * t.lastact.toNat + t.df.toNat * 4 + t.trd.toNat * 2 + t.hm.toNat)

/-- The touched-slice mask's summary (R128). -/
def touchedBits (x : Ctx) : W64 :=
  let dies := (upTo 4).foldl (fun a d => if x.touched.any (fun n => n / 64 == d) then a + 2 ^ d else a) 0
  BitVec.ofNat 64 (2 ^ 16 * dies + x.touched.length)

/-- A system register's value for a context (R176 to R178). DESIGN CHOICE, log 5. -/
def sysRead (s : State) (c : Nat) (x : Ctx) (r : SysReg) : W64 :=
  match r with
  | .h n => mget 0 n.toNat x.h
  | .tcause => BitVec.ofNat 64 (x.trap.inh.toNat * 256 + x.trap.cause.toNat)
  | .tval => x.trap.tval
  | .tepc => x.trap.tepc
  | .tidx => x.trap.tidx.zeroExtend 64
  | .tstat => tstatBits x.trap
  | .tcause2 => x.trap.cause2.zeroExtend 64
  | .tval2 => x.trap.tval2
  | .tvec => (partOf s x.part).tvec
  | .ppr => x.ppr
  | .rpc n => x.rpc.getD n.toNat 0
  | .sqc => x.sqc
  | .scrbase => BitVec.ofNat 64 (windowBaseOf (homeOf c) + x.scrOff)
  | .scrsize => BitVec.ofNat 64 x.scrSize
  | .touched => touchedBits x

/-- The register as it stood at the boundary between a context's oldest block and the one before it (R178). -/
def boundRead (s : State) (c : Nat) (x : Ctx) (r : SysReg) : W64 :=
  match x.bound, r with
  | some b, .sqc => b.sqc
  | some b, .touched => touchedBits { x with touched := b.touched }
  | some b, .tvec => b.tvec
  | _, r => sysRead s c x r

/-- Whether task mode or handler mode may read a register by GETS (R178). -/
def sysReadable (hm : Bool) (r : SysReg) : Bool :=
  match r with
  | .h _ => hm
  | _ => true

/-- Whether a mode may write a register by SETS (R176, R179). -/
def sysWritable (hm : Bool) (r : SysReg) : Bool :=
  match r with
  | .ppr => true
  | .tvec | .scrbase | .scrsize | .touched => false
  | _ => hm

/-- PPR after a write of the fields a mask selects (R275, R288): a MODE of 0b11 is ignored. -/
def pprWrite (old : W64) (mask : BitVec 6) (v : W64) : W64 :=
  let put : W64 → Nat → Nat → W64 := fun o lo n =>
    let m : W64 := BitVec.ofNat 64 ((2 ^ n - 1) * 2 ^ lo)
    (o &&& ~~~m) ||| (v &&& m)
  let o := if mask.getLsbD 0 then put old 0 8 else old
  let o := if mask.getLsbD 1 then put o 8 8 else o
  let o := if mask.getLsbD 2 then put o 16 8 else o
  let o := if mask.getLsbD 3 then put o 24 4 else o
  let o := if mask.getLsbD 4 then put o 28 1 else o
  if mask.getLsbD 5 && bits v.toNat 29 2 != 3 then put o 29 2 else o

/-- A context after SETS of a register (R14, R179, R322): only the register's RW fields change. -/
def sysWrite (x : Ctx) (r : SysReg) (v : W64) : Ctx :=
  match r with
  | .h n => { x with h := mput n.toNat v x.h }
  | .tcause => { x with trap := { x.trap with inh := v.getLsbD 8, cause := v.truncate 8 } }
  | .tval => { x with trap := { x.trap with tval := v } }
  | .tepc => { x with trap := { x.trap with tepc := v } }
  | .tidx => { x with trap := { x.trap with tidx := v.truncate 10 } }
  | .tstat => { x with trap := { x.trap with retries := BitVec.ofNat 8 (bits v.toNat 24 8) } }
  | .tcause2 => { x with trap := { x.trap with cause2 := v.truncate 8 } }
  | .tval2 => { x with trap := { x.trap with tval2 := v } }
  | .ppr => { x with ppr := pprWrite x.ppr 0x3F v }
  | .rpc n => { x with rpc := lmod n.toNat (fun _ => v) x.rpc }
  | .sqc => { x with sqc := v }
  | .tvec | .scrbase | .scrsize | .touched => x

/-- The writes of a block's fired SETS and PSETs in increasing index order (R179, R288). -/
def sysApply (x : Ctx) (ws : SMap SysWr) : Ctx :=
  ws.foldl (fun x w =>
    match w.2 with
    | .sets r v => sysWrite x r v
    | .pset m v => { x with ppr := pprWrite x.ppr m v }) x

/-- What an instruction could write of a system register, for readers of PPR in younger blocks (R276). -/
def writesPpr (i : Instr) : Bool :=
  match i with
  | .sets _ .ppr => true
  | .pset .. => true
  | _ => false

end Sys2Proof.Machine
end

