-- ==== Sys2Proof/Machine/Control.lean ====
section
/-! DEFINITION. Exits, constants, registers, moves, nulls, tests, TRAP, GETS and SETS (R167 to R186). -/

namespace Sys2Proof.Machine

/-! ## Exits (R171 to R174) -/

/-- The address a fired exit names before commit; none for HALT and TRET (R171). -/
def exitAddr (e : ExitTo) : Option W64 :=
  match e with
  | .goto a => some a
  | .call a _ => some a
  | .halt => none
  | .tret => none

/-- Younger blocks fetched from another address than a fired exit names are discarded (R105). -/
def checkPath (s : State) (c tag : Nat) (e : ExitTo) : State :=
  match (youngerThan (ctxOf s c) tag).head? with
  | some y => if exitAddr e == some y.addr then s else discardYounger s c tag
  | none => s

/-- An exit fires (R171): recorded in its block, and the path it was predicted on is checked (R105). -/
def fireExit (s : State) (i : Issue) (e : ExitTo) : State :=
  let s := setSt (modBlock s i.ctx i.tag (fun b => { b with exits := mput i.idx e b.exits })) i .done
  checkPath s i.ctx i.tag e

/-- An exit to an address, checked (R171). -/
def exitTo (s : State) (i : Issue) (b : Block) (call : Bool) (a : W64) : State :=
  if blockAddrOk a then fireExit s i (if call then .call a (afterBlock b) else .goto a) else recordFault s i 0x0D a

/-- The target of EXIT and CALL (R171). -/
def exitOff (b : Block) (off : BitVec 20) : W64 := b.addr + off.signExtend 64 * 32

/-- An exit through a register operand (R171); with N it does not fire (R92). -/
def exitReg (p : Pr) (call : Bool) (s : State) : Out :=
  fire1 p s (fun i s => setSt s i .done) (fun i _ b t s =>
    match t with
    | .s a => exitTo s i b call a
    | _ => kindFault s i)

/-- NOP never fires (R93): an issued NOP changes nothing but its own progress. -/
def execNop (s : State) : Out := withIssue s (fun i _ _ s => setSt s i .done)
/-- EXIT (R171). -/
def execExit (p : Pr) (_e : BitVec 3) (off : BitVec 20) (s : State) : Out :=
  fire0 p s (fun i _ b s => exitTo s i b false (exitOff b off))
/-- CALL (R171, R172). -/
def execCall (p : Pr) (_e : BitVec 3) (off : BitVec 20) (s : State) : Out :=
  fire0 p s (fun i _ b s => exitTo s i b true (exitOff b off))
/-- EXITR (R171). -/
def execExitr (p : Pr) (_e : BitVec 3) (s : State) : Out := exitReg p false s
/-- CALLR (R171, R172). -/
def execCallr (p : Pr) (_e : BitVec 3) (s : State) : Out := exitReg p true s
/-- RET: EXITR but for its prediction (R171, R172). -/
def execRet (p : Pr) (_e : BitVec 3) (s : State) : Out := exitReg p false s
/-- HALT (R171, R173). -/
def execHalt (p : Pr) (_e : BitVec 3) (s : State) : Out := fire0 p s (fun i _ _ s => fireExit s i .halt)
/-- TRET (R171, R174): from task mode it faults. -/
def execTret (p : Pr) (_e : BitVec 3) (s : State) : Out :=
  fire0 p s (fun i x _ s => if inHandler x then fireExit s i .tret else recordFault s i 0x11 0x012)

/-! ## Constants, registers and moves (R180 to R184) -/

/-- GENC (R180). -/
def execGenc (imm : BitVec 16) (t0 : Target) (s : State) : Out :=
  withIssue s (fun i _ _ s => finish s i 1 [t0] (.s (imm.signExtend 64)))
/-- APPC (R180). -/
def execAppc (imm : BitVec 16) (t0 : Target) (s : State) : Out :=
  scalar1 .always 1 [t0] (fun a => (a <<< 16) ||| imm.zeroExtend 64) s
/-- BADR (R180). -/
def execBadr (imm : BitVec 16) (t0 : Target) (s : State) : Out :=
  withIssue s (fun i _ b s => finish s i 1 [t0] (.s (b.addr + imm.signExtend 64 * 32)))
/-- RD (R106, R181): it waits for older writers; a poisoned register faults it (R228). -/
def execRd (n : BitVec 6) (t1 t0 : Target) (s : State) : Out :=
  withIssue s (fun i x _ s =>
    match readReg x i.tag n.toNat with
    | .wait => setSt s i .held
    | .tok t => finish s i 1 [t0, t1] t
    | .poison a => recordFault s i 0x14 a)
/-- WR (R92, R181): the write recorded; N counts and leaves the register as it is. -/
def execWr (n : BitVec 6) (s : State) : Out :=
  withIssue s (fun i _ _ s =>
    match i.left with
    | some t => setSt (modBlock s i.ctx i.tag (fun b => { b with wr := mput n.toNat t b.wr })) i .done
    | none => setSt s i .waiting)
/-- The left token, of any kind, to every target (R182). -/
def moveLeft (p : Pr) (ts : List Target) (s : State) : Out :=
  fire0 p s (fun i _ _ s =>
    match i.left with
    | some t => finish s i 1 ts t
    | none => setSt s i .waiting)
/-- MOV (R182). -/
def execMov (p : Pr) (t1 t0 : Target) (s : State) : Out := moveLeft p [t0, t1] s
/-- MOV4 (R182). -/
def execMov4 (p : Pr) (t3 t2 t1 t0 : Target) (s : State) : Out := moveLeft p [t0, t1, t2, t3] s
/-- NULL (R183). -/
def execNull (p : Pr) (t1 t0 : Target) (s : State) : Out := fire0 p s (fun i _ _ s => finish s i 1 [t0, t1] .n)
/-- SEL (R92, R184). -/
def execSel (t1 t0 : Target) (s : State) : Out :=
  withIssue s (fun i _ _ s =>
    match i.left, i.right, i.third with
    | some a, some b, some c =>
      match c with
      | .n => finish s i 1 [t0, t1] .n
      | .s v => finish s i 1 [t0, t1] (if v = 0 then b else a)
      | .v _ _ => kindFault s i
    | _, _, _ => setSt s i .waiting)

/-! ## Tests (R185, R186) -/

/-- A test of two registers (R185). -/
def test2 (p : Pr) (t1 t0 : Target) (r : W64 → W64 → Bool) (s : State) : Out :=
  scalar2 p 1 [t0, t1] (fun a b => truth (r a b)) s
/-- A test against the immediate (R186). -/
def testI (p : Pr) (imm : BitVec 9) (t0 : Target) (r : W64 → W64 → Bool) (s : State) : Out :=
  scalar1 p 1 [t0] (fun a => truth (r a (imm9 imm))) s

/-- TEQ (R185). -/
def execTeq (p : Pr) (t1 t0 : Target) (s : State) : Out := test2 p t1 t0 (fun a b => a == b) s
/-- TNE (R185). -/
def execTne (p : Pr) (t1 t0 : Target) (s : State) : Out := test2 p t1 t0 (fun a b => a != b) s
/-- TLT (R185). -/
def execTlt (p : Pr) (t1 t0 : Target) (s : State) : Out := test2 p t1 t0 BitVec.slt s
/-- TLE (R185). -/
def execTle (p : Pr) (t1 t0 : Target) (s : State) : Out := test2 p t1 t0 BitVec.sle s
/-- TLTU (R185). -/
def execTltu (p : Pr) (t1 t0 : Target) (s : State) : Out := test2 p t1 t0 BitVec.ult s
/-- TLEU (R185). -/
def execTleu (p : Pr) (t1 t0 : Target) (s : State) : Out := test2 p t1 t0 BitVec.ule s
/-- TEQI (R186). -/
def execTeqi (p : Pr) (imm : BitVec 9) (t0 : Target) (s : State) : Out := testI p imm t0 (fun a b => a == b) s
/-- TNEI (R186). -/
def execTnei (p : Pr) (imm : BitVec 9) (t0 : Target) (s : State) : Out := testI p imm t0 (fun a b => a != b) s
/-- TLTI (R186). -/
def execTlti (p : Pr) (imm : BitVec 9) (t0 : Target) (s : State) : Out := testI p imm t0 BitVec.slt s
/-- TLEI (R186). -/
def execTlei (p : Pr) (imm : BitVec 9) (t0 : Target) (s : State) : Out := testI p imm t0 BitVec.sle s
/-- TGTI (R186). -/
def execTgti (p : Pr) (imm : BitVec 9) (t0 : Target) (s : State) : Out := testI p imm t0 (fun a b => b.slt a) s
/-- TGEI (R186). -/
def execTgei (p : Pr) (imm : BitVec 9) (t0 : Target) (s : State) : Out := testI p imm t0 (fun a b => b.sle a) s

/-! ## TRAP and system registers (R175 to R179) -/

/-- TRAP (R175). -/
def execTrap (p : Pr) (code : BitVec 9) (s : State) : Out := fire0 p s (fun i _ _ s => recordFault s i 0x10 (code.zeroExtend 64))
/-- GETS (R178): it reads once its block is the oldest; h0 to h7 fault in task mode. -/
def execGets (p : Pr) (r : SysReg) (t0 : Target) (s : State) : Out :=
  fire0 p s (fun i x _ s =>
    if !sysReadable (inHandler x) r then recordFault s i 0x11 (r.num.zeroExtend 64)
    else if !isOldest x i.tag then setSt s i .held
    else
      let s := finish s i 2 [t0] (.s (boundRead s i.ctx x r))
      if r == .tcause then modBlock s i.ctx i.tag (fun b => { b with got := sinsert i.idx b.got }) else s)
/-- SETS (R179): the write recorded against the commit point. -/
def execSets (p : Pr) (r : SysReg) (s : State) : Out :=
  fire1 p s (fun i s => setSt s i .done) (fun i x _ t s =>
    match t with
    | .s v =>
      if sysWritable (inHandler x) r then
        setSt (modBlock s i.ctx i.tag (fun b => { b with sys := mput i.idx (.sets r v) b.sys })) i .done
      else recordFault s i 0x11 (r.num.zeroExtend 64)
    | _ => kindFault s i)

end Sys2Proof.Machine
end

