-- ==== Sys2Proof/Machine/Block.lean ====
section
/-! DEFINITION. The block in memory and its checks: CRC-32C, the checks of R113 in order, and mapping (R85 to R87,
R94, R96, R104, R108, R113, R114, R263). -/

namespace Sys2Proof.Machine

/-! ## The check of R87 -/

/-- One bit of CRC-32C, reflected (R87). -/
def crcBits : Nat → Word → Word
  | 0, c => c
  | n + 1, c => crcBits n (if c.getLsbD 0 then (c >>> 1) ^^^ 0x82F63B78 else c >>> 1)

/-- CRC-32C over bytes (R87). -/
def crc32c (bs : List Byte) : Word :=
  (bs.foldl (fun c b => crcBits 8 (c ^^^ b.zeroExtend 32)) 0xFFFFFFFF) ^^^ 0xFFFFFFFF

/-- The bytes of a word, little-endian (R12). -/
def wordBytes (w : Word) : List Byte := (upTo 4).map (fun k => w.extractLsb' (8 * k) 8)

/-- The CRC of a block (R87). -/
def blockCrc (hdr words : List Word) : Word := crc32c (((hdr.take 6 ++ words).map wordBytes).flatten)

/-! ## The checks of R113 -/

/-- What the running task's header and composition give the checks (R113, R114). -/
structure MapEnv where
  k : Nat
  regs : Nat
  tbufs : Nat
  accs : Nat
  deriving DecidableEq, Repr

/-- A failed check: cause, TVAL, TIDX. -/
abbrev MapFail := BitVec 8 × W64 × Nat

/-- The header's rows of R113. -/
def checkHeader (hdr : List Word) : Option MapFail :=
  let h0 := hw hdr 0
  let z := fun (n : Nat) => (hdr.getD n 0).zeroExtend 64
  if bits h0 28 4 != 1 || exitsOf hdr == 0 || bits h0 17 3 ≥ 5 || bits h0 0 17 != 0 then some (0x01, z 0, 0x100)
  else if !phOf hdr && hw hdr 4 != 0 then some (0x01, z 4, 0x104)
  else if !phOf hdr && hw hdr 5 != 0 then some (0x01, z 5, 0x105)
  else if hw hdr 7 != 0 then some (0x01, z 7, 0x107)
  else none

/-- What earlier instructions of a block have used up: LSIDs, TLDs (cell, buffer, broadcast), tensor
instructions by cell and buffers written by cell. -/
structure MapSeen where
  lsids : List Nat := []
  tlds : List (Nat × Nat × Bool) := []
  tensor : SMap Nat := []
  writes : SMap (List Nat) := []
  deriving DecidableEq, Repr

/-- The buffers (true) and accumulators (false) an instruction names, in the order in which the declaration check takes them:
MMA's accumulator first, then A and B; elsewhere buffers before accumulators. Where several are out of range, R113 does
not say which number TVAL holds. DESIGN CHOICE, log 83. -/
def tileNames (i : Instr) : List (Bool × Nat) :=
  match i with
  | .mma _ _ _ acc a b _ _ _ _ _ => [(false, acc.toNat), (true, a.toNat), (true, b.toNat)]
  | i =>
    let u := tileUse i
    ((u.bufW ++ u.bufR).map (fun n => (true, n))) ++ ((u.accW ++ u.accR).map (fun n => (false, n)))

/-- A legal target of an instruction at an index (R94). A target that names a word which encodes no instruction is illegal;
where its index is the lower, it is the one reported, and the spec does not say which comes first. DESIGN CHOICE, log 84. -/
def targetOk (ws : List Word) (self : Nat) (t : Target) : Bool :=
  match t with
  | .none => true
  | .slot k idx =>
    let n := idx.toNat
    decide (n < ws.length) && n != self &&
    match instrAt ws n with
    | some .nop => false
    | some i => usesSlot i k
    | none => false

/-- Whether an exit at another index carries an exit number (R113). -/
def exitShared (ws : List Word) (self e : Nat) : Bool := (instrsFrom ws 0 false).any (fun p => p.1 != self && exitNum p.2 == some e)

/-- The tensor cells on which an instruction writes buffers (R104, R263). -/
def writeCells (k : Nat) (i : Instr) : List Nat :=
  match tensorCell i with
  | none => []
  | some t => if isBroadcast i then upTo (4 * k) else [t]

/-- The checks of one instruction in table order (R113): a failure, or what it uses up. An exit number that an exit at
another index carries fails, at the lower index first. A broadcast TLD that is the fifth on several tensor cells reports the
lowest of them (R104 names one): DESIGN CHOICE, log 85. DEDUCED, log 64. -/
def checkInstr (env : MapEnv) (hdr ws : List Word) (seen : MapSeen) (idx : Nat) (w : Word) (x : Word) :
    Except MapFail MapSeen :=
  let bad : MapFail := (0x01, w.zeroExtend 64, idx)
  match decode w x with
  | .error _ => .error bad
  | .ok i =>
    if !(targetsOf i).all (targetOk ws idx) then .error bad
    else if (exitNum i).any (fun e => decide (exitsOf hdr ≤ e) || exitShared ws idx e) then .error bad
    else if isPairedWord w && idx + 1 == ws.length then .error bad
    else if (lsidOf i).any (fun l => seen.lsids.contains l) then .error bad
    else if (tldBuf i).any (fun b => seen.tlds.any (fun p =>
        p.2.1 == b && (some p.1 == tensorCell i || p.2.2 || isBroadcast i))) then .error bad
    else if let some r := (namesReg i).filter (fun r => decide (env.regs ≤ r)) then .error (0x07, BitVec.ofNat 64 r, idx)
    else if isCall i && env.regs < 63 then .error (0x07, 62, idx)
    else
      let tc := (tensorCell i).getD 0
      let n := mget 0 tc seen.tensor
      if (tensorCell i).any (fun t => decide (4 * env.k ≤ t) || decide (8 ≤ n)) then .error (0x02, BitVec.ofNat 64 tc, idx)
      else if let some p := (tileNames i).find? (fun p => decide ((if p.1 then env.tbufs else env.accs) ≤ p.2)) then
        .error (0x02, BitVec.ofNat 64 p.2, idx)
      else
        let wr := (writeCells env.k i).foldl (fun m t => (tileUse i).bufW.foldl (fun m b => mmod [] t (sinsert b) m) m) seen.writes
        if let some t := (writeCells env.k i).find? (fun t => decide (4 < (mget [] t wr).length)) then
          .error (0x16, BitVec.ofNat 64 t, idx)
        else .ok {
          lsids := (lsidOf i).toList ++ seen.lsids
          tlds := ((tldBuf i).map (fun b => (tc, b, isBroadcast i))).toList ++ seen.tlds
          tensor := if (tensorCell i).isSome then mput tc (n + 1) seen.tensor else seen.tensor
          writes := wr }

/-- The instructions' checks in increasing index order (R113). -/
def checkInstrs (env : MapEnv) (hdr ws : List Word) : List Word → Nat → Bool → MapSeen → Option MapFail
  | [], _, _, _ => none
  | w :: rest, idx, ext, seen =>
    if ext then checkInstrs env hdr ws rest (idx + 1) false seen
    else
      match checkInstr env hdr ws seen idx w (rest.headD 0) with
      | .error f => some f
      | .ok seen' => checkInstrs env hdr ws rest (idx + 1) (isPairedWord w) seen'

/-- The first failing register of WMASK (R113): its bit without exactly one writer, or a writer without its bit. -/
def checkMask (env : MapEnv) (hdr : List Word) (is : List (Nat × Instr)) : Option MapFail :=
  let m := wmaskOf hdr
  (upTo 64).findSome? (fun n =>
    let ws := (is.filter (fun p => writesReg p.2 == some n)).length
    let bit := m.testBit n
    let h := if n < 32 then 2 else 3
    if (bit && ws != 1) || (!bit && ws != 0) then
      some ((if bit && decide (env.regs ≤ n) then 0x07 else 0x01), (hdr.getD h 0).zeroExtend 64, 0x100 + h)
    else none)

/-- The whole-block checks (R113). -/
def checkWhole (env : MapEnv) (hdr ws : List Word) : Option MapFail :=
  let is := instrsFrom ws 0 false
  let ex := (is.filter (fun p => (exitNum p.2).isSome)).length
  let lc := (is.filter (fun p => (loadLsid p.2).isSome)).length
  let sc := (is.filter (fun p => (storeLsid p.2).isSome)).length
  if ex != exitsOf hdr then some (0x01, (hdr.getD 0 0).zeroExtend 64, 0x100)
  else if hw hdr 1 != lc * 256 + sc then some (0x01, (hdr.getD 1 0).zeroExtend 64, 0x101)
  else checkMask env hdr is

/-- Every check of a fetched block in order: CHECK, header, instructions, whole block (R87, R113). -/
def checkBlock (env : MapEnv) (hdr ws : List Word) : Option MapFail :=
  let crc := blockCrc hdr ws
  if crc != hdr.getD 6 0 then some (0x03, crc.zeroExtend 64, 0x106)
  else (checkHeader hdr).or ((checkInstrs env hdr ws ws 0 false {}).or (checkWhole env hdr ws))

/-- The checks' environment of a context (R114). -/
def mapEnv (s : State) (x : Ctx) : MapEnv :=
  let h := kernelOf s x
  { k := x.k, regs := kRegs h, tbufs := kTbufs h, accs := kAccs h }

/-! ## Mapping (R89, R114) -/

/-- An instruction that uses no slot fires as soon as its block is mapped (R89). -/
def firesAtMap (i : Instr) : Bool := !usesSlot i .left && !usesSlot i .right && !usesSlot i .third

/-- The nodes of a mapped block. -/
def mapNodes (b : Block) (at_ : Nat) : SMap Node :=
  (instrsOf b).foldl (fun m p => mput p.1 { st := if firesAtMap p.2 then .ready at_ else .waiting } m) []

/-- The lowest tag no block in flight uses (R34). -/
def freeTag (x : Ctx) : Nat := ((upTo 16).find? (fun t => !x.blocks.any (fun b => b.tag == t))).getD 15

/-- A block mapped with its header and words: checked, then its instructions that use no slot become ready. -/
def mapBlock (env : MapEnv) (x : Ctx) (addr : W64) (hdr ws : List Word) (now lat : Nat) : Block :=
  let b : Block := { tag := freeTag x, addr := addr, hdr := hdr, words := ws, mappedAt := now + lat,
                     om := omOf hdr || x.strictAt.contains addr }
  match checkBlock env hdr ws with
  | some f => { b with mapTrap := some f }
  | none => { b with nodes := mapNodes b (now + lat) }

end Sys2Proof.Machine
end

