-- ==== Sys2Proof/Machine/Tasks.lean ====
section
/-! DEFINITION. Placement, task start, composition, deques, spill areas, saving and restoring, killing and next work
(R23, R28, R29, R40 to R48, R306, R317 to R321, R330). -/

namespace Sys2Proof.Machine

/-! ## Room (R23, R28, R40) -/

/-- The lowest start, a multiple of `step`, of a run of n below `lim` that meets none of the used runs.
DEDUCED, log 60. -/
def lowestRun (used : List (Nat × Nat)) (n lim step : Nat) : Option Nat :=
  let up : Nat → Nat := fun a => (a + step - 1) / step * step
  let cands := 0 :: used.map (fun u => up (u.1 + u.2))
  let ok := cands.filter (fun a => decide (a + n ≤ lim) && used.all (fun u => decide (a + n ≤ u.1) || decide (u.1 + u.2 ≤ a) || n == 0 || u.2 == 0))
  ok.foldl (fun acc a => match acc with | none => some a | some b => some (min a b)) none

/-- Whether a context that waits to grow holds its reservations against another: against new work, and against a
context that asked to grow later (R40). DESIGN CHOICE, log 72. -/
def askedBefore (s : State) (p : Nat × Ctx) (but : Nat) : Bool :=
  match p.2.growth, (ctxOf s but).growth with
  | some g, some h => p.1 != but && (decide (g.since < h.since) || (g.since == h.since && decide (p.1 < but)))
  | some _, none => p.1 != but
  | none, _ => false

/-- Contexts that wait to grow onto a comb and hold reservations there against a context (R40): their identifiers. -/
def growersOnto (s : State) (comb but : Nat) : List Nat :=
  (s.ctxs.filter (fun p => askedBefore s p but && match p.2.growth with
    | some g => (membersOf p.1 g.k).contains comb && !(membersOf p.1 p.2.k).contains comb
    | none => false)).map (·.1)

/-- Windows assigned on a comb, those reserved for growth included (R34, R40). -/
def windowsUsed (s : State) (comb : Nat) (but : Nat) : Nat :=
  ((residents s comb ++ growersOnto s comb but).filter (fun c => c != but)).foldl (fun a c => a + kWins (kernelOf s (ctxOf s c))) 0

/-- Tile buffers or accumulators a kernel declares, and how many a tensor cell has (R8, R25). -/
def runLen (h : List W64) (acc : Bool) : Nat := if acc then kAccs h else kTbufs h
def runLimit (acc : Bool) : Nat := if acc then 8 else 16

/-- Tile buffers' or accumulators' runs assigned on a comb (R133). -/
def runsOn (s : State) (comb : Nat) (acc : Bool) : List (Nat × Nat) :=
  (residents s comb).map (fun c =>
    let x := ctxOf s c
    let b := basesAt x c comb
    (if acc then b.2 else b.1, runLen (kernelOf s x) acc))

/-- The runs that a context may not take on a comb: those assigned, and those that growing contexts reserve, each the
lowest that fits or, while none does, everything (R40). DESIGN CHOICE, log 72. -/
def runsUsed (s : State) (comb : Nat) (acc : Bool) (but : Nat) : List (Nat × Nat) :=
  (growersOnto s comb but).foldl (fun used c =>
    let n := runLen (kernelOf s (ctxOf s c)) acc
    if n == 0 then used
    else match lowestRun used n (runLimit acc) 1 with
      | some b => used ++ [(b, n)]
      | none => used ++ [(0, runLimit acc)]) (runsOn s comb acc)

/-- Scratch runs of the contexts whose home comb this is (R31). -/
def scratchUsed (s : State) (comb : Nat) : List (Nat × Nat) :=
  (s.ctxs.filter (fun p => p.2.phase != .free && homeOf p.1 == comb)).map (fun p => (p.2.scrOff, p.2.scrSize))

/-- Whether a slot of a comb is free and not reserved for growth (R23, R40). -/
def slotFree (s : State) (comb slot but : Nat) : Bool :=
  (occupant s comb slot).all (fun c => c == but) && !(growersOnto s comb but).any (fun c => slotOf c == slot)
    && !(mget {} comb s.combs).isSealed

/-- Windows and runs on one comb for a context of a kernel, whatever its slot: its run bases (R23). `but` is a growing context
itself. -/
def runRoom (s : State) (h : List W64) (comb but : Nat) : Option (Nat × Nat) :=
  if windowsUsed s comb but + kWins h > 8 then none
  else match lowestRun (runsUsed s comb false but) (kTbufs h) 16 1, lowestRun (runsUsed s comb true but) (kAccs h) 8 1 with
    | some b, some a => some (b, a)
    | _, _ => none

/-- Room on one comb for a context of a kernel in a slot: its run bases (R23). -/
def roomOn (s : State) (h : List W64) (comb slot but : Nat) : Option (Nat × Nat) :=
  if slotFree s comb slot but then runRoom s h comb but else none

/-- Room on a group of k combs from comb `j` on in a slot: bases by relative number and the scratch offset (R23). -/
def roomOnGroup (s : State) (h : List W64) (j k slot : Nat) : Option (SMap (Nat × Nat) × Nat) :=
  let bs := (upTo k).map (fun q => roomOn s h (j + q) slot 0xFFFF)
  if bs.all (·.isSome) then
    match lowestRun (scratchUsed s j) (kScratch h) Config.combStoreBytes 256 with
    | some o => some ((upTo k).zip (bs.map (·.getD (0, 0))), o)
    | none => none
  else none

/-- The first room of a frame: context identifier, bases, scratch offset (R23). DEDUCED, log 60. -/
def findRoom (s : State) (h : List W64) (frame k : Nat) : Option (Nat × SMap (Nat × Nat) × Nat) :=
  (upTo (8 / k)).findSome? (fun g =>
    let j := 8 * frame + g * k
    (upTo 8).findSome? (fun slot => (roomOnGroup s h j k slot).map (fun r => (8 * j + slot, r))))

/-! ## Tile state of contexts (R29, R41) -/

/-- Tile state of a context's members set to its reset value. -/
def clearTiles (s : State) (x : Ctx) (c : Nat) (h : List W64) (combs : List Nat) : State :=
  combs.foldl (fun s comb =>
    let b := basesAt x c comb
    (upTo 4).foldl (fun s t =>
      { s with
        tbufs := (upTo (kTbufs h)).foldl (fun m n => mdel (bufKey comb t (b.1 + n)) m) s.tbufs
        taccs := (upTo (kAccs h)).foldl (fun m n => mdel (accKey comb t (b.2 + n)) m) s.taccs }) s) s

/-! ## The queue processor's journal (R302) -/

/-- The state of a die's queues as a checkpoint holds it (R302). DEDUCED, log 27. -/
def queueMarks (s : State) (die : Nat) : List Mark :=
  (s.parts.map (fun p => (p.2.queues.filter (fun q => q.2.die == die)).map (fun q =>
    ({ part := p.1, queue := q.1, gen := q.2.gen, start := q.2.start, thread := q.2.thread } : Mark)))).flatten

/-- A checkpoint of a die's queues (R302). DEDUCED, log 27. -/
def checkpoint (s : State) (die : Nat) : State :=
  let marks := queueMarks s die
  { s with dies := mmod {} die (fun d => { d with marks := marks, since := 0 }) s.dies }

/-- A record appended to the journal ring of 4,096 of a queue's processor, which checkpoints every 2,048 records (R302).
DEDUCED, log 27. -/
def journalAdd (s : State) (kind part queue idx : Nat) : State :=
  let x := queueOf s part queue
  let r : JournalRec := { kind := kind, part := part, queue := queue, idx := idx, thread := x.thread }
  let t := { s with dies := mmod {} x.die (fun d =>
    { d with journal := (d.journal ++ [r]).drop (d.journal.length + 1 - 4096), since := d.since + 1 }) s.dies }
  if (mget {} x.die t.dies).since < 2048 then t else checkpoint t x.die

/-- Something has happened on which it depends whether a queue's next packet can start (R297, R302). -/
def markReady (s : State) (p q : Nat) : State := modQueue s p q (fun x => { x with ready := s.gtime })

/-- A placement recorded for its launch's packet (R302). -/
def journalPlaced (s : State) (launch : Nat) : State := let l := launchOf s launch; journalAdd s 1 l.part l.queue l.idx

/-! ## Task start (R29) -/

/-- Bytes placed in a comb store. -/
def storeBytes (s : State) (pa n d : Nat) : State := { s with ms := { s.ms with mem := memWrite s.ms.mem pa n d } }

/-- The physical address of a context's scratch byte 0 (R128). -/
def scratchPa (x : Ctx) (c : Nat) : Nat := windowBaseOf (homeOf c) + x.scrOff

/-- Bytes of a comb store stored; a whole word's poison is cleared (R339). -/
def storeRaw (s : State) (pa n d : Nat) : State :=
  let s := storeBytes s pa n d
  if n == 8 && pa % 8 == 0 then { s with ms := { s.ms with poison := serase (pa / 8) s.ms.poison } } else s

/-- The launch's argument record copied into scratch from byte 0 (R29). -/
def storeArgs (s : State) (pa : Nat) : List W64 → State
  | [] => s
  | d :: r => storeArgs (storeRaw s pa 8 d.toNat) (pa + 8) r

/-- Bytes `pa` to `pa + n - 1` of a comb store zeroed, their poison with them (R29, R321). -/
def zeroStore (m : MemSys) (pa n : Nat) : MemSys :=
  { m with mem := memClear m.mem pa (pa + n)
           poison := m.poison.filter (fun w => !(decide (pa / 8 ≤ w) && decide (w < (pa + n) / 8))) }

/-- The registers at task start (R29). -/
def startRegs (h : List W64) (g0 : RegVal) : SMap RegVal :=
  let base : SMap RegVal := [(0, g0)]
  if kRegs h == 64 then mput 63 (.s (BitVec.ofNat 64 (Config.scratchBase + kScratch h))) base else base

/-- A context set to the state of R29 for a task, its placement kept. -/
def startState (s : State) (x : Ctx) (t : Task) (h : List W64) (g0 : RegVal) (entry : W64) : Ctx :=
  { x with phase := .running, task := some { t with start := s.gtime }, regs := startRegs h g0, trap := {}, ppr := 0xFFFF00,
           rpc := [0, 0, 0, 0], sqc := 0, next := entry, blocks := [], touched := [], saveSet := none, live := none, unsealed := [], unsealFault := 0, fifo := [], xlat := none,
           batches := [], batch := 0, batFault := 0, bar := {}, barWait := [], arrived := [], growth := none,
           lateFaults := [], strictAt := [], rstack := [], idle := 0, stalled := false, kill := false, retired := false, fetch := none,
           bound := some ⟨0, [], (partOf s x.part).tvec⟩ }

/-- A task started on a context that is placed (R29): registers, tile state and the argument record; a task of a dependent launch
begins with an acquire (R144, R145). -/
def startTask (s : State) (c : Nat) (t : Task) (g0 : RegVal) (entry : W64) : State :=
  let x := ctxOf s c
  let l := launchOf s t.launch
  let s := clearTiles s x c l.hdr (membersOf c x.k)
  let s := setCtx s c (startState s x t l.hdr g0 entry)
  let s := storeArgs s (scratchPa x c) l.args
  if l.depends then selfInval s c else s

/-- A placement (R23, R29): slot, windows, runs and scratch assigned, scratch zero. DEDUCED, log 60. -/
def beginPlacement (s : State) (c part k : Nat) (h : List W64) (bases : SMap (Nat × Nat)) (off : Nat) : State :=
  let x := ctxOf s c
  let pa := windowBaseOf (homeOf c) + off
  let s := { s with ms := zeroStore s.ms pa (kScratch h) }
  setCtx s c { x with phase := .running, part := part, k := k, bases := bases, scrOff := off, scrSize := kScratch h,
                      placedAt := s.gtime, asides := [], releases := [], preempt := none }

/-- A root tile task of a launch (R22). -/
def tileTask (l : Launch) (launch n : Nat) : Task :=
  { launch := launch, id := n, x := n % l.x, y := n / l.x % l.y, z := n / (l.x * l.y), rank := if kGang l.hdr then some n else none }

/-- A root tile task placed on a room of a frame (R23, R29). -/
def placeTile (s : State) (launch n : Nat) (room : Nat × SMap (Nat × Nat) × Nat) : State :=
  let l := launchOf s launch
  let s := beginPlacement s room.1 l.part (kSwarm l.hdr) l.hdr room.2.1 room.2.2
  let s := modLaunch s launch (fun l => { l with nextTile := max l.nextTile (n + 1), live := l.live + 1, lastPlaced := s.gtime })
  let s := markReady s l.part l.queue
  startTask s room.1 (tileTask l launch n) (.s (BitVec.ofNat 64 n)) (l.hdr.getD 0 0)

/-- A child as a task (R44, R49). -/
def childTask (ch : Child) : Task :=
  { launch := ch.launch, id := ch.id, x := ch.x, y := ch.y, z := ch.z, parent := some ch.parent }

/-- The acquire at the start of a child task (R145). -/
def startChild (s : State) (c : Nat) (ch : Child) : State :=
  selfInval (startTask s c (childTask ch) (.v ch.arg 0xFFFF) ch.entry) c

/-! ## The end of tasks and launches (R24, R45) -/

/-- A packet of a queue changed. -/
def modPkt (s : State) (p q idx : Nat) (f : Packet → Packet) : State :=
  modQueue s p q (fun x => { x with pkts := match mfind idx x.pkts with | some k => mput idx (f k) x.pkts | none => x.pkts })

/-- A launch all of whose tasks and descendants have retired ends its packet's effect (R24, R298). -/
def launchCheck (s : State) (launch : Nat) : State :=
  let l := launchOf s launch
  if l.ending || decide (0 < l.live) || (!l.killing && (decide (l.nextTile < l.x * l.y * l.z) || !l.preempted.isEmpty || !l.relocated.isEmpty)) then s
  else
    let s := modLaunch s launch (fun l => { l with ending := true })
    modPkt s l.part l.queue l.idx (fun k => { k with status := some (if l.killed then 4 else 1), effect := true })

/-- A task has retired (R24, R45): its parent's count and its launch's follow. -/
def retireTask (s : State) (t : Task) : State :=
  let s := modLaunch s t.launch (fun l =>
    { l with live := l.live - 1, kids := match t.parent with | some p => mmod 0 p (· - 1) l.kids | none => l.kids })
  launchCheck s t.launch

/-! ## The device's own reads and writes of spill areas and the save pool (R336) -/

/-- Words that carry poison somewhere: at their homes or in a cache (R339). -/
def poisonList (m : MemSys) : List Nat :=
  let ofSpans : List Span → List Nat := fun l =>
    (l.map (fun sp => (sp.words.zipIdx.filter (fun q => q.1.poison)).map (fun q => 64 * sp.region + sp.s + q.2))).flatten
  m.poison ++ ((m.hives.map (fun p => ofSpans p.2)).flatten ++ (m.caches.map (fun p => ofSpans p.2)).flatten)

/-- The lowest poisoned word of a range that a read at the homes meets (R339). -/
def poisonedIn (m : MemSys) (lo hi : Nat) : Option Nat :=
  ((poisonList m).filter (fun w => decide (lo ≤ w) && decide (w < hi) && (coherentWord m w).2)).foldl (fun acc w =>
    match acc with | none => some w | some v => some (min v w)) none

/-- The lowest poisoned word of a range on another module, by its offset from the range's start (R339). -/
def poisonedAway (m : MemSys) (k n : Nat) : Option Nat :=
  ((m.poison.filter (fun w => decide (remoteTag k ≤ w) && decide (w ≤ remoteTag (k + n - 1)))).foldl (fun acc w =>
    match acc with | none => some w | some v => some (min v w)) none).map (fun w => 8 * (w - remoteTag k) - k % 8)

/-- The first failing address of a range of the device's own, page by page: its cause and address; a poisoned word
fails a read (R336, R339). -/
def devRange (s : State) (part va n : Nat) (acc : Acc) : Option (BitVec 8 × Nat) :=
  (pagePieces va n (n / 65536 + 2)).findSome? (fun p =>
    match devAddr s part p.1 acc with
    | .error c => some (c, p.1)
    | .ok (.home pa) =>
      if acc == .rd then (poisonedIn s.ms (pa / 8) ((pa + p.2 + 7) / 8)).map (fun w => (0x0F, p.1 + (8 * w - pa)))
      else none
    | .ok (.remote md a) => if acc == .rd then (poisonedAway s.ms (remoteKey md a) p.2).map (fun o => (0x0F, p.1 + o)) else none
    | .ok (.hostMem a) => if acc == .rd then (poisonedAway s.ms (remoteKey 4096 a) p.2).map (fun o => (0x0F, p.1 + o)) else none
    | .ok _ => none)

/-! ## Spill areas and deques (R43) -/

/-- Units of a launch's spill area that hold set-aside records, or are reserved for one being saved: first unit and number. -/
def asideUnits (s : State) (launch : Nat) : List (Nat × Nat) :=
  (s.saves.filter (fun p => p.2.task.launch == launch && p.2.place % 2 == 1)).map (fun p => (p.2.place / 2, p.2.units))
    ++ s.ctxs.filterMap (fun p => match p.2.phase with
        | .setAside _ => if p.2.task.any (fun t => t.launch == launch) then p.2.saveAt else none
        | _ => none)

/-- Units that hold spilled entries. -/
def entryUnits (l : Launch) : List Nat := l.spilled.foldl (fun a e => sinsert e.unit a) []

/-- The lowest free place for an entry: a unit of entries with room, or a free unit (R43). -/
def spillPlace (s : State) (launch : Nat) : Option (Nat × Nat) :=
  let l := launchOf s launch
  let taken := asideUnits s launch
  (upTo l.spillu).findSome? (fun u =>
    if taken.any (fun r => decide (r.1 ≤ u) && decide (u < r.1 + r.2)) then none
    else
      let here := l.spilled.filter (fun e => e.unit == u)
      if here.length < 512 then
        ((upTo 512).find? (fun k => !here.any (fun e => e.place == k))).map (fun k => (u, k))
      else none)

/-- The address of a place in a spill area (R43). -/
def spillAddr (l : Launch) (u k : Nat) : Nat := l.spill + 65536 * u + k * 128

/-- Whether the oldest entry of a full deque can move to its launch's spill area: the failing address of a write the
partition may not make with its cause, or `none` when the area is full (R43, R336). -/
def spillCheck (s : State) (e : Child) : Except (Option (BitVec 8 × Nat)) (Nat × Nat) :=
  let l := launchOf s e.launch
  match spillPlace s e.launch with
  | none => .error none
  | some p =>
    match devRange s l.part (spillAddr l p.1 p.2) 128 .wr with
    | none => .ok p
    | some f => .error (some (f.1, spillAddr l p.1 p.2))

/-- A comb changed. -/
def modComb (s : State) (comb : Nat) (f : Comb → Comb) : State := { s with combs := mmod {} comb f s.combs }

/-- An entry put into its launch's spill area, tagged with the comb it left (R43). -/
def spillEntry (s : State) (comb : Nat) (e : Child) (p : Nat × Nat) (waits : Bool) : State :=
  bumpSeq (modLaunch s e.launch (fun l => { l with spilled := l.spilled ++ [⟨comb, e, p.1, p.2, s.seq, waits⟩] }))

/-- A child that was lost before it ran is killed (R330, R336): it retires at once. -/
def dropChild (s : State) (ch : Child) : State :=
  launchCheck (modLaunch s ch.launch (fun l =>
    { l with killed := true, live := l.live - 1, kids := mmod 0 ch.parent (· - 1) l.kids })) ch.launch

/-- A spilled entry leaves its area: its child, or none when its read fails, which kills the child (R43, R336). -/
def takeSpilled (s : State) (launch : Nat) (e : Spilled) : Option Child × State :=
  let l := launchOf s launch
  let s := modLaunch s launch (fun x => { x with spilled := x.spilled.erase e })
  match devRange s l.part (spillAddr l e.unit e.place) 128 .rd with
  | none => (some e.child, s)
  | some f => (none, dropChild (deviceFault s l.part f l.idx l.queue) e.child)

/-- The later spilled of two entries (R43). -/
def newerSpilled (a : Option (Nat × Spilled)) (b : Nat × Spilled) : Option (Nat × Spilled) :=
  match a with
  | none => some b
  | some c => if c.2.order < b.2.order then some b else some c

/-- The entry that a comb spilled last, of those that a test accepts, with its launch (R43). -/
def newestSpilled (s : State) (comb : Nat) (ok : Child → Bool) : Option (Nat × Spilled) :=
  s.launches.foldl (fun acc p => p.2.spilled.foldl (fun acc e =>
    if e.comb == comb && !e.waits && ok e.child then newerSpilled acc (p.1, e) else acc) acc) none

/-- One move at a comb's deque (R43): a push that waits goes in, the oldest entry spilled for it if need be; with no push
waiting, the newest spilled entry returns to the top while there is room. DESIGN CHOICE, log 73. -/
def dequeMove (s : State) (comb : Nat) : Option State :=
  let k := mget {} comb s.combs
  let room := decide (k.deque.length < Config.dequeEntries)
  match k.pushing, k.deque with
  | p :: ps, d =>
    if room then some (modComb s comb (fun k => { k with deque := k.deque ++ [p], pushing := ps }))
    else match d with
      | [] => none
      | e :: r => match spillCheck s e with
        | .ok u => some (spillEntry (modComb s comb (fun k => { k with deque := r ++ [p], pushing := ps })) comb e u false)
        | .error _ => none
  | [], _ =>
    if room then
      (newestSpilled s comb (fun _ => true)).map (fun e =>
        let t := takeSpilled s e.1 e.2
        match t.1 with
        | some ch => modComb t.2 comb (fun k => { k with deque := ch :: k.deque })
        | none => t.2)
    else none

/-- A comb's deque after its waiting pushes and returns (R43). -/
def settleDeque (comb : Nat) : Nat → State → State
  | 0, s => s
  | n + 1, s => match dequeMove s comb with
    | some t => settleDeque comb n t
    | none => s

/-- A comb's deque brought to rest (R43). -/
def restDeque (s : State) (comb : Nat) : State := settleDeque comb (2 * Config.dequeEntries) s

/-- A child record pushed onto the bottom of a comb's deque (R43). DEDUCED, log 35. -/
def pushChild (s : State) (comb : Nat) (ch : Child) : State :=
  restDeque (modComb s comb (fun k => { k with pushing := k.pushing ++ [ch] })) comb

/-- The bottom-most entry of a comb's logical deque that a context may take (R46 step 2, R47); a spilled one that cannot
be read is passed over, its child killed (R336). -/
def takeBottom (comb : Nat) (ok : Child → Bool) : Nat → State → Option Child × State
  | 0, s => (none, s)
  | n + 1, s =>
    match (mget {} comb s.combs).deque.reverse.find? ok with
    | some e => (some e, restDeque (modComb s comb (fun k => { k with deque := k.deque.erase e })) comb)
    | none =>
      match newestSpilled s comb ok with
      | none => (none, s)
      | some e =>
        let t := takeSpilled s e.1 e.2
        match t.1 with
        | some ch => (some ch, restDeque t.2 comb)
        | none => takeBottom comb ok n (restDeque t.2 comb)

/-- Whether a comb's logical deque holds an entry that a context may take (R46 step 2, R47). -/
def holdsEntry (s : State) (comb : Nat) (ok : Child → Bool) : Bool :=
  (mget {} comb s.combs).deque.any ok || (newestSpilled s comb ok).isSome

/-- The entries of all launches and combs, an upper bound on the reads of one search. -/
def entryCount (s : State) : Nat := s.launches.foldl (fun a p => a + p.2.spilled.length) 1

/-- The top entry of a comb's logical deque of a launch: the oldest spilled, else the top of the hardware deque
(R46 step 4). -/
def takeTop (comb launch : Nat) : Nat → State → Option Child × State
  | 0, s => (none, s)
  | n + 1, s =>
    match (launchOf s launch).spilled.find? (fun e => e.comb == comb) with
    | some e =>
      let t := takeSpilled s launch e
      match t.1 with
      | some ch => (some ch, restDeque t.2 comb)
      | none => takeTop comb launch n (restDeque t.2 comb)
    | none =>
      match (mget {} comb s.combs).deque.find? (fun e => e.launch == launch) with
      | some e => (some e, restDeque (modComb s comb (fun k => { k with deque := k.deque.erase e })) comb)
      | none => (none, s)

/-- The first entry that a thief finds in its search order (R46 step 4). -/
def stealFrom (launch : Nat) : List Nat → State → Option Child × State
  | [], s => (none, s)
  | v :: vs, s =>
    let t := takeTop v launch (entryCount s) s
    match t.1 with
    | some e => (some e, t.2)
    | none => stealFrom launch vs t.2

/-- A thief's search order (R46 step 4). -/
def victims (home steal : Nat) : List Nat :=
  let f := home / 8
  let own := ((upTo 5).map (fun d => (upTo 8).filterMap (fun j =>
    if 8 * f + j != home && combDistance home (8 * f + j) == d then some (8 * f + j) else none))).flatten
  let die := home / 128
  let frames := (rangeFrom 1 15).map (fun i => 16 * die + (f % 16 + i) % 16)
  let dies := (rangeFrom 1 3).map (fun i => (die + i) % 4)
  let ofFrame : Nat → List Nat := fun f => (upTo 8).map (fun j => 8 * f + j)
  (if 2 ≤ steal then own else [])
    ++ (if 3 ≤ steal then (frames.map ofFrame).flatten else [])
    ++ (if 4 ≤ steal then (dies.map (fun d => ((upTo 16).map (fun k => ofFrame (16 * d + k))).flatten)).flatten else [])

/-! ## Saving and restoring (R317 to R320) -/

/-- Ranges of scratch bytes saved: the whole of it, or the saved-scratch set (R256, R318). -/
def savedRanges (x : Ctx) (full : Bool) : List (Nat × Nat) :=
  if full then [(0, x.scrSize)] else (x.saveSet.getD [(0, x.scrSize)])

/-- Tensor cells saved: all, or those of TLIVE (R318). -/
def savedCells (x : Ctx) (h : List W64) (full : Bool) : List Nat :=
  (upTo (4 * x.k)).filter (fun t => full || (kTlive h).testBit t)

/-- The size bound of a record in units of 64 KiB (R319). -/
def recordUnits (x : Ctx) (h : List W64) (full : Bool) : Nat :=
  let scr := (savedRanges x full).foldl (fun a r => a + r.2) 0
  let tiles := 8448 * kTbufs h + 1024 * kAccs h + 64
  (65535 + (8192 + 4096 * ((4095 + scr) / 4096) + tiles * (savedCells x h full).length)) / 65536

/-- The first fault among the finished copy requests of a context that no BATCH has sealed (R245, R247). -/
def unsealedFault (s : State) (x : Ctx) : W64 :=
  if x.unsealFault != 0 then x.unsealFault
  else (x.unsealed.findSome? (fun n => (mfind n s.ms.copies).bind (fun q => if q.fault == 0 then none else some q.fault))).getD 0

/-- The record of a context at a stop (R318). A timed BAR's count pauses from here. DESIGN CHOICE, log 26, log 110; DEDUCED,
log 37. -/
def saveRecord (s : State) (c : Nat) (full : Bool) (units place : Nat) : Option Saved :=
  let x := ctxOf s c
  match x.task with
  | none => none
  | some t =>
    let h := kernelOf s x
    let pa := scratchPa x c
    let ranges := savedRanges x full
    let inR : Nat → Bool := fun a => ranges.any (fun r => decide (r.1 ≤ a) && decide (a < r.1 + r.2))
    let live := x.live.getD (2 ^ 64 - 1)
    let cells := savedCells x h full
    some { task := t, k := match x.growth with | some g => g.k | none => x.k, regs := x.regs.filter (fun p => full || live.testBit p.1), h := x.h, trap := x.trap, ppr := x.ppr,
           rpc := x.rpc, sqc := x.sqc, next := x.next,
           scratch := (s.ms.mem.filter (fun p => decide (pa ≤ p.1) && decide (p.1 < pa + x.scrSize) && inR (p.1 - pa))).map (fun p => (p.1 - pa, p.2)),
           ranges := ranges, saveSet := x.saveSet, live := x.live, parkedAt := if x.phase == .saving full true then some c else none, unsealFault := unsealedFault s x,
           poison := (s.ms.poison.filter (fun w => decide (pa ≤ 8 * w) && decide (8 * w < pa + x.scrSize) && inR (8 * w - pa))).map (fun w => w - pa / 8), batch := x.batch, batFault := x.batFault, bar := x.bar, barWait := x.barWait.map (fun b => { b with left := b.left.map (fun t => t - s.cycles) }),
           arrived := x.arrived,
           bufs := (cells.map (fun t => (upTo (kTbufs h)).map (fun n => (16 * t + n, mget {} (ctxBufKey x c t n) s.tbufs)))).flatten,
           accs := (cells.map (fun t => (upTo (kAccs h)).map (fun n => (8 * t + n, mget {} (ctxAccKey x c t n) s.taccs)))).flatten,
           parked := (match x.phase with | .saving _ p => p | _ => false), units := units, place := place, below := x.asides }

/-- A scratch byte after a restore: saved, or a free value (R318). -/
def restoreScratch (s : State) (pa size : Nat) (r : Saved) : State :=
  let inR : Nat → Bool := fun a => r.ranges.any (fun q => decide (q.1 ≤ a) && decide (a < q.1 + q.2))
  let whole := r.ranges.any (fun q => q.1 == 0 && decide (size ≤ q.2))
  let base := zeroStore s.ms pa size
  let ms := { base with poison := r.poison.foldl (fun l w => sinsert (pa / 8 + w) l) base.poison }
  let mem := r.scratch.foldl (fun m p => memSet m (pa + p.1) p.2) base.mem
  if whole then { s with ms := { ms with mem := mem } }
  else
    let mem := (upTo size).foldl (fun m a => if inR a then m else memSet m (pa + a) (Config.freeByte (s.fresh + a))) mem
    { s with ms := { ms with mem := mem }, fresh := s.fresh + size }

/-- A saved task restored on a context whose placement is made (R320): its state, tile state and scratch, then the
self-invalidation of every member comb. DESIGN CHOICE, log 26. -/
def restoreTask (s : State) (c : Nat) (r : Saved) : State :=
  let x := ctxOf s c
  let h := (launchOf s r.task.launch).hdr
  let s := clearTiles s x c h (membersOf c x.k)
  let s := { s with
    tbufs := (r.bufs.filter (fun p => decide (p.1 / 16 < 4 * x.k))).foldl (fun m p => mput (ctxBufKey x c (p.1 / 16) (p.1 % 16)) p.2 m) s.tbufs
    taccs := (r.accs.filter (fun p => decide (p.1 / 8 < 4 * x.k))).foldl (fun m p => mput (ctxAccKey x c (p.1 / 8) (p.1 % 8)) p.2 m) s.taccs }
  let s := restoreScratch s (scratchPa x c) x.scrSize r
  let y : Ctx := { startState s x r.task h (.s 0) r.next with
    task := some r.task, regs := r.regs, h := r.h, saveSet := r.saveSet, live := r.live, trap := r.trap, ppr := r.ppr, rpc := r.rpc, sqc := r.sqc, batch := r.batch, unsealFault := r.unsealFault,
    batFault := r.batFault, bar := r.bar, barWait := r.barWait.map (fun b => { b with left := b.left.map (fun t => s.cycles + t) }), arrived := r.arrived, asides := r.below,
    phase := if r.parked then .parked else if !r.barWait.isEmpty then .barrier else .running }
  selfInval (setCtx s c { y with bound := some (boundNow s y) }) c

/-- Whether a launch has tasks that await placement (R305). -/
def launchReady (l : Launch) : Bool :=
  !l.ending && !l.killing && (decide (l.nextTile < l.x * l.y * l.z) || !l.preempted.isEmpty || !l.relocated.isEmpty
    || l.spilled.any (·.waits))

/-- The ready launches of a partition: the first of each queue (R305). -/
def headLaunches (s : State) (p : Nat) : List (Nat × Nat) :=
  s.launches.foldl (fun acc l =>
    if l.2.part == p && launchReady l.2 && !acc.any (fun a => a.1 == l.2.queue) then acc ++ [(l.2.queue, l.1)] else acc) []

/-- A dispatch decision requested, where a ready queue exists (R303). -/
def requestDispatch (s : State) (p : Nat) : State :=
  if (partOf s p).en && !(headLaunches s p).isEmpty then requestDecision s p .dispatch else s

/-- Whether a context may ever take an entry of a comb's logical deque of its launch (R46 steps 2 and 4). -/
def mayReach (s : State) (comb : Nat) (e : Child) (p : Nat × Ctx) : Bool :=
  let steal := kSteal (launchOf s e.launch).hdr
  p.2.phase != .free && p.2.task.any (fun t => t.launch == e.launch)
    && (if homeOf p.1 == comb then steal != 0 || e.forkCtx == p.1 else (victims (homeOf p.1) steal).contains comb)

/-- Entries of a launch that no context in use may take any more become children that await placement, as those of R315
do: every forked child completes (R54). Those of a comb whose frame is leaving stay for the move to the spill areas (R321).
DEDUCED, log 74. -/
def freeStranded (s : State) (launch : Nat) : State :=
  let lost : Nat → Child → Bool := fun comb e =>
    e.launch == launch && !(mget {} (frameOf comb) s.frames).scrub && !s.ctxs.any (mayReach s comb e)
  let out := (s.combs.map (fun p => p.2.deque.filter (lost p.1))).flatten
  let sp := (launchOf s launch).spilled.filter (fun e => !e.waits && lost e.comb e.child)
  if out.isEmpty && sp.isEmpty then s
  else
    let s1 : State := { s with combs := s.combs.map (fun p => (p.1, { p.2 with deque := p.2.deque.filter (fun e => !lost p.1 e) })) }
    let s1 := modLaunch s1 launch (fun l =>
      { l with relocated := l.relocated ++ (sp.map (·.child) ++ out), spilled := l.spilled.filter (fun e => e.waits || !lost e.comb e.child) })
    (s.combs.map (·.1)).foldl restDeque s1

/-- A context freed (R46 step 5): its placement ends; h0 to h7 stay with the slot (R177). -/
def freeCtx (s : State) (c : Nat) : State :=
  let x := ctxOf s c
  let s := setCtx s c { h := x.h, part := x.part }
  let s := modPart s x.part (fun p => { p with poolRetry := serase c p.poolRetry, writeRetry := serase c p.writeRetry })
  let s := match x.task with | some t => freeStranded s t.launch | none => s
  requestDispatch s x.part

/-! ## Growing and shrinking (R39 to R42) -/

/-- The combs a context frees when it shrinks to k' (R41). -/
def departing (x : Ctx) (c k : Nat) : List Nat := (membersOf c x.k).filter (fun comb => !(membersOf c k).contains comb)

/-- A context shrunk to k' combs (R41): tile state on the departing cells is discarded. -/
def shrinkTo (s : State) (c k : Nat) : State :=
  let x := ctxOf s c
  let gone := departing x c k
  let s := clearTiles s x c (kernelOf s x) gone
  setCtx s c { x with k := k, bases := x.bases.filter (fun p => decide (p.1 < k)) }

/-- Whether a frame is reserved in its partition (R315, R316). -/
def frameReserved (s : State) (frame : Nat) : Bool :=
  match (mget {} frame s.frames).owner with
  | some p => (partOf s p).reserve.any (fun r => r.frames.contains frame)
  | none => false

/-- Whether a frame is reserved for another launch than a context's: slots that free there stay free (R315, R316). -/
def reservedFrom (s : State) (c : Nat) : Bool :=
  match (mget {} (frameOf (homeOf c)) s.frames).owner with
  | some p => (partOf s p).reserve.any (fun r => r.frames.contains (frameOf (homeOf c)) && !(ctxOf s c).task.any (fun t => t.launch == r.launch))
  | none => false

/-- The bases a growth to k' gives on the combs that join, when each has room (R40) and the frame is not reserved for
another launch (R315). -/
def growthRoom (s : State) (c k : Nat) : Option (SMap (Nat × Nat)) :=
  let x := ctxOf s c
  let h := kernelOf s x
  let qs := (upTo k).filter (fun q => decide (x.k ≤ q))
  let bs := qs.map (fun q => roomOn s h (memberAt (homeOf c) q) (slotOf c) c)
  if bs.all (·.isSome) && !reservedFrom s c then some (qs.zip (bs.map (·.getD (0, 0)))) else none

/-- A growth that has room takes effect (R40, R41): joining tile state starts at zero. -/
def growNow (s : State) (c : Nat) (g : Growth) (bs : SMap (Nat × Nat)) : State :=
  let x := ctxOf s c
  let old := membersOf c x.k
  let y := { x with k := g.k, bases := bs.foldl (fun m p => mput p.1 p.2 m) x.bases, growth := none, phase := .running }
  let s := setCtx s c y
  clearTiles s y c (kernelOf s y) ((membersOf c g.k).filter (fun comb => !old.contains comb))

/-- The contexts that stand in the way of a growth (R40): the occupant of slot c on an added comb, then others in
rising slot number while windows or runs are still short; pinned ones stay. -/
def inTheWay (s : State) (c k : Nat) : List Nat :=
  let x := ctxOf s c
  let h := kernelOf s x
  (departing { x with k := k } c x.k).foldl (fun acc comb =>
    let occ := (residents s comb).filter (fun o => o != c && !((ctxOf s o).task.any (fun t => (launchOf s t.launch).pin)))
    let first := occ.filter (fun o => slotOf o == slotOf c)
    let rest := ((upTo 8).map (fun sl => occ.filter (fun o => slotOf o == sl && slotOf o != slotOf c))).flatten
    let fits : List Nat → Bool := fun gone =>
      let s' := gone.foldl (fun s o => setCtx s o {}) s
      (runRoom s' h comb c).isSome
    let more := rest.foldl (fun got o => if fits (first ++ got) then got else got ++ [o]) []
    acc ++ (first ++ more).filter (fun o => !acc.contains o)) []

/-! ## Retiring and next work (R45, R46, R330) -/

/-- Whether a frame may take new work: owned by the partition, not leaving it, not being scrubbed. -/
def frameUsable (s : State) (p frame : Nat) : Bool :=
  let f := mget {} frame s.frames
  f.owner == some p && !f.scrub && (partOf s p).frames.getLsbD frame

/-- Where a record lies: in its launch's spill area (R43, R47), or in its partition's save pool (R319). -/
def recordAddr (s : State) (v : Saved) : Nat :=
  let l := launchOf s v.task.launch
  (if v.place % 2 == 1 then l.spill else (partOf s l.part).saveb.toNat) + 65536 * (v.place / 2)

/-- The CRC-32C register after a word's eight bytes (R87). -/
def crcWord (d : W64) (c : Word) : Word :=
  (upTo 8).foldl (fun c k => crcBits 8 (c ^^^ (d.extractLsb' (8 * k) 8).zeroExtend 32)) c

/-- A word of the device's own within a range it may read, at its home or away (R336). -/
def placeWordAt (s : State) (pl : Place) (k : Nat) : W64 :=
  match pl with
  | .home pa => (coherentWord s.ms ((pa + k) / 8)).1
  | .remote m a => (remoteWord s.ms (remoteKey m (a + k))).1
  | .hostMem a => (remoteWord s.ms (remoteKey 4096 (a + k))).1
  | _ => 0

/-- The CRC-32C over a record's 64 KiB units (R87, R319). -/
def recordCrc (s : State) (part va units : Nat) : Nat :=
  ((upTo units).foldl (fun c u =>
    match devAddr s part (va + 65536 * u) .rd with
    | .ok pl => (upTo 8192).foldl (fun c k => crcWord (placeWordAt s pl (8 * k)) c) c
    | .error _ => c) (0xFFFFFFFF : Word) ^^^ 0xFFFFFFFF).toNat

/-- A record that cannot be restored, its failure recorded: a read of it fails (kind 10, R336), or it fails its CRC (kind 4,
R319, R335). None where it reads well. DESIGN CHOICE, log 26. -/
def recordFails (s : State) (v : Saved) : Option State :=
  let l := launchOf s v.task.launch
  match devRange s l.part (recordAddr s v) (65536 * v.units) .rd with
  | some e => some (deviceFault s l.part e l.idx l.queue)
  | none =>
    if recordCrc s l.part (recordAddr s v) v.units == v.crc then none
    else some (faultRecord s l.part { kind := 4, tval := recordAddr s v, task := v.task.id, index := l.idx, queue := l.queue })

/-- The tasks set aside on a context, from a record upward in its stack, handed to their launch: the newest awaits placement
with the rest below it (R48, R306). DEDUCED, log 75. -/
def handOver (s : State) (launch r : Nat) (below : List Nat) : State :=
  let s := { s with saves := match mfind r s.saves with | some v => mput r { v with below := below } s.saves | none => s.saves }
  modLaunch s launch (fun l => { l with preempted := l.preempted ++ [r] })

/-- A context that waits between two tasks leaves its slot: the tasks set aside on it await placement elsewhere
(R46, R48, R317). DEDUCED, log 75. -/
def leaveBetween (s : State) (c : Nat) : State :=
  let x := ctxOf s c
  match x.task, x.asides.reverse with
  | some t, r :: rest => freeCtx (handOver s t.launch r rest.reverse) c
  | _, _ => freeCtx s c

/-- Room of a partition's save pool freed (R319). -/
def freePool (s : State) (part : Nat) : State := modPart s part (fun x => { x with poolFreed := true })

/-- A record given up, and with it the room it takes in the save pool or in its launch's spill area (R319). -/
def dropSave (s : State) (r : Nat) : State :=
  match mfind r s.saves with
  | some v =>
    let t := { s with saves := mdel r s.saves }
    if v.place % 2 == 0 then freePool t (launchOf s v.task.launch).part else t
  | none => s

/-- A gang member departed is counted elsewhere; a saved task killed here retires, and the tasks set aside below it
continue (R330). -/
def retireSaved (s : State) (r : Nat) (v : Saved) : State :=
  let l := launchOf s v.task.launch
  let s := dropSave s r
  let s := modLaunch s v.task.launch (fun l => { l with killed := true, preempted := l.preempted.filter (· != r) })
  let s := match v.below.reverse with
    | b :: rest => if l.killing then s else handOver s v.task.launch b rest.reverse
    | [] => s
  retireTask s v.task

/-- The composition a resumed task needs, when it is not the context's own, begins a wait for growth as R40's, with its
refusal (R48). -/
def waitResume (s : State) (c k : Nat) : State :=
  modCtx s c (fun x => { x with phase := .growing, growth := some { k := k, since := s.gtime, resume := true } })

/-- The most recently set-aside task of a context resumed (R46 step 1, R48): at once, after shrinking, or once the context
has grown. `wait` false restores it at the composition the context has. -/
def resumeAside (s : State) (c r : Nat) (below : List Nat) (v : Saved) (wait : Bool) : State :=
  let x := ctxOf s c
  let take : State → State := fun s =>
    restoreTask (modCtx (dropSave s r) c (fun x => { x with asides := below })) c { v with below := below }
  if v.k == x.k then take s
  else if v.k < x.k then take (shrinkTo s c v.k)
  else if wait then waitResume s c v.k
  else take s

/-- The next work of a context with no task set aside (R46 steps 2 to 5, R305, R316). Where step 3 leaves the tile to another
queue's decision, step 4 is not tried. DESIGN CHOICE, log 109. -/
def newWork (s : State) (c : Nat) (t : Task) : State :=
  let x := ctxOf s c
  let l := launchOf s t.launch
  let frame := frameOf (homeOf c)
  let usable := isUp s && frameUsable s x.part frame && (partOf s x.part).en && (membersOf c x.k).all (fun b => !(mget {} b s.combs).isSealed)
  if !usable || l.killing then freeCtx s c
  else
    let own : Child → Bool := fun e => e.launch == t.launch && (kSteal l.hdr != 0 || e.forkCtx == c)
    let b := takeBottom (homeOf c) own (entryCount s) s
    match b.1 with
    | some e => startChild b.2 c e
    | none =>
      let s := b.2
      let l := launchOf s t.launch
      let tiles := decide (l.nextTile < l.x * l.y * l.z) && !l.killing
      if frameReserved s frame then freeCtx s c
      else if tiles then
        if (headLaunches s x.part).any (fun q => q.1 != l.queue) then freeCtx s c
        else
          let s := modLaunch s t.launch (fun l => { l with nextTile := l.nextTile + 1, live := l.live + 1, lastPlaced := s.gtime })
          let s := markReady (journalPlaced s t.launch) l.part l.queue
          startTask s c (tileTask l t.launch l.nextTile) (.s (BitVec.ofNat 64 l.nextTile)) (l.hdr.getD 0 0)
      else
        let b := stealFrom t.launch (victims (homeOf c) (kSteal l.hdr)) s
        match b.1 with
        | some e => startChild b.2 c e
        | none => freeCtx b.2 c

/-- Whether a context between two tasks takes no further work where it is: a pre-emption that a reassignment or a stop
requires, a frame that is leaving, or a sealed comb (R321, R340, R348). DEDUCED, log 75. -/
def mustLeave (s : State) (c : Nat) (x : Ctx) : Bool :=
  x.preempt.any (·.required) || (mget {} (frameOf (homeOf c)) s.frames).scrub || (membersOf c x.k).any (fun b => (mget {} b s.combs).isSealed)

/-! ## Barrier channels (R252 to R255) -/

/-- Whether every member has arrived in a channel's phase, departed ones counting, one of them by its own BAR (R252,
R254). -/
def phaseFull (l : Launch) (k : Channel) : Bool :=
  !k.arrived.isEmpty && (upTo (l.x * l.y * l.z)).all (fun r => k.arrived.contains r || l.departed.contains r)

/-- The status word of a member whose arrival's phase releases (R255): a wait for it ends as RELEASED.
DEDUCED, log 36, 39. -/
def barDone (b : BarStat) (ws : List BarWait) (ch phase : Nat) (departed : Bool) : BarStat :=
  if b.ch == ch && b.phase.toNat == phase % 2 ^ 32 && b.outcome != 3 then
    { b with done := true, departed := departed, outcome := if ws.any (fun w => w.ch == ch && w.phase == phase) then 0 else b.outcome }
  else b

/-- The waits of a member other than one for a channel's phase. DEDUCED, log 36. -/
def waitsBut (ws : List BarWait) (ch phase : Nat) : List BarWait := ws.filter (fun w => !(w.ch == ch && w.phase == phase))

/-- A placed member after a phase of a channel has released: an acquire, and the next block when nothing else holds it. -/
def memberReleased (s : State) (c ch phase : Nat) (departed : Bool) : State :=
  let x := ctxOf s c
  let ws := waitsBut x.barWait ch phase
  let y : Ctx := { x with bar := barDone x.bar x.barWait ch phase departed, barWait := ws, arrived := x.arrived.erase ch,
                          phase := if x.phase == .barrier && ws.isEmpty then .running else x.phase }
  acquire (setCtx s c y) c none 0

/-- A saved member after a phase of a channel has released: its acquire comes with its resumption (R51, R320). -/
def savedReleased (v : Saved) (ch phase : Nat) (departed : Bool) : Saved :=
  { v with bar := barDone v.bar v.barWait ch phase departed, barWait := waitsBut v.barWait ch phase, arrived := v.arrived.erase ch }

/-- A phase of a channel released once every member has arrived; DEPARTED where it counted a member that has departed
(R252, R254, R255). -/
def releaseChannel (s : State) (launch ch : Nat) : State :=
  let l := launchOf s launch
  let k : Channel := mget {} ch l.channels
  if !phaseFull l k then s
  else
    let dep := !l.departed.isEmpty
    let member : Option Task → Bool := fun t => t.any (fun t => t.launch == launch && t.rank.isSome)
    let s := modLaunch s launch (fun l => { l with channels := mput ch { phase := k.phase + 1, arrived := [] } l.channels })
    let saves : SMap Saved := s.saves.map (fun (v : Nat × Saved) => if member (some v.2.task) then (v.1, savedReleased v.2 ch k.phase dep) else v)
    let cs := s.ctxs.filter (fun (c : Nat × Ctx) => c.2.phase != .free && member c.2.task)
    cs.foldl (fun (s : State) (c : Nat × Ctx) => memberReleased s c.1 ch k.phase dep) { s with saves := saves }

/-- A gang member departed from every channel, which may complete their phases (R254). DEDUCED, log 39. -/
def departMember (s : State) (t : Task) : State :=
  match t.rank with
  | some r =>
    let s := modLaunch s t.launch (fun l => { l with departed := sinsert r l.departed })
    (launchOf s t.launch).channels.foldl (fun s k => releaseChannel s t.launch k.1) s
  | none => s

/-! ## The work after a task (R46) -/

/-- The next work of a context after its task has retired (R46): its set-aside tasks first, newest first; a record that
cannot be restored kills its task (R319, R336). -/
def nextWork (c : Nat) : List Nat → State → State
  | [], s => match (ctxOf s c).task with
    | some t => newWork (modCtx s c (fun x => { x with asides := [] })) c t
    | none => freeCtx s c
  | r :: rest, s =>
    if mustLeave s c (ctxOf s c) then leaveBetween s c
    else match mfind r s.saves with
      | none => nextWork c rest (modCtx s c (fun x => { x with asides := rest.reverse }))
      | some v => match recordFails s v with
        | some f => nextWork c rest (modCtx (retireSaved (departMember f v.task) r { v with below := [] }) c (fun x => { x with asides := rest.reverse }))
        | none => resumeAside s c r rest.reverse v true

/-- A context takes its next work (R46). -/
def takeNext (s : State) (c : Nat) : State := nextWork c (ctxOf s c).asides.reverse s

/-- The composition a context returns to after a HALT, and then its next work (R42, R46). -/
def afterHalt (s : State) (c : Nat) : State :=
  let x := ctxOf s c
  let k := kSwarm (kernelOf s x)
  if x.k > k then takeNext (shrinkTo s c k) c
  else if x.k < k && !mustLeave s c x then setCtx s c { x with phase := .growing, growth := some { k := k, since := s.gtime, halting := true } }
  else takeNext s c

/-! ## Killing (R330) -/

/-- A release begun by a context, last in its order (R146). -/
def pushRelease (s : State) (c : Nat) (fence eng : Bool) : State :=
  bumpSeq (modCtx s c (fun x => { x with releases := x.releases ++ [{ id := s.seq, fence := fence, eng := eng }] }))

/-- A task about to retire (R45, R173, R248, R330): its unsealed copy requests sealed into one more batch, and a last
release, after which it retires. -/
def beginRetire (s : State) (c : Nat) : State :=
  let x := ctxOf s c
  let b : Batch := { num := x.batch + 1, reqs := x.unsealed, fault := x.unsealFault }
  let s := setCtx s c { x with phase := .retiring, batches := x.batches ++ [b], unsealed := [], unsealFault := 0, batch := x.batch + 1,
                               growth := none, barWait := [], saveAt := none, stalled := false, idle := 0 }
  pushRelease s c false false

/-- A task killed (R330): nothing further commits, and a fault decision it waits for is not taken; it retires once its
copies and release have ended. A task whose HALT has committed retires as it was about to, and one that has retired leaves
its context between two tasks. DEDUCED, log 75. -/
def killTask (s : State) (c : Nat) : State :=
  let x := ctxOf s c
  match x.task with
  | none => s
  | some t =>
    if x.phase == .free then s
    else if x.retired then leaveBetween s c
    else if x.phase == .retiring then modLaunch s t.launch (fun l => { l with killed := true })
    else
    let s := discardFrom s c 0
    let s := departMember s t
    let s := modLaunch s t.launch (fun l => { l with killed := true })
    let s := if x.saveAt.isSome then freePool s x.part else s
    let s := modPart s x.part (fun y => { y with decisions := y.decisions.filter (fun d => match d with | .fault o _ => o != c | _ => true) })
    beginRetire (modCtx s c (fun x => { x with kill := true, preempt := none })) c

/-- A saved task killed: a set-aside or pre-empted task that never runs again (R330, R336). DESIGN CHOICE, log 26. -/
def killSaved (s : State) (r : Nat) : State :=
  match mfind r s.saves with
  | none => s
  | some v => retireSaved (departMember s v.task) r v

/-- Entries of a launch on a comb, those whose push waits among them. -/
def entriesOn (k : Comb) (launch : Nat) : Nat :=
  (k.deque.filter (fun e => e.launch == launch)).length + (k.pushing.filter (fun e => e.launch == launch)).length

/-- A comb's deque without the entries of a launch. -/
def dropEntries (k : Comb) (launch : Nat) : Comb :=
  { k with deque := k.deque.filter (fun e => e.launch != launch), pushing := k.pushing.filter (fun e => e.launch != launch) }

/-- A launch killed (R330): every placed task, the saved ones, tiles, deque and spill entries. -/
def killLaunch (s : State) (launch : Nat) : State :=
  let s := modLaunch s launch (fun l => { l with killed := true, killing := true })
  let s := markReady s (launchOf s launch).part (launchOf s launch).queue
  let own := (s.combs.map (fun p => entriesOn p.2 launch)).foldl (· + ·) 0
  let l := launchOf s launch
  let n := own + l.spilled.length + l.relocated.length
  let s := { s with combs := s.combs.map (fun p => (p.1, dropEntries p.2 launch)) }
  let s := modLaunch s launch (fun l => { l with live := l.live - n, spilled := [], relocated := [] })
  let s := (s.combs.map (·.1)).foldl restDeque s
  let s : State := (s.saves.filter (fun p => p.2.task.launch == launch)).foldl (fun s p => killSaved s p.1) s
  let s : State := { s with ctxs := s.ctxs.map (fun (p : Nat × Ctx) => if p.2.task.any (fun t => t.launch == launch) then (p.1, { p.2 with asides := [] }) else p) }
  let s : State := (s.ctxs.filter (fun (p : Nat × Ctx) => p.2.phase != .free && p.2.phase != .retiring && p.2.task.any (fun t => t.launch == launch))).foldl
    (fun s (p : Nat × Ctx) => killTask s p.1) s
  launchCheck s launch

/-- Runs of the save pool in use: records, and room reserved for those being saved (R319). DEDUCED, log 25. -/
def savePoolUsed (s : State) (part : Nat) : List (Nat × Nat) :=
  (s.saves.filter (fun p => p.2.place % 2 == 0 && (launchOf s p.2.task.launch).part == part)).map (fun p => (p.2.place / 2, p.2.units))
    ++ s.ctxs.filterMap (fun p => match p.2.phase with
        | .saving .. => if p.2.part == part then p.2.saveAt else none
        | _ => none)

/-- The lowest run of the save pool with room for a record (R319). DEDUCED, log 25. -/
def poolRun (s : State) (c : Nat) (full : Bool) : Option (Nat × Nat) :=
  let x := ctxOf s c
  let n := recordUnits x (kernelOf s x) full
  (lowestRun (savePoolUsed s x.part) n (partOf s x.part).savel 1).map (fun a => (a, n))

/-- A release of a context that has stopped, and its WATCH entries cancelled with its blocks (R317).
DEDUCED, log 25, 37. -/
def beginSave (s : State) (c : Nat) (ph : Phase) (run : Nat × Nat) : State :=
  let s := discardFrom s c 0
  pushRelease (modCtx s c (fun x => { x with phase := ph, saveAt := some run, stalled := false })) c false false

/-- A stop of a pre-empted context (R317): its save begins, or, when the pool lacks room, it runs on (R319). -/
def stopForSave (s : State) (c : Nat) (full : Bool) : State :=
  let x := ctxOf s c
  if (partOf s x.part).poolRetry.contains c || (partOf s x.part).writeRetry.contains c then s
  else
    match poolRun s c full with
    | some run => beginSave s c (.saving full (x.phase == .parked)) run
    | none =>
      let s := modPart s x.part (fun p => { p with pool := true, poolRetry := sinsert c p.poolRetry, poolFreed := p.poolFreed && !p.poolRetry.isEmpty })
      taskRecord s c 9 none

/-- A pre-emption requested of one context (R317); a parked one is saved with full state at once (R329). -/
def requestOne (s : State) (c : Nat) (required : Bool) : State :=
  let x := ctxOf s c
  let pinned := x.task.any (fun t => (launchOf s t.launch).pin)
  let busy := match x.phase with | .free => true | .saving .. => true | _ => false
  if busy && required then setCtx s c { x with preempt := x.preempt.map (fun p => { p with required := true }) }
  else if busy || (x.preempt.isSome && !required) || (pinned && !required) then s
  else if x.retired then leaveBetween s c
  else
    let s := setCtx s c { x with preempt := some { since := s.gtime, required := required } }
    if x.phase == .parked then stopForSave s c true else s

/-- Whether a context holds a member of a gang: its current task, or a task set aside on it (R47, R51). -/
def holdsMember (s : State) (launch : Nat) (x : Ctx) : Bool :=
  x.phase != .free && ((x.task.any (fun t => t.launch == launch && t.rank.isSome) && !x.retired)
    || x.asides.any (fun r => (mfind r s.saves).any (fun v => v.task.launch == launch && v.task.rank.isSome)))

/-- The contexts whose tasks must be pre-empted together with one: those that hold its gang's members (R51). -/
def preemptGroup (s : State) (c : Nat) : List Nat :=
  match (ctxOf s c).task with
  | some t =>
    if holdsMember s t.launch (ctxOf s c) then (s.ctxs.filter (fun p => holdsMember s t.launch p.2)).map (·.1)
    else [c]
  | none => [c]

/-- A pre-emption requested of a context, its gang with it (R51, R317); pinned contexts leave only for a reassignment or
a stop (R54). -/
def requestPreempt (s : State) (c : Nat) (required : Bool) : State :=
  (preemptGroup s c).foldl (fun s o => requestOne s o required) s

end Sys2Proof.Machine
end

