-- ==== Sys2Proof/Machine/MemOps.lean ====
section
/-! DEFINITION. Loads and stores within a context: addresses cut into pieces, forwarding from stores in flight, when a
load may perform, what its words hold, span fills, and stores that fire (R101 to R103, R125, R127, R134, R138 to R142,
R145, R155, R219 to R226). -/

namespace Sys2Proof.Machine

/-! ## Bytes of an access -/

/-- The bytes of a store as pieces within words (R155). -/
def cutPieces (va n d : Nat) : List Piece :=
  (wordPieces va n).map (fun p => ⟨p.1, p.2, bits d (8 * (p.1 - va)) (8 * p.2)⟩)

/-- A piece laid over what earlier pieces of the same store write of its word: word, data, bytes. -/
def layPiece (acc : List (Nat × W64 × Byte)) (p : Piece) : List (Nat × W64 × Byte) :=
  let w := p.va / 8
  let d : W64 := BitVec.ofNat 64 (p.data % 2 ^ (8 * p.n) * 2 ^ (8 * (p.va % 8)))
  let m : Byte := BitVec.ofNat 8 ((2 ^ p.n - 1) * 2 ^ (p.va % 8))
  if acc.any (fun q => q.1 == w) then acc.map (fun q => if q.1 == w then (w, mergeBytes q.2.1 d m, q.2.2 ||| m) else q)
  else acc ++ [(w, d, m)]

/-- The runs of bytes that a mask selects of a word, as pieces. -/
def wordRuns (q : Nat × W64 × Byte) : List Piece :=
  (upTo 8).filterMap (fun j =>
    if q.2.2.getLsbD j && (j == 0 || !q.2.2.getLsbD (j - 1)) then
      let n := ((upTo (8 - j)).takeWhile (fun k => q.2.2.getLsbD (j + k))).length
      some ⟨8 * q.1 + j, n, bits q.2.1.toNat (8 * j) (8 * n)⟩
    else none)

/-- The pieces of one store word by word: what it writes of a word in several pieces it writes at once, the later over the
earlier, so that a word it covers is written whole (R226, R339). -/
def coalesce (ps : List Piece) : List Piece :=
  let r := ps.foldl (fun (a : List Piece × List (Nat × W64 × Byte)) p =>
    if p.n == 8 then (p :: a.1, a.2.filter (fun q => q.1 != p.va / 8)) else (a.1, layPiece a.2 p)) ([], [])
  r.1.reverse ++ (r.2.map wordRuns).flatten

/-- Bytes of an AMO (R227). -/
def amoBytes (k : AmoWid) : Nat :=
  match k with
  | .w | .wu => 4
  | .d | .du => 8

/-- Bytes of a CAS or WATCH (R229, R230). -/
def wid2Bytes (k : Wid2) : Nat :=
  match k with
  | .w => 4
  | .d => 8

/-- Bytes of a load size (R217). -/
def ldBytes (z : LdSize) : Nat :=
  match z with
  | .b | .sb => 1
  | .h | .sh => 2
  | .w | .sw => 4
  | .d => 8

/-- Whether a load size sign-extends (R217). -/
def ldSigned (z : LdSize) : Bool :=
  match z with
  | .sb | .sh | .sw => true
  | _ => false

/-- Bytes of a store size (R217). -/
def stBytes (z : StSize) : Nat :=
  match z with
  | .b => 1
  | .h => 2
  | .w => 4
  | .d => 8

/-- The bytes a recorded store-class instruction writes; AMO and CAS give their place only. -/
def opPieces (o : StoreOp) : List Piece :=
  match o with
  | .data _ ps => ps
  | .amo _ k a _ _ => [⟨a.toNat, amoBytes k, 0⟩]
  | .cas k a _ _ _ => [⟨a.toNat, wid2Bytes k, 0⟩]
  | _ => []

/-- Whether a recorded operation is an AMO or CAS. -/
def isAtomic (o : StoreOp) : Bool :=
  match o with
  | .amo .. => true
  | .cas .. => true
  | _ => false

/-- The byte of memory a virtual address of a context names, for comparing accesses: scratch by its place in the comb
store, an untranslated address apart from every other byte. -/
def byteKey (s : State) (c : Nat) (x : Ctx) (comb va : Nat) : Nat :=
  if inScratch va then scratchPa x c + (va - Config.scratchBase)
  else
    let none_ := 2 ^ 60 + va
    match lookup s comb x.part va with
    | .ok e =>
      match e.pte with
      | some _ =>
        let pa := e.pbase + (va - e.base)
        match placeOfPa s x.part pa with
        | some (.home q) => q
        | _ => pa
      | none => none_
    | .error _ => none_

/-- Whether two byte ranges share a byte. -/
def overlaps (a n b m : Nat) : Bool := decide (a < b + m) && decide (b < a + n)

/-! ## Translation of accesses (R121, R125, R127, R134, R155) -/

/-- Why an access may not be made: cause and address. -/
abbrev AccErr := BitVec 8 × W64

/-- What an access is, for the configuration range's rule (R134): a plain load or store of n bytes, or another. -/
inductive Plain where
  | plain (n : Nat)
  | other
  deriving DecidableEq, Repr

/-- Whether an access may reach a configuration register (R134): a plain one, naturally aligned, of 4 or 8 bytes,
through an uncached page. DEDUCED, log 66. -/
def cfgOk (k : Plain) (va mode : Nat) : Bool :=
  match k with
  | .plain n => (n == 4 || n == 8) && va % n == 0 && mode == 3
  | .other => false

/-- One piece of an access translated and checked (R125, R127, R134). DEDUCED, log 66. -/
def transPiece (s : State) (c : Nat) (x : Ctx) (comb : Nat) (acc : Acc) (k : Plain) (va n pos : Nat) : Except AccErr LPiece :=
  if va ≥ Config.vaLimit then .error (acc.faultCode, BitVec.ofNat 64 va)
  else if inScratch va then
    let o := va - Config.scratchBase
    if x.scrSize < o + n then .error (0x09, BitVec.ofNat 64 (max va (Config.scratchBase + x.scrSize)))
    else .ok { va := va, pa := scratchPa x c + o, n := n, pos := pos, scratch := true }
  else
    match translate s comb x.part va acc with
    | .error e => .error (e, BitVec.ofNat 64 va)
    | .ok t =>
      let bad := match t.place with | .cfg _ => !cfgOk k va t.mode | _ => false
      if bad then .error (0x0E, BitVec.ofNat 64 va)
      else .ok { va := va, pa := t.pa, n := n, pos := pos, scratch := false, mode := t.mode, sver := t.sver }

/-- The fault of the piece at the lowest address, among pieces that fault with their addresses (R216). -/
def lowestErr (l : List (Nat × AccErr)) : Option AccErr :=
  (l.foldl (fun (a : Option (Nat × AccErr)) b => match a with
    | none => some b
    | some c => if b.1 < c.1 then some b else some c) none).map (·.2)

/-- Pieces of the ranges of an access, or the fault of its lowest faulting byte (R155, R216). -/
def transRanges (s : State) (c : Nat) (x : Ctx) (comb : Nat) (acc : Acc) (k : Plain) (rs : List (Nat × Nat × Nat)) :
    Except AccErr (List LPiece) :=
  let ps := (rs.map (fun r => (wordPieces r.1 r.2.1).map (fun p => (p.1, transPiece s c x comb acc k p.1 p.2 (r.2.2 + (p.1 - r.1)))))).flatten
  match lowestErr (ps.filterMap (fun p => match p.2 with | .error e => some (p.1, e) | .ok _ => none)) with
  | none => .ok (ps.filterMap (fun p => match p.2 with | .ok q => some q | .error _ => none))
  | some e => .error e

/-! ## Stores in flight (R101 to R103) -/

/-- Recorded store-class instructions earlier than an access in R101's order, oldest first. -/
def earlierStores (x : Ctx) (tag lsid : Nat) : List StoreRec :=
  ((olderThan x tag).map (fun b => b.stores.map (·.2))).flatten
    ++ match blockOf x tag with
       | some b => (b.stores.filter (fun p => decide (p.1 < lsid))).map (·.2)
       | none => []

/-- Whether a store-class instruction of a block has resolved (R102): executed, nullified, resolved or faulted. -/
def storeResolved (b : Block) (idx lsid : Nat) : Bool :=
  (mfind lsid b.stores).isSome || (nodeOf b idx).st == .resolved || (nodeOf b idx).st == .done

/-- Whether every store-class instruction of a block with an LSID below `lim` has resolved. -/
def storesResolved (b : Block) (lim : Nat) : Bool :=
  (instrsOf b).all (fun p =>
    match storeLsid p.2 with
    | some l => if decide (l < lim) then storeResolved b p.1 l else true
    | none => true)

/-- Byte j of a number replaced. -/
def setByte (d j b : Nat) : Nat := d - bits d (8 * j) 8 * 2 ^ (8 * j) + b % 256 * 2 ^ (8 * j)

/-- A piece's data with the bytes of one store laid over it, and the bytes so covered. -/
def overlayOne (s : State) (c : Nat) (x : Ctx) (lp : LPiece) (acc : Nat × Nat) (r : StoreRec) : Nat × Nat :=
  match r.op with
  | some (.data _ ps) =>
    ps.foldl (fun acc p =>
      let k := byteKey s c x r.comb p.va
      if k / 8 != lp.pa / 8 then acc
      else (upTo lp.n).foldl (fun acc j =>
        let a := lp.pa + j
        if k ≤ a && a < k + p.n then (setByte acc.1 j (bits p.data (8 * (a - k)) 8), acc.2 ||| 2 ^ j) else acc) acc) acc
  | _ => acc

/-- A piece's data with every earlier store in flight forwarded (R101), and the bytes they supply. -/
def overlay (s : State) (c : Nat) (x : Ctx) (rs : List StoreRec) (lp : LPiece) (d : Nat) : Nat × Nat :=
  rs.foldl (overlayOne s c x lp) (d, 0)

/-- Whether an earlier AMO or CAS in flight overlaps a piece (R228). -/
def atomicAhead (s : State) (c : Nat) (x : Ctx) (rs : List StoreRec) (lp : LPiece) : Bool :=
  rs.any (fun r => match r.op with
    | some o => isAtomic o && (opPieces o).any (fun p => overlaps (byteKey s c x r.comb p.va) p.n lp.pa lp.n)
    | none => false)

/-! ## When a load performs (R103, R140, R145, R220, R228) -/

/-- An instruction that is an acquire waiting for its condition. -/
def waitingAcquire (b : Block) (lim : Nat) (own : Bool) : Bool :=
  (instrsOf b).any (fun p =>
    (nodeOf b p.1).st == .held &&
    match p.2 with
    | .waitb .. => true
    | .join .. => true
    | .fence _ ls k => (k == .full || k == .acq) && (!own || decide (ls.toNat < lim))
    | _ => false)

/-- Whether an acquire that has fired before a load has yet to complete (R145, R233, R246, R250). -/
def acquirePending (x : Ctx) (b : Block) (lsid : Nat) : Bool :=
  (olderThan x b.tag).any (fun o => waitingAcquire o 0 false || o.loads.any (fun l => l.2.acq && !l.2.finished))
    || waitingAcquire b lsid true || b.loads.any (fun l => decide (l.1 < lsid) && l.2.acq && !l.2.finished)

/-- A load of a context already outstanding, earlier than another, that reads one of its words (R148). -/
def earlierLoad (s : State) (x : Ctx) (r : LoadReq) (lp : LPiece) : Bool :=
  s.ms.loads.any (fun p =>
    p.2.ctx == r.ctx && p.2.pieces.any (fun q => q.pa / 8 == lp.pa / 8) &&
    (if p.2.tag == r.tag then decide (p.2.lsid < r.lsid) else (olderThan x r.tag).any (fun b => b.tag == p.2.tag)))

/-- A write or atomic of the context's own, not yet performed at its target or home, that overlaps a piece (R101, R130,
R228), or any earlier write to the configuration range before an access of it (R134). -/
def writeAhead (s : State) (c : Nat) (lp : LPiece) : Bool :=
  s.ms.uwrites.any (fun p => p.2.ctx == c && (overlaps p.2.pa p.2.n lp.pa lp.n || (isCfg lp.pa && isCfg p.2.pa)))
    || s.ms.regs.any (fun p => p.2.ctx == c && p.2.data.isSome && p.2.word == lp.pa / 8)
    || (ctxOf s c).releases.any (fun r => r.held.any (fun h => match h with | .stream w _ _ => w == lp.pa / 8 | _ => false))
    || s.ms.amos.any (fun p => p.2.ctx == c && (opPieces p.2.op).any (fun q => overlaps p.2.pa q.n lp.pa lp.n))

/-- An acquire of a block that comes before a load-class access of it and has not completed: LDA or FENCE with a lower LSID,
WAITB or JOIN (R145, R233, R246, R250). -/
def acquireBefore (b : Block) (lsid : Nat) : Bool :=
  (instrsOf b).any (fun p =>
    (nodeOf b p.1).st != .done && (nodeOf b p.1).st != .resolved &&
    match p.2 with
    | .waitb .. => true
    | .join .. => true
    | .lda _ ls .. => decide (ls.toNat < lsid)
    | .fence _ ls k => (k == .full || k == .acq) && decide (ls.toNat < lsid)
    | _ => false)

/-- Whether nothing of a block can go on but loads that wait for such an acquire. -/
def blockQuiet (s : State) (c : Nat) (b : Block) : Bool :=
  !(s.net.any (fun t => t.2.ctx == c && t.2.tag == b.tag))
    && b.nodes.all (fun n => match n.2.st with | .ready _ => false | .held => false | _ => true)
    && s.ms.loads.all (fun l => !(l.2.ctx == c && l.2.tag == b.tag) || (acquireBefore b l.2.lsid && l.2.got.isEmpty && l.2.pieces.any (fun p => p.mode == 3)))

/-- Whether a load that may be performed once only waits for an acquire of its own block (R145, R220): not for one that can no
longer fire. DEDUCED, log 70. -/
def acquireAhead (s : State) (c : Nat) (b : Block) (lsid : Nat) : Bool := acquireBefore b lsid && !blockQuiet s c b

/-- Whether a load waits before it performs. -/
def loadWaits (s : State) (r : LoadReq) : Bool :=
  let x := ctxOf s r.ctx
  match blockOf x r.tag with
  | none => true
  | some b =>
    let rs := earlierStores x r.tag r.lsid
    (b.om && !((olderThan x r.tag).all (fun o => storesResolved o 32) && storesResolved b r.lsid))
      || (r.pieces.any (fun p => p.mode == 3) && (!(isOldest x r.tag && storesResolved b r.lsid) || acquireAhead s r.ctx b r.lsid))
      || acquirePending x b r.lsid
      || r.pieces.any (fun p => atomicAhead s r.ctx x rs p || writeAhead s r.ctx p || earlierLoad s x r p)

/-! ## What a load's words hold (R137, R140, R142, R146, R160, R162) -/

/-- A word a load wants: here with its data and poison, not to be had yet, or to be fetched. -/
inductive WordSrc where
  | have_ (d : W64) (poison : Bool)
  | wait
  | missing
  deriving DecidableEq, Repr

/-- Whether a release number is one of a context's. -/
def ownRelease (x : Ctx) (n : Nat) : Bool := x.releases.any (fun r => r.id == n)

/-- Whether a span may serve an access of a page's mode and version (R160, R162). -/
def spanServes (s : State) (sp : Span) (lp : LPiece) : Bool :=
  sp.sver == (if lp.mode == 1 then lp.sver else 0) && (lp.mode != 2 || (sp.lease != 0 && leaseLive s sp))

/-- Bytes of a word a piece reads, as a mask. -/
def pieceMask (lp : LPiece) : Nat := (2 ^ lp.n - 1) * 2 ^ (lp.pa % 8)

/-- A word that a context writes fetched afresh by its own outstanding loads, and by those that would fill its combs with it:
what they have obtained of it is older (R101, R142, R228). -/
def forgetWord (s : State) (c w : Nat) : State :=
  let combs := membersOf c (ctxOf s c).k
  let older : LoadReq → Bool := fun r => r.armed.isNone && (r.ctx == c || (combs.contains r.comb && r.pieces.all (fun p => p.mode != 3)))
  { s with ms := { s.ms with loads := s.ms.loads.map (fun p => if older p.2 then (p.1, { p.2 with got := mdel w p.2.got }) else p) } }

/-- A word of a comb's cache for a load of a context (R139, R146). -/
def cachedWord (s : State) (x : Ctx) (comb : Nat) (lp : LPiece) (owned : Bool) : WordSrc :=
  let w := lp.pa / 8
  match setSpan (mget [] (combSet comb (w / 64)) s.ms.caches) (w / 64) (w % 64), combWord s.ms comb w with
  | some sp, some cw =>
    if owned && !cw.owned && !cw.dirty then .missing
    else if !spanServes s sp lp && !cw.owned && !cw.dirty then .missing
    else if cw.pend.any (fun n => !ownRelease x n) then .wait
    else if cw.valid.toNat &&& pieceMask lp == pieceMask lp then .have_ cw.data cw.poison
    else .wait
  | _, _ => .missing

/-- The word of a piece: the comb store, the issuing comb's cache, an owner among the swarm's combs, or what the load
has obtained from the word's home (R142). -/
def loadWord (s : State) (r : LoadReq) (x : Ctx) (lp : LPiece) : WordSrc :=
  let w := lp.pa / 8
  if lp.scratch then .have_ (BitVec.ofNat 64 (memRead s.ms.mem (8 * w) 8)) (s.ms.poison.contains w)
  else
    let fetched : WordSrc := match mfind w r.got with | some g => .have_ g.1 g.2 | none => .missing
    if lp.mode == 3 then fetched
    else
      match cachedWord s x r.comb lp false with
      | .missing =>
        match ((membersOf r.ctx x.k).filter (· != r.comb)).findSome? (fun m =>
            match cachedWord s x m lp true with | .missing => none | y => some y) with
        | some y => y
        | none => fetched
      | y => y

/-- The words a load still has to fetch (R140). -/
def missingWords (s : State) (r : LoadReq) : List Nat :=
  let x := ctxOf s r.ctx
  r.pieces.foldl (fun acc lp => match loadWord s r x lp with | .missing => sinsert (lp.pa / 8) acc | _ => acc) []

/-- The data of a load: its pieces' bytes, forwarded stores over memory's, and the address of the lowest byte read from
a poisoned word; none while a word is not to be had (R101, R140, R221). -/
def loadData (s : State) (r : LoadReq) : Option (Nat × Option W64) :=
  let x := ctxOf s r.ctx
  let rs := earlierStores x r.tag r.lsid
  r.pieces.foldl (fun acc lp =>
    match acc with
    | none => none
    | some (d, bad) =>
      let whole := overlay s r.ctx x rs lp 0
      if whole.2 == 2 ^ lp.n - 1 then some (d + whole.1 * 2 ^ (8 * lp.pos), bad)
      else
        match loadWord s r x lp with
        | .have_ w poison =>
          let o := overlay s r.ctx x rs lp (bits w.toNat (8 * (lp.pa % 8)) (8 * lp.n))
          let bad' : Option W64 :=
            if poison then
              let j := ((upTo lp.n).find? (fun j => !o.2.testBit j)).getD 0
              match bad with
              | some a => if a.toNat ≤ lp.va + j then bad else some (BitVec.ofNat 64 (lp.va + j))
              | none => some (BitVec.ofNat 64 (lp.va + j))
            else bad
          some (d + o.1 * 2 ^ (8 * lp.pos), bad')
        | _ => none) (some (0, none))

/-! ## Span fills (R138, R139) -/

/-- Words of a region, below or above, that a load obtained or the comb holds, run outward from a word. -/
def reach (ok : Nat → Bool) (up : Bool) : Nat → Nat → Nat
  | 0, w => w
  | fuel + 1, w =>
    if up then (if w < 63 && ok (w + 1) then reach ok up fuel (w + 1) else w)
    else (if 0 < w && ok (w - 1) then reach ok up fuel (w - 1) else w)

/-- Copies of a region that cannot serve the page's mode any more dropped before a fill (R160, R162). -/
def dropStale (s : State) (comb region : Nat) (lp : LPiece) : MemSys :=
  combDropIn s.ms comb region (fun sp _ w => !w.owned && !w.dirty && !spanServes s sp lp)

/-- A lease's expiry and epoch recorded on the spans of a region (R161). -/
def markLease (m : MemSys) (comb region expiry epoch : Nat) : MemSys :=
  let key := combSet comb region
  { m with caches := mput key ((mget [] key m.caches).map (fun sp =>
      if sp.region == region then { sp with lease := expiry, epoch := epoch } else sp)) m.caches }

/-- The words of one region that a load accesses, by number in the region. -/
def accessed (r : LoadReq) (region : Nat) : List Nat :=
  r.pieces.foldl (fun acc p => if p.pa / 512 == region && !p.scratch then sinsert (p.pa / 8 % 64) acc else acc) []

/-- The fill of the run of obtained words around an accessed one (R139); none when it must wait for room. -/
def fillRun (r : LoadReq) (lp : LPiece) (region : Nat) (m : MemSys) (k : Nat) : Option MemSys :=
  let got : Nat → Bool := fun j => (mfind (64 * region + j) r.got).isSome
  let held : Nat → Bool := fun j => (combWord m r.comb (64 * region + j)).isSome
  if held k || !got k then some m
  else
    let a := reach (fun j => got j || held j) false 64 k
    let b := reach (fun j => got j || held j) true 64 k
    let mine := (accessed r region).filter (fun j => decide (a ≤ j) && decide (j ≤ b))
    combFill m r.comb region (mine.foldl min k) (mine.foldl max k) a b (fun j =>
      let g := mget (0, false) (64 * region + j) r.got
      { data := g.1, valid := 0xFF, poison := g.2 }) (if lp.mode == 1 then lp.sver else 0)

/-- The fill of one region of a load (R139): none when it must wait for room. -/
def fillRegion (s : State) (r : LoadReq) (lp : LPiece) (region : Nat) : Option State :=
  let m := (accessed r region).foldl (fun (m : Option MemSys) k => m.bind (fun m => fillRun r lp region m k)) (some (dropStale s r.comb region lp))
  m.map (fun m => { s with ms := if lp.mode == 2 then markLease m r.comb region r.lease r.epoch else m })

/-- Whether the words of a piece are cached in the comb (R136, R159, R162). DEDUCED, log 22. -/
def allocates (s : State) (r : LoadReq) (lp : LPiece) : Bool :=
  !lp.scratch && lp.mode != 3 && r.hint != .stream && (lp.mode != 2 || (s.md.healthy && r.lease != 0))

/-- Every fill of a load; none when one must wait (R139). DEDUCED, log 22. -/
def fillAll (s : State) (r : LoadReq) : Option State :=
  let firsts := r.pieces.foldl (fun (acc : List LPiece) p =>
    if allocates s r p && !acc.any (fun q => q.pa / 512 == p.pa / 512) then acc ++ [p] else acc) []
  firsts.foldl (fun acc p => match acc with | none => none | some s => fillRegion s r p (p.pa / 512)) (some s)

/-- A comb changed by a site's accesses: the span predictor learns the words touched. When a region of which the comb held no
span any more is filled, every site's words in it become those of the span that has left: they serve until the site touches the
region again or the new span leaves too (R138). DESIGN CHOICE, log 7. -/
def learnSpan (k : Comb) (block : W64) (r : LoadReq) (resident : Nat → Bool) : Comb :=
  let mine : SpanPred → Bool := fun e => e.block == block && e.idx == r.idx
  let anew : SpanPred → Bool := fun e => !resident e.region && r.pieces.any (fun p => p.pa / 512 == e.region)
  let k := { k with preds := (k.preds.filter (fun e => !(anew e && e.old))).map (fun e => if anew e then { e with old := true } else e) }
  r.pieces.foldl (fun k p =>
    if p.scratch || p.mode == 3 then k
    else
      let region := p.pa / 512
      let w := p.pa / 8 % 64
      match k.preds.find? (fun e => mine e && e.region == region) with
      | some e =>
        let e1 := if e.old then { e with lo := w, hi := w, old := false } else { e with lo := min e.lo w, hi := max e.hi w }
        { k with preds := e1 :: k.preds.erase e }
      | none => { k with preds := (⟨block, r.idx, region, w, w, false⟩ :: k.preds).take 512 }) k

/-- Whether a load's miss asks for a word of a region (R138): by hint, by the predictor, else the sectors of the accessed words.
DESIGN CHOICE, log 7; DEDUCED, log 22. -/
def spanAsks (s : State) (r : LoadReq) (block : W64) (region k : Nat) : Bool :=
  let mine := accessed r region
  match r.kind, r.hint with
  | .span _, _ => mine.contains k
  | _, .exact => mine.contains k
  | _, .stream => mine.contains k
  | _, .region => true
  | _, .predict =>
    match (mget {} r.comb s.combs).preds.find? (fun e => e.block == block && e.idx == r.idx && e.region == region) with
    | some e => decide (mine.foldl min e.lo ≤ k) && decide (k ≤ mine.foldl max e.hi)
    | none => mine.any (fun j => j / 4 == k / 4)

/-! ## Proxy copies of other modules' data in the slices (R137, R159) -/

/-- The set of the issuing die's slices that may hold a proxy copy of a region of another module. DESIGN CHOICE, log 90. -/
def proxyKey (comb region : Nat) : Nat :=
  192 * (64 * dieOf comb + (bits (512 * region) 9 6 ^^^ bits (512 * region) 15 6)) + region * 512 / 2 ^ 15 % 192

/-- A proxy copy that may serve a comb's access: its data, poison, lease and epoch (R137, R160, R162). -/
def proxyWord (s : State) (comb : Nat) (lp : LPiece) (w : Nat) : Option (W64 × Bool × Nat × Nat) :=
  let set := mget [] (proxyKey comb (w / 64)) s.ms.hives
  match setSpan set (w / 64) (w % 64), setWord set (w / 64) (w % 64) with
  | some sp, some c => if (lp.mode == 1 || lp.mode == 2) && spanServes s sp lp then some (c.data, c.poison, sp.lease, sp.epoch) else none
  | _, _ => none

/-- A proxy copy of a word obtained from another module for a load kept in the slice (R137). -/
def proxyFill (s : State) (r : LoadReq) (lp : LPiece) (w : Nat) (v : W64 × Bool) : MemSys :=
  let key := proxyKey r.comb (w / 64)
  let set := (mget [] key s.ms.hives).filter (fun sp => sp.region != w / 64 || spanServes s sp lp)
  if lp.mode == 1 || (lp.mode == 2 && r.lease != 0) then
    match fillSet 1024 32 (fun _ => false) set (w / 64) (w % 64) (w % 64) (fun _ => { data := v.1, valid := 0xFF, poison := v.2 })
        (if lp.mode == 1 then lp.sver else 0) s.ms.stamp 2 (w % 64) (w % 64) with
    | some (set', out) =>
      let marked := set'.map (fun sp => if sp.region == w / 64 && lp.mode == 2 then { sp with lease := r.lease, epoch := r.epoch } else sp)
      hiveEvict { s.ms with hives := mput key marked s.ms.hives, stamp := s.ms.stamp + 1 } out
    | none => s.ms
  else s.ms

/-- The proxy copies of a word of another module dropped on every die (R161). -/
def proxyDrop (m : MemSys) (w : Nat) : MemSys :=
  if isLocal (8 * w) then m
  else (upTo 4).foldl (fun m d =>
    let key := proxyKey (128 * d) (w / 64)
    if (setWord (mget [] key m.hives) (w / 64) (w % 64)).isSome then hiveDropIn m key w else m) m

/-! ## Far homes (R333) -/

/-- Whether an address's home is on another die than a comb, on another module, or on the host (R333). -/
def isFar (comb pa : Nat) : Bool :=
  if isLocal pa then homeDie pa != dieOf comb
  else if isWindow pa then dieOf (windowOf pa).1 != dieOf comb
  else isFabric pa

/-- Whether 2 ms have passed since a time (R333). DEDUCED, log 62. -/
def overdue (s : State) (since : Nat) : Bool := decide (since + Config.remoteNs ≤ s.gtime)

/-! ## A load starts and ends -/

/-- The nominal latency of a load's first reply (R218). DEDUCED, log 15. -/
def loadLat (ps : List LPiece) : Nat := if ps.all (·.scratch) then 6 else 10

/-- The cc that a TLD takes beside its slowest access: a cc for each 128 bytes of its tile, and 4 for each further comb of a
broadcast (R269). -/
def tileCc (k : Nat) (kind : LoadKind) : Nat :=
  match kind with
  | .tile f _ _ bc .. => 512 * f.width / 128 + (if bc then 4 * (k - 1) else 0)
  | _ => 0

/-- A load-class access is made (R100, R219): recorded under its LSID and outstanding until its reply. -/
def startLoad (s : State) (i : Issue) (lsid : Nat) (kind : LoadKind) (acq : Bool) (hint : Hint) (ps : List LPiece)
    (t1 t0 : Target) : State :=
  let x := ctxOf s i.ctx
  let inst := (blockOf x i.tag).bind (fun b => instrAt b.words i.idx)
  let comb := (placeOf (homeOf i.ctx) x.k i.idx inst).1
  let s1 := setSt (modBlock s i.ctx i.tag (fun b =>
    { b with loads := mput lsid { idx := i.idx, ranges := [], acq := acq, finished := false } b.loads })) i .busy
  let s1 := ps.foldl (fun s p => if p.scratch then s else tlbUse s comb x.part p.va) s1
  let r : LoadReq := { ctx := i.ctx, tag := i.tag, idx := i.idx, lsid := lsid, kind := kind, comb := comb, hint := hint,
                       pieces := ps, got := [], win := s.seq, t1 := t1, t0 := t0, since := s.gtime, due := s.cycles + loadLat ps + tileCc x.k kind }
  bumpSeq { s1 with ms := { s1.ms with loads := mput s.seq r s1.ms.loads } }

/-- The comb whose cell an instruction issues from. -/
def issueComb (x : Ctx) (i : Issue) (b : Block) : Nat := (placeOf (homeOf i.ctx) x.k i.idx (instrAt b.words i.idx)).1

/-- A load over ranges (address, bytes, place), or its fault (R216). -/
def loadRanges (s : State) (i : Issue) (x : Ctx) (b : Block) (lsid : Nat) (kind : LoadKind) (acq : Bool) (hint : Hint)
    (k : Plain) (rs : List (Nat × Nat × Nat)) (t0 : Target) : State :=
  match transRanges s i.ctx x (issueComb x i b) .rd k rs with
  | .error e => recordFault s i e.1 e.2
  | .ok ps => startLoad s i lsid kind acq hint ps .none t0

/-- The issue a load request came from. -/
def reqIssue (r : LoadReq) : Issue := ⟨r.ctx, r.tag, r.idx, none, none, none⟩

/-- Whether a load-class access delivers no value of memory: SPAN (R235). -/
def isSpan (r : LoadReq) : Bool :=
  match r.kind with
  | .span _ => true
  | _ => false

/-- The physical ranges a load read (R102). -/
def readRanges (r : LoadReq) : List (Nat × Nat) := if isSpan r then [] else r.pieces.map (fun p => (p.pa, p.n))

/-- A load as it is performed again: with nothing obtained. -/
def calm (r : LoadReq) : LoadReq := { r with got := [], recheck := none, armed := none }

/-- Later loads of the context that have read a word this one read, performed again so that reads of one word keep
their order (R148). -/
def redoLater (s : State) (r : LoadReq) : State :=
  let x := ctxOf s r.ctx
  let words := r.pieces.foldl (fun a p => if p.scratch then a else sinsert (p.pa / 8) a) []
  let same : List (Nat × Nat) → Bool := fun ranges => ranges.any (fun q => words.any (fun w => overlaps (8 * w) 8 q.1 q.2))
  x.blocks.foldl (fun s b => b.loads.foldl (fun s l =>
    match l.2.finished && laterThan x r.tag (r.lsid + 1) b.tag l.1 && same l.2.ranges, l.2.req with
    | true, some q => if q.pieces.any (fun p => p.mode == 3) then s else again s r.ctx b.tag l.1 l.2 q
    | _, _ => s) s) s

/-- A load's result reaches its block (R140): delivered, or, performed again after an acquire, compared with the value
delivered before; a different one discards the block, which is fetched again (R145). -/
def endLoad (s : State) (n : Nat) (r : LoadReq) (tok : Token) : State :=
  let s := { s with ms := { s.ms with loads := mdel n s.ms.loads } }
  let rec_ : LoadRec := { idx := r.idx, ranges := readRanges r,
                          acq := (mfind r.lsid (((blockOf (ctxOf s r.ctx) r.tag).map (·.loads)).getD [])).any (·.acq),
                          finished := true, req := if isSpan r then none else some (calm r), val := tok }
  let note := modBlock s r.ctx r.tag (fun b => { b with loads := mput r.lsid rec_ b.loads })
  match r.recheck with
  | some old => if old == tok then note else discardAt s r.ctx r.tag
  | none => redoLater (finish note (reqIssue r) 0 [r.t0, r.t1] tok) r

/-- A load faults (R110, R221). What it read stays recorded, so that an earlier store that resolves later finds it (R102), and
so that it is performed again after an acquire (R145). -/
def failLoad (s : State) (n : Nat) (r : LoadReq) (cause : BitVec 8) (a : W64) : State :=
  let s := { s with ms := { s.ms with loads := mdel n s.ms.loads } }
  let s := modBlock s r.ctx r.tag (fun b => { b with loads := mput r.lsid { idx := r.idx, ranges := readRanges r, acq := false, finished := true,
                                                                            req := if isSpan r then none else some (calm r) } b.loads })
  match r.recheck with
  | some .n => s
  | some _ => discardAt s r.ctx r.tag
  | none => recordFault s (reqIssue r) cause a

/-! ## Stores that fire (R102, R224) -/

/-- The block of the earliest load that has read a byte a firing store writes, from another source (R102). -/
def violated (s : State) (x : Ctx) (c tag lsid comb : Nat) (ps : List Piece) : Option Block :=
  let ks := ps.map (fun p => (byteKey s c x comb p.va, p.n))
  x.blocks.find? (fun b => b.loads.any (fun l =>
    l.2.finished && laterThan x tag (lsid + 1) b.tag l.1
      && l.2.ranges.any (fun q => ks.any (fun k => overlaps k.1 k.2 q.1 q.2))))

/-- Loads discarded for an ordering violation, with the block that holds the first of them and every younger one; that
block runs as if OM were 1 once it is fetched again (R102). -/
def orderCheck (s : State) (c tag lsid comb : Nat) (ps : List Piece) : State :=
  match violated s (ctxOf s c) c tag lsid comb ps with
  | some b => modCtx (discardAt s c b.tag) c (fun x => { x with strictAt := b.addr :: x.strictAt.filter (· != b.addr) })
  | none => s

/-- Armed WATCHes of the context that are later than a firing store and watch a byte it writes give up their entries and take the
value anew, the store's bytes included (R101, R231 step 1). -/
def disarm (s : State) (c tag lsid comb : Nat) (ps : List Piece) : State :=
  let x := ctxOf s c
  let ks := ps.map (fun p => (byteKey s c x comb p.va, p.n))
  let hit : LoadReq → Bool := fun r => r.ctx == c && r.armed.isSome && laterThan x tag (lsid + 1) r.tag r.lsid
    && r.pieces.any (fun q => ks.any (fun k => overlaps k.1 k.2 q.pa q.n))
  { s with ms := { s.ms with
      watches := s.ms.watches.filter (fun w => !s.ms.loads.any (fun l => l.1 == w.2.req && hit l.2))
      loads := s.ms.loads.map (fun l => if hit l.2 then (l.1, { l.2 with armed := none, got := [] }) else l) } }

/-- A store-class instruction executes (R100): recorded under its LSID, then the ordering check of R102. -/
def fireStore (s : State) (i : Issue) (x : Ctx) (b : Block) (lsid : Nat) (op : StoreOp) : State :=
  let comb := issueComb x i b
  let s := setSt (modBlock s i.ctx i.tag (fun b => { b with stores := mput lsid ⟨i.idx, some op, comb⟩ b.stores })) i .done
  orderCheck (disarm s i.ctx i.tag lsid comb (opPieces op)) i.ctx i.tag lsid comb (opPieces op)

/-- A store-class instruction is nullified (R92). -/
def nullStore (lsid : BitVec 5) (i : Issue) (s : State) : State :=
  setSt (modBlock s i.ctx i.tag (fun b => { b with stores := mput lsid.toNat ⟨i.idx, none, 0⟩ b.stores })) i .done

end Sys2Proof.Machine
end

