-- ==== Sys2Proof/Machine/Stores.lean ====
section
/-! DEFINITION. Writes as they are performed: a word stored into a comb cache, registrations, writes that register
nowhere, atomics at their homes, watches, and the releases that hold effects back (R130, R139, R142, R143, R146, R151,
R152, R227 to R231, R236, R245, R252). -/

namespace Sys2Proof.Machine

/-! ## WATCH entries (R230, R231) -/

/-- Whether a watched value meets its condition (R230). -/
def watchHolds (c : WatchCond) (wid : Wid2) (v cmp : W64) : Bool :=
  let z : W64 → W64 := fun a => if wid == .w then zext a 32 else a
  let g : W64 → W64 := fun a => if wid == .w then sext a 32 else a
  match c with
  | .eq => z v == z cmp
  | .ne => z v != z cmp
  | .lt => (g v).slt (g cmp)
  | .ge => !(g v).slt (g cmp)
  | .ltu => (z v).ult (z cmp)
  | .geu => !(z v).ult (z cmp)
  | .any => (z v &&& z cmp) != 0
  | .none => (z v &&& z cmp) == 0

/-- WATCH's result: value and status in lanes 0 to 2 (R230). -/
def watchTok (wid : Wid2) (v : W64) (status : Nat) : Token :=
  .v (mkLanes (fun j => match j with
    | 0 => v.truncate 32
    | 1 => if wid == .d then (v >>> 32).truncate 32 else 0
    | 2 => BitVec.ofNat 32 status
    | _ => 0)) 7

/-- A watch entry removed, its load ending with a token. -/
def endWatch (s : State) (n req : Nat) (r : LoadReq) (tok : Token) : State :=
  endLoad { s with ms := { s.ms with watches := mdel n s.ms.watches } } req r tok

/-- One entry evaluated against its word's value (R231 step 4). -/
def watchCheck (s : State) (n : Nat) (e : Watch) : State :=
  match mfind e.req s.ms.loads with
  | none => { s with ms := { s.ms with watches := mdel n s.ms.watches } }
  | some r =>
    match r.kind, r.pieces with
    | .watch c wid cmp, p :: _ =>
      let x := coherentWord s.ms e.word
      let v : W64 := BitVec.ofNat 64 (bits x.1.toNat (8 * (p.pa % 8)) (8 * p.n))
      if x.2 then
        failLoad { s with ms := { s.ms with watches := mdel n s.ms.watches } } e.req r 0x0F (BitVec.ofNat 64 p.va)
      else if watchHolds c wid v cmp then endWatch s n e.req r (watchTok wid v 0)
      else s
    | _, _ => s

/-- Every entry of a word evaluated after a value has reached it (R231 step 4). -/
def watchScan (s : State) (w : Nat) : State :=
  (s.ms.watches.filter (fun p => p.2.word == w)).foldl (fun s p => watchCheck s p.1 p.2) s

/-! ## Registrations (R130, R143) -/

/-- A home slice's bit set in a context's touched-slice mask (R146). -/
def touch (s : State) (c w : Nat) : State :=
  modCtx s c (fun x => { x with touched := sinsert (homeSlice (8 * w)) x.touched })

/-- A registration sent (R143). -/
def sendReg (s : State) (c comb w : Nat) (data : Option (W64 × Byte × Bool)) (grant : Bool) : State :=
  let s := touch s c w
  bumpSeq { s with ms := { s.ms with regs := mput s.seq ⟨c, comb, w, data, grant, s.gtime, s.seq, false⟩ s.ms.regs } }

/-- Whether a comb is recorded at a word's home as its owner. -/
def recorded (m : MemSys) (comb w : Nat) : Bool :=
  match mfind w m.owners with
  | some (.comb c) => c == comb
  | _ => false

/-- Whether a store of a context to a word its comb holds needs a registration of its own: not when the comb is the
recorded owner and nothing is in flight, nor when one of the context's is. -/
def needsReg (m : MemSys) (c comb w : Nat) : Bool :=
  let mine := m.regs.any (fun p => p.2.ctx == c && p.2.comb == comb && p.2.word == w && p.2.data.isNone)
  let any_ := m.regs.any (fun p => p.2.comb == comb && p.2.word == w)
  !(mine || (recorded m comb w && !any_))

/-! ## A word stored (R139, R142, R143) -/

/-- A member comb's owned word moved to the comb that stores it, its registration with it: a swarm acts as one comb
(R142). None while there is no room. -/
def moveWord (m : MemSys) (src dst w : Nat) (cw : CWord) : Option MemSys :=
  let k := w % 64
  let m1 := combDropIn m src (w / 64) (fun _ j _ => j == k)
  match combFill m1 dst (w / 64) k k k k (fun _ => cw) 0 with
  | none => none
  | some m2 =>
    some { m2 with
      owners := if recorded m src w then mput w (.comb dst) m2.owners else m2.owners
      regs := m2.regs.map (fun p => if p.2.comb == src && p.2.word == w then (p.1, { p.2 with comb := dst }) else p) }

/-- The member combs but one. -/
def otherMembers (c : Nat) (x : Ctx) (comb : Nat) : List Nat := (membersOf c x.k).filter (· != comb)

/-- The caches before a context's comb stores a word: an owner among the other members gives the word up, the rest drop
their copies, and copies the page's mode no longer serves go (R142, R160). -/
def readyWord (m : MemSys) (c : Nat) (x : Ctx) (comb w : Nat) : Option MemSys :=
  let others := otherMembers c x comb
  let own := others.findSome? (fun b => (combWord m b w).bind (fun cw => if cw.owned || cw.dirty then some (b, cw) else none))
  let m1 := match own with
    | some (b, cw) => moveWord m b comb w cw
    | none => some m
  m1.map (fun m => combDropIn (dropCopies m others w) comb (w / 64)
    (fun sp _ cw => !cw.owned && !cw.dirty && (sp.sver != 0 || sp.lease != 0)))

/-- The later of two releases that a word is to be pending on. -/
def laterOf (a b : Option Nat) : Option Nat :=
  match a, b with
  | none, b => b
  | a, none => a
  | some x, some y => some (max x y)

/-- The word after a store of bytes: merged into an owned word, or holding the written bytes only until its grant brings the
rest (R139). It is pending on the latest release that holds one of its stores back; `wrote` are the bytes written behind that
one. `home` tells a store whose data goes home without an owner (R143, R146). Only a store of all 8 bytes ends poison (R339). -/
def storedWord (old : Option CWord) (d : W64) (mask : Byte) (pend : Option Nat) (home : Bool) : CWord :=
  let fresh : CWord := { data := d, valid := mask, dirty := true, owned := true, pend := pend, wrote := if pend.isSome then mask else 0,
                          home := home, part := mask != 0xFF }
  match old with
  | some cw =>
    if cw.owned then
      let held := laterOf pend cw.pend
      { cw with data := mergeBytes cw.data d mask, valid := cw.valid ||| mask, dirty := true, pend := held,
                wrote := if held.isNone then 0 else if held == cw.pend then cw.wrote ||| mask else mask,
                home := home, poison := cw.poison && mask != 0xFF,
                part := mask != 0xFF && (cw.part || (held.isSome && held != cw.pend)) }
    else fresh
  | none => fresh

/-- The value a word had before it becomes pending, for its home (R146): a registration still on its way carries it there. -/
def publishOld (m : MemSys) (comb w : Nat) (cw : CWord) : MemSys :=
  if m.regs.any (fun p => p.2.comb == comb && p.2.word == w && p.2.data.isNone) then
    { m with regs := m.regs.map (fun p =>
        if p.2.comb == comb && p.2.word == w && p.2.data.isNone then
          (p.1, { p.2 with data := some (cw.data, cw.valid, cw.poison), grant := false, part := cw.part })
        else p) }
  else m

/-- The value before a pending one that its comb, the word's recorded owner, keeps for the home (R143, R146). -/
def prevOf (m : MemSys) (comb w : Nat) (old : Option CWord) (held : Option Nat) : Option (W64 × Bool) :=
  match held, old.filter (·.owned) with
  | some _, some o => if o.pend.isSome then o.prev else if recorded m comb w then some (o.data, o.poison) else none
  | _, _ => none

/-- A word of a comb replaced, or installed when absent; none while there is no room (R139). -/
def installWord (m : MemSys) (comb w : Nat) (cw : CWord) : Option MemSys :=
  match combWord m comb w with
  | some _ => some (updComb m comb w (fun _ => cw))
  | none => combFill m comb (w / 64) (w % 64) (w % 64) (w % 64) (w % 64) (fun _ => cw) 0

/-- Whether another context's release holds a comb's word back from this one (R146). -/
def heldByOther (m : MemSys) (x : Ctx) (combs : List Nat) (w : Nat) : Bool :=
  combs.any (fun b => (combWord m b w).any (fun cw => cw.pend.any (fun n => !ownRelease x n)))

/-! ## Effects behind releases (R146) -/

/-- The youngest FENCE release or full in progress. -/
def lastFence (x : Ctx) : Option Nat := ((x.releases.filter (fun r => r.fence && !r.eng)).getLast?).map (·.id)

/-- The youngest fence of either kind in progress, which holds back COPY requests (R151). -/
def lastCopyFence (x : Ctx) : Option Nat := ((x.releases.filter (·.fence)).getLast?).map (·.id)

/-- An effect put behind a release. -/
def addHeld (s : State) (c id : Nat) (h : Held) : State :=
  modCtx s c (fun x => { x with releases := x.releases.map (fun r => if r.id == id then { r with held := r.held ++ [h] } else r) })

/-- The data of stores with span hint 0b11 to a word that releases hold back, in order: the release, data and bytes (R143,
R146). -/
def heldStreams (x : Ctx) (w : Nat) : List (Nat × W64 × Byte) :=
  (x.releases.map (fun r => r.held.filterMap (fun h => match h with | .stream v d m => if v == w then some (r.id, d, m) else none | _ => none))).flatten

/-- The same data once the word itself stands in a comb cache: behind the release the word is pending on it is the word's, behind
an earlier one it goes home with that release (R146). -/
def takeStreams (x : Ctx) (w last : Nat) : Ctx :=
  { x with releases := x.releases.map (fun r => { r with held := r.held.filterMap (fun h => match h with
      | .stream v d m => if v != w then some h else if r.id == last then none else some (.publish v d m false (m != 0xFF))
      | h => some h) }) }

/-- What the releases that a word is pending on take before a store or CLAIM makes it pending on a later one: the value of the
earlier release, which goes home with it, or, for a word that is not pending, the value its home is to show (R146). -/
def keepOld (s : State) (c comb w : Nat) (held : Option Nat) : State :=
  match combWord s.ms comb w with
  | some o =>
    if !o.owned || held == o.pend then s
    else match o.pend with
      | some id => addHeld s c id (.publish w o.data o.wrote o.poison o.part)
      | none => { s with ms := publishOld s.ms comb w o }
  | none => s

/-- Bytes of a word stored by a context into the cache of the comb that issued the store (R139, R142, R143); none
while it must wait (R146). -/
def putWord (s : State) (c comb w : Nat) (d : W64) (mask : Byte) (pend : Option Nat) (home : Bool) : Option State :=
  let x := ctxOf s c
  if heldByOther s.ms x (membersOf c x.k) w then none
  else
    match readyWord s.ms c x comb w with
    | none => none
    | some m =>
      let old := combWord m comb w
      let streams := heldStreams x w
      let pend := laterOf pend (streams.getLast?.map (·.1))
      let held := laterOf pend ((old.filter (·.owned)).bind (·.pend))
      let base := streams.foldl (fun (o : Option CWord) q => some (storedWord o q.2.1 q.2.2 (some q.1) false)) old
      let cw := { storedWord base d mask pend home with prev := prevOf m comb w old held }
      match installWord (keepOld { s with ms := m } c comb w held).ms comb w cw with
      | none => none
      | some m' =>
        let s' : State := { keepOld { s with ms := m } c comb w held with ms := combUsed m' comb w }
        let s' := if streams.isEmpty then s' else modCtx s' c (fun x => takeStreams x w (held.getD 0))
        let was := old.any (·.owned)
        if cw.pend.isSome then some s'
        else if was && !needsReg m' c comb w then some (if recorded m' comb w then watchScan s' w else s')
        else some (sendReg s' c comb w none (cw.valid != 0xFF))

/-- CLAIM of one word (R236): owned by the comb, its value from the home; behind a release a word the comb owns already becomes
pending like one that is stored (R146, R236). -/
def claimWord (s : State) (c comb w : Nat) (pend : Option Nat) : Option State :=
  let x := ctxOf s c
  if heldByOther s.ms x (membersOf c x.k) w then none
  else
    match readyWord s.ms c x comb w with
    | none => none
    | some m =>
      match (combWord m comb w).filter (·.owned) with
      | some o =>
        let held := laterOf pend o.pend
        let s := keepOld { s with ms := m } c comb w held
        some (if held == o.pend then s
          else { s with ms := updComb s.ms comb w (fun y =>
            { y with pend := held, wrote := 0, dirty := true, part := true, prev := prevOf m comb w (some o) held }) })
      | none =>
        match installWord m comb w { dirty := true, owned := true, pend := pend, part := true } with
        | none => none
        | some m' => some (if pend.isSome then { s with ms := m' } else sendReg { s with ms := m' } c comb w none true)

/-! ## Releases (R146) -/

/-- Whether a message of a number is still unanswered. -/
def outstanding (s : State) (n : Nat) : Bool :=
  (mfind n s.ms.uwrites).isSome || (mfind n s.ms.walks).isSome || (mfind n s.ms.amos).isSome

/-- The acknowledgements a release of a context waits for: of earlier writes that register nowhere, earlier walks, and
earlier atomics whose word has no home slice here. Message numbers rise in R101's order. -/
def releaseAcks (s : State) (c id : Nat) : List Nat :=
  (((s.ms.uwrites.filter (fun p => p.2.ctx == c)).map (·.1))
    ++ ((s.ms.walks.filter (fun p => p.2.ctx == some c)).map (·.1))
    ++ ((s.ms.amos.filter (fun p => p.2.ctx == c && !isLocal p.2.pa)).map (·.1))).filter (fun n => decide (n < id))

/-- Words of comb caches pending on a release: comb and word. -/
def pendingWords (m : MemSys) (id : Nat) : List (Nat × Nat) :=
  m.caches.foldl (fun acc p => acc ++ (p.2.foldl (fun acc sp =>
    acc ++ (sp.words.zipIdx.filter (fun q => q.1.pend == some id)).map (fun q => (p.1 / 64, 64 * sp.region + sp.s + q.2))) [])) []

/-- Data sent home without an owner, with whether it was stored in parts (R143, R339). -/
def sendData (s : State) (c comb w : Nat) (d : W64) (mask : Byte) (poison part : Bool) : State :=
  let t := sendReg s c comb w (some (d, mask, poison)) false
  { t with ms := { t.ms with regs := t.ms.regs.map (fun p => if p.1 == s.seq then (p.1, { p.2 with part := part }) else p) } }

/-- A pending word whose data goes home without an owner: a record of its comb ends, the data is sent, and the comb's copy
dropped (R143). -/
def unpendHome (s : State) (c comb w : Nat) (cw : CWord) : State :=
  let m := if recorded s.ms comb w then revokeWord s.ms w else s.ms
  sendData { s with ms := combDropIn m comb (w / 64) (fun _ k _ => k == w % 64) } c comb w cw.data cw.wrote cw.poison cw.part

/-- A pending word let go: its registration is sent, and the bytes its stores did not write come with the grant (R139,
R146). -/
def unpend (s : State) (c comb w : Nat) : State :=
  match (combWord s.ms comb w).filter (·.home) with
  | some cw => unpendHome s c comb w cw
  | none =>
  let reg := needsReg s.ms c comb w
  let s := { s with ms := updComb s.ms comb w (fun cw =>
    { cw with pend := none, wrote := 0, valid := if reg then cw.wrote else cw.valid, part := reg && cw.part, prev := none }) }
  if reg then sendReg s c comb w none ((combWord s.ms comb w).any (fun cw => cw.valid != 0xFF))
  else if recorded s.ms comb w then watchScan s w else s

/-- An AMO or CAS sent (R228): the swarm drops its copies, its die's slices theirs of another module's word (R161), and the
slice's bit is set. -/
def sendAmo (s : State) (n : Nat) : State :=
  match mfind n s.ms.amos with
  | none => s
  | some a =>
    let x := ctxOf s a.ctx
    let w := a.pa / 8
    let s := { s with ms := { s.ms with amos := mput n { a with sent := true, since := s.gtime } s.ms.amos } }
    let s := { s with ms := proxyDrop (dropCopies s.ms (membersOf a.ctx x.k) w) w }
    if isLocal a.pa then touch s a.ctx w else s

/-- The span of a gang's contexts: 20 cc within a frame, 40 within a die, 120 across dies (R218). -/
def gangCc (s : State) (launch : Nat) : Nat :=
  let cs := (s.ctxs.filter (fun p => p.2.task.any (fun t => t.launch == launch && t.rank.isSome))).map (fun p => homeOf p.1)
  match cs with
  | [] => 20
  | h :: r => if r.all (fun g => frameOf g == frameOf h) then 20 else if r.all (fun g => dieOf g == dieOf h) then 40 else 120

/-- A member's arrival sent to its channel (R252). -/
def sendArrival (s : State) (c ch : Nat) : State :=
  match (ctxOf s c).task with
  | some t =>
    bumpSeq { s with arrivals := mput s.seq ⟨t.launch, t.rank.getD 0, c, ch, s.cycles + gangCc s t.launch⟩ s.arrivals }
  | none => s

/-- One held-back effect performed as its release completes (R146). -/
def performHeld (s : State) (c : Nat) (h : Held) : State :=
  match h with
  | .amo id => sendAmo s id
  | .copy id => { s with ms := { s.ms with copies := match mfind id s.ms.copies with
                                            | some q => mput id { q with sent := true } s.ms.copies
                                            | none => s.ms.copies } }
  | .fork comb ch => if (launchOf s ch.launch).killing then dropChild s ch else pushChild s comb ch
  | .arrive ch => sendArrival s c ch
  | .uwrite id => { s with ms := { s.ms with uwrites := match mfind id s.ms.uwrites with
                                              | some u => mput id { u with sent := true, since := s.gtime } s.ms.uwrites
                                              | none => s.ms.uwrites } }
  | .stream w d mask => sendReg s c (homeOf c) w (some (d, mask, false)) false
  | .publish w d mask poison part => sendData s c (homeOf c) w d mask poison part

/-- Registrations sent since a message number marked as those of a release: of stores that committed before it (R163). -/
def bornOf (m : MemSys) (since id : Nat) : MemSys :=
  { m with regs := m.regs.map (fun p => if since ≤ p.1 then (p.1, { p.2 with born := id }) else p) }

/-- A release completes (R146): its pending words register, and what it held back is sent. -/
def completeRelease (s : State) (c : Nat) (r : Release) : State :=
  let n := s.seq
  let s := modCtx s c (fun x => { x with releases := x.releases.filter (fun q => q.id != r.id) })
  let s := (pendingWords s.ms r.id).foldl (fun s p => unpend s c p.1 p.2) s
  let s := r.held.foldl (fun s h => performHeld s c h) s
  { s with ms := bornOf s.ms n r.id }

/-- The oldest release of a context started: probes to every touched slice (R146). -/
def startRelease (s : State) (c : Nat) (r : Release) : State :=
  if r.started then s
  else
    let x := ctxOf s c
    setCtx s c { x with releases := x.releases.map (fun q =>
      if q.id == r.id then { q with started := true, at_ := s.seq, probes := x.touched, acks := releaseAcks s c q.id } else q) }

/-- Releases of a context started and completed in order as far as they can be. -/
def pump (s : State) (c : Nat) : Nat → State
  | 0 => s
  | fuel + 1 =>
    match (ctxOf s c).releases with
    | [] => s
    | r :: _ =>
      let s := startRelease s c r
      match (ctxOf s c).releases with
      | [] => s
      | q :: _ => if q.probes.isEmpty && q.acks.all (fun n => !outstanding s n) then pump (completeRelease s c q) c fuel else s

/-! ## Copies and batches at a context (R245, R248) -/

/-- Whether a copy request of a number has finished. -/
def copyDone (s : State) (n : Nat) : Bool :=
  match mfind n s.ms.copies with
  | some q => q.finished
  | none => true

/-- Finished batches leave a context in order, the first fault among their requests kept for WAITB (R245, R247). -/
def finishBatches (s : State) (c : Nat) : Nat → State
  | 0 => s
  | fuel + 1 =>
    let x := ctxOf s c
    match x.batches with
    | [] => s
    | b :: rest =>
      if b.reqs.all (copyDone s) then
        let bad := if b.fault != 0 then some b.fault
          else b.reqs.findSome? (fun n => (mfind n s.ms.copies).bind (fun q => if q.fault == 0 then none else some q.fault))
        let ms := { s.ms with copies := s.ms.copies.filter (fun p => !b.reqs.contains p.1) }
        let x := { x with batches := rest, batFault := if x.batFault == 0 then bad.getD 0 else x.batFault }
        finishBatches (setCtx { s with ms := ms } c x) c fuel
      else s

/-- Whether every copy request a context has admitted has finished (R248). -/
def copiesDrained (s : State) (c : Nat) : Bool := s.ms.copies.all (fun p => p.2.who != .ctx c || p.2.finished)

/-! ## Retiring (R45, R46, R173, R248, R330) -/

/-- A retiring context's task retires once its releases and batches have ended; its context then takes its next work. -/
def tryRetire (s : State) (c : Nat) : State :=
  let x := ctxOf s c
  if x.phase == .retiring && x.releases.isEmpty && x.batches.isEmpty && copiesDrained s c then
    match x.task with
    | none => freeCtx s c
    | some t =>
      let l := launchOf s t.launch
      let s := if x.batFault == 0 then s
        else faultRecord s x.part { kind := 6, cause := bits x.batFault.toNat 56 8, ctx := c, tval := bits x.batFault.toNat 0 55,
                                    task := t.id, index := l.idx, queue := l.queue }
      let s := { s with ms := { s.ms with copies := s.ms.copies.filter (fun p => p.2.who != .ctx c) } }
      afterHalt (modCtx (retireTask s t) c (fun x => { x with retired := true })) c
  else s

/-- What follows a change in a context's messages: its releases, then its retirement. -/
def pumpCtx (s : State) (c : Nat) : State :=
  let s := finishBatches s c 20
  tryRetire (pump s c ((ctxOf s c).releases.length + 1)) c

/-- Every context pumped after an acknowledgement. -/
def pumpAll (s : State) : State :=
  (s.ctxs.filter (fun p => !p.2.releases.isEmpty || !p.2.batches.isEmpty || p.2.phase == .retiring)).foldl (fun s p => pumpCtx s p.1) s

/-! ## A piece of a store (R130, R143, R146, R152, R159) -/

/-- The data and mask a piece puts into its word. -/
def pieceWord (lp : LPiece) (data : Nat) : W64 × Byte :=
  (BitVec.ofNat 64 (data % 2 ^ (8 * lp.n) * 2 ^ (8 * (lp.pa % 8))), BitVec.ofNat 8 ((2 ^ lp.n - 1) * 2 ^ (lp.pa % 8)))

/-- The swarm's own dirty copy of a word returned home before its data is written there (R143). -/
def flushOwn (m : MemSys) (combs : List Nat) (w : Nat) : MemSys :=
  combs.foldl (fun m b =>
    match combWord m b w with
    | some cw =>
      let m1 := combDropIn m b (w / 64) (fun _ j _ => j == w % 64)
      if cw.owned || cw.dirty then homeWrite m1 w cw.data cw.valid cw.poison else m1
    | none => m) m

/-- A store with span hint 0b11: its data goes to the home, which records no owner (R143). -/
def putStream (s : State) (c w : Nat) (d : W64) (mask : Byte) (pend : Option Nat) : Option State :=
  let x := ctxOf s c
  if heldByOther s.ms x (membersOf c x.k) w then none
  else
    let s := { s with ms := flushOwn s.ms (membersOf c x.k) w }
    match laterOf pend ((heldStreams x w).getLast?.map (·.1)) with
    | some id => some (addHeld s c id (.stream w d mask))
    | none => some (sendReg s c (homeOf c) w (some (d, mask, false)) false)

/-- A write that registers at no home slice, sent at once or held behind a release (R130, R146). -/
def putUnregistered (s : State) (c : Nat) (lp : LPiece) (data : Nat) (pend : Option Nat) : State :=
  let u : UWrite := { ctx := c, pa := lp.pa, va := lp.va, n := lp.n, data := data, sent := pend.isNone, since := s.gtime }
  let n := s.seq
  let s := bumpSeq { s with ms := { s.ms with uwrites := mput n u s.ms.uwrites } }
  match pend with
  | some id => addHeld s c id (.uwrite n)
  | none => s

/-- One piece of a committed store (R143, R146, R152, R159); none while it must wait at step 2 of R108. -/
def putPiece (s : State) (c comb : Nat) (stream : Bool) (lp : LPiece) (data : Nat) (pend : Option Nat) : Option State :=
  let x := ctxOf s c
  let w := lp.pa / 8
  let v := pieceWord lp data
  if lp.scratch then some (storeRaw s lp.pa lp.n data)
  else if lp.mode == 0 && isLocal lp.pa then
    let pending := (membersOf c x.k).any (fun b => (combWord s.ms b w).any (fun cw => cw.pend.isSome))
    (if stream && !pending then putStream s c w v.1 v.2 pend else putWord s c comb w v.1 v.2 pend stream).map (fun s => forgetWord s c w)
  else
    -- a lease's holder drops its copy of what it writes (R161)
    let s := if lp.mode == 2 then { s with ms := proxyDrop (dropCopies s.ms (membersOf c x.k) w) w } else s
    some (putUnregistered (forgetWord s c w) c lp data pend)

/-! ## Atomic operations (R227 to R229) -/

/-- The new value of an AMO of n bytes, from the old one (R227). -/
def amoNew (op : AmoOp) (wid : AmoWid) (old v : Nat) : Nat :=
  let n := 8 * amoBytes wid
  let sgn := wid == .w || wid == .d
  let lt := if sgn then decide (signedOf n old < signedOf n v) else decide (old % 2 ^ n < v % 2 ^ n)
  let r := match op with
    | .add => old + v
    | .and => old &&& v
    | .or => old ||| v
    | .xor => old ^^^ v
    | .min => if lt then old else v
    | .max => if lt then v else old
    | .swap => v
    | .fadd => laneOp .f32 .add (old % 2 ^ 32) (v % 2 ^ 32)
  r % 2 ^ n

/-- An AMO's result from the old value (R227). -/
def amoResult (op : AmoOp) (wid : AmoWid) (old : Nat) : W64 :=
  let v : W64 := BitVec.ofNat 64 old
  match wid with
  | .w => if op == .fadd then zext v 32 else sext v 32
  | .wu => zext v 32
  | .d | .du => v

/-- Bytes, address and destination of an atomic. -/
def atomicShape (o : StoreOp) : Nat × W64 × RegDest :=
  match o with
  | .amo _ wid a _ d => (amoBytes wid, a, d)
  | .cas wid a _ _ d => (wid2Bytes wid, a, d)
  | _ => (8, 0, .none)

/-- An atomic on an old value: the new value, and the result its register takes (R227, R229). -/
def atomicApply (o : StoreOp) (old : Nat) : Nat × W64 :=
  match o with
  | .amo op wid _ v _ => (amoNew op wid old v.toNat, amoResult op wid old)
  | .cas wid _ cmp v _ =>
    let n := 8 * wid2Bytes wid
    (if old % 2 ^ n == cmp.toNat % 2 ^ n then v.toNat % 2 ^ n else old % 2 ^ n, BitVec.ofNat 64 (old % 2 ^ n))
  | _ => (old, 0)

/-- A register of a context written. -/
def setReg (s : State) (c n : Nat) (v : RegVal) : State := modCtx s c (fun x => { x with regs := mput n v x.regs })

/-- A register-form destination written (R95). -/
def setDest (s : State) (c : Nat) (d : RegDest) (v : RegVal) : State :=
  match d with
  | .reg n => setReg s c n.toNat v
  | .none => s

/-- The registers that wait for a reply get it; a poisoned or rewritten one keeps what it holds (R228). -/
def giveReply (s : State) (c id : Nat) (v : RegVal) : State :=
  modCtx s c (fun x => { x with regs := x.regs.map (fun p => match p.2 with
    | .reply r _ => if r == id then (p.1, v) else p
    | _ => p) })

end Sys2Proof.Machine
end

