-- ==== Sys2Proof/Machine/Homes.lean ====
section
/-! DEFINITION. Words written at their homes, and on on-chip windows, for agents that keep no copy (R131, R132, R143, R339, R341). -/

namespace Sys2Proof.Machine

/-! ## Words written -/

/-- A word written at its home by an agent that keeps no copy, and its watch entries evaluated (R143, R231). -/
def putHome (s : State) (w : Nat) (d : W64) (mask : Byte) (poison : Bool) : State :=
  watchScan { s with ms := homeWrite s.ms w d mask poison } w

/-! ## On-chip windows for agents (R131, R132, R339, R341) -/

/-- A poisoned word recorded for a word of a comb's window (R339). -/
def poisonWindow (s : State) (comb off : Nat) : State :=
  if off < 0x100000 then { s with ms := { s.ms with poison := sinsert ((windowBaseOf comb + off) / 8) s.ms.poison } }
  else if off < 0x180000 then
    let o := off - 0x100000
    { s with tbufs := mmod {} (bufKey comb (o / 0x20000) (o % 0x20000 / 0x2000)) (fun t => { t with poison := sinsert (o % 0x2000 / 8) t.poison }) s.tbufs }
  else if off < 0x184000 then
    let o := off - 0x180000
    { s with tbufs := mmod {} (bufKey comb (o / 0x1000) (o % 0x1000 / 0x100)) (fun t => { t with poison := sinsert (1024 + o % 0x100 / 8) t.poison }) s.tbufs }
  else if off < 0x18C000 then
    let o := off - 0x184000
    { s with taccs := mmod {} (accKey comb (o / 0x2000) (o % 0x2000 / 0x400)) (fun t => { t with poison := sinsert (o % 0x400 / 8) t.poison }) s.taccs }
  else s

/-- A window's word and poison; a sealed comb's completes as poisoned (R341). -/
def windowGet (s : State) (comb off : Nat) : W64 × Bool :=
  (windowWord s comb off, windowPoison s comb off || (mget {} comb s.combs).isSealed)

/-- A write of a window's word with its poison. -/
def windowPut (s : State) (comb off : Nat) (d : W64) (mask : Byte) (poison : Bool) : State :=
  let s := windowWrite s comb off d mask
  if poison then poisonWindow s comb off else s

/-! ## A word's value for an agent without a copy -/

/-- A word read at its home: its owner's data, written back by it (R143), the host's record kept. -/
def takeHome (m : MemSys) (w : Nat) : (W64 × Bool) × MemSys :=
  match mfind w m.owners with
  | some (.comb _) => (coherentWord m w, recallWord m w)
  | _ => (homeWord m w, checkWords m w w)

end Sys2Proof.Machine
end

