-- ==== Sys2Proof/Machine/MemInstr.lean ====
section
/-! DEFINITION. The memory instructions as they fire (R215 to R237). Loads become outstanding accesses; store-class
instructions record what their block performs at its commit point. -/

namespace Sys2Proof.Machine

/-! ## Loads (R219 to R223) -/

/-- LD and LDA (R219). -/
def scalarLoad (p : Pr) (ls : BitVec 5) (sz : LdSize) (acq : Bool) (hint : Hint) (off : BitVec 4) (t0 : Target) (s : State) : Out :=
  fire1 p s (nullTo [t0]) (fun i x b t s =>
    match t with
    | .s base =>
      let n := ldBytes sz
      let a := ea base off n
      if !vaOk a then recordFault s i 0x0B a
      else if acq && a.toNat % n != 0 then recordFault s i 0x0A a
      else loadRanges s i x b ls.toNat (.scalar n (ldSigned sz) acq) acq hint (.plain n) [(a.toNat, n, 0)] t0
    | _ => kindFault s i)

/-- LD (R219). -/
def execLd (p : Pr) (ls : BitVec 5) (sz : LdSize) (hint : Hint) (off : BitVec 4) (t0 : Target) (s : State) : Out :=
  scalarLoad p ls sz false hint off t0 s
/-- LDA: an acquire after its value returns (R145, R219). DEDUCED, log 34. -/
def execLda (p : Pr) (ls : BitVec 5) (sz : LdSize) (hint : Hint) (off : BitVec 4) (t0 : Target) (s : State) : Out :=
  scalarLoad p ls sz true hint off t0 s

/-- The lanes LDV reads under a mask (R222): a lane never leaves the far end of the address space for its start. DEDUCED,
log 66, 91. -/
def ldvStart (s : State) (i : Issue) (x : Ctx) (b : Block) (ls : BitVec 5) (hint : Hint) (off : BitVec 4) (t0 : Target)
    (base : W64) (m : Mask) : State :=
  let a := ea base off 64
  let rs := (upTo 16).filterMap (fun j => if m.getLsbD j then some (a.toNat + 4 * j, 4, 4 * j) else none)
  loadRanges s i x b ls.toNat (.vec m) false hint .other rs t0

/-- LDV, whole or masked (R222). -/
def execLdv (p : Pr) (ls : BitVec 5) (masked : Bool) (hint : Hint) (off : BitVec 4) (t0 : Target) (s : State) : Out :=
  if masked then
    fire2 p s (nullTo [t0]) (fun i x b t u s =>
      match t, u with
      | .s base, .s m => ldvStart s i x b ls hint off t0 base (m.truncate 16)
      | _, _ => kindFault s i)
  else
    fire1 p s (nullTo [t0]) (fun i x b t s =>
      match t with
      | .s base => ldvStart s i x b ls hint off t0 base 0xFFFF
      | _ => kindFault s i)

/-- An element's address of LDG and STS (R223, R226). -/
def elemAddr (base : W64) (idx : Word) (off : BitVec 4) (n : Nat) : W64 :=
  base + (idx.signExtend 64 + off.signExtend 64) * BitVec.ofNat 64 n

/-- LDG (R223). -/
def execLdg (p : Pr) (ls : BitVec 5) (sz : LdSize) (hint : Hint) (off : BitVec 4) (t0 : Target) (s : State) : Out :=
  fire2 p s (nullTo [t0]) (fun i x b t u s =>
    match t, u with
    | .s base, .v l m =>
      let n := ldBytes sz
      let rs := (upTo 16).filterMap (fun k =>
        if m.getLsbD k then some ((elemAddr base (lane l k) off n).toNat, n, 8 * k) else none)
      loadRanges s i x b ls.toNat (.gather n (ldSigned sz) m) false hint (.plain n) rs t0
    | _, _ => kindFault s i)

/-! ## Stores (R224 to R226) -/

/-- The kind of a store by its span hint (R143, R224). -/
def stKind (rel : Bool) (hint : Hint) : StKind :=
  if hint == .stream then (if rel then .relStream else .stream) else if rel then .rel else .plain

/-- ST and STL (R224). -/
def scalarStore (p : Pr) (ls : BitVec 5) (sz : StSize) (rel : Bool) (hint : Hint) (off : BitVec 4) (s : State) : Out :=
  fire2 p s (nullStore ls) (fun i x b t u s =>
    match t, u with
    | .s base, .s d =>
      let n := stBytes sz
      fireStore s i x b ls.toNat (.data (stKind rel hint) (cutPieces (ea base off n).toNat n d.toNat))
    | _, _ => kindFault s i)

/-- ST (R224). -/
def execSt (p : Pr) (ls : BitVec 5) (sz : StSize) (hint : Hint) (off : BitVec 4) (s : State) : Out :=
  scalarStore p ls sz false hint off s
/-- STL: a release (R146, R224). -/
def execStl (p : Pr) (ls : BitVec 5) (sz : StSize) (hint : Hint) (off : BitVec 4) (s : State) : Out :=
  scalarStore p ls sz true hint off s

/-- The pieces STV writes: valid lanes only (R225). DEDUCED, log 91. -/
def stvPieces (a : W64) (l : Lanes) (m : Mask) : List Piece :=
  coalesce ((upTo 16).map (fun j => if m.getLsbD j then cutPieces (a.toNat + 4 * j) 4 (lane l j).toNat else [])).flatten
/-- STV (R225). -/
def execStv (p : Pr) (ls : BitVec 5) (hint : Hint) (off : BitVec 4) (s : State) : Out :=
  fire2 p s (nullStore ls) (fun i x b t u s =>
    match t, u with
    | .s base, .v l m => fireStore s i x b ls.toNat (.data (stKind false hint) (stvPieces (ea base off 64) l m))
    | _, _ => kindFault s i)

/-- The pieces STS writes, in increasing element order (R226). -/
def stsPieces (base : W64) (l : Lanes) (m : Mask) (off : BitVec 4) (n : Nat) : List Piece :=
  coalesce ((upTo 8).map (fun e =>
    if m.getLsbD e && m.getLsbD (e + 8) then cutPieces (elemAddr base (lane l e) off n).toNat n (lane l (e + 8)).toNat else [])).flatten
/-- STS (R226). -/
def execSts (p : Pr) (ls : BitVec 5) (sz : StSize) (hint : Hint) (off : BitVec 4) (s : State) : Out :=
  fire2 p s (nullStore ls) (fun i x b t u s =>
    match t, u with
    | .s base, .v l m => fireStore s i x b ls.toNat (.data (stKind false hint) (stsPieces base l m off (stBytes sz)))
    | _, _ => kindFault s i)

/-! ## Atomics and WATCH (R227 to R231) -/

/-- AMO (R227). -/
def execAmo (p : Pr) (ls : BitVec 5) (op : AmoOp) (wid : AmoWid) (off : BitVec 4) (d : RegDest) (s : State) : Out :=
  fire2 p s (nullStore ls) (fun i x b t u s =>
    match t, u with
    | .s base, .s v => fireStore s i x b ls.toNat (.amo op wid (ea base off (amoBytes wid)) v d)
    | _, _ => kindFault s i)

/-- CAS's compare and swap values, and the lanes that must be valid (R229). -/
def casValues (wid : Wid2) (l : Lanes) : W64 × W64 × Mask :=
  let w : Nat → W64 := fun k => (lane l k).zeroExtend 64
  match wid with
  | .w => (w 0, w 2, 0x5)
  | .d => (w 0 + (w 1 <<< 32), w 2 + (w 3 <<< 32), 0xF)
/-- CAS (R229). -/
def execCas (p : Pr) (ls : BitVec 5) (wid : Wid2) (off : BitVec 4) (d : RegDest) (s : State) : Out :=
  fire2 p s (nullStore ls) (fun i x b t u s =>
    match t, u with
    | .s base, .v l m =>
      let v := casValues wid l
      if m &&& v.2.2 != v.2.2 then kindFault s i
      else fireStore s i x b ls.toNat (.cas wid (ea base off (wid2Bytes wid)) v.1 v.2.1 d)
    | _, _ => kindFault s i)

/-- Whether a physical address is an on-chip window or configuration address: no watch table (R216). -/
def noWatch (ps : List LPiece) : Bool := ps.any (fun p => p.scratch || isWindow p.pa || isCfg p.pa)
/-- WATCH (R230, R231): of several faults the misalignment is told first, then the scratch window, then translation, then the
range without a watch table; the spec gives no order. DESIGN CHOICE, log 92. -/
def execWatch (p : Pr) (ls : BitVec 5) (c : WatchCond) (wid : Wid2) (off : BitVec 4) (t0 : Target) (s : State) : Out :=
  fire2 p s (nullTo [t0]) (fun i x b t u s =>
    match t, u with
    | .s base, .s v =>
      let n := wid2Bytes wid
      let a := ea base off n
      if !vaOk a then recordFault s i 0x0B a
      else if a.toNat % n != 0 then recordFault s i 0x0A a
      else if inScratch a.toNat then recordFault s i 0x0E a
      else
        match transRanges s i.ctx x (issueComb x i b) .rd .other [(a.toNat, n, 0)] with
        | .error e => recordFault s i e.1 e.2
        | .ok ps => if noWatch ps then recordFault s i 0x0E a else startLoad s i ls.toNat (.watch c wid v) false .exact ps .none t0
    | _, _ => kindFault s i)

/-! ## Fences and range instructions (R232 to R237) -/

/-- Whether every load-class instruction of a block below an LSID has performed, or never will (R233). -/
def loadsDone (b : Block) (lim : Nat) : Bool :=
  (instrsOf b).all (fun p =>
    match loadLsid p.2 with
    | some l => decide (lim ≤ l) || (nodeOf b p.1).st == .done || (nodeOf b p.1).st == .resolved
    | none => true)

/-- Whether a FENCE performs the acquire's self-invalidation (R232). -/
def fenceAcquires (k : FenceKind) : Bool := k == .full || k == .acq

/-- FENCE (R232, R233): recorded against the commit point; its acquire act waits for the older blocks' commits and for
its own block's earlier loads. -/
def execFence (p : Pr) (ls : BitVec 5) (k : FenceKind) (s : State) : Out :=
  fire0 p s (fun i x b s =>
    let s1 := fireStore s i x b ls.toNat (.fence k)
    if !fenceAcquires k then s1
    else if isOldest x i.tag && loadsDone b ls.toNat then acquire s1 i.ctx (some i.tag) (ls.toNat + 1)
    else setSt s1 i .held)

/-- FLUSHR (R234): `.dinv` from task mode faults unless its length is 0. -/
def execFlushr (p : Pr) (ls : BitVec 5) (k : FlushKind) (s : State) : Out :=
  fire2 p s (nullStore ls) (fun i x b t u s =>
    match t, u with
    | .s a, .s n =>
      let len := n.toNat % 2 ^ 32
      if len != 0 && k == .dinv && !inHandler x then recordFault s i 0x11 a
      else fireStore s i x b ls.toNat (.flushr k a len)
    | _, _ => kindFault s i)

/-- The words a SPAN covers within its region: first word and last (R235). DEDUCED, log 38. -/
def spanWords (pa : Nat) (k : W64) : Nat × Nat :=
  let w := pa / 8 % 64
  (w, min 63 (w + min 64 (max 1 k.toNat) - 1))
/-- SPAN (R235): in scratch and on uncached pages it fills nothing. With ty 1 on a cached page whose home is on another module,
where this module has no home slice to fill, it fills nothing and emits at once: DESIGN CHOICE, log 93. DEDUCED, log 38. -/
def execSpan (p : Pr) (ls : BitVec 5) (hive : Bool) (off : BitVec 4) (t0 : Target) (s : State) : Out :=
  fire2 p s (nullTo [t0]) (fun i x b t u s =>
    match t, u with
    | .s base, .s k =>
      let a := ea base off 8
      match transRanges s i.ctx x (issueComb x i b) .rd .other [(a.toNat, 1, 0)] with
      | .error e => recordFault s i e.1 e.2
      | .ok ps =>
        match ps with
        | q :: _ =>
          if q.scratch || q.mode == 3 || (hive && !isLocal q.pa) then finish s i 6 [t0] (.s 0)
          else
            let r := spanWords q.pa k
            let words := (rangeFrom r.1 (r.2 + 1 - r.1)).map (fun w =>
              { q with va := q.va / 8 * 8 + 8 * (w - r.1), pa := q.pa / 512 * 512 + 8 * w, n := 8, pos := 8 * (w - r.1) })
            startLoad s i ls.toNat (.span hive) false .exact words .none t0
        | [] => finish s i 6 [t0] (.s 0)
    | _, _ => kindFault s i)

/-- CLAIM (R236). -/
def execClaim (p : Pr) (ls : BitVec 5) (s : State) : Out :=
  fire2 p s (nullStore ls) (fun i x b t u s =>
    match t, u with
    | .s a, .s n => fireStore s i x b ls.toNat (.claim a (min n.toNat 4096))
    | _, _ => kindFault s i)

/-- ISYNC (R237). -/
def execIsync (p : Pr) (ls : BitVec 5) (s : State) : Out :=
  fire2 p s (nullStore ls) (fun i x b t u s =>
    match t, u with
    | .s a, .s n => fireStore s i x b ls.toNat (.isync a (n.toNat % 2 ^ 32))
    | _, _ => kindFault s i)

end Sys2Proof.Machine
end

