-- ==== Sys2Proof/Machine/Tensor.lean ====
section
/-! DEFINITION. Tensor instructions as they fire: the waits of R104, tile loads and stores, MMA's start, TOP, TROW, PSET
and PGET (R104, R259 to R289). -/

namespace Sys2Proof.Machine

/-! ## Tile state under renaming (R104, R263) -/

/-- A name of tile state: buffer (true) or accumulator, swarm tensor cell, number. -/
abbrev TileName := Bool × Nat × Nat

/-- The tensor cells an instruction acts on (R37, R267). -/
def tileCells (k : Nat) (i : Instr) : List Nat :=
  if isBroadcast i then upTo (4 * k) else match tensorCell i with | some t => [t] | none => []

/-- The tile state an instruction writes. -/
def tileWrites (k : Nat) (i : Instr) : List TileName :=
  let u := tileUse i
  ((tileCells k i).map (fun t => u.bufW.map (fun n => (true, t, n)) ++ u.accW.map (fun n => (false, t, n)))).flatten

/-- The tile state an instruction names. -/
def tileTouches (k : Nat) (i : Instr) : List TileName :=
  let u := tileUse i
  tileWrites k i ++ ((tileCells k i).map (fun t => u.bufR.map (fun n => (true, t, n)) ++ u.accR.map (fun n => (false, t, n)))).flatten

/-- The tile state of older blocks an instruction needs: what it reads, the accumulators it writes, and the buffers it
changes in part (R104, R263). -/
def tileNeeds (k : Nat) (i : Instr) : List TileName :=
  match i with
  | .tld .. => []
  | i => tileTouches k i

/-- Whether a tile instruction has completed or been resolved. -/
def tileOver (b : Block) (idx : Nat) : Bool := (nodeOf b idx).st == .done || (nodeOf b idx).st == .resolved

/-- Whether a block in flight holds a write to a piece of tile state (R104). -/
def holdsWrite (k : Nat) (b : Block) (t : TileName) : Bool :=
  (if t.1 then (mfind (16 * t.2.1 + t.2.2) b.staging).isSome else (mfind (8 * t.2.1 + t.2.2) b.shadow).isSome)
    || (instrsOf b).any (fun p => !tileOver b p.1 && (tileWrites k p.2).contains t)

/-- Whether a tile instruction waits under R104. -/
def tileWaits (x : Ctx) (b : Block) (idx : Nat) (i : Instr) : Bool :=
  let mine := tileTouches x.k i
  (instrsOf b).any (fun p => decide (p.1 < idx) && !tileOver b p.1 && (tileTouches x.k p.2).any (fun t => mine.contains t))
    || (tileNeeds x.k i).any (fun t => (olderThan x b.tag).any (fun o => holdsWrite x.k o t))

/-- Buffer n of tensor cell t as an instruction of a block sees it (R104). -/
def bufSeen (s : State) (c : Nat) (x : Ctx) (b : Block) (t n : Nat) : TBuf :=
  match mfind (16 * t + n) b.staging with
  | some u => u
  | none => mget {} (ctxBufKey x c t n) s.tbufs

/-- Accumulator a of tensor cell t as an instruction of a block sees it (R104). -/
def accSeen (s : State) (c : Nat) (x : Ctx) (b : Block) (t a : Nat) : TAcc :=
  match mfind (8 * t + a) b.shadow with
  | some u => u
  | none => mget {} (ctxAccKey x c t a) s.taccs

/-- A buffer written: its staging copy (R263). A tensor cell's four staging buffers (R259) are counted for each block by itself when
it is mapped (R104, R263); the spec gives no rule for blocks in flight that need more than four together, and the model makes
none wait. DESIGN CHOICE, log 98. -/
def stage (s : State) (c tag t n : Nat) (u : TBuf) : State :=
  modBlock s c tag (fun b => { b with staging := mput (16 * t + n) u b.staging })

/-- An accumulator written: its shadow (R104). -/
def shade (s : State) (c tag t a : Nat) (u : TAcc) : State :=
  modBlock s c tag (fun b => { b with shadow := mput (8 * t + a) u b.shadow })

/-- The extra cc of a first partial write of a buffer (R263). -/
def copyCc (b : Block) (t n : Nat) : Nat := if (mfind (16 * t + n) b.staging).isSome then 0 else 8

/-- The 64-bit words of a buffer or accumulator an instruction reads: first and number. -/
def tileSpan (i : Instr) (isBuf : Bool) : Nat × Nat :=
  match i with
  | .trow _ .rb _ _ row chunk _ _ => (64 * row.toNat + 8 * chunk.toNat, 8)
  | .trow _ .ra _ _ row _ _ _ => (8 * row.toNat, 8)
  | _ => (0, if isBuf then 1040 else 128)

/-- The lowest poisoned word among the tile operands of an instruction, by its address in the on-chip window (R131,
R339). -/
def tilePoison (s : State) (c : Nat) (x : Ctx) (b : Block) (i : Instr) : Option W64 :=
  match tensorCell i with
  | none => none
  | some t =>
    let u := tileUse i
    let comb := memberAt (homeOf c) (t / 4)
    let base := windowBaseOf comb
    let run := basesAt x c comb
    let bad : List Nat → Bool → Option Nat := fun l isBuf =>
      let r := tileSpan i isBuf
      l.find? (fun w => decide (r.1 ≤ w) && decide (w < r.1 + r.2))
    let bufAt : Nat → Option Nat := fun n => (bad (bufSeen s c x b t n).poison true).map (fun w =>
      if w < 1024 then base + 0x100000 + 0x20000 * (t % 4) + 0x2000 * (run.1 + n) + 8 * w
      else base + 0x180000 + 0x1000 * (t % 4) + 0x100 * (run.1 + n) + 8 * (w - 1024))
    let accAt : Nat → Option Nat := fun a => (bad (accSeen s c x b t a).poison false).map (fun w =>
      base + 0x184000 + 0x2000 * (t % 4) + 0x400 * (run.2 + a) + 8 * w)
    ((u.bufR.findSome? bufAt).or (u.accR.findSome? accAt)).map (BitVec.ofNat 64)

/-- A tile instruction runs once its waits are over; until then it is held. A poisoned operand faults it (R339). -/
def afterWaits (s : State) (i : Issue) (x : Ctx) (b : Block) (k : State → State) : State :=
  match instrAt b.words i.idx with
  | some ins =>
    if tileWaits x b i.idx ins then setSt s i .held
    else match tilePoison s i.ctx x b ins with
      | some a => recordFault s i 0x0F a
      | none => k s
  | none => setSt s i .done

/-! ## TLD and TST (R264 to R271) -/

/-- The format window an address lies in (R265). -/
def windowAt (p : Partition) (va : Nat) : Option FWin :=
  (upTo 16).findSome? (fun n =>
    let w := mget {} n p.fwin
    if w.ctl.getLsbD 7 && decide (w.base.toNat ≤ va) && decide (va < w.fin.toNat) then some w else none)

/-- A window's format and whether it is scaled (R264). -/
def windowFmt (w : FWin) : ElemTy × Bool := ((ElemTy.ofCode (bits w.ctl.toNat 0 5)).getD .bf16x2, w.ctl.getLsbD 6)

/-- The row addresses of a tile in memory with their numbers (R268, R271). -/
def rowAddrs (base pitch : W64) (n : Nat) : List (Nat × W64) := (upTo n).map (fun j => (j, base + BitVec.ofNat 64 j * pitch))

/-- The pieces of one row of a TLD, or its fault, in the order of R268. `pos` is the row's place. -/
def tldRow (s : State) (c : Nat) (x : Ctx) (comb : Nat) (fw : Option FWin) (f : ElemTy) (len : Nat) (j : Nat) (ra : W64) (pos : Nat) :
    Except AccErr (List LPiece) :=
  if !vaOk ra then .error (0x0B, ra)
  else
    match transRanges s c x comb .rd .other [(ra.toNat, len, pos)] with
    | .error e => .error e
    | .ok ps =>
      match fw with
      | none => .ok ps
      | some w =>
        let o : Int := (ra.toNat : Int) - w.base.toNat
        let m : Nat := 32 * f.width / 8
        if o % m != 0 then .error (0x0A, ra)
        else if w.fin.toNat < ra.toNat + len then .error (0x0E, ra)
        else if w.ctl.getLsbD 6 then
          -- one scale byte for each 32 elements from the base on (R265)
          match transRanges s c x comb .rd .other [(((w.sbase.toNat + o / m) % (2 ^ 64 : Int)).toNat, 8, 16384 + 8 * j)] with
          | .error e => .error e
          | .ok qs => .ok (ps ++ qs)
        else .ok ps

/-- A TLD's access (R268): the fault of the lowest byte, or the load. -/
def tldStart (s : State) (i : Issue) (x : Ctx) (b : Block) (bc tr : Bool) (fmt : TldFmt) (cell ls : BitVec 5) (buf : BitVec 4)
    (t1 t0 : Target) (base pitch : W64) : State :=
  let fw := match fmt with | .auto => windowAt (partOf s x.part) base.toNat | .fmt _ => none
  if fmt == .auto && fw.isNone then recordFault s i 0x0E base
  else
    let fs := match fmt, fw with
      | .fmt f, _ => (f, false)
      | .auto, some w => windowFmt w
      | .auto, none => (.bf16x2, false)
    let w := fs.1.width
    let rows := if tr then rowAddrs base pitch 256 else rowAddrs base pitch 16
    let len := if tr then 2 * w else 32 * w
    let comb := issueComb x i b
    let out := rows.map (fun r => tldRow s i.ctx x comb fw fs.1 len r.1 r.2 (if tr then 64 * r.1 else 512 * r.1))
    let bad := out.filterMap (fun p => match p with | .error e => some e | .ok _ => none)
    match bad with
    | e :: r =>
      let e := r.foldl (fun a b => if b.2.toNat < a.2.toNat then b else a) e
      recordFault s i e.1 e.2
    | [] =>
      let ps := (out.map (fun p => match p with | .ok q => q | .error _ => [])).flatten
      startLoad s i ls.toNat (.tile fs.1 fs.2 tr bc cell.toNat buf.toNat 16384) false .predict ps t1 t0

/-- TLD (R267, R268). -/
def execTld (p : Pr) (bc tr : Bool) (fmt : TldFmt) (cell ls : BitVec 5) (buf : BitVec 4) (t1 t0 : Target) (s : State) : Out :=
  fire2 p s (nullTo [t0, t1]) (fun i x b t u s =>
    match t, u with
    | .s base, .s pitch => afterWaits s i x b (fun s => tldStart s i x b bc tr fmt cell ls buf t1 t0 base pitch)
    | _, _ => kindFault s i)

/-- The buffer a TLD's bytes make (R260, R261, R268). -/
def tileOfBytes (f : ElemTy) (sc tr : Bool) (d : Nat) (scales : Nat) : TBuf :=
  let w := f.width
  let row : Nat → Nat := fun n =>
    if tr then packRow w ((upTo 256).map (fun j => bits d (8 * 64 * j + w * n) w))
    else bits d (4096 * n) (256 * w)
  { data := rowsData ((upTo 16).map row), fmt := f, sc := sc,
    scales := if sc then BitVec.ofNat 1024 (bits d (8 * scales) 1024) else unitScales }

/-- The bytes TST stores, by row: address, length, data (R271). -/
def tstRows (s : State) (c : Nat) (x : Ctx) (b : Block) (acc tr : Bool) (t n : Nat) (base pitch : W64) : List (W64 × Nat × Nat) :=
  if acc then
    let a := accSeen s c x b t n
    (rowAddrs base pitch 16).map (fun r => (r.2, 64,
      packRow 32 ((upTo 16).map (fun k => if tr then accElem a k r.1 else accElem a r.1 k))))
  else
    let u := bufSeen s c x b t n
    let w := u.fmt.width
    if tr then (rowAddrs base pitch 256).map (fun r => (r.2, 2 * w, packRow w ((upTo 16).map (fun k => bits (bufRow u k) (w * r.1) w))))
    else (rowAddrs base pitch 16).map (fun r => (r.2, 32 * w, bits (bufRow u r.1) 0 (256 * w)))

/-- TST (R270, R271): it captures the state it names when it fires, which takes 4 cc for an accumulator and 32 for a buffer. -/
def execTst (p : Pr) (acc tr : Bool) (cell ls : BitVec 5) (idx : BitVec 4) (s : State) : Out :=
  fire2 p s (nullStore ls) (fun i x b t u s =>
    match t, u with
    | .s base, .s pitch =>
      afterWaits s i x b (fun s =>
        match mfind i.idx b.captures with
        | none => setSt (modBlock s i.ctx i.tag (fun b => { b with captures := mput i.idx (s.cycles + (if acc then 4 else 32)) b.captures })) i .held
        | some t =>
          if s.cycles < t then setSt s i .held
          else
            let rows := tstRows s i.ctx x b acc tr cell.toNat idx.toNat base pitch
            fireStore s i x b ls.toNat (.data .plain (coalesce (rows.map (fun r => cutPieces r.1.toNat r.2.1 r.2.2)).flatten)))
    | _, _ => kindFault s i)

/-! ## MMA (R276 to R284) -/

/-- Whether an older block may still write PPR (R276). -/
def pprWaits (x : Ctx) (tag : Nat) : Bool :=
  (olderThan x tag).any (fun o => (instrsOf o).any (fun p => writesPpr p.2 && !tileOver o p.1))

/-- PPR as every older block leaves it (R276). -/
def pprSeen (x : Ctx) (tag : Nat) : W64 := ((olderThan x tag).foldl (fun y b => sysApply y b.sys) x).ppr

/-- The ranks an MMA starts from and may reach (R279). -/
def mmaRungs (mode : MmaMode) (rung : Nat) (stk : Bool) (ppr : W64) (sr : Nat) (a b : ElemTy) : Nat × Nat × Bool × Bool :=
  let adaptive := mode == .f || mode == .i
  let top := max (storedRank a) (storedRank b)
  let sticky := adaptive && (ppr.getLsbD 28 || stk)
  let r := if adaptive && bits ppr.toNat 29 2 == 2 then top else rung + 1
  let r := if sticky then max r sr else r
  match mode with
  | .t => (1, 1, false, false)
  | .maxp | .minp => (0, 0, false, false)
  | _ => (min r top, top, sticky, adaptive)

/-- The unit of a swarm tensor cell (R37, R284). -/
def unitKey (c t : Nat) : Nat := 4 * memberAt (homeOf c) (t / 4) + t % 4

/-- A job in its unit's queue: after the passes under way, and after every MMA that issued before it (R284). -/
def joinQueue (q : List MmaJob) (j : MmaJob) : List MmaJob :=
  let before := fun (o : MmaJob) => o.ends.isSome || decide (o.order < j.order)
  q.filter before ++ j :: q.filter (fun o => !before o)

/-- An MMA that waits for tile state or PPR: it has issued, and keeps its place in the order of its unit (R104, R276, R284).
DEDUCED, log 99. -/
def holdMma (s : State) (i : Issue) (b : Block) : State :=
  match mfind i.idx b.issued with
  | some _ => setSt s i .held
  | none => setSt (bumpSeq (modBlock s i.ctx i.tag (fun b => { b with issued := mput i.idx s.seq b.issued }))) i .held

/-- MMA (R277 to R279): its operands' tags are checked and it joins its tensor cell's queue. DEDUCED, log 65. -/
def execMma (p : Pr) (mode : MmaMode) (cell : BitVec 5) (acc : BitVec 3) (a b : BitVec 4) (rung : BitVec 2) (stk zc : Bool)
    (t1 t0 : Target) (s : State) : Out :=
  fire0 p s (fun i x blk s =>
    match i.left with
    | none => setSt s i .waiting
    | some .n => emitNull s i [t0, t1]
    | some _ =>
      if pprWaits x i.tag || (instrAt blk.words i.idx).any (tileWaits x blk i.idx) then holdMma s i blk
      else afterWaits s i x blk (fun s =>
        let t := cell.toNat
        let ba := bufSeen s i.ctx x blk t a.toNat
        let bb := bufSeen s i.ctx x blk t b.toNat
        if !mmaTagsOk mode ba.fmt bb.fmt then recordFault s i 0x04 2
        else
          let ppr := pprSeen x i.tag
          let g := mmaRungs mode rung.toNat stk ppr (accSeen s i.ctx x blk t acc.toNat).sr ba.fmt bb.fmt
          let job : MmaJob := { ctx := i.ctx, tag := i.tag, idx := i.idx, mode := mode, acc := acc.toNat, a := a.toNat,
                                b := b.toNat, cell := t, zc := zc, sticky := g.2.2.1, adaptive := g.2.2.2, ppr := ppr,
                                rung := g.1, top := g.2.1, start := g.1, replays := 0, ends := none,
                                order := mget s.seq i.idx blk.issued, t1 := t1, t0 := t0 }
          let key := unitKey i.ctx t
          setSt (bumpSeq { s with jobs := mput key (joinQueue (mget [] key s.jobs) job) s.jobs }) i .busy))

/-! ## TOP, TROW, PSET, PGET (R285 to R288) -/

/-- An instruction with a trigger of any kind in its left slot (R285, R287). DEDUCED, log 65. -/
def triggered (p : Pr) (ts : List Target) (s : State) (k : Issue → Ctx → Block → State → State) : Out :=
  fire0 p s (fun i x b s =>
    match i.left with
    | none => setSt s i .waiting
    | some .n => emitNull s i ts
    | some _ => afterWaits s i x b (k i x b))

/-- The fill value of TOP zero (R286). -/
def zeroBits (v : ZeroVal) : Nat :=
  match v with
  | .zero => 0
  | .ninf => 0xFF800000
  | .pinf => 0x7F800000

/-- TOP by its operation (R286). -/
def execTop (p : Pr) (op : TopOp) (cell : BitVec 5) (t1 t0 : Target) (s : State) : Out :=
  let t := cell.toNat
  let ts := [t0, t1]
  match op with
  | .zeroBuf d => triggered p ts s (fun i _ b s => finish (stage s i.ctx i.tag t d.toNat TBuf.zero) i (2 + copyCc b t d.toNat) ts (.s 0))
  | .zeroAcc d v => triggered p ts s (fun i _ _ s =>
      finish (shade s i.ctx i.tag t d.toNat { data := accData (fun _ _ => zeroBits v), sr := 1 }) i 2 ts (.s 0))
  | .trans d r => triggered p ts s (fun i x b s =>
      finish (shade s i.ctx i.tag t d.toNat (topTrans (accSeen s i.ctx x b t r.toNat))) i 4 ts (.s 0))
  | .conv d r dty sat ns => triggered p ts s (fun i x b s =>
      let u := bufSeen s i.ctx x b t r.toNat
      let v := if ns then topConvNs u dty else topConv u dty sat
      finish (stage s i.ctx i.tag t d.toNat v) i (16 + copyCc b t d.toNat) ts (.s 0))
  | .rmax r => triggered p ts s (fun i x b s => finish s i 6 ts (.v (topRmax (accSeen s i.ctx x b t r.toNat)) 0xFFFF))
  | .rsum r => triggered p ts s (fun i x b s => finish s i 12 ts (.v (topRsum (accSeen s i.ctx x b t r.toNat)) 0xFFFF))
  | .rscale d r => fire2 p s (nullTo ts) (fun i x b _ u s =>
      match u with
      | .v l m => afterWaits s i x b (fun s =>
          let old := accSeen s i.ctx x b t d.toNat
          let v := topRow .mul (accSeen s i.ctx x b t r.toNat) l m
          finish (shade s i.ctx i.tag t d.toNat { v with sr := old.sr }) i 6 ts (.s 0))
      | _ => kindFault s i)
  | .rsub d r => fire2 p s (nullTo ts) (fun i x b _ u s =>
      match u with
      | .v l m => afterWaits s i x b (fun s =>
          let old := accSeen s i.ctx x b t d.toNat
          let v := topRow .sub (accSeen s i.ctx x b t r.toNat) l m
          finish (shade s i.ctx i.tag t d.toNat { v with sr := old.sr }) i 6 ts (.s 0))
      | _ => kindFault s i)
  | .exp2 d r => triggered p ts s (fun i x b s =>
      let old := accSeen s i.ctx x b t d.toNat
      finish (shade s i.ctx i.tag t d.toNat { topExp2 (accSeen s i.ctx x b t r.toNat) with sr := old.sr }) i 8 ts (.s 0))
  | .a2b d r dty sat si koff => triggered p ts s (fun i x b s =>
      let old := bufSeen s i.ctx x b t d.toNat
      let v := topA2b old (accSeen s i.ctx x b t r.toNat) dty sat si koff.toNat
      let v := { v with poison := if old.fmt == dty && !old.sc then old.poison else [] }
      finish (stage s i.ctx i.tag t d.toNat v) i (4 + copyCc b t d.toNat) ts (.s 0))

/-- A write of a valid mask's lanes into tile state (R287). -/
def trowWrite (p : Pr) (ts : List Target) (s : State) (k : Issue → Ctx → Block → Lanes → Mask → State → State) : Out :=
  fire1 p s (nullTo ts) (fun i x b t s =>
    match t with
    | .v l m => afterWaits s i x b (k i x b l m)
    | _ => kindFault s i)

/-- Poisoned words left after a write of lanes from a word on: a word whose two lanes are written is clear (R339). -/
def lanesClear (l : List Nat) (w : Nat) (m : Mask) : List Nat :=
  l.filter (fun k => !(decide (w ≤ k) && decide (k < w + 8) && m.getLsbD (2 * (k - w)) && m.getLsbD (2 * (k - w) + 1)))

/-- TROW by its operation (R287). -/
def execTrow (p : Pr) (op : TrowOp) (cell : BitVec 5) (idx row : BitVec 4) (chunk : BitVec 3) (t1 t0 : Target) (s : State) : Out :=
  let t := cell.toNat
  let n := idx.toNat
  let ts := [t0, t1]
  match op with
  | .rb => triggered p ts s (fun i x b s => finish s i 2 ts (.v (trowRead (bufSeen s i.ctx x b t n) row.toNat chunk.toNat) 0xFFFF))
  | .ra => triggered p ts s (fun i x b s =>
      finish s i 2 ts (.v (BitVec.ofNat 512 (bits (accSeen s i.ctx x b t n).data.toNat (512 * row.toNat) 512)) 0xFFFF))
  | .wb => trowWrite p ts s (fun i x b l m s =>
      let u := bufSeen s i.ctx x b t n
      let v := { u with data := mergeLanes u.data (4096 * row.toNat + 512 * chunk.toNat) l m,
                        poison := lanesClear u.poison (64 * row.toNat + 8 * chunk.toNat) m }
      finish (stage s i.ctx i.tag t n v) i (2 + copyCc b t n) ts (.s 0))
  | .wa => trowWrite p ts s (fun i x b l m s =>
      let u := accSeen s i.ctx x b t n
      finish (shade s i.ctx i.tag t n { u with data := mergeLanes u.data (512 * row.toNat) l m, poison := lanesClear u.poison (8 * row.toNat) m }) i 2 ts (.s 0))

/-- PSET (R288). -/
def execPset (p : Pr) (mask : BitVec 6) (s : State) : Out :=
  fire1 p s (fun i s => setSt s i .done) (fun i _ _ t s =>
    match t with
    | .s v => setSt (modBlock s i.ctx i.tag (fun b => { b with sys := mput i.idx (.pset mask v) b.sys })) i .done
    | _ => kindFault s i)

/-- PGET (R288): it reads PPR as GETS reads a register. -/
def execPget (p : Pr) (t0 : Target) (s : State) : Out :=
  fire0 p s (fun i x _ s =>
    if isOldest x i.tag then finish s i 2 [t0] (.s x.ppr) else setSt s i .held)

end Sys2Proof.Machine
end

