-- ==== Sys2Proof/Machine/CopyEngine.lean ====
section
/-! DEFINITION. The copy engines: a descriptor's checks and rows, chunks of 64 KiB, bytes read and written at their
homes, conversion, and a request's end (R127, R132, R151, R164, R166, R238 to R248, R296, R339, R358). -/

namespace Sys2Proof.Machine

/-! ## The descriptor (R239, R240, R242) -/

/-- The fields of a descriptor (R239). -/
structure CopyDesc where
  saddr : Nat
  daddr : Nat
  dim0 : Nat
  dim1 : Nat
  dim2 : Nat
  ss1 : Int
  ss2 : Int
  ds1 : Int
  ds2 : Int
  flags : Nat
  prio : Nat
  aux : Nat
  last : Nat
  deriving DecidableEq, Repr

/-- A descriptor's lanes as fields (R239). -/
def readDesc (l : Lanes) : CopyDesc :=
  let u : Nat → Nat := fun k => (lane l k).toNat
  let z : Nat → Int := fun k => (lane l k).toInt
  { saddr := u 0 + 2 ^ 32 * u 1, daddr := u 2 + 2 ^ 32 * u 3, dim0 := u 4, dim1 := u 5, dim2 := u 6, ss1 := z 7, ss2 := z 8,
    ds1 := z 9, ds2 := z 10, flags := u 11, prio := u 12, aux := u 13 + 2 ^ 32 * u 14, last := u 15 }

/-- The descriptor of a request; COPYB's length of 40 bits lies in lanes 4 and 5 (R296). -/
def descOf (q : CopyReq) : CopyDesc :=
  let d := readDesc q.desc
  match q.who with
  | .ctx _ => d
  | .packet .. => { d with dim0 := d.dim0 + 2 ^ 32 * d.dim1, dim1 := 0 }

/-- CVT, AUTO and SAT (R239). -/
def dCvt (d : CopyDesc) : Bool := bits d.flags 31 1 == 1
def dAuto (d : CopyDesc) : Bool := bits d.flags 30 1 == 1
def dSat (d : CopyDesc) : Bool := bits d.flags 29 1 == 1
/-- DTYPE and STYPE (R239). -/
def dDst (d : CopyDesc) : Nat := bits d.flags 8 5
def dSrc (d : CopyDesc) : Nat := bits d.flags 0 5

/-- Rows per plane, and planes, that a mode uses (R240). -/
def usesRows (m : CopyMode) : Bool := m != .lin
def usesPlanes (m : CopyMode) : Bool := m == .d3 || m == .fill
def rowsOf (m : CopyMode) (d : CopyDesc) : Nat := if usesRows m then d.dim1 else 1
def planesOf (m : CopyMode) (d : CopyDesc) : Nat := if usesPlanes m then d.dim2 else 1

/-- A used count of zero makes the request empty (R240). -/
def emptyCopy (m : CopyMode) (d : CopyDesc) : Bool := d.dim0 == 0 || rowsOf m d == 0 || planesOf m d == 0

/-- The window AUTO reads (R241, R265). -/
def autoWindow (p : Partition) (d : CopyDesc) : Option FWin := if dAuto d then windowAt p d.saddr else none

/-- The source type of a conversion, and whether block scales govern it (R241). Where AUTO's window has gone since the request began,
of which the spec says nothing, the rest is read as i32 without a fault: DESIGN CHOICE, log 105. -/
def srcType (p : Partition) (d : CopyDesc) : ElemTy × Bool :=
  match autoWindow p d with
  | some w => windowFmt w
  | none => ((ElemTy.ofCode (dSrc d)).getD .i32, false)

/-- The destination type of a conversion. -/
def dstType (d : CopyDesc) : ElemTy := (ElemTy.ofCode (dDst d)).getD .i32

/-- Bits of a source and of a destination element; a byte without conversion (R241). -/
def unitBits (p : Partition) (d : CopyDesc) : Nat × Nat := if dCvt d then ((srcType p d).1.width, (dstType d).width) else (8, 8)

/-- Bytes of a source and of a destination row (R240, R241). -/
def rowBytes (p : Partition) (d : CopyDesc) : Nat × Nat :=
  let w := unitBits p d
  (d.dim0 * w.1 / 8, d.dim0 * w.2 / 8)

/-- Where rows lie: the lowest and highest offset of a row's first byte from the base (R242). -/
def rowExtent (rows planes : Nat) (s1 s2 : Int) : Int × Int :=
  let a : Int := (rows - 1 : Nat) * s1
  let b : Int := (planes - 1 : Nat) * s2
  (min 0 a + min 0 b, max 0 a + max 0 b)

/-- A side's span: its first byte's offset and its bytes; none for an empty request (R242). -/
def sideSpan (m : CopyMode) (d : CopyDesc) (s1 s2 : Int) (n : Nat) : Int × Nat :=
  if emptyCopy m d then (0, 0)
  else
    let e := rowExtent (rowsOf m d) (planesOf m d) s1 s2
    (e.1, (e.2 - e.1).toNat + n)

/-- Reserved fields, and counts and strides a mode does not use, that are nonzero (R240, R242). -/
def badFields (m : CopyMode) (d : CopyDesc) : Bool :=
  bits d.flags 13 16 != 0 || bits d.flags 5 3 != 0 || d.prio / 2 != 0 || d.last != 0
    || (!usesRows m && (d.dim1 != 0 || d.ss1 != 0 || d.ds1 != 0))
    || (!usesPlanes m && (d.dim2 != 0 || d.ss2 != 0 || d.ds2 != 0))
    || (m == .fill && (d.ss1 != 0 || d.ss2 != 0))

/-- Whether AUTO's window is missing or does not cover the source span (R242). -/
def badAuto (p : Partition) (m : CopyMode) (d : CopyDesc) : Bool :=
  if !dAuto d then false
  else
    match windowAt p d.saddr with
    | none => true
    | some w =>
      if m == .rgath then false
      else
        let sp := sideSpan m d d.ss1 d.ss2 (rowBytes p d).1
        let lo : Int := d.saddr + sp.1
        sp.2 != 0 && (decide (lo < (w.base.toNat : Int)) || decide ((w.fin.toNat : Int) < lo + sp.2))

/-- A malformed descriptor (R242). -/
def badDesc (p : Partition) (m : CopyMode) (d : CopyDesc) : Bool :=
  let w := unitBits p d
  let n := rowBytes p d
  badFields m d
    || (m == .fill && (d.saddr != 0 || dCvt d))
    || (dAuto d && (!dCvt d || dSrc d != 0))
    || decide (13 < dSrc d) || decide (13 < dDst d)
    || (dCvt d && (d.dim0 * w.1 % 8 != 0 || d.dim0 * w.2 % 8 != 0))
    || (m != .rgath && m != .fill && decide (2 ^ 40 < (sideSpan m d d.ss1 d.ss2 n.1).2))
    || (m != .rscat && decide (2 ^ 40 < (sideSpan m d d.ds1 d.ds2 n.2).2))
    || badAuto p m d

/-! ## Chunks (R164) -/

/-- A part of a row in a chunk: row number over all planes, first unit (byte or element) and number of units. -/
structure CopyPart where
  row : Nat
  e : Nat
  n : Nat
  deriving DecidableEq, Repr

/-- The bits of a source and of a destination element by which a request is cut into chunks: those in force when its first chunk
moved, whatever FWIN has installed since (R164, R266). -/
def cutBits (p : Partition) (q : CopyReq) (d : CopyDesc) : Nat × Nat :=
  let w := unitBits p d
  (if q.cut == 0 then w.1 else q.cut, w.2)

/-- Units of a row that fit one chunk, whole bytes on both sides. -/
def unitsPerPart (w : Nat × Nat) : Nat := 524288 / max w.1 w.2 / 8 * 8

/-- Parts a row is cut into. -/
def partsPerRow (w : Nat × Nat) (d : CopyDesc) : Nat := (d.dim0 + unitsPerPart w - 1) / unitsPerPart w

/-- Rows that fit one chunk. -/
def rowsPerChunk (w : Nat × Nat) (d : CopyDesc) : Nat :=
  if 1 < partsPerRow w d then 1 else max 1 (65536 / max 1 (max (d.dim0 * w.1 / 8) (d.dim0 * w.2 / 8)))

/-- Chunks of a request cut by the widths `w`. -/
def chunkCount (w : Nat × Nat) (m : CopyMode) (d : CopyDesc) : Nat :=
  let rows := rowsOf m d * planesOf m d
  if 1 < partsPerRow w d then rows * partsPerRow w d else (rows + rowsPerChunk w d - 1) / rowsPerChunk w d

/-- The parts of chunk k of a request cut by the widths `w`. -/
def chunkParts (w : Nat × Nat) (m : CopyMode) (d : CopyDesc) (k : Nat) : List CopyPart :=
  let rows := rowsOf m d * planesOf m d
  let per := partsPerRow w d
  if 1 < per then
    let e := k % per * unitsPerPart w
    [⟨k / per, e, min (unitsPerPart w) (d.dim0 - e)⟩]
  else
    let r := k * rowsPerChunk w d
    (rangeFrom r (min (rowsPerChunk w d) (rows - r))).map (fun j => ⟨j, 0, d.dim0⟩)

/-! ## Bytes an engine reads (R132, R151, R339) -/

/-- The bytes of a range as pieces within aligned words: address and length. -/
def cutWords (va n : Nat) : List (Nat × Nat) :=
  if n == 0 then []
  else (upTo ((va % 8 + n + 7) / 8)).map (fun j =>
    let w := va / 8 * 8 + 8 * j
    (max va w, min (va + n) (w + 8) - max va w))

/-- A word as an engine reads it: data, poison and the home word whose owner gave it; not to be had yet, with the home word waited
for; or a fault. -/
inductive EngWord where
  | have_ (d : W64) (poison : Bool) (w : Option Nat)
  | wait (w : Option Nat)
  | bad (e : AccErr)
  deriving DecidableEq, Repr

/-- Whether a delayed write of another message waits at a word's region (R161): a request reads what it is to write itself. -/
def delayedElse (s : State) (q : CopyReq) (w : Nat) : Bool :=
  s.ms.delayed.any (fun d => d.2.region == w / 64 && mfind d.2.msg s.ms.copies != some q)

/-- The word that holds a source byte (R127, R132, R151); the host's response to a snoop and a delayed write are waited for (R143,
R161, R346). DEDUCED, log 30. -/
def engWord (s : State) (q : CopyReq) (va : Nat) : EngWord :=
  let a : W64 := BitVec.ofNat 64 va
  if va ≥ Config.vaLimit then .bad (0x0B, a)
  else if inScratch va then
    let o := va - Config.scratchBase
    if q.scrSize ≤ o then .bad (0x09, a)
    else
      let pa := windowBaseOf q.comb + q.scrOff + o / 8 * 8
      .have_ (BitVec.ofNat 64 (memRead s.ms.mem pa 8)) (s.ms.poison.contains (pa / 8)) none
  else
    match translate s q.comb q.part va .rd with
    | .error e => .bad (e, a)
    | .ok t =>
      match t.place with
      | .home pa =>
        if withheld s.ms (pa / 8) || hostOwns s.ms (pa / 8) || delayedElse s q (pa / 8) then .wait (some (pa / 8))
        else let v := coherentWord s.ms (pa / 8); .have_ v.1 v.2 (some (pa / 8))
      | .window comb off =>
        if windowWaits s comb (off / 8 * 8) none then .wait none else let v := windowGet s comb (off / 8 * 8); .have_ v.1 v.2 none
      | .cfg _ => .bad (0x0E, a)
      | .remote m x =>
        if linkUp s && !delayedElse s q (remoteTag (remoteKey m x)) then let v := remoteWord s.ms (remoteKey m x); .have_ v.1 v.2 none
        else .wait none
      | .hostMem x => let v := remoteWord s.ms (remoteKey 4096 x); .have_ v.1 v.2 none

/-- What an engine reads of a range: bytes with their poison where it could read them, the first fault, whether it must
wait, and the home words it read or waits for. -/
structure EngRead where
  bytes : List (Option (Nat × Bool)) := []
  err : Option AccErr := none
  wait : Bool := false
  homes : List Nat := []
  deriving DecidableEq, Repr

/-- A range read piece by piece. -/
def engRead (s : State) (q : CopyReq) (va n : Nat) : EngRead :=
  let out := (cutWords va n).map (fun p =>
    match engWord s q p.1 with
    | .have_ d poison w =>
      ({ bytes := (upTo p.2).map (fun j => some (bits d.toNat (8 * (p.1 % 8 + j)) 8, poison)), homes := w.toList } : EngRead)
    | .wait w => { bytes := (upTo p.2).map (fun _ => none), wait := true, homes := w.toList }
    | .bad e => { bytes := (upTo p.2).map (fun _ => none), err := some e })
  { bytes := (out.map (·.bytes)).flatten, err := out.findSome? (·.err), wait := out.any (·.wait), homes := (out.map (·.homes)).flatten }

/-! ## Conversion (R62, R241, R265) -/

/-- Bytes as a little-endian number, and whether all of them were read. -/
def bytesNat (bs : List (Option (Nat × Bool))) : Nat := bs.foldr (fun b acc => (b.map (·.1)).getD 0 + 256 * acc) 0

/-- The scale of element e of AUTO's window: none where it could not be read, else its code and poison (R265). -/
def scaleByte (s : State) (q : CopyReq) (w : FWin) (e : Nat) : EngRead := engRead s q (w.sbase.toNat + e / 32) 1

/-- The scale bytes of a run of elements, from the first one's block on. -/
def scaleBytes (s : State) (q : CopyReq) (w : FWin) (e n : Nat) : EngRead :=
  if n == 0 then {} else engRead s q (w.sbase.toNat + e / 32) ((e + n - 1) / 32 - e / 32 + 1)

/-- One element converted: its code and poison from the bytes of its group, and its scale. -/
def convElem (src dst : ElemTy) (sat : Bool) (scale : Option (Option (Nat × Bool))) (x : Option (Nat × Bool)) : Option (Nat × Bool) :=
  match x, scale with
  | none, _ => none
  | some v, none => some (encodeElem dst .ne sat (decodeElem src v.1), v.2)
  | some _, some none => none
  | some v, some (some k) => some (encodeElem dst .ne sat (scaled src v.1 (scaleExp k.1)), v.2 || k.2)

/-- Element j of a group of bytes of width w bits. -/
def groupElem (bs : List (Option (Nat × Bool))) (n w j : Nat) : Option (Nat × Bool) :=
  let mine := (bs.drop (j * w / 8)).take (((j + 1) * w + 7) / 8 - j * w / 8)
  if mine.all (·.isSome) then some (bits n (j * w) w, mine.any (fun b => b.any (·.2))) else none

/-- A group of up to eight elements converted to destination bytes. -/
def convGroup (src dst : ElemTy) (sat : Bool) (scales : Nat → Option (Option (Nat × Bool))) (bs : List (Option (Nat × Bool))) (e n : Nat) :
    List (Option (Nat × Bool)) :=
  let ws := src.width
  let wd := dst.width
  let v := bytesNat bs
  let out := (upTo n).map (fun j => convElem src dst sat (scales (e + j)) (groupElem bs v ws j))
  let num := (out.zipIdx).foldl (fun acc p => acc + (p.1.map (fun x => x.1)).getD 0 % 2 ^ wd * 2 ^ (wd * p.2)) 0
  (upTo (n * wd / 8)).map (fun b =>
    let mine := (out.drop (8 * b / wd)).take ((8 * b + 8 + wd - 1) / wd - 8 * b / wd)
    if mine.all (·.isSome) then some (bits num (8 * b) 8, mine.any (fun x => x.any (·.2))) else none)

/-- Elements converted in groups of eight; `base` is the index of element e in AUTO's window. -/
def convRun (src dst : ElemTy) (sat : Bool) (scales : Nat → Option (Option (Nat × Bool))) : Nat → List (Option (Nat × Bool)) → Nat → Nat →
    List (Option (Nat × Bool))
  | 0, _, _, _ => []
  | fuel + 1, bs, e, n =>
    if n == 0 then []
    else
      let k := min 8 n
      let bytes := k * src.width / 8
      convGroup src dst sat scales (bs.take bytes) e k ++ convRun src dst sat scales fuel (bs.drop bytes) (e + k) (n - k)

/-! ## A part of a chunk read (R240, R241, R242) -/

/-- A row's first address on a side. -/
def rowAddr (base : Nat) (r p : Nat) (s1 s2 : Int) : Nat := (((base : Int) + p * s2 + r * s1) % (2 ^ 64 : Int)).toNat

/-- The index a row mode reads for a row (R240). -/
def rowIndex (s : State) (q : CopyReq) (d : CopyDesc) (r : Nat) : EngRead :=
  if q.mode == .rgath || q.mode == .rscat then engRead s q ((d.aux + 4 * r) % 2 ^ 64) 4 else {}

/-- What a part gives: its destination address, bytes, first fault, whether it must wait, and the home words read. -/
structure PartRead where
  dst : Nat
  read : EngRead
  deriving DecidableEq, Repr

/-- The source bytes of a part, converted where the request asks for it (R240, R241). -/
def partSource (s : State) (q : CopyReq) (p : Partition) (d : CopyDesc) (c : CopyPart) (row : Nat) : EngRead :=
  let w := unitBits p d
  let src := row + c.e * w.1 / 8
  let n := c.n * w.1 / 8
  if q.mode == .fill then { bytes := (upTo c.n).map (fun j => some (bits d.aux (8 * ((c.e + j) % 8)) 8, false)) }
  else if !dCvt d then engRead s q src n
  else
    let t := srcType p d
    let raw := engRead s q src n
    match autoWindow p d with
    | some win =>
      if row < win.base.toNat || win.fin.toNat < row + (rowBytes p d).1 then
        { bytes := (upTo (c.n * w.2 / 8)).map (fun _ => none), err := some (0x0E, BitVec.ofNat 64 row) }
      else
        let e0 := (8 * (src - win.base.toNat)) / w.1
        let sc := if t.2 then scaleBytes s q win e0 c.n else {}
        let scales : Nat → Option (Option (Nat × Bool)) := fun e => if t.2 then some ((sc.bytes[e / 32 - e0 / 32]?).getD none) else none
        { bytes := convRun t.1 (dstType d) (dSat d) scales (c.n + 1) raw.bytes e0 c.n
          err := raw.err.or sc.err, wait := raw.wait || sc.wait, homes := raw.homes ++ sc.homes }
    | none => { raw with bytes := convRun t.1 (dstType d) (dSat d) (fun _ => none) (c.n + 1) raw.bytes 0 c.n }

/-- A part of a chunk: its index, source and destination. A poisoned index word is consumed, not moved: the row faults with
batch-status cause 0x0F, which R247's table does not list. DESIGN CHOICE, log 97. -/
def partRead (s : State) (q : CopyReq) (p : Partition) (d : CopyDesc) (c : CopyPart) : PartRead :=
  let r := c.row % rowsOf q.mode d
  let pl := c.row / rowsOf q.mode d
  let idx := rowIndex s q d r
  let n := bytesNat idx.bytes
  let src := rowAddr d.saddr (if q.mode == .rgath then n else r) pl d.ss1 d.ss2
  let dst := rowAddr d.daddr (if q.mode == .rscat then n else r) pl d.ds1 d.ds2
  let badIdx : Option AccErr := if idx.bytes.any (fun b => b.any (·.2)) then some (0x0F, BitVec.ofNat 64 (d.aux + 4 * r)) else idx.err
  let out := partSource s q p d c src
  let out := match badIdx with
    | some e => { out with err := some e, bytes := out.bytes.map (fun _ => none) }
    | none => out
  { dst := dst + c.e * (unitBits p d).2 / 8, read := { out with wait := out.wait || idx.wait, homes := idx.homes ++ out.homes } }

/-! ## Bytes an engine writes (R127, R132, R151, R166) -/

/-- Where an engine's write of a word goes; `raw` tells a page that is never cached (R159). -/
inductive EngDst where
  | store (pa : Nat)
  | home (w : Nat) (raw : Bool)
  | window (comb off : Nat)
  | remote (key : Nat)
  deriving DecidableEq, Repr

/-- The place of a destination byte, or its fault (R125, R127, R132, R134). -/
def engDst (s : State) (q : CopyReq) (va : Nat) : Except AccErr EngDst :=
  let a : W64 := BitVec.ofNat 64 va
  if va ≥ Config.vaLimit then .error (0x0C, a)
  else if inScratch va then
    let o := va - Config.scratchBase
    if q.scrSize ≤ o then .error (0x09, a) else .ok (.store (windowBaseOf q.comb + q.scrOff + o))
  else
    match translate s q.comb q.part va .wr with
    | .error e => .error (e, a)
    | .ok t =>
      match t.place with
      | .home pa => .ok (.home (pa / 8) (t.mode == 3))
      | .window comb off => .ok (.window comb off)
      | .cfg _ => .error (0x0E, a)
      | .remote m x => .ok (.remote (remoteKey m x))
      | .hostMem x => .ok (.remote (remoteKey 4096 x))

/-- Whether an engine's write must wait: for its home, a register's reply, or a port to another module (R132, R146, R161, R346,
R353). -/
def dstBusy (s : State) (d : EngDst) : Bool :=
  match d with
  | .store _ => false
  | .home w _ => homeBusy s w
  | .window comb off => windowWaits s comb (off / 8 * 8) none
  | .remote key => remoteBusy s key

/-- A piece of a destination word to be written: address, its bytes (none: unchanged). -/
structure EngPiece where
  va : Nat
  bytes : List (Option (Nat × Bool))
  deriving DecidableEq, Repr

/-- Bytes from an address cut into pieces of words. -/
def cutBytes (va : Nat) (bs : List (Option (Nat × Bool))) : List EngPiece :=
  ((cutWords va bs.length).foldl (fun (acc : List EngPiece × List (Option (Nat × Bool))) p =>
    (acc.1 ++ [⟨p.1, acc.2.take p.2⟩], acc.2.drop p.2)) ([], bs)).1

/-- A piece as data, byte mask and poison within its word. -/
def pieceBits (p : EngPiece) : W64 × Byte × Bool :=
  let sh := p.va % 8
  (BitVec.ofNat 64 (bytesNat p.bytes * 2 ^ (8 * sh)),
   BitVec.ofNat 8 ((p.bytes.zipIdx.foldl (fun acc b => if b.1.isSome then acc + 2 ^ b.2 else acc) 0) * 2 ^ sh),
   p.bytes.any (fun b => b.any (·.2)))

/-- Bytes written one by one where a piece is not whole. -/
def putBytes (p : EngPiece) (f : State → Nat → Nat → State) (s : State) : State :=
  (p.bytes.zipIdx).foldl (fun s b => match b.1 with | some x => f s b.2 x.1 | none => s) s

/-- A piece written (R151, R339). -/
def engPut (s : State) (pl : EngDst) (p : EngPiece) : State :=
  let v := pieceBits p
  match pl with
  | .store pa =>
    let s := putBytes p (fun s j x => storeBytes s (pa + j) 1 x) s
    let s := { s with ms := { s.ms with poison := poisonAfter s.ms.poison (pa / 8) v.2.1 } }
    if v.2.2 then { s with ms := { s.ms with poison := sinsert (pa / 8) s.ms.poison } } else s
  | .home w raw => if raw then watchScan { s with ms := uncachedWrite s.ms w v.1 v.2.1 v.2.2 } w else putHome s w v.1 v.2.1 v.2.2
  | .window comb off => windowPut s comb (off / 8 * 8) v.1 v.2.1 v.2.2
  | .remote key =>
    let s : State := if v.2.1 == 0xFF then { s with ms := remoteWrite s.ms key 8 v.1.toNat }
      else putBytes p (fun s j x => { s with ms := remoteWrite s.ms (key + j) 1 x }) s
    if v.2.2 then { s with ms := { s.ms with poison := sinsert (remoteTag key) s.ms.poison } } else s

/-! ## A chunk (R164, R166, R244) -/

/-- What a chunk finds before it writes: pieces with their places, the first fault in order, whether it waits, the home
words it read, and the home words it writes; and what goes across the network (R358). -/
structure ChunkPlan where
  puts : List (EngDst × EngPiece) := []
  sends : List (Nat × List (Option (Nat × Bool))) := []
  err : Option AccErr := none
  wait : Bool := false
  reads : List Nat := []
  writes : List Nat := []
  deriving DecidableEq, Repr

/-- The plan of one part added. What a request moves across the scale-out network is sent, and nothing is written here (R358). -/
def planPart (s : State) (q : CopyReq) (acc : ChunkPlan) (r : PartRead) : ChunkPlan :=
  let ps := if q.net.isSome then [] else cutBytes r.dst r.read.bytes
  let out := ps.map (fun p => (engDst s q p.va, p))
  let puts := out.filterMap (fun x => match x.1 with | .ok pl => some (pl, x.2) | .error _ => none)
  let bad := out.findSome? (fun x => match x.1 with | .error e => some e | .ok _ => none)
  let homes := puts.filterMap (fun x => match x.1 with | .home w _ => some w | .remote key => some (remoteTag key) | _ => none)
  { puts := acc.puts ++ puts, sends := if q.net.isSome then acc.sends ++ [(r.dst, r.read.bytes)] else acc.sends, err := acc.err.or (r.read.err.or bad), wait := acc.wait || r.read.wait || puts.any (fun x => dstBusy s x.1)
    reads := acc.reads ++ r.read.homes, writes := acc.writes ++ homes }

/-- The plan of chunk k of a request. -/
def chunkPlan (s : State) (q : CopyReq) (d : CopyDesc) (k : Nat) : ChunkPlan :=
  let p := partOf s q.part
  (chunkParts (cutBits p q d) q.mode d k).foldl (fun acc c => planPart s q acc (partRead s q p d c)) {}

/-- The faulting chunk's bytes: each one written or left as it was, by free values (R166). -/
def maybePiece (fresh : Nat) (p : EngPiece) : EngPiece :=
  { p with bytes := p.bytes.zipIdx.map (fun b => if Config.freeBool (fresh + b.2) then b.1 else none) }

/-- The pieces of a faulting chunk written (R166). -/
def putFaulting (s : State) (ps : List (EngDst × EngPiece)) : State :=
  ps.foldl (fun s p => { engPut s p.1 (maybePiece s.fresh p.2) with fresh := s.fresh + 8 }) s

/-- Owners of the words an engine read write them back (R143). -/
def recallAll (s : State) (ws : List Nat) : State := { s with ms := ws.foldl (fun m w => recallWord m w) s.ms }

/-! ## A request's end (R243, R245, R247, R298, R335) -/

/-- The batch-status word of a fault (R247). -/
def copyFault (e : AccErr) : W64 := BitVec.ofNat 64 (2 ^ 56 * e.1.toNat + e.2.toNat % 2 ^ 55)

/-- A request's FIFO entry freed (R243). -/
def freeEntry (s : State) (q : CopyReq) (n : Nat) : State :=
  match q.who with
  | .ctx c => modCtx s c (fun x => { x with fifo := x.fifo.filter (· != n) })
  | .packet .. => s

/-- A COPYB's packet after its request: OK, or FAULT with a record of kind 6 (R294, R335). DEDUCED, log 31. -/
def endCopyb (s : State) (n p queue idx : Nat) (fault : W64) : State :=
  let s := { s with ms := { s.ms with copies := mdel n s.ms.copies } }
  let s := if fault == 0 then s
    else faultRecord s p { kind := 6, cause := bits fault.toNat 56 8, tval := bits fault.toNat 0 55, index := idx, queue := queue }
  modPkt (journalAdd s 3 p queue idx) p queue idx (fun k => { k with status := some (if fault == 0 then 1 else 5), effect := true })

/-- A request finished, with its fault word or 0 (R245, R247). -/
def endCopy (s : State) (n : Nat) (q : CopyReq) (fault : W64) : State :=
  let s := freeEntry s q n
  match q.who with
  | .ctx c => pumpCtx { s with ms := { s.ms with copies := mput n { q with finished := true, started := true, fault := fault } s.ms.copies } } c
  | .packet p queue idx => endCopyb s n p queue idx fault

/-- The rows of a request's source or destination: first address and bytes; none where an index word is not to be had
(R240). -/
def rowSpans (s : State) (q : CopyReq) (src : Bool) : Option (List (Nat × Nat)) :=
  let d := descOf q
  let p := partOf s q.part
  let n := rowBytes p d
  let rows := rowsOf q.mode d
  (upTo (rows * planesOf q.mode d)).mapM (fun k =>
    let r := k % rows
    let pl := k / rows
    let at_ : Nat → Nat × Nat := fun i => if src then (rowAddr d.saddr i pl d.ss1 d.ss2, n.1) else (rowAddr d.daddr i pl d.ds1 d.ds2, n.2)
    if (src && q.mode == .rgath) || (!src && q.mode == .rscat) then
      let i := rowIndex s q d r
      if i.err.isSome || i.wait then none else some (at_ (bytesNat i.bytes))
    else some (at_ r))

/-- The address ranges a request reads and writes; none where they are not to be had (R240, R241). -/
def copySpans (s : State) (q : CopyReq) : Option (List (Nat × Nat) × List (Nat × Nat)) :=
  let d := descOf q
  let p := partOf s q.part
  if badDesc p q.mode d || emptyCopy q.mode d then some ([], [])
  else
    let idx : List (Nat × Nat) := if q.mode == .rgath || q.mode == .rscat then [(d.aux, 4 * rowsOf q.mode d)] else []
    let scales : List (Nat × Nat) := match autoWindow p d with
      | some w => [(w.sbase.toNat, ((w.fin.toNat - w.base.toNat) * 8 / max 1 (srcType p d).1.width + 31) / 32)]
      | none => []
    match (if q.mode == .fill then some [] else rowSpans s q true), (if q.net.isSome then some [] else rowSpans s q false) with
    | some r, some w => some (r ++ idx ++ scales, w)
    | _, _ => none

/-- Whether two lists of address ranges have a byte in common. -/
def spansMeet (a b : List (Nat × Nat)) : Bool :=
  a.any (fun x => b.any (fun y => decide (max x.1 y.1 < min (x.1 + x.2) (y.1 + y.2))))

/-- Whether two requests share a byte that one of them writes (R244); where that is not to be told they do. -/
def copiesConflict (s : State) (a b : CopyReq) : Bool :=
  match copySpans s a, copySpans s b with
  | some x, some y => spansMeet x.2 y.2 || spansMeet x.2 y.1 || spansMeet x.1 y.2
  | _, _ => true

/-- PRIO of a request (R239). -/
def copyPrio (q : CopyReq) : Nat := (descOf q).prio % 2

/-- Whether an earlier request of the same context must end first: one whose bytes this one's order with it concerns, or one that is
not to be served after it (R239, R244). Requests that R244 lets run concurrently go in FIFO order otherwise: DESIGN CHOICE,
log 96. -/
def fifoBehind (s : State) (n : Nat) (q : CopyReq) : Bool :=
  s.ms.copies.any (fun p => p.2.who == q.who && decide (p.1 < n) && !p.2.finished
    && (decide (copyPrio q ≤ copyPrio p.2) || copiesConflict s p.2 q))

/-- Whether a request's next chunk could move now. -/
def copyReady (s : State) (n : Nat) (q : CopyReq) : Bool :=
  q.sent && !q.finished && !fifoBehind s n q
    && (let d := descOf q
        (!q.started && badDesc (partOf s q.part) q.mode d) || q.netPhase != 0 || emptyCopy q.mode d || !(chunkPlan s q d q.chunk).wait)

/-- Whether a request of priority 0 gives way to one of priority 1 that its engine could serve now (R239). DESIGN CHOICE,
log 96. -/
def givesWay (s : State) (q : CopyReq) : Bool :=
  copyPrio q == 0 && s.ms.copies.any (fun p => p.2.comb == q.comb && copyPrio p.2 == 1 && copyReady s p.1 p.2)

/-- Whether a request waits for others (R239, R244). -/
def copyBehind (s : State) (n : Nat) (q : CopyReq) : Bool := fifoBehind s n q || givesWay s q

/-- A chunk that waits: its reply is awaited from now on (R333), the host's lines are snooped, leases run out. -/
def holdChunk (s : State) (n : Nat) (q : CopyReq) (plan : ChunkPlan) : State :=
  let s := { s with ms := { s.ms with copies := mput n { q with asked := q.asked.or (some s.gtime) } s.ms.copies } }
  delayFor (snoopWords s (plan.writes ++ plan.reads.filter (hostOwns s.ms))) n plan.writes

/-- The ports that an endpoint's entry allows (R358). -/
def netPorts (q : CopyReq) : List Nat := (upTo 32).filter (fun j => (q.entry.getD 4 0).getLsbD j)

/-- Messages of a request sent across the network on the port of its next chunk, the ports being taken in turn (R358). DESIGN CHOICE,
log 106. -/
def sendNet (s : State) (q : CopyReq) (msgs : List (Nat × List (Nat × Bool) × Option W64)) : State :=
  let ports := netPorts q
  let port := ports.getD (q.chunk % max 1 ports.length) 0
  { s with rdmaOut := s.rdmaOut ++ msgs.map (fun m =>
      { part := q.part, peer := q.net.getD 0, entry := q.entry, port := port, va := m.1, bytes := m.2.1, add := m.2.2 }) }

/-- What a request whose writes across the network have all been sent does next: at their acknowledgement it sends the atomic to
RSIG, if there is one, and at that one's it ends (R358). DEDUCED, log 31. -/
def netStep (s : State) (n : Nat) (q : CopyReq) : State :=
  let rsig := (q.entry.getD 7 0).toNat
  if q.netPhase == 0 then { s with ms := { s.ms with copies := mput n { q with netPhase := 1 } s.ms.copies } }
  else if q.netPhase == 1 && rsig != 0 then
    let t := sendNet s q [(rsig, [], some (BitVec.allOnes 64))]
    { t with ms := { t.ms with copies := mput n { q with netPhase := 2 } t.ms.copies } }
  else endCopy s n q 0

/-- A request whose last chunk has moved: it ends, or, across the network, awaits its acknowledgements (R245, R358). -/
def lastChunk (s : State) (n : Nat) (q : CopyReq) : State := if q.net.isSome then netStep s n q else endCopy s n q 0

/-- Chunk k of a request performed: it waits, faults, or moves its bytes; the request ends after its last chunk. Its FIFO entry is free
once the chunk before the last has moved, which is when the engine starts the last one; a request of one chunk starts and ends it
at once (R243). DESIGN CHOICE, log 107. -/
def moveChunk (s : State) (n : Nat) (q : CopyReq) (d : CopyDesc) : State :=
  let plan := chunkPlan s q d q.chunk
  let w := cutBits (partOf s q.part) q d
  let total := chunkCount w q.mode d
  if plan.wait then holdChunk s n q plan
  else
    let s := { s with ms := undelay s.ms n }
    let s := recallAll s plan.reads
    match plan.err with
    | some e => endCopy (putFaulting s plan.puts) n q (copyFault e)
    | none =>
      let s := plan.puts.foldl (fun s p => engPut s p.1 p.2) s
      let s := sendNet s q (plan.sends.map (fun m => (m.1, m.2.map (·.getD (0, false)), none)))
      let q := { q with chunk := q.chunk + 1, started := true, asked := none, cut := w.1 }
      let s := { s with ms := { s.ms with copies := mput n q s.ms.copies } }
      if total ≤ q.chunk then lastChunk s n q else if total ≤ q.chunk + 1 then freeEntry s q n else s

/-- One step of a request that has been sent (R242, R244, R358). -/
def copyStep (s : State) (n : Nat) (q : CopyReq) : State :=
  let d := descOf q
  let p := partOf s q.part
  if !q.started && badDesc p q.mode d then endCopy s n q (copyFault (0x01, 0))
  else if q.netPhase != 0 then netStep s n q
  else if emptyCopy q.mode d then lastChunk s n q
  else moveChunk s n q d

end Sys2Proof.Machine
end

