-- ==== Sys2Proof/Machine/SyncInstr.lean ====
section
/-! DEFINITION. Copy requests, batches, children, barriers, save hints and identity as their instructions fire (R238 to
R258), and the set-aside of a parent at JOIN (R47). -/

namespace Sys2Proof.Machine

/-! ## Copies and batches (R238, R245, R246) -/

/-- COPY (R238): a descriptor with an invalid lane faults. -/
def execCopy (p : Pr) (try_ : Bool) (mode : CopyMode) (ls : BitVec 5) (d : RegDest) (s : State) : Out :=
  fire1 p s (nullStore ls) (fun i x b t s =>
    match t with
    | .v l m => if m == 0xFFFF then fireStore s i x b ls.toNat (.copy try_ mode l d) else kindFault s i
    | _ => kindFault s i)

/-- BATCH (R245). -/
def execBatch (p : Pr) (ls : BitVec 5) (d : RegDest) (s : State) : Out :=
  fire0 p s (fun i x b s => fireStore s i x b ls.toNat (.batch d))

/-- WAITB (R246): it waits to be in the oldest block and for its batches, then acquires. The fault it takes comes back if its
block is discarded (R110). -/
def execWaitb (p : Pr) (n : BitVec 9) (t0 : Target) (s : State) : Out :=
  fire0 p s (fun i x _ s =>
    if !isOldest x i.tag || decide (n.toNat < x.batches.length) then setSt s i .held
    else
      let s1 := modBlock (modCtx s i.ctx (fun x => { x with batFault := 0 })) i.ctx i.tag (fun b =>
        { b with taken := if b.taken == 0 then x.batFault else b.taken })
      let s1 := finish s1 i 2 [t0] (.s x.batFault)
      acquire s1 i.ctx (some i.tag) 0)

/-! ## Children (R43 to R50, R249, R250) -/

/-- FORK (R249). -/
def execFork (p : Pr) (ls : BitVec 5) (d : RegDest) (s : State) : Out :=
  fire2 p s (nullStore ls) (fun i x b t u s =>
    match t, u with
    | .v l m, .s e => fireStore s i x b ls.toNat (.fork (maskedLanes m (lane l)) e d)
    | _, _ => kindFault s i)

/-- The outstanding children of a context's task (R44). -/
def childrenOf (s : State) (x : Ctx) : Nat :=
  match x.task with
  | some t => mget 0 t.id (launchOf s t.launch).kids
  | none => 0

/-- Whether an unstarted child is one of a task's that its context may take (R46, R47). -/
def mayTake (s : State) (c : Nat) (t : Task) (e : Child) : Bool :=
  e.launch == t.launch && e.parent == t.id && (kSteal (launchOf s t.launch).hdr != 0 || e.forkCtx == c)

/-- The lowest free run of units of a launch's spill area (R43, R319). -/
def unitRun (s : State) (launch n : Nat) : Option Nat :=
  let l := launchOf s launch
  let taken := asideUnits s launch ++ (entryUnits l).map (fun u => (u, 1))
  lowestRun taken n l.spillu 1

/-- Whether a save of a context covers all declared state: its last committed block was no liveness point (R47, R317).
DESIGN CHOICE, log 26. -/
def fullSave (x : Ctx) : Bool := x.live.isNone

/-- A parent set aside at JOIN (R47): its JOIN block and younger ones are discarded and its save begins. -/
def setAside (s : State) (c : Nat) (run : Nat × Nat) : State := beginSave s c (.setAside (fullSave (ctxOf s c))) run

/-- A JOIN that sets its task aside, or whose spill area cannot hold the record or be written: the record of kind 10 holds the
failing address, and the trap the area's (R43, R47, R336). -/
def joinAside (s : State) (i : Issue) (x : Ctx) (t : Task) : State :=
  let n := recordUnits x (kernelOf s x) (fullSave x)
  match unitRun s t.launch n with
  | none => recordFault s i 0x12 0
  | some u =>
    let a := (launchOf s t.launch).spill + 65536 * u
    match devRange s x.part a (65536 * n) .wr with
    | some e =>
      let l := launchOf s t.launch
      recordFault (deviceFault s x.part e l.idx l.queue) i 0x12 (BitVec.ofNat 64 a)
    | none => setAside s i.ctx (u, n)

/-- JOIN (R47, R250): it completes as an acquire, waits, or sets its task aside for an unstarted child. -/
def execJoin (p : Pr) (n : BitVec 9) (t0 : Target) (s : State) : Out :=
  fire0 p s (fun i x _ s =>
    if !isOldest x i.tag then setSt s i .held
    else if childrenOf s x ≤ n.toNat then
      acquire (finish s i 2 [t0] (.s (BitVec.ofNat 64 (childrenOf s x)))) i.ctx (some i.tag) 0
    else
      match x.task with
      | none => setSt s i .held
      | some t =>
        if holdsEntry s (homeOf i.ctx) (mayTake s i.ctx t) then joinAside s i x t else setSt s i .held)

/-! ## Barriers (R50, R251) -/

/-- Whether BAR may name a channel: a gang member's, below BARS (R50). -/
def barOk (s : State) (x : Ctx) (ch : Nat) : Bool :=
  x.task.any (fun t => t.rank.isSome) && decide (ch < kBars (kernelOf s x))

/-- BAR (R251). -/
def execBar (p : Pr) (ch : BitVec 4) (ls : BitVec 5) (mode : BarMode) (s : State) : Out :=
  let go : Issue → Ctx → Block → Nat → State → State := fun i x b count s =>
    if barOk s x ch.toNat then fireStore s i x b ls.toNat (.bar ch.toNat mode count)
    else recordFault s i 0x08 (ch.zeroExtend 64)
  match mode with
  | .tmd =>
    fire1 p s (nullStore ls) (fun i x b t s =>
      match t with
      | .s n => go i x b n.toNat s
      | _ => kindFault s i)
  | .wait | .arr => fire0 p s (fun i x b s => go i x b 0 s)

/-! ## Save hints and identity (R256 to R258) -/

/-- Save ranges recorded against the commit point (R256). -/
def hintRanges (s : State) (i : Issue) (rs : List (Nat × Nat)) : State :=
  setSt (modBlock s i.ctx i.tag (fun b => { b with hints := mput i.idx rs b.hints })) i .done

/-- PHINT (R256): ranges in bytes; a count of 0 names none. -/
def execPhint (p : Pr) (form : PhintForm) (s : State) : Out :=
  let ranges : Nat → List (Nat × Nat) → List (Nat × Nat) := fun u rs =>
    (rs.filter (fun r => r.2 != 0)).map (fun r => (r.1 * u, r.2 * u))
  match form with
  | .imm s0 c0 s1 c1 => fire0 p s (fun i _ _ s => hintRanges s i (ranges 4096 [(s0.toNat, c0.toNat), (s1.toNat, c1.toNat)]))
  | .reg =>
    fire1 p s (fun i s => setSt s i .done) (fun i _ _ t s =>
      match t with
      | .s v => hintRanges s i (ranges 256 [(bits v.toNat 0 12, bits v.toNat 12 12), (bits v.toNat 32 12, bits v.toNat 44 12)])
      | _ => kindFault s i)

/-- The barrier status word (R255). DEDUCED, log 39. -/
def barWord (b : BarStat) : W64 :=
  BitVec.ofNat 64 (2 ^ 32 * b.phase.toNat + b.done.toNat * 16 + b.departed.toNat * 4 + b.outcome.toNat)

/-- Selectors that read only in the oldest block (R258). -/
def waitingSel (n : Nat) : Bool := n == 11 || n == 13 || n == 14 || n == 17 || n == 20

/-- GETI's value (R257). -/
def getiValue (s : State) (c : Nat) (x : Ctx) (n : Nat) : W64 :=
  let l := match x.task with | some t => launchOf s t.launch | none => launchOf s 0
  let t : Task := x.task.getD ⟨0, 0, 0, 0, 0, none, none, 0⟩
  match n with
  | 0 => BitVec.ofNat 64 t.x
  | 1 => BitVec.ofNat 64 t.y
  | 2 => BitVec.ofNat 64 t.z
  | 3 => BitVec.ofNat 64 t.id
  | 4 => BitVec.ofNat 64 l.x
  | 5 => BitVec.ofNat 64 l.y
  | 6 => BitVec.ofNat 64 l.z
  | 7 => BitVec.ofNat 64 (slotOf c)
  | 8 => BitVec.ofNat 64 (homeOf c % 8)
  | 9 => BitVec.ofNat 64 (frameOf (homeOf c) % 16)
  | 10 => BitVec.ofNat 64 (dieOf (homeOf c))
  | 11 => BitVec.ofNat 64 x.k
  | 12 => BitVec.ofNat 64 x.part
  | 13 => BitVec.ofNat 64 s.cycles
  | 14 => BitVec.ofNat 64 s.gtime
  | 15 => BitVec.ofNat 64 (t.rank.getD 0)
  | 16 => if t.rank.isSome then BitVec.ofNat 64 (l.x * l.y * l.z) else 0
  | 17 => barWord x.bar
  | 18 => match t.parent with | some q => BitVec.ofNat 64 q | none => BitVec.allOnes 64
  | 19 => BitVec.ofNat 64 s.md.modid
  | 20 => BitVec.ofNat 64 x.batches.length
  | _ => 0

/-- GETI (R257, R258). -/
def execGeti (p : Pr) (sel : BitVec 9) (t0 : Target) (s : State) : Out :=
  fire0 p s (fun i x _ s =>
    let n := sel.toNat
    if waitingSel n && !isOldest x i.tag then setSt s i .held
    else finish s i (if waitingSel n then 2 else 1) [t0] (.s (getiValue s i.ctx x n)))

end Sys2Proof.Machine
end

