-- ==== Sys2Proof/Machine/Commit.lean ====
section
/-! DEFINITION. The commit of a block: when it is settled, the conditions of R107, the checks, stalls and commit point of
R108, and what a commit does to composition, traps and pre-emption (R39 to R45, R100, R107 to R112, R228 to R256, R283,
R317, R325). -/

namespace Sys2Proof.Machine

/-! ## Settled (R107) -/

/-- A load that waits for a store-class instruction of its own block that can never resolve: nothing of the block is
left that could bring its operands (R103, R107, R220). DEDUCED, log 70. -/
def stuckLoad (s : State) (c : Nat) (b : Block) (idx : Nat) : Bool :=
  s.ms.loads.any (fun p => p.2.ctx == c && p.2.tag == b.tag && p.2.idx == idx && p.2.got.isEmpty && p.2.armed == none
    && (b.om || p.2.pieces.any (fun q => q.mode == 3)) && !storesResolved b p.2.lsid)

/-- Whether a block is settled (R107). DEDUCED, log 70. -/
def settled (s : State) (c : Nat) (b : Block) : Bool :=
  !(s.net.any (fun p => p.2.ctx == c && p.2.tag == b.tag))
    && b.nodes.all (fun n =>
      match n.2.st with
      | .ready _ => false
      | .held => false
      | .busy => stuckLoad s c b n.1
      | _ => true)
    && s.ms.loads.all (fun p => !(p.2.ctx == c && p.2.tag == b.tag) || stuckLoad s c b p.2.idx)

/-! ## The conditions of R107 -/

/-- A trap: cause, TVAL, TIDX. -/
abbrev TrapInfo := BitVec 8 × W64 × Nat

/-- Whether the register-form writer of a register has given its result or was nullified (R107). -/
def regFormDone (b : Block) (n : Nat) : Bool :=
  (instrsOf b).any (fun p =>
    (match regDestOf p.2 with | .reg r => r.toNat == n | .none => false)
    && (storeLsid p.2).any (fun l => (mfind l b.stores).isSome))

/-- The lowest register of the write mask that has received nothing (R107). -/
def unwritten (b : Block) : Option Nat :=
  (upTo 64).find? (fun n => (wmaskOf b.hdr).testBit n && (mfind n b.wr).isNone && !regFormDone b n)

/-- The lowest store-class LSID neither executed nor nullified (R107). -/
def unresolvedStore (b : Block) : Option Nat :=
  ((instrsOf b).filterMap (fun p => (storeLsid p.2).bind (fun l => if (mfind l b.stores).isSome then none else some l))).foldl
    (fun acc l => match acc with | none => some l | some m => some (min l m)) none

/-- The trap of a settled block that meets not all of R107's conditions: mapping and fetch traps, the lowest faulted
instruction (R110), then the table's rows in order. -/
def blockTrap (b : Block) : Option TrapInfo :=
  match b.fetchFault, b.mapTrap, b.faults, b.exits with
  | some f, _, _, _ => some (f.1, f.2, 0x3FF)
  | _, some m, _, _ => some m
  | _, _, (i, f) :: _, _ => some (f.1, f.2, i)
  | _, _, _, [] => some (0x05, 0, 0x3FF)
  | _, _, _, (i, _) :: (j, _) :: _ => some (0x06, BitVec.ofNat 64 i, j)
  | _, _, _, [(i, _)] =>
    match unwritten b, unresolvedStore b with
    | some n, _ => some (0x05, BitVec.ofNat 64 (0x100 + n), i)
    | none, some l => some (0x05, BitVec.ofNat 64 (0x200 + l), i)
    | none, none => none

/-! ## Step 1 of R108: checks -/

/-- The instruction of a store record. -/
def storeInstr (b : Block) (r : StoreRec) : Option Instr := instrAt b.words r.idx

/-- What the configuration range's rule sees of a data store (R134). DEDUCED, log 66. -/
def storePlain (i : Option Instr) : Plain :=
  match i with
  | some (.st _ _ sz _ _) => .plain (stBytes sz)
  | some (.stl _ _ sz _ _) => .plain (stBytes sz)
  | some (.sts _ _ sz _ _) => .plain (stBytes sz)
  | _ => .other

/-- Pages of a range checked one by one: the lowest failing byte (R121, R125, R216). DEDUCED, log 34. -/
def checkPages (s : State) (c : Nat) (x : Ctx) (comb : Nat) (acc : Acc) (a : W64) (len : Nat) : Option AccErr :=
  (pagePieces a.toNat len (len / 65536 + 2)).findSome? (fun p =>
    match transPiece s c x comb acc .other p.1 p.2 0 with
    | .error e => some e
    | .ok _ => none)

/-- An aligned atomic access checked (R125, R155, R228). DEDUCED, log 34. -/
def checkAtomic (s : State) (c : Nat) (x : Ctx) (comb : Nat) (a : W64) (n : Nat) : Option AccErr :=
  match transRanges s c x comb .rw .other [(a.toNat, n, 0)] with
  | .error e => some e
  | .ok _ => if a.toNat % n != 0 then some (0x0A, a) else none

/-- The pieces of a data store checked, then STL's alignment (R155, R224). -/
def checkData (s : State) (c : Nat) (x : Ctx) (comb : Nat) (i : Option Instr) (ps : List Piece) : Option AccErr :=
  match lowestErr (ps.filterMap (fun p => match transPiece s c x comb .wr (storePlain i) p.va p.n 0 with | .error e => some (p.va, e) | .ok _ => none)) with
  | some e => some e
  | none =>
    match i, ps with
    | some (.stl _ _ sz _ _), p :: _ => if p.va % stBytes sz != 0 then some (0x0A, BitVec.ofNat 64 p.va) else none
    | _, _ => none

/-- The deque and spill space of one FORK (R43): the trap, or the state after its push. -/
def checkFork (sim : State) (c : Nat) (x : Ctx) (e : W64) : Except AccErr State :=
  if !blockAddrOk e then .error (0x0D, e)
  else
    let comb := homeOf c
    let t := pushChild sim comb ⟨(x.task.map (·.launch)).getD 0, 0, 0, c, e, 0, 0, 0, 0⟩
    match (mget {} comb t.combs).pushing, (mget {} comb t.combs).deque with
    | _ :: _, top :: _ =>
      match spillCheck t top with
      | .error none => .error (0x12, 0)
      | .error (some f) => .error (0x12, BitVec.ofNat 64 f.2)
      | .ok _ => .ok t
    | _, _ => .ok t

/-- The record of kind 10 of a spill-area write that a FORK's trap 0x12 reports (R336). -/
def spillRecord (s : State) (x : Ctx) (t : BitVec 8 × W64 × Nat) : State :=
  match x.task, devRange s x.part t.2.1.toNat 128 .wr with
  | some k, some e =>
    if t.1 == 0x12 && t.2.1 != 0 then
      let l := launchOf s k.launch
      deviceFault s x.part (e.1, t.2.1.toNat) l.idx l.queue
    else s
  | _, _ => s

/-- One store-class instruction checked (R108 step 1); `sim` holds the deque as the block's earlier FORKs leave it.
DEDUCED, log 34. -/
def checkStore (s sim : State) (c : Nat) (x : Ctx) (b : Block) (r : StoreRec) : Except AccErr State :=
  let out : Option AccErr → Except AccErr State := fun e => match e with | some e => .error e | none => .ok sim
  match r.op with
  | none => .ok sim
  | some (.data _ ps) => out (checkData s c x r.comb (storeInstr b r) ps)
  | some (.amo _ wid a _ _) => out (checkAtomic s c x r.comb a (amoBytes wid))
  | some (.cas wid a _ _ _) => out (checkAtomic s c x r.comb a (wid2Bytes wid))
  | some (.flushr _ a len) => out (checkPages s c x r.comb .rd a len)
  | some (.isync a len) => out (checkPages s c x r.comb .rd a len)
  | some (.claim a len) => out (checkPages s c x r.comb .wr a len)
  | some (.fork _ e _) => checkFork sim c x e
  | some (.fence _) => .ok sim
  | some (.copy ..) => .ok sim
  | some (.batch _) => .ok sim
  | some (.bar ..) => .ok sim

/-- Every store-class instruction checked in LSID order: the first failure (R108 step 1). -/
def checkStores (s sim : State) (c : Nat) (x : Ctx) (b : Block) : List (Nat × StoreRec) → Option TrapInfo
  | [] => none
  | r :: rest =>
    match checkStore s sim c x b r.2 with
    | .error e => some (e.1, e.2, r.2.idx)
    | .ok sim' => checkStores s sim' c x b rest

/-- Whether a block's fired exit is HALT. -/
def haltFired (b : Block) : Bool := b.exits.any (fun e => e.2 == .halt)

/-- The composition request checked (R40 to R42). -/
def checkComposition (s : State) (x : Ctx) (b : Block) : Option TrapInfo :=
  let k := swreqOf b.hdr
  if haltFired b || k == 0 || k == x.k then none
  else
    let gang := x.task.any (fun t => t.rank.isSome)
    let live := decide (k < x.k) && kTlive (kernelOf s x) >>> (4 * k) != 0
    if gang || live then some (0x15, BitVec.ofNat 64 k, 0x100) else none

/-! ## Step 2 of R108: stalls known before anything is performed -/

/-- The COPYs of a block in LSID order: whether each is a TRY. -/
def copyTries (b : Block) : List Bool :=
  b.stores.filterMap (fun r => match r.2.op with | some (.copy t _ _ _) => some t | _ => none)

/-- The BATCHes of a block. -/
def batchCount (b : Block) : Nat := (b.stores.filter (fun r => match r.2.op with | some (.batch _) => true | _ => false)).length

/-- Whether a block is held at step 2: no FIFO room for its plain COPYs, a seventeenth batch, or a BAR on a channel the
member still has an arrival on (R243, R245, R252). -/
def stallsFirst (x : Ctx) (b : Block) : Bool :=
  decide (Config.fifoEntries < x.fifo.length + ((copyTries b).filter (fun t => !t)).length)
    || decide (16 < x.batches.length + batchCount b)
    || b.stores.any (fun r => match r.2.op with | some (.bar ch _ _) => x.arrived.contains ch | _ => false)

/-! ## The commit point: the effects of store-class instructions in LSID order -/

/-- Pieces of a data store performed in order; none while one must wait (R108 step 2). -/
def performPieces (s : State) (c comb : Nat) (k : Plain) (stream : Bool) (pend : Option Nat) : List Piece → Option State
  | [] => some s
  | p :: rest =>
    match transPiece s c (ctxOf s c) comb .wr k p.va p.n 0 with
    | .error _ => performPieces s c comb k stream pend rest
    | .ok lp =>
      match putPiece (if lp.scratch then s else tlbUse s comb (ctxOf s c).part p.va) c comb stream lp p.data pend with
      | none => none
      | some s => performPieces s c comb k stream pend rest

/-- An AMO or CAS at the commit point (R216, R228): in the comb store for scratch, else sent to its home. -/
def performAtomic (s : State) (c comb : Nat) (op : StoreOp) : State :=
  let sh := atomicShape op
  match transPiece s c (ctxOf s c) comb .rw .other sh.2.1.toNat sh.1 0 with
  | .error _ => s
  | .ok lp =>
    if lp.scratch then
      let r := atomicApply op (memRead s.ms.mem lp.pa sh.1)
      setDest (storeRaw s lp.pa sh.1 r.1) c sh.2.2 (.s r.2)
    else
      let n := s.seq
      let hold := lastFence (ctxOf s c)
      let req : AmoReq := { ctx := c, op := op, pa := lp.pa, mode := lp.mode, sent := false, since := s.gtime }
      let s := bumpSeq { s with ms := { s.ms with amos := mput n req s.ms.amos } }
      let s := setDest s c sh.2.2 (.reply n sh.2.1)
      match hold with
      | some id => addHeld s c id (.amo n)
      | none => sendAmo s n

/-- The physical word ranges of a range instruction, scratch and device addresses apart. -/
def rangeWords (s : State) (c : Nat) (x : Ctx) (comb : Nat) (acc : Acc) (a : W64) (len : Nat) : List (Nat × Nat × Nat) :=
  (pagePieces a.toNat len (len / 65536 + 2)).filterMap (fun p =>
    match transPiece s c x comb acc .other p.1 p.2 0 with
    | .ok lp => if lp.scratch || isWindow lp.pa || isCfg lp.pa then none else some (lp.pa / 8, (lp.pa + lp.n - 1) / 8 + 1, lp.mode)
    | .error _ => none)

/-- CLAIM of a run of words (R236). -/
def claimRun (s : State) (c comb w : Nat) (pend : Option Nat) : Nat → Option State
  | 0 => some s
  | n + 1 =>
    match claimWord s c comb w pend with
    | none => none
    | some s => claimRun s c comb (w + 1) pend n

/-- CLAIM's ranges: words of normal local memory only (R236). -/
def claimAll (s : State) (c comb : Nat) (pend : Option Nat) : List (Nat × Nat × Nat) → Option State
  | [] => some s
  | r :: rest =>
    if r.2.2 == 0 && isLocal (8 * r.1) then
      match claimRun s c comb r.1 pend (r.2.1 - r.1) with
      | none => none
      | some s => claimAll s c comb pend rest
    else claimAll s c comb pend rest

/-- The member combs' sets split at the edges of ISYNC's range; none while one must wait (R141, R153). -/
def isyncSplit (s : State) (c : Nat) (ws : List (Nat × Nat × Nat)) : Option MemSys :=
  let mine := membersOf c (ctxOf s c).k
  ((s.ms.caches.filter (fun p => mine.contains (p.1 / 64))).map (·.1)).foldl (fun m key =>
    m.bind (fun m => splitSet m key (fun w => ws.any (fun r => decide (r.1 ≤ w) && decide (w < r.2.1))))) (some s.ms)

/-- ISYNC on a context's member combs (R153): images of the range leave the block caches, and non-owned words of it
leave the comb caches. `all` is FENCE code's whole address space. -/
def isyncRange (s : State) (c : Nat) (all : Bool) (lo hi : Nat) (ws : List (Nat × Nat × Nat)) : State :=
  let x := ctxOf s c
  (membersOf c x.k).foldl (fun s comb =>
    let s := modComb s comb (fun k => { k with images := k.images.filter (fun i => !(all || (decide (lo ≤ i.1.toNat) && decide (i.1.toNat < hi)))) })
    { s with ms := combDrop s.ms comb (fun sp j cw =>
        let w := 64 * sp.region + j
        !cw.owned && !cw.dirty && (all || ws.any (fun r => decide (r.1 ≤ w) && decide (w < r.2.1)))) }) s

/-- A COPY admitted or turned away (R238, R243). `later` is the number of plain COPYs still to come in the block. -/
def performCopy (s : State) (c : Nat) (try_ : Bool) (mode : CopyMode) (desc : Lanes) (d : RegDest) (later : Nat) : State :=
  let x := ctxOf s c
  if try_ && Config.fifoEntries ≤ x.fifo.length + later then setDest s c d (.s 1)
  else
    let n := s.seq
    let hold := lastCopyFence x
    let q : CopyReq := { who := .ctx c, part := x.part, comb := homeOf c, mode := mode, desc := desc, sent := hold.isNone, chunk := 0,
                         started := false, fault := 0, finished := false, scrOff := x.scrOff, scrSize := x.scrSize, net := none }
    let s := bumpSeq { s with ms := { s.ms with copies := mput n q s.ms.copies } }
    let s := modCtx s c (fun x => { x with fifo := x.fifo ++ [n], unsealed := x.unsealed ++ [n] })
    let s := match hold with | some id => addHeld s c id (.copy n) | none => s
    setDest s c d (.s 0)

/-- A BATCH (R245). -/
def performBatch (s : State) (c : Nat) (d : RegDest) : State :=
  let x := ctxOf s c
  let num := x.batch + 1
  let s := setCtx s c { x with batch := num, batches := x.batches ++ [{ num := num, reqs := x.unsealed, fault := x.unsealFault }], unsealed := [], unsealFault := 0 }
  setDest s c d (.s (num.zeroExtend 64))

/-- A FORK (R43 to R45, R249): the child's record waits behind a release of its own. DEDUCED, log 35. -/
def performFork (s : State) (c : Nat) (arg : Lanes) (e : W64) (d : RegDest) : State :=
  match (ctxOf s c).task with
  | none => s
  | some t =>
    let l := launchOf s t.launch
    let id := 2 ^ 40 + l.seq
    let ch : Child := { launch := t.launch, id := id, parent := t.id, forkCtx := c, entry := e, arg := arg, x := t.x, y := t.y, z := t.z }
    let s := modLaunch s t.launch (fun l => { l with seq := l.seq + 1, live := l.live + 1, kids := mmod 0 t.id (· + 1) l.kids })
    let n := s.seq
    let s := addHeld (pushRelease s c false false) c n (.fork (homeOf c) ch)
    setDest s c d (.s (BitVec.ofNat 64 id))

/-- Whether a member's arrival in a channel completes its phase: arrivals on their way to the channel have been made at their
members' commit points (R252, R253). -/
def completesPhase (s : State) (x : Ctx) (ch : Nat) : Bool :=
  x.task.any (fun t =>
    let l := launchOf s t.launch
    let k : Channel := mget {} ch l.channels
    let sent := (s.arrivals.filter (fun a => a.2.launch == t.launch && a.2.ch == ch)).map (·.2.rank)
    phaseFull l { k with arrived := t.rank.getD 0 :: (sent ++ k.arrived) })

/-- A BAR's arrival behind a release of its own, and the member's wait; a timed one of count 0 whose arrival completes
the phase waits for the release (R109, R252, R253, R255). DEDUCED, log 36. The second of two BARs of one block on one channel, of
which R252 says nothing, makes its arrival at the same commit point: DESIGN CHOICE, log 103. -/
def performBar (s : State) (c ch : Nat) (mode : BarMode) (count : Nat) : State :=
  let x := ctxOf s c
  let phase := match x.task with | some t => (mget {} ch (launchOf s t.launch).channels).phase | none => 0
  let wait : List BarWait := match mode with
    | .wait => [{ ch := ch, phase := phase }]
    | .tmd => [{ ch := ch, phase := phase, left := if count == 0 && completesPhase s x ch then none else some (s.cycles + count) }]
    | .arr => []
  let n := s.seq
  let s := addHeld (pushRelease s c false false) c n (.arrive ch)
  modCtx s c (fun x => { x with bar := { phase := BitVec.ofNat 32 phase, outcome := 2, ch := ch },
                                arrived := x.arrived ++ [ch], barWait := x.barWait ++ wait })

/-- The plain COPYs of a block with LSIDs above one. -/
def laterCopies (b : Block) (lsid : Nat) : Nat :=
  (b.stores.filter (fun r => decide (lsid < r.1) && (match r.2.op with | some (.copy false _ _ _) => true | _ => false))).length

/-- One store-class instruction performed at the commit point (R108 step 3); none while a store finds no room in its
set or a word another context's release withholds (R139, R146). -/
def performStore (s : State) (c : Nat) (b : Block) (lsid : Nat) (r : StoreRec) : Option State :=
  match r.op with
  | none => some s
  | some (.data k ps) =>
    let stream := k == .stream || k == .relStream
    if k == .rel || k == .relStream then
      let n := s.seq
      performPieces (pushRelease s c false false) c r.comb (storePlain (storeInstr b r)) stream (some n) ps
    else performPieces s c r.comb (storePlain (storeInstr b r)) stream (lastFence (ctxOf s c)) ps
  | some (.amo op wid a v d) => some (performAtomic s c r.comb (.amo op wid a v d))
  | some (.cas wid a cmp v d) => some (performAtomic s c r.comb (.cas wid a cmp v d))
  | some (.fence k) =>
    match k with
    | .full | .rel => some (pushRelease s c true false)
    | .eng => some (pushRelease s c true true)
    | .acq => some s
    | .code => some (discardYounger (isyncRange s c true 0 0 []) c b.tag)
  | some (.flushr k a len) =>
    if len == 0 then some s
    else
      let ws := rangeWords s c (ctxOf s c) r.comb .rd a len
      some (bumpSeq { s with ms := { s.ms with
        walks := mput s.seq ⟨some c, k, ws.map (fun q => (q.1, q.2.1)), 0, none⟩ s.ms.walks } })
  | some (.claim a len) => claimAll s c r.comb (lastFence (ctxOf s c)) (rangeWords s c (ctxOf s c) r.comb .wr a len)
  | some (.isync a len) =>
    -- in the scratch window ISYNC has no effect (R216)
    if len == 0 || (inScratch a.toNat && inScratch (a.toNat + len - 1)) then some s
    else
      let ws := rangeWords s c (ctxOf s c) r.comb .rd a len
      (isyncSplit s c ws).map (fun m => discardYounger (isyncRange { s with ms := m } c false a.toNat (a.toNat + len) ws) c b.tag)
  | some (.copy t mode desc d) => some (performCopy s c t mode desc d (laterCopies b lsid))
  | some (.batch d) => some (performBatch s c d)
  | some (.fork arg e d) => some (performFork s c arg e d)
  | some (.bar ch mode count) => some (performBar s c ch mode count)

/-- Every store-class instruction performed in LSID order. -/
def performStores (s : State) (c : Nat) (b : Block) : List (Nat × StoreRec) → Option State
  | [] => some s
  | r :: rest =>
    match performStore s c b r.1 r.2 with
    | none => none
    | some s => performStores s c b rest

/-! ## The rest of the commit point -/

/-- A register's content from a token; N leaves the register as it is (R92). -/
def regOfTok (t : Token) : Option RegVal :=
  match t with
  | .s v => some (.s v)
  | .v l m => some (.v l m)
  | .n => none

/-- The WRs of a block applied (R92, R181). -/
def applyWrites (x : Ctx) (b : Block) : Ctx :=
  b.wr.foldl (fun x w => match regOfTok w.2 with | some v => { x with regs := mput w.1 v x.regs } | none => x) x

/-- The staging buffers and shadows of a block become the context's tile state (R104). -/
def applyTiles (s : State) (c : Nat) (b : Block) : State :=
  let x := ctxOf s c
  { s with
    tbufs := b.staging.foldl (fun m p => mput (ctxBufKey x c (p.1 / 16) (p.1 % 16)) p.2 m) s.tbufs
    taccs := b.shadow.foldl (fun m p => mput (ctxAccKey x c (p.1 / 8) (p.1 % 8)) p.2 m) s.taccs }

/-- The replay counters after a block's MMAs (R279, R283), added to what the block's SETS left. DESIGN CHOICE, log 111. -/
def applyRanks (rpc : List W64) (b : Block) : List W64 :=
  b.ranks.foldl (fun l p =>
    if p.2.1 == 0 then l else lmod 3 (· + BitVec.ofNat 64 p.2.2) (lmod (p.2.1 - 1) (· + 1) l)) rpc

/-- Save ranges clipped to the scratch, empty ones dropped (R256). -/
def clipRanges (size : Nat) (rs : List (Nat × Nat)) : List (Nat × Nat) :=
  (rs.map (fun r => (r.1, min r.2 (size - r.1)))).filter (fun r => decide (r.1 < size) && r.2 != 0)

/-- The context's own registers at the commit point: writes, SYS writes, counters, hints, liveness and TRD (R108, R179,
R256, R283, R288, R317, R322). SETS of a replay counter comes before the block's MMAs. DESIGN CHOICE, log 111. -/
def applyCtx (x : Ctx) (b : Block) : Ctx :=
  let x := sysApply (applyWrites x b) b.sys
  let hints := match b.hints.getLast? with
    | some h => some (clipRanges x.scrSize h.2)
    | none => x.saveSet
  { x with rpc := applyRanks x.rpc b, saveSet := hints, live := if phOf b.hdr then some (liveOf b.hdr) else none,
           trap := { x.trap with trd := x.trap.trd || !b.got.isEmpty } }

/-- The return stack after an exit (R172). -/
def applyStack (x : Ctx) (b : Block) (idx : Nat) (e : ExitTo) : Ctx :=
  match e, instrAt b.words idx with
  | .call _ l, _ => { x with rstack := (l :: x.rstack).take Config.returnStack }
  | .goto _, some (.ret ..) => { x with rstack := x.rstack.drop 1 }
  | _, _ => x

/-- The fired exit applied (R108, R171, R172, R174). -/
def applyExit (x : Ctx) (b : Block) (idx : Nat) (e : ExitTo) : Ctx :=
  let x := applyStack x b idx e
  match e with
  | .goto a => { x with next := a }
  | .call a l => { x with next := a, regs := mput 62 (.s l) x.regs }
  | .halt => x
  | .tret => trapReturn x

/-- The composition request of a committed block (R39 to R42). -/
def applyComposition (s : State) (c : Nat) (b : Block) : State :=
  let k := swreqOf b.hdr
  let x := ctxOf s c
  if haltFired b || k == 0 || k == x.k then s
  else if k < x.k then shrinkTo (discardFrom s c 0) c k
  else modCtx (discardFrom s c 0) c (fun x => { x with phase := .growing, growth := some { k := k, since := s.gtime } })

/-- What a pre-emption request makes of a commit (R317), handler mode judged after the block's exit. DESIGN CHOICE, log 114. -/
def applyPreempt (s : State) (c : Nat) : State :=
  let x := ctxOf s c
  match x.preempt with
  | none => s
  | some p =>
    if x.phase == .retiring then s
    else
      let n := p.blocks + 1
      let s := setCtx s c { x with preempt := some { p with blocks := n } }
      if x.live.isSome && !x.trap.hm then stopForSave s c false
      else if 4096 ≤ n then stopForSave s c true
      else s

/-- The end of a commit (R45, R109, R173): HALT begins the task's retirement, a barrier wait begins, a composition
change takes effect, a requested pre-emption stops the context. -/
def endCommit (s : State) (c : Nat) (b : Block) : State :=
  let s := if haltFired b then
      let s := discardFrom s c 0
      let s := match (ctxOf s c).task with | some t => departMember s t | none => s
      beginRetire s c
    else applyComposition s c b
  let x := ctxOf s c
  let s := if x.phase == .running && !x.barWait.isEmpty then modCtx (discardFrom s c 0) c (fun x => { x with phase := .barrier }) else s
  pumpCtx (applyPreempt s c) c

/-- The addresses that a store-class instruction accesses, one for each page. -/
def storePages (r : StoreRec) : List Nat :=
  let run : W64 → Nat → List Nat := fun a len => (pagePieces a.toNat len (len / 65536 + 2)).map (·.1)
  match r.op with
  | some (.data _ ps) => (ps.map (fun p => [p.va, p.va + p.n - 1])).flatten
  | some (.amo _ _ a _ _) => [a.toNat]
  | some (.cas _ a _ _ _) => [a.toNat]
  | some (.flushr _ a len) => run a len
  | some (.claim a len) => run a len
  | some (.isync a len) => run a len
  | _ => []

/-- The translations in force for a block's store-class instructions, by comb (R108, R163). -/
def storeXlat (s : State) (x : Ctx) (b : Block) : List (Nat × TlbEntry) :=
  (b.stores.map (fun r => (storePages r.2).filterMap (fun a =>
    if inScratch a then none else match lookup s r.2.comb x.part a with | .ok e => some (r.2.comb, e) | .error _ => none))).flatten

/-- A block held at step 2, with the translations its checks have used: an invalidation waits for it (R108, R163). -/
def stall (s : State) (c : Nat) (x : Ctx) (b : Block) : State :=
  if x.xlat.isSome then setCtx s c { x with stalled := true }
  else bumpSeq (setCtx s c { x with stalled := true, xlat := some (s.seq, storeXlat s x b) })

/-- Translations put in force on their combs while a held block commits, and gone after it (R163). -/
def pinXlat (s : State) (l : List (Nat × TlbEntry)) : State :=
  l.foldl (fun s e => modComb s e.1 (fun k => { k with tlb := e.2 :: k.tlb.erase e.2 })) s
def unpinXlat (s : State) (l : List (Nat × TlbEntry)) : State :=
  l.foldl (fun s e =>
    let t := modComb s e.1 (fun k => { k with tlb := k.tlb.erase e.2 })
    { t with dies := mmod {} (dieOf e.1) (fun d => { d with tlb := d.tlb.erase e.2 }) t.dies }) s

/-- The commit point (R108 step 3), at whose end GETS of the next block reads (R178), or none where a store must wait at step 2. -/
def commitPoint (s : State) (c : Nat) (b : Block) (idx : Nat) (e : ExitTo) : Option State :=
  let pins := ((ctxOf s c).xlat.map (·.2)).getD []
  let s := modCtx (pinXlat s pins) c (fun x => applyCtx x b)
  match performStores s c b b.stores with
  | none => none
  | some s =>
    let s := applyTiles (unpinXlat s pins) c b
    let s := modCtx s c (fun x => { applyExit x b idx e with blocks := x.blocks.drop 1, stalled := false, xlat := none })
    some (markBound (endCommit s c b) c)

/-- Steps 2 and 3 of R108: a block that has passed its checks is held, or commits. -/
def commitChecked (s : State) (c : Nat) (x : Ctx) (b : Block) (e : Nat × ExitTo) : State :=
  if stallsFirst x b then stall s c x b
  else
    match commitPoint s c b e.1 e.2 with
    | some s => s
    | none => stall s c x b

/-- A settled oldest block commits, stalls or traps (R107, R108, R110, R333). -/
def commitBlock (s : State) (c : Nat) (x : Ctx) (b : Block) : State :=
  match blockTrap b, b.exits with
  | some t, _ => takeTrap s c t.1 t.2.1 b.addr t.2.2
  | none, [] => s
  | none, e :: _ =>
    -- a block held at step 2 has passed its checks
    if x.xlat.isSome then commitChecked s c x b e
    else
      match x.lateFaults with
      | a :: rest => takeTrap (setCtx s c { x with lateFaults := rest }) c 0x14 a b.addr 0x3FF
      | [] =>
        match checkStores s s c x b b.stores, checkComposition s x b with
        | some t, _ => takeTrap (spillRecord s x t) c t.1 t.2.1 b.addr t.2.2
        | none, some t => takeTrap s c t.1 t.2.1 b.addr t.2.2
        | none, none => commitChecked s c x b e

end Sys2Proof.Machine
end

