-- ==== Sys2Proof/Machine/Waggle.lean ====
section
/-! DEFINITION. The Waggle language: the checks of an installed program and its execution (R309 to R312). -/

namespace Sys2Proof.Machine

/-! ## Words (R309) -/

/-- The fields of a Waggle word: operation, a and b. -/
def wagOp (w : BitVec 16) : Nat := bits w.toNat 11 5
def wagA (w : BitVec 16) : Nat := bits w.toNat 8 3
def wagB (w : BitVec 16) : Nat := bits w.toNat 0 8

/-- The view's fields (R310): scalars, and arrays with their number of entries. -/
def viewScalar (f : Nat) : Bool := f == 0 || f == 1 || (decide (4 ≤ f) && decide (f ≤ 7)) || (decide (56 ≤ f) && decide (f ≤ 61))
def viewEntries (f : Nat) : Nat :=
  if 16 ≤ f && f ≤ 23 then 128 else if 32 ≤ f && f ≤ 40 then 64 else if f == 48 then 16 else 0
def viewField (f : Nat) : Bool := viewScalar f || viewEntries f != 0

/-! ## The checks of R312 -/

/-- The end of the loop body opened before word n: the index of its ENDL. -/
def findEndl (ws : List (BitVec 16)) (n : Nat) : Option Nat :=
  ((ws.drop n).findIdx? (fun w => wagOp w == 0x17)).map (· + n)

/-- The loop bodies of a program: first word and ENDL, for each LOOP that has one. -/
def wagLoops (ws : List (BitVec 16)) : List (Nat × Nat) :=
  (ws.zipIdx.filter (fun p => wagOp p.1 == 0x16)).filterMap (fun p => (findEndl ws (p.2 + 1)).map (fun e => (p.2 + 1, e)))

/-- A word's fields checked (R309, R312). -/
def wagFieldsOk (w : BitVec 16) : Bool :=
  let a := wagA w
  let b := wagB w
  match wagOp w with
  | 0x00 => a == 0 && b == 0
  | 0x01 => true
  | 0x02 => true
  | 0x03 => viewField b
  | 0x04 => decide (b < 8)
  | 0x05 => decide (b < 8)
  | 0x06 => decide (b < 8)
  | 0x07 => decide (b < 8)
  | 0x08 => decide (b < 8)
  | 0x09 => decide (b < 8)
  | 0x0A => decide (b < 32)
  | 0x0B => decide (b < 32)
  | 0x0C => decide (b < 8)
  | 0x0D => decide (b < 8)
  | 0x0E => decide (b < 8)
  | 0x0F => decide (b < 8)
  | 0x10 => true
  | 0x11 => a == 0
  | 0x12 => a == 0
  | 0x13 => a == 0
  | 0x14 => a == 0
  | 0x15 => a == 0
  | 0x16 => a == 0 && decide (1 ≤ b) && decide (b ≤ 16)
  | 0x17 => a == 0 && b == 0
  | 0x18 => viewEntries b != 0
  | 0x19 => viewEntries b != 0
  | 0x1A => decide (b < 8)
  | 0x1B => b == 0
  | 0x1C => a == 0 && decide (b ≤ 4)
  | 0x1D => a == 0 && b == 0
  | 0x1E => b == 0
  | _ => false

/-- Whether a word is a branch. -/
def wagBranch (w : BitVec 16) : Bool := decide (0x11 ≤ wagOp w) && decide (wagOp w ≤ 0x15)

/-- A branch at word k checked: it lands in the program or just past it, and in no loop body it does not lie in (R312), ENDL
counted as the body's last word. DESIGN CHOICE, log 112. -/
def wagBranchOk (ws : List (BitVec 16)) (k : Nat) (w : BitVec 16) : Bool :=
  let o := wagB w
  let inside : Nat → Nat × Nat → Bool := fun n l => decide (l.1 ≤ n) && decide (n ≤ l.2)
  o != 0 && decide (k + o ≤ ws.length) && (wagLoops ws).all (fun l => !inside (k + o) l || inside k l)

/-- LOOPs and ENDLs match without nesting (R312). -/
def wagNest (inLoop : Bool) : List (BitVec 16) → Bool
  | [] => !inLoop
  | w :: r =>
    match wagOp w with
    | 0x16 => !inLoop && wagNest true r
    | 0x17 => inLoop && wagNest false r
    | _ => wagNest inLoop r

/-- A program a POLICY packet may install (R312). -/
def wagOk (ws : List (BitVec 16)) : Bool :=
  ws.length != 0 && decide (ws.length ≤ 256) && ws.all wagFieldsOk && wagNest false ws
    && ws.zipIdx.all (fun p => !wagBranch p.1 || wagBranchOk ws p.2 p.1)

/-! ## Execution (R309, R311) -/

/-- A program's state in a decision. -/
structure WagSt where
  w : List (BitVec 32) := [0, 0, 0, 0, 0, 0, 0, 0]
  lt : Bool := false
  eq : Bool := false
  pc : Nat := 0
  sw : List (BitVec 32)
  rand : BitVec 32
  cycles : Nat := 0
  start : Nat := 0
  left : Nat := 0
  deriving DecidableEq, Repr

/-- How a program ends. -/
inductive WagEnd where
  | none
  | pick (queue frame : Nat)
  | vict (ctx : Nat)
  | act (k : Nat)
  | defer
  | overrun
  deriving DecidableEq, Repr

/-- Cycles of an operation (R309). -/
def wagCost (op : Nat) : Nat := if op == 0x03 then 2 else if op == 0x18 || op == 0x19 then 4 else 1

/-- Register a of a state. -/
def wagReg (t : WagSt) (a : Nat) : BitVec 32 := t.w.getD a 0

/-- Register a set, at the next word. -/
def wagSet (t : WagSt) (a : Nat) (v : BitVec 32) : WagSt := { t with w := lmod a (fun _ => v) t.w, pc := t.pc + 1 }

/-- The index of the least or greatest value of an array field among eligible entries (R309). -/
def wagArg (view : Nat → Nat → Nat) (elig : Nat → Nat → Bool) (f : Nat) (most : Bool) : BitVec 32 :=
  let best := (upTo (viewEntries f)).foldl (fun (acc : Option (Nat × Nat)) k =>
    if !elig f k then acc
    else
      let v := view f k
      match acc with
      | none => some (k, v)
      | some b => if (if most then decide (b.2 < v) else decide (v < b.2)) then some (k, v) else some b) none
  match best with
  | some b => BitVec.ofNat 32 b.1
  | none => 0xFFFFFFFF

/-- A branch taken or not. -/
def wagJump (t : WagSt) (take : Bool) (o : Nat) : WagSt := { t with pc := if take then t.pc + o else t.pc + 1 }

/-- RAND's step (R309). -/
def wagRand (x : BitVec 32) : BitVec 32 := (x >>> 1) ^^^ (if x.getLsbD 0 then 0x80200003 else 0)

/-- One operation: how it ends the program, or the state after it. -/
def wagStep (view : Nat → Nat → Nat) (elig : Nat → Nat → Bool) (w : BitVec 16) (t : WagSt) : Except WagEnd WagSt :=
  let a := wagA w
  let b := wagB w
  let x := wagReg t a
  let y := wagReg t b
  let cmp : BitVec 32 → WagSt := fun y => { t with lt := x.ult y, eq := x == y, pc := t.pc + 1 }
  match wagOp w with
  | 0x01 => .ok (wagSet t a (BitVec.ofNat 32 b))
  | 0x02 => .ok (wagSet t a ((x <<< 8) ||| BitVec.ofNat 32 b))
  | 0x03 =>
    let k := (wagReg t 7).toNat
    let v := if viewScalar b then view b 0 else if k < viewEntries b then view b k else 0
    .ok (wagSet t a (BitVec.ofNat 32 v))
  | 0x04 => .ok { t with sw := lmod b (fun _ => x) t.sw, pc := t.pc + 1 }
  | 0x05 => .ok (wagSet t a (t.sw.getD b 0))
  | 0x06 => .ok (wagSet t a (x + y))
  | 0x07 => .ok (wagSet t a (x - y))
  | 0x08 => .ok (wagSet t a (x &&& y))
  | 0x09 => .ok (wagSet t a (x ||| y))
  | 0x0A => .ok (wagSet t a (x <<< b))
  | 0x0B => .ok (wagSet t a (x >>> b))
  | 0x0C => .ok (wagSet t a (if x.ult y then x else y))
  | 0x0D => .ok (wagSet t a (if x.ult y then y else x))
  | 0x0E => .ok (wagSet t a (x * y))
  | 0x0F => .ok (cmp y)
  | 0x10 => .ok (cmp (BitVec.ofNat 32 b))
  | 0x11 => .ok (wagJump t t.lt b)
  | 0x12 => .ok (wagJump t t.eq b)
  | 0x13 => .ok (wagJump t (!t.eq) b)
  | 0x14 => .ok (wagJump t (!t.lt) b)
  | 0x15 => .ok (wagJump t true b)
  | 0x16 => .ok { t with start := t.pc + 1, left := b - 1, pc := t.pc + 1 }
  | 0x17 => .ok (if t.left = 0 then { t with pc := t.pc + 1 } else { t with left := t.left - 1, pc := t.start })
  | 0x18 => .ok (wagSet t a (wagArg view elig b false))
  | 0x19 => .ok (wagSet t a (wagArg view elig b true))
  | 0x1A => .error (.pick x.toNat y.toNat)
  | 0x1B => .error (.vict x.toNat)
  | 0x1C => .error (.act b)
  | 0x1D => .error .defer
  | 0x1E => let r := wagRand t.rand; .ok { wagSet t a r with rand := r }
  | _ => .error .none

/-- A program run until it ends or would pass 256 cycles (R309, R311). -/
def wagRun (view : Nat → Nat → Nat) (elig : Nat → Nat → Bool) (ws : List (BitVec 16)) : Nat → WagSt → WagEnd × WagSt
  | 0, t => (.overrun, t)
  | fuel + 1, t =>
    match ws[t.pc]? with
    | none => (.none, t)
    | some w =>
      let c := t.cycles + wagCost (wagOp w)
      if 256 < c then (.overrun, t)
      else
        match wagStep view elig w { t with cycles := c } with
        | .error e => (e, { t with cycles := c })
        | .ok t => wagRun view elig ws fuel t

end Sys2Proof.Machine
end

