-- ==== Sys2Proof/Machine/Sched.lean ====
section
/-! DEFINITION. The dispatch unit: the view, decisions, placement of tiles, gangs, pre-empted and relocated tasks,
reservations, fault actions, saves, and the reassignment of frames (R20 to R33, R46 to R51, R302 to R330, R347 to R349). -/

namespace Sys2Proof.Machine

/-! ## Ages and frames (R305 to R310) -/

/-- A time since t in µs, saturating (R310). DEDUCED, log 68. -/
def ageUs (s : State) (t : Nat) : Nat := min 0xFFFFFFFF ((s.gtime - t) / 1000)

/-- Whether a launch's age exceeds a number of µs (R305). -/
def olderUs (s : State) (l : Launch) (us : Nat) : Bool := decide (1000 * us < s.gtime - l.lastPlaced)

/-- The head launch of a queue (R305). -/
def headOf (s : State) (p q : Nat) : Option Nat := ((headLaunches s p).find? (fun h => h.1 == q)).map (·.2)

/-- Frames a partition owns, in rising number. -/
def ownedFrames (s : State) (p : Nat) : List Nat := (upTo 64).filter (fun f => (mget {} f s.frames).owner == some p)

/-- Frames in which a partition's tasks may be placed: owned, not leaving, not reserved (R306, R316, R348). -/
def openFrames (s : State) (p : Nat) : List Nat := (ownedFrames s p).filter (fun f => frameUsable s p f && !frameReserved s f)

/-- Contexts in use whose home lies in a frame. -/
def frameCtxs (s : State) (f : Nat) : List (Nat × Ctx) := s.ctxs.filter (fun p => p.2.phase != .free && frameOf (homeOf p.1) == f)

/-- Whether a context's task is pinned (R54, R295). -/
def pinnedCtx (s : State) (x : Ctx) : Bool := x.task.any (fun t => (launchOf s t.launch).pin)

/-- The unpinned context of a frame placed longest ago; of several placed at the same time the lowest identifier, which R310
leaves open. DESIGN CHOICE, log 78. -/
def oldestCtx (s : State) (f : Nat) : Option (Nat × Ctx) :=
  ((frameCtxs s f).filter (fun p => !pinnedCtx s p.2)).foldl (fun acc p =>
    match acc with
    | none => some p
    | some b => if p.2.placedAt < b.2.placedAt then some p else some b) none

/-- The largest free aligned swarm of a frame (R310). -/
def largestFree (s : State) (f : Nat) : Nat :=
  let ok : Nat → Bool := fun k => (upTo (8 / k)).any (fun g => (upTo 8).any (fun sl =>
    (upTo k).all (fun j => slotFree s (8 * f + g * k + j) sl 0xFFFF)))
  if ok 8 then 8 else if ok 4 then 4 else if ok 2 then 2 else if ok 1 then 1 else 0

/-- Free tile buffers or accumulators of a frame, over its tensor cells (R310). -/
def freeTiles (s : State) (f : Nat) (acc : Bool) : Nat :=
  (upTo 8).foldl (fun a j => a + 4 * ((if acc then 8 else 16) - (runsUsed s (8 * f + j) acc 0xFFFF).foldl (fun b r => b + r.2) 0)) 0

/-! ## The view (R310) -/

/-- What a fault decision's view shows of the trap. -/
structure FaultView where
  cause : Nat
  ctx : Nat
  start : Nat
  retries : Nat
  handler : Bool
  queue : Nat
  deriving DecidableEq, Repr

/-- Tasks of a launch that await placement: unplaced and pre-empted (R310). -/
def waitingTasks (l : Launch) : Nat := (l.x * l.y * l.z - l.nextTile) + l.preempted.length

/-- A queue field of the view. -/
def viewQueue (s : State) (p f q : Nat) : Nat :=
  let x := queueOf s p q
  let h := headOf s p q
  let of : (Launch → Nat) → Nat := fun g => match h with | some l => g (launchOf s l) | none => 0
  match f with
  | 16 => ringDist x.wr x.start
  | 17 => of (·.prio)
  | 18 => of (fun l => ageUs s l.lastPlaced)
  | 19 => of (fun l => if kGang l.hdr then l.x * l.y * l.z else 0)
  | 20 => of (fun l => kSwarm l.hdr)
  | 21 => x.tenant
  | 22 => if h.isSome then 1 else 0
  | 23 => of waitingTasks
  | _ => 0

/-- A frame field of the view: frames of other partitions show nothing (R350). FVAGE of a frame with no such context is a
value the spec leaves open. DEDUCED, log 24. -/
def viewFrame (s : State) (p f n : Nat) : Nat :=
  if (mget {} n s.frames).owner != some p then (if f == 39 then 0xFFFFFFFF else 0)
  else
    match f with
    | 32 => 1
    | 33 => ((upTo 8).map (fun j => ((upTo 8).filter (fun sl => slotFree s (8 * n + j) sl 0xFFFF)).length)).foldl (· + ·) 0
    | 34 => largestFree s n
    | 35 => freeTiles s n false
    | 36 => freeTiles s n true
    | 37 => (frameCtxs s n).length
    | 38 => if frameReserved s n then 1 else 0
    | 39 => match oldestCtx s n with | some c => c.1 | none => 0xFFFFFFFF
    | 40 => match oldestCtx s n with | some c => ageUs s c.2.placedAt | none => (Config.freeWord (s.fresh + n)).toNat % 2 ^ 32
    | _ => 0

/-- Contexts of a partition in use. -/
def partCtxs (s : State) (p : Nat) : List (Nat × Ctx) := s.ctxs.filter (fun c => c.2.phase != .free && c.2.part == p)

/-- Contexts in use by launches of a tenant's queues (R310). -/
def tenantUse (s : State) (p t : Nat) : Nat :=
  ((partCtxs s p).filter (fun c => c.2.task.any (fun k => (queueOf s p (launchOf s k.launch).queue).tenant == t))).length

/-- A field of a decision's view (R310). DEDUCED, log 24. -/
def viewOf (s : State) (p kind : Nat) (waitq : Option Nat) (fv : Option FaultView) (f i : Nat) : Nat :=
  let none_ := 0xFFFFFFFF
  let of : (FaultView → Nat) → Nat := fun g => match fv with | some v => g v | none => none_
  if 16 ≤ f && f ≤ 23 then viewQueue s p f i
  else if 32 ≤ f && f ≤ 40 then viewFrame s p f i
  else
    match f with
    | 0 => kind
    | 1 => s.gtime / 1000 % 2 ^ 32
    | 4 => (partCtxs s p).length
    | 5 => 64 * (ownedFrames s p).length
    | 6 => waitq.getD none_
    | 7 => if (partOf s p).lastovr then 1 else 0
    | 48 => tenantUse s p i
    | 56 => of (·.cause)
    | 57 => of (·.ctx)
    | 58 => of (fun v => ageUs s v.start)
    | 59 => of (·.retries)
    | 60 => of (fun v => if v.handler then 1 else 0)
    | 61 => of (·.queue)
    | _ => 0

/-- Entries ARGMIN and ARGMAX look at (R309). DEDUCED, log 24. -/
def viewElig (s : State) (p f i : Nat) : Bool :=
  if 16 ≤ f && f ≤ 23 then (headOf s p i).isSome
  else if 32 ≤ f && f ≤ 40 then (mget {} i s.frames).owner == some p && !frameReserved s i
  else true

/-! ## A decision taken (R303, R307, R311, R313) -/

/-- The installed policy's outcome for a decision, or none where there is no policy; counters, state words and random
state follow (R311). -/
def runPolicy (s : State) (p kind : Nat) (waitq : Option Nat) (fv : Option FaultView) : WagEnd × State :=
  let x := partOf s p
  let s := { s with fresh := s.fresh + 64 }
  if !x.inst then (.none, modPart s p (fun x => { x with decn := x.decn + 1, lastovr := false }))
  else
    let r := wagRun (viewOf s p kind waitq fv) (viewElig s p) x.policy 257 { sw := x.sw, rand := x.rand }
    let past := r.1 == .overrun
    (r.1, modPart s p (fun x => { x with
      decn := x.decn + 1, lastovr := past, rand := r.2.rand, sw := if past then x.sw else r.2.sw
      ovr := x.ovr || past, povrn := if past then x.povrn + 1 else x.povrn }))

/-- The first requested decision of a partition, when it may be taken: one at a time, in the order requested, with a frame
owned, and the checks of R314 made first (R303, R304, R314). -/
def nextDecision (s : State) (p : Nat) : Option Decision :=
  let x := partOf s p
  if isUp s && x.en && !(ownedFrames s p).isEmpty && decide (s.gtime < x.checkAt) then x.decisions.head? else none

/-- The decision in progress taken off the list. -/
def popDecision (s : State) (p : Nat) : State := modPart s p (fun x => { x with decisions := x.decisions.drop 1 })

/-! ## Placement (R23, R29, R49, R51, R306, R320) -/

/-- What is placed next: a pre-empted task, a relocated child, a spilled entry whose comb has left, or a tile (R306, R321). -/
inductive Item where
  | saved (r : Nat)
  | child (c : Child)
  | entry (e : Spilled)
  | tile (n : Nat)
  deriving DecidableEq, Repr

/-- Whether a record is a gang member's, or holds one set aside below it (R51). -/
def isMember (s : State) (r : Nat) : Bool :=
  (mfind r s.saves).any (fun v => v.task.rank.isSome || v.below.any (fun b => (mfind b s.saves).any (fun w => w.task.rank.isSome)))

/-- Whether no member of a gang is on a context: all of them can be placed again together (R51). -/
def gangOff (s : State) (launch : Nat) : Bool := !s.ctxs.any (fun p => holdsMember s launch p.2)

/-- The members of a gang that await placement together, or none (R49, R51); none while one stays parked in the save pool
(R329). -/
def gangItems (s : State) (launch : Nat) : List Item :=
  let l := launchOf s launch
  if !kGang l.hdr || l.killing || s.saves.any (fun p => p.2.task.launch == launch && p.2.parkedAt.isSome && isMember s p.1) then []
  else if l.nextTile == 0 then (upTo (l.x * l.y * l.z)).map .tile
  else if gangOff s launch then (l.preempted.filter (isMember s)).map .saved
  else []

/-- The next task of a launch placed on its own (R306). -/
def soloItem (s : State) (launch : Nat) : Option Item :=
  let l := launchOf s launch
  match l.preempted.find? (fun r => !isMember s r), l.relocated, l.spilled.find? (·.waits) with
  | some r, _, _ => some (.saved r)
  | none, c :: _, _ => some (.child c)
  | none, [], some e => some (.entry e)
  | none, [], none => if kGang l.hdr || l.killing || l.x * l.y * l.z ≤ l.nextTile then none else some (.tile l.nextTile)

/-- Combs of the composition an item is placed with. -/
def itemCombs (s : State) (launch : Nat) (i : Item) : Nat :=
  match i with
  | .saved r => (mget 1 r (s.saves.map (fun p => (p.1, p.2.k))))
  | _ => kSwarm (launchOf s launch).hdr

/-- A pre-empted task placed again (R318, R320); a record that cannot be read or fails its check kills it (R319, R336). -/
def placeSaved (s : State) (launch r : Nat) (room : Nat × SMap (Nat × Nat) × Nat) : State :=
  match mfind r s.saves with
  | none => s
  | some v =>
    let l := launchOf s launch
    match recordFails s v with
    | some f => killSaved f r
    | none =>
      let s := dropSave s r
      let s := modLaunch s launch (fun l => { l with preempted := l.preempted.filter (· != r), lastPlaced := s.gtime })
      restoreTask (beginPlacement (journalPlaced s launch) room.1 l.part v.k l.hdr room.2.1 room.2.2) room.1 v

/-- A child that awaited placement started on a room (R29, R306, R315). -/
def placeChild (s : State) (launch : Nat) (c : Child) (room : Nat × SMap (Nat × Nat) × Nat) : State :=
  let l := launchOf s launch
  let s := modLaunch s launch (fun l => { l with lastPlaced := s.gtime })
  startChild (beginPlacement (journalPlaced s launch) room.1 l.part (kSwarm l.hdr) l.hdr room.2.1 room.2.2) room.1 c

/-- An item placed on a room, with its record in the journal (R302). DEDUCED, log 60. -/
def placeItem (s : State) (launch : Nat) (i : Item) (room : Nat × SMap (Nat × Nat) × Nat) : State :=
  match i with
  | .saved r => placeSaved s launch r room
  | .tile n => placeTile (journalPlaced s launch) launch n room
  | .child c => placeChild (modLaunch s launch (fun l => { l with relocated := l.relocated.erase c })) launch c room
  | .entry e =>
    let t := takeSpilled s launch e
    match t.1 with
    | some c => placeChild t.2 launch c room
    | none => t.2

/-- An item placed in the first of some frames with room. -/
def placeIn (s : State) (launch : Nat) (i : Item) (frames : List Nat) : Option State :=
  (frames.findSome? (fun f => findRoom s (launchOf s launch).hdr f (itemCombs s launch i))).map (placeItem s launch i)

/-- Items placed one after another, all of them or none. -/
def placeAll (launch : Nat) (frames : List Nat) : List Item → State → Option State
  | [], s => some s
  | i :: r, s =>
    match placeIn s launch i frames with
    | none => none
    | some s => placeAll launch frames r s

/-- Tasks placed one by one in a frame while there is room (R306). -/
def fillFrame (launch f : Nat) : Nat → State → State
  | 0, s => s
  | n + 1, s =>
    match soloItem s launch with
    | none => s
    | some i =>
      match placeIn s launch i [f] with
      | none => s
      | some s => fillFrame launch f n s

/-- A launch's reservation ended once its tasks are placed (R315). -/
def endReservation (s : State) (launch : Nat) : State :=
  let p := (launchOf s launch).part
  if (partOf s p).reserve.any (fun r => r.launch == launch) then modPart s p (fun x => { x with reserve := none }) else s

/-- Tasks of a launch placed, starting in a frame; `others` take the rest of a gang. None when the next task has no room
(R306). DEDUCED, log 69. -/
def placeLaunch (s : State) (launch f : Nat) (others : List Nat) : Option State :=
  let gang := gangItems s launch
  let out := match gang with
    | g :: _ =>
      match findRoom s (launchOf s launch).hdr f (itemCombs s launch g) with
      | none => none
      | some _ => (placeAll launch (f :: others.filter (· != f)) gang s).map (fillFrame launch f 512)
    | [] =>
      match soloItem s launch with
      | none => none
      | some i => (placeIn s launch i [f]).map (fillFrame launch f 512)
  out.map (fun s => endReservation s launch)

/-! ## Dispatch (R306, R307) -/

/-- Whether queue a's head goes before queue b's under the default (R307). DEDUCED, log 68. -/
def headBefore (s : State) (a b : Nat × Nat) : Bool :=
  let x := launchOf s a.2
  let y := launchOf s b.2
  decide (y.prio < x.prio) || (x.prio == y.prio && (decide (x.lastPlaced < y.lastPlaced) || (x.lastPlaced == y.lastPlaced && decide (a.1 < b.1))))

/-- The head the default picks (R307). -/
def defaultHead (s : State) (p : Nat) : Option (Nat × Nat) :=
  (headLaunches s p).foldl (fun acc h => match acc with | none => some h | some b => if headBefore s h b then some h else some b) none

/-- The default frame rule (R307): the lowest open frame with room for a launch's next task. -/
def placeDefault (s : State) (p launch : Nat) : Option State :=
  (openFrames s p).findSome? (fun f => placeLaunch s launch f (openFrames s p))

/-- A dispatch decision's outcome applied: the pick if it is valid, else the default (R306, R307). DEDUCED, log 23. -/
def applyDispatch (s : State) (p : Nat) (e : WagEnd) : Option State × State :=
  let dflt : State → Option State × State := fun s => (match defaultHead s p with | some h => placeDefault s p h.2 | none => none, s)
  match e with
  | .defer => (none, s)
  | .pick q f =>
    let out := if (openFrames s p).contains f then (headOf s p q).bind (fun l => placeLaunch s l f (openFrames s p)) else none
    match out with
    | some s' => (some s', s)
    | none => dflt (modPart s p (fun x => { x with inv := true }))
  | _ => dflt s

/-! ## Starvation and reservations (R314 to R316) -/

/-- The launch of greatest age among some; of several of one age the lowest launch number, which R314 and R315 leave open.
DESIGN CHOICE, log 79. -/
def oldestLaunch (s : State) (ls : List Nat) : Option Nat :=
  ls.foldl (fun acc l => match acc with
    | none => some l
    | some b => if (launchOf s l).lastPlaced < (launchOf s b).lastPlaced then some l else some b) none

/-- The state with the unpinned residents of some frames gone, as R315 judges whether a launch would fit. -/
def withoutResidents (s : State) (frames : List Nat) : State :=
  { s with ctxs := s.ctxs.filter (fun c => !(frames.contains (frameOf (homeOf c.1)) && !pinnedCtx s c.2)) }

/-- The state with all residents of some frames gone. -/
def withoutAny (s : State) (frames : List Nat) : State :=
  { s with ctxs := s.ctxs.filter (fun c => !frames.contains (frameOf (homeOf c.1))) }

/-- Whether a launch's next tasks fit in some frames. -/
def fitsIn (s : State) (launch : Nat) (frames : List Nat) : Bool :=
  match gangItems s launch with
  | [] => match soloItem s launch with
    | some i => (placeIn s launch i frames).isSome
    | none => false
  | g => (placeAll launch frames g s).isSome

/-- A partition's frames in rising order of resident contexts (R315). -/
def framesByUse (s : State) (p : Nat) : List Nat :=
  let fs := ((ownedFrames s p).filter (frameUsable s p)).map (fun f => ((frameCtxs s f).length, f))
  let ins : Nat × Nat → List (Nat × Nat) → List (Nat × Nat) := fun a l =>
    l.takeWhile (fun b => decide (b.1 ≤ a.1)) ++ [a] ++ l.dropWhile (fun b => decide (b.1 ≤ a.1))
  (fs.foldl (fun l a => ins a l) []).map (·.2)

/-- The fewest of some frames, in their order, in which a launch fits once `clear` has emptied them. -/
def fewestFrames (s : State) (launch : Nat) (clear : State → List Nat → State) (fs : List Nat) : Option (List Nat) :=
  (rangeFrom 1 fs.length).findSome? (fun n =>
    let pick := fs.take n
    if fitsIn (clear s pick) launch pick then some pick else none)

/-- The frames a reservation takes: as many as are needed once their unpinned residents have left (R315 step 1); where pinned
ones leave no such choice, as many as are needed once those have left too, for which the reservation waits.
DEDUCED, log 80. -/
def reserveFrames (s : State) (p launch : Nat) : Option (List Nat) :=
  let fs := framesByUse s p
  match fewestFrames s launch withoutResidents fs with
  | some pick => some pick
  | none => fewestFrames s launch withoutAny fs

/-- A reservation begun for a launch, when the partition holds none (R314, R315). -/
def beginReservation (s : State) (p launch : Nat) : State :=
  if (partOf s p).reserve.isSome then s
  else
    match reserveFrames s p launch with
    | none => s
    | some fs => modPart s p (fun x => { x with reserve := some { launch := launch, frames := fs, since := s.gtime } })

/-- The reserving launch placed in those of its frames that are the partition's and do not leave it (R306, R315, R348). -/
def reservedPlace (s : State) (p : Nat) (r : Reservation) : Option State :=
  let fs := r.frames.filter (frameUsable s p)
  fs.findSome? (fun f => placeLaunch s r.launch f fs)

/-- A partition's reservation after its frames have changed: where it has lost one it takes its frames anew, or ends where there
are not enough (R315, R348). DESIGN CHOICE, log 104. -/
def reviseReservation (s : State) (p : Nat) : State :=
  match (partOf s p).reserve with
  | none => s
  | some r =>
    if r.frames.all (frameUsable s p) then s
    else modPart s p (fun x => { x with reserve := (reserveFrames s p r.launch).map (fun fs => { r with frames := fs, compacted := false }) })

/-- The reserving launch placed in its frames once it fits (R315 step 4); a reservation whose launch awaits nothing any more
ends. -/
def tryReserved (s : State) (p : Nat) : State :=
  match (partOf s p).reserve with
  | none => s
  | some r =>
    if !launchReady (launchOf s r.launch) then modPart s p (fun x => { x with reserve := none })
    else (reservedPlace s p r).getD s

/-- The starvation floor's check: the oldest ready launch past it is placed by the default frame rule, or begins a
reservation at once (R314). -/
def floorCheck (s : State) (p : Nat) : State :=
  let x := partOf s p
  if !isUp s || !x.en || (ownedFrames s p).isEmpty then s
  else
    match oldestLaunch s (((headLaunches s p).map (·.2)).filter (fun l => olderUs s (launchOf s l) x.starve)) with
    | none => s
    | some l => (placeDefault s p l).getD (beginReservation s p l)

/-- Pre-emption decisions requested for the ready queues whose age exceeds PPRE, once per PPRE each (R303). -/
def preemptCheck (s : State) (p : Nat) : State :=
  let us := (partOf s p).ppre
  if us == 0 then s
  else (headLaunches s p).foldl (fun s h =>
    let q := queueOf s p h.1
    if olderUs s (launchOf s h.2) us && (q.lastPre == 0 || 1000 * us ≤ s.gtime - q.lastPre) then
      requestDecision (modQueue s p h.1 (fun q => { q with lastPre := s.gtime })) p (.preempt h.1)
    else s) s

/-- The launch whose turn a reservation is: of the gangs older than PTGANG and the launches past the floor, the oldest
(R314, R315). -/
def reserveNext (s : State) (p : Nat) : Option Nat :=
  let x := partOf s p
  oldestLaunch s (((headLaunches s p).map (·.2)).filter (fun l =>
    olderUs s (launchOf s l) x.starve || (kGang (launchOf s l).hdr && olderUs s (launchOf s l) x.tgang)))

/-- The launch whose turn it is begins a reservation; past the floor it is placed at once where it fits (R314, R315). -/
def gangCheck (s : State) (p : Nat) : State :=
  match reserveNext s p with
  | some l =>
    if (partOf s p).reserve.isNone && olderUs s (launchOf s l) (partOf s p).starve then (placeDefault s p l).getD (beginReservation s p l)
    else beginReservation s p l
  | none => s

/-- Deque entries of a comb that belong to launches other than one leave it, as relocated children, those whose push waits
among them (R315 step 3). -/
def relocateComb (s : State) (comb keep : Nat) : State :=
  let k := mget {} comb s.combs
  let out := (k.deque ++ k.pushing).filter (fun e => e.launch != keep)
  let s := modComb s comb (fun k => { k with deque := k.deque.filter (fun e => e.launch == keep), pushing := k.pushing.filter (fun e => e.launch == keep) })
  let s := out.foldl (fun s e => modLaunch s e.launch (fun l => { l with relocated := l.relocated ++ [e] })) s
  restDeque { s with launches := s.launches.map (fun p =>
      if p.1 == keep then p
      else
        let mine := p.2.spilled.filter (fun e => e.comb == comb && !e.waits)
        (p.1, { p.2 with spilled := p.2.spilled.filter (fun e => e.comb != comb || e.waits), relocated := mine.map (·.child) ++ p.2.relocated })) } comb

/-- Compaction of a reservation (R315 step 3). -/
def compactFrames (s : State) (p : Nat) (r : Reservation) : State :=
  let s := modPart s p (fun x => { x with reserve := some { r with compacted := true } })
  let cs := ((r.frames.map (frameCtxs s)).flatten).filter (fun c => !pinnedCtx s c.2)
  let s := cs.foldl (fun s c => requestPreempt s c.1 false) s
  let s := (r.frames.map (fun f => rangeFrom (8 * f) 8)).flatten.foldl (fun s comb => relocateComb s comb r.launch) s
  requestDispatch s p

/-! ## Fault decisions (R325 to R330) -/

/-- A context parked for the host, with its record of kind 1 (R329). -/
def parkCtx (s : State) (c : Nat) : State :=
  let s := taskRecord (modCtx s c (fun x => { x with phase := .parked, trap := { x.trap with lastact := 3 } })) c 1 (some 3)
  if (ctxOf s c).preempt.isSome then stopForSave s c true else s

/-- Delivery to the handler, or parking when there is none (R326). -/
def deliverTrap (s : State) (c : Nat) : State :=
  let x := ctxOf s c
  let vec := (partOf s x.part).tvec
  if vec == 0 then parkCtx s c
  else markBound (setCtx s c (enterHandler { x with trap := { x.trap with lastact := 2 } } vec)) c

/-- Retry at TEPC in the same mode, at most sixteen times (R326). -/
def retryTask (s : State) (c : Nat) : State :=
  let x := ctxOf s c
  let n : BitVec 8 := if x.trap.retries == 255 then 255 else x.trap.retries + 1
  let y := { x with trap := { x.trap with retries := n } }
  if 16 < n.toNat then parkCtx (setCtx s c y) c
  else markBound (setCtx s c { y with phase := .running, next := y.trap.tepc, trap := { y.trap with lastact := 4 } }) c

/-- The action a fault decision takes in the end: for a double fault, deliver and retry act as park (R326). -/
def faultAction (e : WagEnd) (dbl : Bool) : Nat :=
  match e with
  | .act k => if dbl && (k == 2 || k == 4) then 3 else k
  | _ => 3

/-- A fault action applied, with its records (R326, R328, R335). -/
def applyAction (s : State) (c k : Nat) (dbl : Bool) : State :=
  let s := if dbl then taskRecord s c 3 (some k) else s
  let mark : State → State := fun s => modCtx s c (fun x => { x with trap := { x.trap with lastact := BitVec.ofNat 4 k } })
  match k with
  | 0 => pumpAll (killTask (taskRecord (mark s) c 2 (some 0)) c)
  | 1 =>
    let s := taskRecord (mark s) c 2 (some 1)
    match (ctxOf s c).task with
    | some t => pumpAll (killLaunch s t.launch)
    | none => s
  | 2 => deliverTrap s c
  | 4 => retryTask s c
  | _ => parkCtx s c

/-- What a fault decision's view shows of a context's trap (R310). -/
def faultView (s : State) (c : Nat) (dbl : Bool) : FaultView :=
  let x := ctxOf s c
  let t : Task := x.task.getD ⟨0, 0, 0, 0, 0, none, none, 0⟩
  { cause := if dbl then 0x17 else x.trap.cause.toNat, ctx := c, start := t.start, retries := x.trap.retries.toNat
    handler := if dbl then true else x.trap.inh, queue := (launchOf s t.launch).queue }

/-! ## Saves (R47, R317 to R319, R336) -/

/-- A context runs on from the point at which it stopped (R319). -/
def runOn (s : State) (c : Nat) : State :=
  markBound (modCtx (match (ctxOf s c).phase with | .saving .. => freePool s (ctxOf s c).part | _ => s) c (fun x => { x with
    phase := match x.phase with
      | .saving _ true => .parked
      | _ => if !x.barWait.isEmpty then .barrier else if x.growth.isSome then .growing else .running
    saveAt := none })) c

/-- A record written by the device: its first words, whose values are not given, and the CRC-32C over the run it takes
(R319). DESIGN CHOICE, log 26. -/
def putRecord (s : State) (part va units : Nat) (v : Saved) : Saved × State :=
  let s := match devWriteWords s part va ((upTo 8).map (fun k => Config.freeWord (s.fresh + k))) with
    | .ok t => { t with fresh := t.fresh + 8 }
    | .error _ => s
  ({ v with crc := recordCrc s part va units }, s)

/-- The record of a pre-empted context written to the save pool: the context is freed and its task awaits placement, unless it
was parked and stays so in the pool (R329); a
write that fails abandons the pre-emption, or kills the task where it was required (R319, R336). -/
def finishPreempt (s : State) (c : Nat) (x : Ctx) (t : Task) (full : Bool) (run : Nat × Nat) : State :=
  let l := launchOf s t.launch
  let a := (partOf s x.part).saveb.toNat + 65536 * run.1
  match devRange s x.part a (65536 * run.2) .wr with
  | some e =>
    let s := deviceFault s x.part e l.idx l.queue
    if x.preempt.any (·.required) then pumpAll (killTask (runOn s c) c)
    else runOn (modPart s x.part (fun p => { p with pool := true, writeRetry := sinsert c p.writeRetry })) c
  | none =>
    match saveRecord s c full run.2 (2 * run.1) with
    | none => s
    | some v =>
      let id := s.seq
      let w := putRecord s x.part a run.2 v
      let s := bumpSeq { w.2 with saves := mput id w.1 w.2.saves }
      let s := if v.parked then s else modLaunch s t.launch (fun l => { l with preempted := l.preempted ++ [id] })
      let s := freeCtx s c
      requestDispatch s x.part

/-- The record of a set-aside parent written to its spill area: the bottom-most child starts in its place; if none is
left, the parent runs on and retries its JOIN (R47). -/
def finishAside (s : State) (c : Nat) (t : Task) (full : Bool) (run : Nat × Nat) : State :=
  let b := takeBottom (homeOf c) (mayTake s c t) (entryCount s) s
  match b.1, saveRecord b.2 c full run.2 (2 * run.1 + 1) with
  | some e, some v =>
    let l := launchOf s t.launch
    let id := b.2.seq
    let w := putRecord b.2 l.part (l.spill + 65536 * run.1) run.2 v
    let s := bumpSeq { w.2 with saves := mput id { w.1 with below := [] } w.2.saves }
    let s := modCtx s c (fun x => { x with asides := x.asides ++ [id], saveAt := none })
    startChild s c e
  | _, _ => runOn b.2 c

/-- Whether a stopped context's release and copy requests have ended (R317). -/
def saveReady (s : State) (c : Nat) (x : Ctx) : Bool :=
  x.releases.isEmpty && copiesDrained s c && x.fifo.isEmpty

/-! ## Frames leaving and joining (R321, R347, R348) -/

/-- Whether every frame named by a partition's last PFRAMES write has moved (R348). -/
def framesSettled (s : State) (p : Nat) : Bool :=
  (upTo 64).all (fun f =>
    let x := mget {} f s.frames
    let own := x.owner == some p
    (partOf s p).frames.getLsbD f == own && !(own && x.scrub))

/-- DDIE and BUSY as a partition's frames stand (R304, R347). -/
def settleFrames (s : State) (p : Nat) : State :=
  let die := match ownedFrames s p with | f :: _ => f / 16 | [] => 0
  modPart s p (fun x => { x with ddie := die, busy := !framesSettled s p })

/-- Dirty words of a comb written back, and the comb's caches, deque, predictor and TLB zeroed (R321 steps 3, 4).
DEDUCED, log 42. -/
def scrubComb (s : State) (comb : Nat) : State :=
  let m := flushComb s.ms comb
  let lo := windowBaseOf comb
  let tb : Nat → Bool := fun k => k / 64 == comb
  let ta : Nat → Bool := fun k => k / 32 == comb
  { s with ms := { m with mem := memClear m.mem lo (lo + Config.combStoreBytes)
                          poison := m.poison.filter (fun w => !(decide (lo / 8 ≤ w) && decide (w < (lo + Config.combStoreBytes) / 8))) }
           tbufs := s.tbufs.filter (fun p => !tb p.1), taccs := s.taccs.filter (fun p => !ta p.1)
           cells := s.cells.filter (fun p => p.1 / 16 != comb), jobs := s.jobs.filter (fun p => p.1 / 4 != comb)
           combs := mdel comb s.combs, ctxs := s.ctxs.filter (fun p => homeOf p.1 != comb) }

/-- One deque entry of a leaving comb moved to its launch's spill area, where it awaits placement; the launch keeps an entry
for which there is no room (R43, R321, R336). DEDUCED, log 81. -/
def moveOut (s : State) (comb : Nat) (e : Child) : State :=
  let keep : State → State := fun s => modLaunch s e.launch (fun l => { l with relocated := l.relocated ++ [e] })
  match spillCheck s e with
  | .ok p => spillEntry s comb e p true
  | .error none => keep s
  | .error (some f) => let l := launchOf s e.launch; keep (deviceFault s l.part f l.idx l.queue)

/-- Deque entries of a comb moved to their launches' spill areas (R321 step 2): they and the comb's spilled entries await
placement, since no context of the comb is left to take them. DEDUCED, log 81. -/
def emptyDeque (s : State) (comb : Nat) : State :=
  let k := mget {} comb s.combs
  let s := modComb s comb (fun k => { k with deque := [], pushing := [] })
  let s := (k.deque ++ k.pushing).foldl (fun s e => moveOut s comb e) s
  { s with launches := s.launches.map (fun p =>
      (p.1, { p.2 with spilled := p.2.spilled.map (fun e => if e.comb == comb then { e with waits := true } else e) })) }

/-- A frame whose contexts have left: its deques emptied, dirty words written back, and everything of it zeroed (R321).
DEDUCED, log 42. -/
def scrubFrame (s : State) (f : Nat) : State :=
  (rangeFrom (8 * f) 8).foldl (fun s comb => scrubComb (emptyDeque s comb) comb) s

end Sys2Proof.Machine
end

