-- ==== Sys2Proof/Machine/Queues.lean ====
section
/-! DEFINITION. Queues and packets: what may start, the checks of packets, the start of each type, translation
invalidation, sealing, completion and dependency counters (R21, R25, R26, R49, R163, R264, R290 to R302, R312, R313,
R329, R336, R358, R360, R370). -/

namespace Sys2Proof.Machine

/-! ## Packets in memory (R291, R292) -/

/-- The virtual address of a packet slot (R291). -/
def slotAddr (x : Queue) (i : Nat) : Nat := x.base.toNat + 64 * (i % 2 ^ x.log2sz)

/-- A packet's type, BARRIER and PRIO (R292). -/
def pkType (ws : List W64) : Nat := bits (dw ws 0) 0 8
def pkBarrier (ws : List W64) : Bool := bits (dw ws 0) 16 1 == 1
def pkPrio (ws : List W64) : Nat := bits (dw ws 0) 32 8

/-- Privileged types (R293). -/
def pkPriv (t : Nat) : Bool := decide (5 ≤ t) && decide (t ≤ 10)

/-- An address a packet gives: bits [63:55] clear, and aligned (R294). -/
def pkAddr (a align : Nat) : Bool := decide (a < Config.vaLimit) && a % align == 0

/-- Bits [hi:lo] of a packet word are zero. -/
def clearBits (w lo n : Nat) : Bool := bits w lo n == 0

/-- The header word and the signals (R292, R294). -/
def pkHeadOk (ws : List W64) : Bool :=
  let h := dw ws 0
  clearBits h 17 15 && clearBits h 8 7 && (pkType ws == 1 || pkPrio ws == 0) && pkAddr (dw ws 6) 8 && pkAddr (dw ws 7) 8

/-- The fields of each type (R294 to R296). -/
def pkBodyOk (ws : List W64) : Bool :=
  let w := dw ws
  let z : List Nat → Bool := fun l => l.all (fun k => w k == 0)
  match pkType ws with
  | 0x01 =>
    let aw := bits (w 3) 32 6
    pkAddr (w 1) 8 && clearBits (w 3) 38 9 && decide (aw ≤ 32) && (aw == 0 || pkAddr (w 4) 8)
      && (bits (w 3) 48 16 == 0 || pkAddr (w 5) 65536)
      && decide (bits (w 2) 0 32 * bits (w 2) 32 32 * bits (w 3) 0 32 < 2 ^ 40)
  | 0x02 => pkAddr (w 1) 8 && z [2, 3, 4, 5]
  | 0x03 => pkAddr (w 1) 8 && decide (w 3 < 2) && z [4, 5]
  | 0x04 => pkAddr (w 1) 1 && pkAddr (w 2) 1 && decide (w 3 < 2 ^ 40) && clearBits (w 4) 1 7 && clearBits (w 4) 24 40 && z [5]
  | 0x05 => pkAddr (w 1) 8 && clearBits (w 2) 9 7 && clearBits (w 2) 17 47 && clearBits (w 3) 32 32 && z [4, 5]
  | 0x06 => decide (w 5 < 16)
  | 0x07 => pkAddr (w 1) 65536 && w 2 % 65536 == 0 && z [3, 4, 5]
  | 0x08 => pkAddr (w 1) 65536 && w 2 % 65536 == 0 && z [3, 4, 5]
  | 0x09 => pkAddr (w 1) 65536 && w 2 % 65536 == 0 && z [3, 4, 5]
  | 0x0A => clearBits (w 1) 12 4 && clearBits (w 1) 19 45 && decide (bits (w 1) 16 3 ≤ 3) && z [2, 3, 4, 5]
  | 0x0B => pkAddr (w 1) 8 && z [2, 3, 4, 5]
  | _ => false

/-- The number under which a queue's next packet is kept: its index, above the number of its base's writes (R291). -/
def pktKey (x : Queue) : Nat := 2 ^ 32 * x.gen + x.start

/-- The address of a started packet's slot (R291). -/
def slotOf_ (s : State) (p q idx : Nat) : Nat := ((mfind idx (queueOf s p q).pkts).map (·.slot)).getD 0

/-! ## What may start (R291, R297, R301) -/

/-- Packets of a queue that have started and not completed. -/
def openPkts (x : Queue) : SMap Packet := x.pkts.filter (fun p => !p.2.written)

/-- Whether a queue has packets that QWR has admitted and that have not started (R291). -/
def unstarted (x : Queue) : Bool :=
  let n := ringDist x.wr x.start
  decide (1 ≤ n) && decide (n ≤ 2 ^ x.log2sz)

/-- Whether a queue may start its next packet, its bytes apart (R291, R297, R301, R336): every DEPWAIT started before has
completed. -/
def mayStart (s : State) (p q : Nat) : Bool :=
  let x := queueOf s p q
  isUp s && (partOf s p).en && x.en && x.thread.isSome && !x.qflt && (openPkts x).all (fun k => pkType k.2.words != 2) && unstarted x

/-- Whether a LAUNCH of a queue still has tasks that were never placed (R297). -/
def launchUnplaced (s : State) (p q : Nat) : Bool :=
  s.launches.any (fun l => l.2.part == p && l.2.queue == q && !l.2.ending && !l.2.killing && decide (l.2.nextTile < l.2.x * l.2.y * l.2.z))

/-- Whether a packet read may start now (R297). -/
def startNow (s : State) (p q : Nat) (ws : List W64) : Bool :=
  (!pkBarrier ws || (openPkts (queueOf s p q)).isEmpty) && (pkType ws != 1 || !launchUnplaced s p q)

/-- A packet's effect ended with a status (R298 step 1). -/
def endEffect (s : State) (p q idx status : Nat) : State :=
  modPkt s p q idx (fun k => { k with status := some status, effect := true, wait := none })

/-- A packet ended with a record due at its completion (R370). -/
def endFailed (s : State) (p q idx status kind : Nat) (cause : BitVec 8) (tval : Nat) : State :=
  modPkt (endEffect s p q idx status) p q idx (fun k => { k with fail := some (kind, cause, tval) })

/-- A packet MALFORMED, with its record of kind 5, or 8 for a rejected policy (R294, R370). -/
def malformed (s : State) (p q idx kind tval : Nat) : State := endFailed s p q idx 2 kind 0x01 tval

/-- A packet completed FAULT after a failed access of the device's own (R336). -/
def pkFault (s : State) (p q idx : Nat) (e : BitVec 8 × Nat) : State := endEffect (deviceFault s p e idx q) p q idx 5

/-- A queue stopped by a fault on the device's own access (R336). -/
def stopQueue (s : State) (p q : Nat) : State := modQueue s p q (fun x => { x with qflt := true })

/-- The number under which a packet's own writes wait for leases, above every message's. -/
def devMsg (p q k : Nat) : Nat := 2 ^ 96 + 2 ^ 72 * (128 * p + q) + k

/-- Words that message `n` of the device is to write, when one must wait: the host's lines are snooped, leases run out and their
regions' readers wait (R143, R146, R161, R346). -/
def waitWords (s : State) (n : Nat) (ws : List Nat) : Option State :=
  if ws.any (homeBusy s) then some (delayFor (snoopWords s ws) n ws) else none

/-- The same for some addresses of a partition. -/
def waitHomes (s : State) (p n : Nat) (vas : List Nat) : Option State := waitWords s n (writeHomes s p vas)

/-- Reads of the device's own, address and bytes, that must wait at a home, the host's lines snooped; a write of message `n` itself
that waits is no obstacle (R143, R146, R161, R346). -/
def readWaits (s : State) (p n : Nat) (rs : List (Nat × Nat)) : Option State :=
  let ws := (rs.map (fun r => devHomes s p r.1 r.2)).flatten
  if ws.any (readBusy { s with ms := undelay s.ms n }) then some (snoopWords s (ws.filter (hostOwns s.ms))) else none

/-- The first address with a far home that some reads of the device's own wait for (R333). -/
def readFar (s : State) (p n : Nat) (rs : List (Nat × Nat)) : Option Nat :=
  let t := { s with ms := undelay s.ms n }
  rs.findSome? (fun r => ((devHomesAt s p r.1 r.2).find? (fun a => readBusy t a.2 && isFar (128 * (partOf s p).ddie) (8 * a.2))).map (·.1))

/-- The first address with a far home that some writes of the device's own wait for (R333). -/
def writeFar (s : State) (p : Nat) (vas : List Nat) : Option Nat :=
  vas.find? (fun a => (writeHomes s p [a]).any (fun w => homeBusy s w && isFar (128 * (partOf s p).ddie) (8 * w)))

/-- What becomes of an access of the device's own that waits: it waits on in `t`, noted since when, or, once a far home has not
replied for 2 ms, it fails (R333, R336). -/
def timedWait (s w : State) (far asked : Option Nat) (note : State → State) : Except (BitVec 8 × Nat) State :=
  match far, asked with
  | some a, some g => if overdue s g then .error (0x14, a) else .ok w
  | some _, none => .ok (note w)
  | none, _ => .ok w

/-- The words of such reads written back by their owners (R143). -/
def seenAll (s : State) (p : Nat) (rs : List (Nat × Nat)) : State := rs.foldl (fun s r => devSeen s p r.1 r.2) s

/-- A device write of one word with its watch entries evaluated (R231, R336). -/
def devPut (s : State) (p va n d : Nat) : Except (BitVec 8 × Nat) State :=
  match devWrite s p va n d with
  | .error e => .error e
  | .ok s' => match devAddr s p va .wr with
    | .ok (.home pa) => .ok (watchScan s' (pa / 8))
    | _ => .ok s'

/-! ## LAUNCH (R21, R25, R26, R49, R295) -/

/-- A well-formed kernel header (R25, R26). DEDUCED, log 28. -/
def headerOk (h : List W64) : Bool :=
  let e := dw h 0
  let a := dw h 1
  let b := dw h 2
  decide (e < Config.vaLimit) && e % 32 == 0 && bits a 60 4 == 1 && clearBits a 44 16 && decide (kSteal h ≤ 4)
    && decide (1 ≤ bits a 37 3) && decide (bits a 37 3 ≤ 4) && decide (kBars h ≤ 16) && decide (kAccs h ≤ 8) && decide (kTbufs h ≤ 16)
    && decide (1 ≤ kRegs h) && decide (kRegs h ≤ 64) && clearBits a 0 13 && clearBits b 13 19
    && decide (1 ≤ bits b 0 13) && decide (bits b 0 13 ≤ 4096) && (h.drop 3).all (· == 0)
    && (kBars h == 0 || kGang h) && (kTlive h == 0 || kTbufs h != 0 || kAccs h != 0)

/-- Whether a gang could be placed in the frames its partition owns, were they empty (R49). -/
def gangFits (s : State) (launch : Nat) : Bool :=
  let l := launchOf s launch
  let fs := ownedFrames s l.part
  let n := l.x * l.y * l.z
  let bare := { s with ctxs := s.ctxs.filter (fun c => !fs.contains (frameOf (homeOf c.1))) }
  decide (n ≤ 64 * fs.length) && (placeAll launch fs ((upTo n).map .tile) bare).isSome

/-- A LAUNCH started: its header and arguments read and judged, its launch made ready (R25, R295). DEDUCED, log 28. -/
def startLaunch (s : State) (p q idx : Nat) (ws : List W64) : State :=
  let w := dw ws
  let aw := bits (w 3) 32 6
  match devWords s p (w 1) 8, devWords s p (w 4) aw with
  | .error e, _ => pkFault s p q idx e
  | .ok _, .error e => pkFault s p q idx e
  | .ok h, .ok args =>
    if !headerOk h then malformed s p q idx 5 (w 1)
    else
      let l : Launch := { part := p, queue := q, idx := idx, hdr := h, args := args, x := bits (w 2) 0 32, y := bits (w 2) 32 32,
                          z := bits (w 3) 0 32, prio := pkPrio ws, pin := bits (w 3) 47 1 == 1, spill := w 5, spillu := bits (w 3) 48 16,
                          start := s.gtime, lastPlaced := s.gtime, depends := (queueOf s p q).waited }
      let id := s.seq
      let s1 := bumpSeq { s with launches := mput id l s.launches }
      if kGang h && !gangFits s1 id then malformed s p q idx 5 (w 1)
      else requestDispatch (launchCheck s1 id) p

/-! ## DEPWAIT and dependency counters (R299, R300) -/

/-- The place of a counter, as one number. -/
def counterKey (s : State) (p va : Nat) : Option Nat :=
  match devAddr s p va .rd with
  | .ok (.home pa) => some pa
  | .ok (.remote m a) => some (2 ^ 80 + remoteKey m a)
  | .ok (.hostMem a) => some (2 ^ 80 + remoteKey 4096 a)
  | _ => none

/-- A DEPWAIT's wait ended: its thread unblocks, and later launches of its queue depend on what it waited for (R300). -/
def endDepwait (s : State) (p q idx status : Nat) : State :=
  modQueue (endEffect s p q idx status) p q (fun x => { x with blocked := false, idle := s.gtime, ready := s.gtime, waited := x.waited || status == 1 })

/-- A DEPWAIT's counter read: it completes at 0, blocks otherwise, and fails with its queue stopped (R300, R336).
DEDUCED, log 20. -/
def readCounter (s : State) (p q idx : Nat) (ws : List W64) : State :=
  let a := dw ws 1
  match devReadIn s p a 8 with
  | .error e => stopQueue (endDepwait (deviceFault s p e idx q) p q idx 5) p q
  | .ok v =>
    if v == 0 then endDepwait s p q idx 1
    else
      let s := modPkt s p q idx (fun k => { k with wait := counterKey s p a, note := s.gtime + 100000 })
      modQueue s p q (fun x => { x with blocked := true })

/-- The blocked DEPWAITs whose counter lies at a place: partition, queue, index. -/
def waiters (s : State) (key : Nat) : List (Nat × Nat × Nat) :=
  s.parts.foldl (fun acc p => p.2.queues.foldl (fun acc q => q.2.pkts.foldl (fun acc k =>
    if q.2.blocked && pkType k.2.words == 2 && k.2.wait == some key && !k.2.effect then acc ++ [(p.1, q.1, k.1)] else acc) acc) acc) []

/-- A counter decremented by the completion engine (R299, R300, R336). DEDUCED, log 67. -/
def decrement (s : State) (p q idx va : Nat) : State :=
  if va == 0 then s
  else
    match devAddr s p va .rw, devReadIn s p va 8 with
    | .error c, _ => deviceFault s p (c, va) idx q
    | .ok _, .error e => deviceFault s p e idx q
    | .ok _, .ok v =>
      if v == 0 then faultRecord s p { kind := 7, tval := va, index := idx, queue := q }
      else
        match devPut s p va 8 (v - 1), counterKey s p va with
        | .ok s, some key =>
          let s := journalAdd s 4 p q idx
          if v == 1 then (waiters s key).foldl (fun s w => endDepwait s w.1 w.2.1 w.2.2 1) s else s
        | .ok s, none => s
        | .error e, _ => deviceFault s p e idx q

/-! ## SIGNAL, MARKER, COPYB (R293, R296, R298, R358) -/

/-- SIGNAL: its store, then its interrupt (R298, R351). -/
def startSignal (s : State) (p q idx : Nat) (ws : List W64) : State :=
  let a := dw ws 1
  let irq : State → State := fun s => if dw ws 3 == 1 then raiseIrq s p (partOf s p).compv else s
  if a == 0 then endEffect (irq s) p q idx 1
  else
    match devPut s p a 8 (dw ws 2) with
    | .error e => pkFault s p q idx e
    | .ok s => endEffect (irq s) p q idx 1

/-- MARKER: the global time written to its address (R293). -/
def startMarker (s : State) (p q idx : Nat) (ws : List W64) : State :=
  match devPut s p (dw ws 1) 8 (s.gtime % 2 ^ 64) with
  | .error e => pkFault s p q idx e
  | .ok s => endEffect s p q idx 1

/-- An endpoint-table entry that a COPYB may use (R358). DEDUCED, log 51. -/
def endpointOk (e : List W64) (dst len : Nat) : Bool :=
  let w := dw e
  clearBits (w 2) 48 16 && clearBits (w 3) 40 24 && clearBits (w 3) 0 16 && bits (w 4) 0 32 != 0
    && (len == 0 || (decide (w 5 ≤ dst) && decide (dst + len ≤ w 5 + w 6)))

/-- The copy request of a COPYB, served by the engines of the queue's die (R296). -/
def copybReq (s : State) (p q idx : Nat) (ws : List W64) (net : Option Nat) (entry : List W64) : CopyReq :=
  let len := bits (dw ws 3) 0 40
  let desc : Lanes := mkLanes (fun j => match j with
    | 0 => BitVec.ofNat 32 (dw ws 1) | 1 => BitVec.ofNat 32 (dw ws 1 / 2 ^ 32)
    | 2 => BitVec.ofNat 32 (dw ws 2) | 3 => BitVec.ofNat 32 (dw ws 2 / 2 ^ 32)
    | 4 => BitVec.ofNat 32 len | 5 => BitVec.ofNat 32 (len / 2 ^ 32)
    | _ => 0)
  { who := .packet p q idx, part := p, comb := 128 * (queueOf s p q).die, mode := .lin, desc := desc, sent := true, chunk := 0,
    started := false, fault := 0, finished := false, scrOff := 0, scrSize := 0, net := net, entry := entry }

/-- COPYB started (R296, R358). DEDUCED, log 30, 31. -/
def startCopyb (s : State) (p q idx : Nat) (ws : List W64) : State :=
  let go : Option Nat → List W64 → State := fun net e =>
    bumpSeq { s with ms := { s.ms with copies := mput s.seq (copybReq s p q idx ws net e) s.ms.copies } }
  if bits (dw ws 4) 0 1 == 0 then go none []
  else
    let peer := bits (dw ws 4) 8 16
    let x := partOf s p
    if x.epcnt ≤ peer then malformed s p q idx 5 (slotOf_ s p q idx)
    else
      match devWords s p (x.epbase.toNat + 64 * peer) 8 with
      | .error e => pkFault s p q idx e
      | .ok e =>
        if endpointOk e (dw ws 2) (bits (dw ws 3) 0 40) then go (some peer) e
        else malformed s p q idx 5 (slotOf_ s p q idx)

/-! ## POLICY and FWIN (R264, R266, R312, R313) -/

/-- A policy installed between two decisions (R309, R313). -/
def installPolicy (x : Partition) (prog : List (BitVec 16)) (keep : Bool) (tag : BitVec 32) : Partition :=
  { x with policy := prog, inst := true, vertag := tag, installs := x.installs + 1
           sw := if keep then x.sw else [0, 0, 0, 0, 0, 0, 0, 0]
           rand := if tag == 0 then 1 else tag }

/-- POLICY started (R312, R313). -/
def startPolicy (s : State) (p q idx : Nat) (ws : List W64) : State :=
  let n := bits (dw ws 2) 0 9
  let prog := dw ws 1
  if n == 0 || 256 < n then malformed s p q idx 8 prog
  else
    match devWords s p prog ((n + 3) / 4) with
    | .error e => pkFault s p q idx e
    | .ok d =>
      let words := ((d.map (fun (x : W64) => (upTo 4).map (fun k => x.extractLsb' (16 * k) 16))).flatten).take n
      if wagOk words then
        endEffect (modPart s p (fun x => installPolicy x words (bits (dw ws 2) 16 1 == 1) (BitVec.ofNat 32 (dw ws 3)))) p q idx 1
      else malformed s p q idx 8 prog

/-- A window FWIN may install (R264). -/
def windowOk (base fin sbase ctl : Nat) : Bool :=
  let page : Nat → Bool := fun a => clearBits a 0 16 && clearBits a 55 9
  page base && page fin && decide (sbase < Config.vaLimit) && clearBits ctl 8 56 && clearBits ctl 5 1
    && (bits ctl 7 1 == 0 ||
        (decide (base < fin) && match ElemTy.ofCode (bits ctl 0 5) with
          | some t => t.isStored && (bits ctl 6 1 == 0 || t.isStoredFloat)
          | none => false))

/-- FWIN started: installed at once; it ends when users of the old version have (R266). -/
def startFwin (s : State) (p q idx : Nat) (ws : List W64) : State :=
  let w := dw ws
  if !windowOk (w 1) (w 2) (w 3) (w 4) then malformed s p q idx 5 (slotOf_ s p q idx)
  else
    let f : FWin := { base := ws.getD 1 0, fin := ws.getD 2 0, sbase := ws.getD 3 0, ctl := ws.getD 4 0 }
    modPkt (modPart s p (fun x => { x with fwin := mput (w 5) f x.fwin })) p q idx (fun k => { k with wait := some s.seq })

/-! ## Translation invalidation (R126, R163, R164) -/

/-- A load's pieces translated again, or its first fault (R163). DEDUCED, log 29. -/
def freshPieces (s : State) (r : LoadReq) : Except AccErr (List LPiece) :=
  let x := ctxOf s r.ctx
  let k : Plain := match r.kind with | .scalar b _ _ => .plain b | .gather b _ _ => .plain b | _ => .other
  r.pieces.mapM (fun p => transPiece s r.ctx x r.comb .rd k p.va p.n p.pos)

/-- A load that has not performed, translated again (R163). DEDUCED, log 29. -/
def retranslate (s : State) (n : Nat) (r : LoadReq) : State :=
  match freshPieces s r with
  | .error e => failLoad s n r e.1 e.2
  | .ok ps => bumpSeq { s with ms := { s.ms with loads := mput s.seq { r with pieces := ps } (mdel n s.ms.loads) } }

/-- A load that has performed, as it would be performed again: by its new translation, or, where it has none left, not at all (R102,
R145, R163). DEDUCED, log 29. -/
def retarget (s : State) (r : LoadReq) : LoadReq :=
  match freshPieces s r with
  | .error _ => { r with gone := true }
  | .ok ps => { r with pieces := ps }

/-- The loads of a context that have performed and that `hit` names, translated again (R163). -/
def retargetCtx (s : State) (hit : LoadReq → Bool) (x : Ctx) : Ctx :=
  { x with blocks := x.blocks.map (fun b =>
      { b with loads := b.loads.map (fun l =>
          (l.1, { l.2 with req := l.2.req.map (fun r => if hit r then retarget s r else r) })) }) }

/-- Translations of a partition's range dropped from every TLB; loads that still wait to perform, and those that might be
performed again, translated anew (R126, R163). A length of 0 is the whole space. DEDUCED, log 29. -/
def invalidate (s : State) (p va len : Nat) : State :=
  let hit : TlbEntry → Bool := fun e => e.part == p && (len == 0 || (decide (e.base < va + len) && decide (va < e.base + e.size)))
  let s : State := { s with
                    combs := s.combs.map (fun c => (c.1, { c.2 with tlb := c.2.tlb.filter (fun e => !hit e) }))
                    dies := s.dies.map (fun d => (d.1, { d.2 with tlb := d.2.tlb.filter (fun e => !hit e) })) }
  let touches : LoadReq → Bool := fun r =>
    r.pieces.any (fun q => !q.scratch && (len == 0 || (decide (va ≤ q.va) && decide (q.va < va + len))))
  let mine := s.ms.loads.filter (fun (l : Nat × LoadReq) => (ctxOf s l.2.ctx).part == p && l.2.armed == none && l.2.got.isEmpty && loadWaits s l.2
    && touches l.2)
  let t := { s with ctxs := s.ctxs.map (fun c => (c.1, if c.2.part == p then retargetCtx s touches c.2 else c.2)) }
  mine.foldl (fun s l => match mfind l.1 s.ms.loads with | some r => retranslate s l.1 r | none => s) t

/-- Whether an access of a partition made before a message number is still in flight (R163, R165, R266): a block that has passed
its checks, or stores that a release holds back, among them. DEDUCED, log 29. -/
def inFlightBefore (s : State) (p n : Nat) : Bool :=
  let of : Nat → Bool := fun c => (ctxOf s c).part == p
  s.ctxs.any (fun c => c.2.part == p && (c.2.releases.any (fun r => decide (r.id < n)) || c.2.xlat.any (fun t => decide (t.1 < n))))
    || s.ms.loads.any (fun m => decide (m.1 < n) && of m.2.ctx) || s.ms.regs.any (fun m => decide (m.2.born < n) && of m.2.ctx)
    || s.ms.uwrites.any (fun m => decide (m.1 < n) && of m.2.ctx) || s.ms.amos.any (fun m => decide (m.1 < n) && of m.2.ctx)
    || s.ms.walks.any (fun m => decide (m.1 < n) && m.2.ctx.any of)

/-- Whether a TLD that consulted windows before a message number is in flight (R266). -/
def tldBefore (s : State) (p n : Nat) : Bool :=
  s.ms.loads.any (fun m => decide (m.2.win < n) && (ctxOf s m.2.ctx).part == p && (match m.2.kind with | .tile .. => true | _ => false))

/-- TLBINV started (R163, R293). -/
def startTlbinv (s : State) (p q idx : Nat) (ws : List W64) : State :=
  modPkt (invalidate s p (dw ws 1) (dw ws 2)) p q idx (fun k => { k with wait := some s.seq })

/-! ## SEAL and UNSEAL (R160, R360) -/

/-- A leaf of a range: its first address and size, its entry, and the physical addresses of its entries. -/
structure Leaf where
  base : Nat
  size : Nat
  pte : W64
  ptes : List (Nat × W64)
  deriving DecidableEq, Repr

/-- The leaf that maps an address (R122, R124), or none. -/
def leafAt (s : State) (part va : Nat) : Except WalkErr (Option Leaf) := do
  if Config.vaLimit ≤ va then return none
  let p1 ← readPte s part ((partOf s part).root.toNat + 8 * bits va 42 13)
  if !pteV p1 || pteBad 1 p1 then return none
  let a2 := 2 ^ 16 * ptePpn p1 + 8 * bits va 29 13
  let p2 ← readPte s part a2
  if !pteV p2 || pteBad 2 p2 then return none
  if pteLeaf p2 then return some ⟨2 ^ 29 * (va / 2 ^ 29), 2 ^ 29, p2, [(a2, p2)]⟩
  let tbl := 2 ^ 16 * ptePpn p2
  let w ← walkLeaf3 s part tbl va []
  match w.pte with
  | none => return none
  | some p =>
    let i0 := bits w.base 16 13
    let es ← (upTo (w.size / 2 ^ 16)).mapM (fun k => do
      let e ← readPte s part (tbl + 8 * (i0 + k))
      return (tbl + 8 * (i0 + k), e))
    return some ⟨w.base, w.size, p, es⟩

/-- What a sealing packet finds in its range. -/
inductive SealScan where
  | bad
  | fail (cause : BitVec 8) (va : Nat)
  | ok (ls : List Leaf)
  deriving DecidableEq, Repr

/-- The leaves of a range, all mapped whole and in the mode asked for (R360). -/
def sealScan (s : State) (part lo hi mode : Nat) : Nat → Nat → SealScan
  | 0, _ => .bad
  | fuel + 1, va =>
    if hi ≤ va then .ok []
    else
      match leafAt s part va with
      | .error e => .fail e.cause va
      | .ok none => .bad
      | .ok (some l) =>
        if pteMode l.pte != mode || l.base < lo || hi < l.base + l.size then .bad
        else
          match sealScan s part lo hi mode fuel (l.base + l.size) with
          | .ok ls => .ok (l :: ls)
          | x => x

/-- An entry with a mode and version written into it (R123). -/
def withMode (e : W64) (mode sver : Nat) : W64 :=
  let keep : W64 := e &&& ~~~(BitVec.ofNat 64 (3 * 2 ^ 6 + 0xFFFF * 2 ^ 48))
  keep ||| BitVec.ofNat 64 (2 ^ 6 * mode + 2 ^ 48 * sver)

/-- The entries of some leaves rewritten (R360 step 1). -/
def rewriteLeaves (s : State) (part : Nat) (ls : List Leaf) (mode sver : Nat) : State :=
  ls.foldl (fun s l => l.ptes.foldl (fun s e =>
    let d := withMode e.2 mode sver
    match placeOfPa s part e.1 with
    | some (.home q) => putHome s (q / 8) d 0xFF false
    | some (.remote m a) => { s with ms := remoteWrite s.ms (remoteKey m a) 8 d.toNat }
    | some (.hostMem a) => { s with ms := remoteWrite s.ms (remoteKey 4096 a) 8 d.toNat }
    | _ => s) s) s

/-- The words of some leaves' entries at their homes; those of other modules by their `remoteTag`. -/
def leafWords (s : State) (part : Nat) (ls : List Leaf) : List Nat :=
  (ls.map (fun l => l.ptes.filterMap (fun e => match placeOfPa s part e.1 with
    | some (.home q) => some (q / 8)
    | some (.remote m a) => some (remoteTag (remoteKey m a))
    | _ => none))).flatten

/-- SEAL (mode 1) or UNSEAL (mode 0) started: judged, entries written, and the range invalidated (R360 steps 1, 2). -/
def startSeal (s : State) (p q idx : Nat) (ws : List W64) (undo : Bool) : State :=
  let va := dw ws 1
  let len := dw ws 2
  let x := partOf s p
  match sealScan s p va (va + len) (if undo then 1 else 0) (len / 65536 + 1) va with
  | .bad => malformed s p q idx 5 (slotOf_ s p q idx)
  | .fail c a => pkFault s p q idx (c, a)
  | .ok ls =>
    match waitWords s (devMsg p q idx) (leafWords s p ls) with
    | some s => modPkt s p q idx (fun k => { k with wait := none, note := 2 })
    | none =>
      let s := { s with ms := undelay s.ms (devMsg p q idx) }
      let next := ls.any (fun l => pteSver l.pte == x.sealv)
      let s := rewriteLeaves s p ls (if undo then 0 else 1) (if undo then 0 else x.sealv)
      let s := if len == 0 then s else invalidate s p va len
      modPkt s p q idx (fun k => { k with wait := some s.seq, note := if undo && next then 1 else 0 })

/-- The physical word ranges of a range of a partition's mapped addresses, whatever their rights (R156, R160). -/
def physRanges (s : State) (p va len : Nat) : List (Nat × Nat) :=
  (pagePieces va len (len / 65536 + 2)).filterMap (fun r =>
    match lookup s (128 * (partOf s p).ddie) p r.1 with
    | .ok e =>
      if e.pte.isNone then none
      else
        let pa := e.pbase + (r.1 - e.base)
        let q := match placeOfPa s p pa with | some (.home q) => q | _ => pa
        some (q / 8, (q + r.2 - 1) / 8 + 1)
    | .error _ => none)

/-- Sealed copies of some words dropped from every comb cache, and from the slices' proxy copies (R137, R160). -/
def purgeSealed (s : State) (rs : List (Nat × Nat)) : State :=
  let covered : Nat → Bool := fun w => rs.any (fun r => decide (r.1 ≤ w) && decide (w < r.2))
  let combs := (s.ms.caches.map (fun p => p.1 / 64)).foldl (fun a c => sinsert c a) []
  let m := combs.foldl (fun m comb => combDrop m comb (fun sp j _ => sp.sver != 0 && covered (64 * sp.region + j))) s.ms
  { s with ms := { m with hives := m.hives.map (fun p => (p.1, (p.2.map (fun sp =>
      if isLocal (512 * sp.region) || sp.sver == 0 then [sp] else runsOf sp (fun j _ => !covered (64 * sp.region + j)))).flatten)) } }

/-- After a sealing packet's invalidation is acknowledged (R360 step 3): SEAL's walk, or UNSEAL's next version. -/
def sealAcked (s : State) (p q idx : Nat) (k : Packet) : State :=
  let va := dw k.words 1
  let len := dw k.words 2
  let rs := physRanges s p va len
  if pkType k.words == 8 then
    let w : Walk := { ctx := none, kind := .clean, ranges := rs.filter (fun r => isLocal (8 * r.1)), at_ := 0, pkt := some (p, q, idx) }
    let n := s.seq
    let s := bumpSeq { s with ms := { s.ms with walks := mput n w s.ms.walks } }
    modPkt s p q idx (fun k => { k with wait := none })
  else
    let x := partOf s p
    let s := if k.note == 1 then
        let s := if x.sealv == 0xFFFF then purgeSealed s rs else s
        modPart s p (fun x => { x with sealv := if x.sealv == 0xFFFF then 1 else x.sealv + 1 })
      else s
    endEffect s p q idx 1

/-! ## RESUME (R329) -/

/-- A parked task's state after RESUME's action 0 or 1 (R326, R329): at TEPC, or at the handler vector; none where it stays parked,
since the vector is 0. Action 0 leaves RETRIES and LASTACT as they are. DESIGN CHOICE, log 113. -/
def resumeState (s : State) (part a : Nat) (x : Ctx) : Option Ctx :=
  let vec := (partOf s part).tvec
  if a == 0 && !x.trap.df then some { x with phase := .running, next := x.trap.tepc }
  else if vec == 0 then none
  else if x.trap.df then some (enterHandler { x with trap := { x.trap with df := false } } vec)
  else some (enterHandler { x with trap := { x.trap with lastact := 2 } } vec)

/-- Whether a context is parked, be its record under way (R329). -/
def isParked (x : Ctx) : Bool := match x.phase with | .parked => true | .saving _ p => p | _ => false

/-- RESUME's action on a parked context (R329): one whose record is under way goes on into the save pool, and awaits placement
there where it is to run. -/
def resumeAction (s : State) (c a : Nat) : State :=
  let x := ctxOf s c
  match a with
  | 2 => pumpAll (killTask s c)
  | 3 => match x.task with
    | some t => pumpAll (killLaunch s t.launch)
    | none => s
  | _ => match resumeState s x.part a x with
    | some y => markBound (setCtx s c (match x.phase with | .saving full _ => { y with phase := .saving full false } | _ => y)) c
    | none => taskRecord (modCtx s c (fun x => { x with trap := { x.trap with lastact := 3 } })) c 1 (some 3)

/-- A task parked in the save pool, by the context it was parked on (R329). -/
def savedParked (s : State) (part c : Nat) : Option (Nat × Saved) :=
  s.saves.find? (fun r => r.2.parkedAt == some c && (launchOf s r.2.task.launch).part == part)

/-- RESUME's action on a task parked in the save pool: once it is to run it awaits placement (R306, R329). -/
def resumeSaved (s : State) (c r : Nat) (v : Saved) (a : Nat) : State :=
  let l := launchOf s v.task.launch
  let x : Ctx := { phase := .parked, task := some v.task, part := l.part, trap := v.trap, next := v.next }
  match a with
  | 2 => pumpAll (killSaved s r)
  | 3 => pumpAll (killLaunch s v.task.launch)
  | _ => match resumeState s l.part a x with
    | some y =>
      modLaunch { s with saves := mput r { v with trap := y.trap, next := y.next, parked := false, parkedAt := none } s.saves } v.task.launch
        (fun l => { l with preempted := l.preempted ++ [r] })
    | none =>
      let t := { v.trap with lastact := 3 }
      faultRecord { s with saves := mput r { v with trap := t } s.saves } l.part
        { kind := 1, cause := t.cause.toNat, action := some 3, ctx := c, tval := t.tval.toNat, tepc := t.tepc.toNat, cause2 := t.cause2.toNat,
          tidx := t.tidx.toNat, tval2 := t.tval2.toNat, task := v.task.id, index := l.idx, queue := l.queue }

/-- RESUME started (R329): it names a context that is parked, or that was when it was saved. A parked context goes before a task
saved from it. DESIGN CHOICE, log 100. -/
def startResume (s : State) (p q idx : Nat) (ws : List W64) : State :=
  let c := bits (dw ws 1) 0 12
  let a := bits (dw ws 1) 16 3
  let x := ctxOf s c
  let done : State → State := fun s => requestDispatch (endEffect s p q idx 1) p
  if isParked x && x.part == p then done (resumeAction s c a)
  else match savedParked s p c with
    | some r => done (resumeSaved s c r.1 r.2 a)
    | none => malformed s p q idx 5 (slotOf_ s p q idx)

/-! ## Starting a packet (R291, R294, R297) -/

/-- The words whose homes a packet's own store needs. -/
def storeAddrs (ws : List W64) : List Nat :=
  match pkType ws with
  | 3 => if dw ws 1 == 0 then [] else [dw ws 1]
  | 11 => [dw ws 1]
  | _ => []

/-- The effect of a well-formed packet by its type. -/
def packetEffect (s : State) (p q idx : Nat) (ws : List W64) : State :=
  match pkType ws with
  | 0x01 => startLaunch s p q idx ws
  | 0x02 => readCounter s p q idx ws
  | 0x03 => startSignal s p q idx ws
  | 0x04 => startCopyb s p q idx ws
  | 0x05 => startPolicy s p q idx ws
  | 0x06 => startFwin s p q idx ws
  | 0x07 => startTlbinv s p q idx ws
  | 0x08 => startSeal s p q idx ws false
  | 0x09 => startSeal s p q idx ws true
  | 0x0A => startResume s p q idx ws
  | _ => startMarker s p q idx ws

/-- The reads of a packet's own structures, address and bytes (R295, R300, R312, R358). -/
def packetReads (s : State) (p : Nat) (ws : List W64) : List (Nat × Nat) :=
  let w := dw ws
  match pkType ws with
  | 1 => [(w 1, 64), (w 4, 8 * bits (w 3) 32 6)]
  | 2 => [(w 1, 8)]
  | 4 => if bits (w 4) 0 1 == 0 then [] else [((partOf s p).epbase.toNat + 64 * bits (w 4) 8 16, 64)]
  | 5 => [(w 1, 8 * ((bits (w 2) 0 9 + 3) / 4))]
  | _ => []

/-- A packet counted and recorded in the journal (R302). -/
def openPacket (s : State) (p q : Nat) (x : Queue) (ws : List W64) : State :=
  let idx := pktKey x
  let k : Packet := { idx := idx, words := ws, status := none, slot := slotAddr x x.start }
  let s := modQueue s p q (fun x => { x with start := (x.start + 1) % 2 ^ 32, pkts := mput idx k x.pkts, idle := s.gtime, asked := none })
  journalAdd s 0 p q idx

/-- Whether a queue lacks the privilege that a packet's type needs (R293). -/
def pkDenied (s : State) (p q : Nat) (ws : List W64) : Bool := pkPriv (pkType ws) && !(partOf s p).qpriv.getLsbD q

/-- A packet started: judged, and its effect begun (R294, R302). -/
def beginPacket (s : State) (p q : Nat) (x : Queue) (ws : List W64) : State :=
  let idx := pktKey x
  let s := openPacket s p q x ws
  if pkDenied s p q ws then endFailed s p q idx 3 5 0x11 (slotAddr x x.start)
  else if !pkHeadOk ws || !pkBodyOk ws then malformed s p q idx 5 (slotAddr x x.start)
  else packetEffect s p q idx ws

/-- A packet whose own read or store has failed as it began: it completes FAULT; after a DEPWAIT its queue stops (R336). -/
def failPacket (s : State) (p q : Nat) (x : Queue) (ws : List W64) (e : BitVec 8 × Nat) : State :=
  let idx := pktKey x
  let s := openPacket s p q x ws
  if pkType ws == 2 then stopQueue (endDepwait (deviceFault s p e idx q) p q idx 5) p q else pkFault s p q idx e

/-- The type that stands for a packet: an unlisted type goes with LAUNCH's. -/
def typeOf (ws : List W64) : Nat := if 2 ≤ pkType ws && pkType ws ≤ 11 then pkType ws else 1

/-- Since when a queue's next packet waits for a far home noted (R333, R336). -/
def askQueue (p q : Nat) (s : State) : State := modQueue s p q (fun x => { x with asked := some s.gtime })

/-- A packet read from its queue started, once what it reads and stores to need not wait (R291, R336). -/
def takePacket (s : State) (p q : Nat) (x : Queue) (ws : List W64) : State :=
  if pkHeadOk ws && pkBodyOk ws && !pkDenied s p q ws then
    let n := devMsg p q (pktKey x)
    match (readWaits s p n (packetReads s p ws)).or (waitHomes s p n (storeAddrs ws)) with
    | some t =>
      match timedWait s t ((readFar s p n (packetReads s p ws)).or (writeFar s p (storeAddrs ws))) x.asked (askQueue p q) with
      | .ok t => t
      | .error e => failPacket { s with ms := undelay s.ms n } p q x ws e
    | none => beginPacket (seenAll { s with ms := undelay s.ms n } p (packetReads s p ws)) p q x ws
  else beginPacket s p q x ws

/-- The next packet of a queue started, when it may start and is of a type (R291, R297); a packet that cannot be read
stops the queue (R336). -/
def startPacket (s : State) (p q ty : Nat) : State :=
  if !mayStart s p q then s
  else
    let x := queueOf s p q
    let a := slotAddr x x.start
    let n := devMsg p q (pktKey x)
    let stop : BitVec 8 × Nat → State := fun e => modQueue (stopQueue (deviceFault s p e x.start q) p q) p q (fun x => { x with asked := none })
    match readWaits s p n [(a, 64)], devWords s p a 8 with
    | some t, _ => match timedWait s t (readFar s p n [(a, 64)]) x.asked (askQueue p q) with
      | .ok t => t
      | .error e => stop e
    | none, .error e => stop e
    | none, .ok ws =>
      if typeOf ws != ty || !startNow s p q ws then s
      else takePacket (seenAll s p [(a, 64)]) p q x ws

/-! ## Completion (R298, R299) -/

/-- STATUS and DONE of a packet's header written, the rest of it left as it stands (R292, R298). -/
def putDone (s : State) (p : Nat) (k : Packet) : Except (BitVec 8 × Nat) State :=
  match devPut s p (k.slot + 5) 1 (k.status.getD 1) with
  | .error e => .error e
  | .ok s => devPut s p (k.slot + 1) 1 (128 + bits (dw k.words 0) 8 7)

/-- RD moved past the packets that have completed (R291). -/
def advanceRd : Nat → Queue → Queue
  | 0, x => x
  | n + 1, x =>
    let i := 2 ^ 32 * x.gen + x.rd
    match mfind i x.pkts with
    | some k => if k.written then advanceRd n { x with rd := (x.rd + 1) % 2 ^ 32, pkts := mdel i x.pkts } else x
    | none => x

/-- A queue after a packet has completed: RD moves; a packet of before the last write of QBASE leaves no trace (R291). -/
def pktDone (x : Queue) (k : Packet) : Queue :=
  if k.idx / 2 ^ 32 == x.gen then advanceRd 65536 { x with pkts := mput k.idx { k with written := true } x.pkts }
  else { x with pkts := mdel k.idx x.pkts }

/-- A completion whose own write waits: a far home that has not replied for 2 ms makes it fail, which stops the queue for STATUS and
DONE; a counter's decrement is not performed (R333, R336). -/
def waitComplete (s t : State) (p q : Nat) (k : Packet) : State :=
  let note : Option Nat → State → State := fun g s => modPkt s p q k.idx (fun k => { k with asked := g })
  match timedWait s t (writeFar s p ([k.slot, dw k.words 6, dw k.words 7].filter (· != 0))) k.asked (note (some s.gtime)) with
  | .ok t => t
  | .error e =>
    let s := note none { s with ms := undelay s.ms (devMsg p q k.idx) }
    if e.2 == k.slot then modPkt (stopQueue (deviceFault s p e k.idx q) p q) p q k.idx (fun k => { k with effect := false })
    else modPkt (deviceFault s p e k.idx q) p q k.idx (fun k => { k with words := k.words.zipIdx.map (fun w => if 6 ≤ w.2 && w.1.toNat == e.2 then 0 else w.1) })

/-- STATUS and DONE written, the packet's record with them, and the signals' counters decremented (R298 steps 2, 3, R370); a write
that fails stops the queue (R336). DEDUCED, log 67. -/
def completePacket (s : State) (p q : Nat) (k : Packet) : State :=
  match waitHomes s p (devMsg p q k.idx) ([k.slot, dw k.words 6, dw k.words 7].filter (· != 0)) with
  | some t => waitComplete s t p q k
  | none =>
    let s := { s with ms := undelay s.ms (devMsg p q k.idx) }
    match putDone s p k with
    | .error e => modPkt (stopQueue (deviceFault s p e k.idx q) p q) p q k.idx (fun k => { k with effect := false })
    | .ok s =>
      let s := match k.fail with
        | some f => faultRecord s p { kind := f.1, cause := f.2.1.toNat, action := some 0xFF, tval := f.2.2, index := k.idx, queue := q }
        | none => s
      let s := journalAdd s 2 p q k.idx
      let s := decrement s p q k.idx (dw k.words 6)
      let s := decrement s p q k.idx (dw k.words 7)
      let s := { s with launches := s.launches.filter (fun l => !(l.2.part == p && l.2.queue == q && l.2.idx == k.idx && l.2.ending)) }
      modQueue s p q (fun x => { pktDone x k with ready := s.gtime })

/-- What a started packet waits for, looked at again: an invalidation's acknowledgement, users of an old window, or the
words of a sealing packet (R163, R266, R360). -/
def packetWait (s : State) (p q : Nat) (k : Packet) : State :=
  match pkType k.words, k.wait with
  | 6, some n => if tldBefore s p n then s else endEffect s p q k.idx 1
  | 7, some n => if inFlightBefore s p n then s else endEffect s p q k.idx 1
  | 8, some n => if inFlightBefore s p n then s else sealAcked s p q k.idx k
  | 9, some n => if inFlightBefore s p n then s else sealAcked s p q k.idx k
  | 8, none => if k.note == 2 then startSeal s p q k.idx k.words false else s
  | 9, none => if k.note == 2 then startSeal s p q k.idx k.words true else s
  | _, _ => s

/-- Whether a packet's wait has ended. -/
def waitOver (s : State) (p : Nat) (k : Packet) : Bool :=
  match pkType k.words, k.wait with
  | 6, some n => !tldBefore s p n
  | 7, some n => !inFlightBefore s p n
  | 8, some n => !inFlightBefore s p n
  | 9, some n => !inFlightBefore s p n
  | 8, none => k.note == 2
  | 9, none => k.note == 2
  | _, _ => false

/-- The packet of a queue that completes next: the oldest whose effect has ended, else one whose wait is over. -/
def completing (s : State) (p q : Nat) : Option Packet :=
  let ks := (openPkts (queueOf s p q)).map (·.2)
  (ks.find? (·.effect)).or (ks.find? (fun k => !k.effect && waitOver s p k))

/-! ## Threads (R301, R302) -/

/-- A free thread of a die. -/
def freeThread (s : State) (die : Nat) : Option Nat := (upTo 32).find? (fun t => (mfind t (mget {} die s.dies).threads).isNone)

/-- The queue that binds next on a die: EN, unstarted packets, unbound, its doorbell the oldest (R301).
DEDUCED, log 27. -/
def nextToBind (s : State) (die : Nat) : Option (Nat × Nat) :=
  let all := s.parts.foldl (fun acc p => p.2.queues.foldl (fun acc q =>
    if p.2.en && q.2.en && q.2.die == die && q.2.thread.isNone && unstarted q.2 then acc ++ [(q.2.rung, p.1, q.1)] else acc) acc) []
  (all.foldl (fun acc a => match acc with | none => some a | some b => if a.1 < b.1 then some a else some b) (none : Option (Nat × Nat × Nat))).map (·.2)

/-- A queue bound to a thread of its die. DEDUCED, log 27. -/
def bindQueue (s : State) (die t p q : Nat) : State :=
  modQueue { s with dies := mmod {} die (fun d => { d with threads := mput t (p, q) d.threads }) s.dies } p q
    (fun x => { x with thread := some (32 * die + t), idle := s.gtime })

/-- A queue unbound. DEDUCED, log 27. -/
def unbindQueue (s : State) (p q : Nat) : State :=
  match (queueOf s p q).thread with
  | none => s
  | some t =>
    modQueue { s with dies := mmod {} (t / 32) (fun d => { d with threads := mdel (t % 32) d.threads }) s.dies } p q (fun x => { x with thread := none })

/-- The journal records of a die since its last checkpoint (R302). -/
def sinceCheckpoint (d : Die) : List JournalRec := d.journal.drop (d.journal.length - d.since)

/-- A queue as replay rebuilds it from the checkpoint and the records since (R302): its start index, its thread, and whether a
DEPWAIT stands registered. DEDUCED, log 27. -/
def replayQueue (d : Die) (p q : Nat) (x : Queue) : Queue :=
  let base : Queue := match d.marks.find? (fun m => m.part == p && m.queue == q && m.gen == x.gen) with
    | some m => { x with start := m.start, thread := m.thread }
    | none => { x with start := 0, thread := none }
  let y := (sinceCheckpoint d).foldl (fun y r =>
    if r.part == p && r.queue == q && r.idx / 2 ^ 32 == x.gen then
      { y with thread := r.thread, start := if r.kind == 0 then (r.idx % 2 ^ 32 + 1) % 2 ^ 32 else y.start }
    else y) base
  { y with blocked := x.pkts.any (fun k => pkType k.2.words == 2 && k.2.wait.isSome && !k.2.effect && !k.2.written) }

/-- A die's threads as its queues have them; a queue whose thread another has is left unbound (R302). DEDUCED, log 27. -/
def rebuildThreads (s : State) (die : Nat) : State :=
  let all := s.parts.foldl (fun (acc : SMap (Nat × Nat)) p => p.2.queues.foldl (fun acc q =>
    match q.2.thread with
    | some t => if t / 32 == die then mput (t % 32) (p.1, q.1) acc else acc
    | none => acc) acc) []
  let keeps : Nat → Nat → Queue → Bool := fun p q x => x.thread.all (fun t => t / 32 != die || mfind (t % 32) all == some (p, q))
  { s with dies := mmod {} die (fun d => { d with threads := all }) s.dies
           parts := s.parts.map (fun p => (p.1, { p.2 with queues := p.2.queues.map (fun q =>
             (q.1, if keeps p.1 q.1 q.2 then q.2 else { q.2 with thread := none })) })) }

/-- The queue processor's replay (R302): every queue of its die rebuilt, then the threads' bindings. DEDUCED, log 27. -/
def replay (s : State) (die : Nat) : State :=
  let d := mget {} die s.dies
  rebuildThreads { s with parts := s.parts.map (fun p => (p.1, { p.2 with queues := p.2.queues.map (fun q =>
    (q.1, if q.2.die == die then replayQueue d p.1 q.1 q.2 else q.2)) })) } die

end Sys2Proof.Machine
end

