-- ==== Sys2Proof/Machine/CfgRegs.lean ====
section
/-! DEFINITION. The configuration range: who reaches which register, what each reads, and what writing it does: queues,
partitions, apertures, inbound windows, time, mailbox, management and MSI-X (R14 to R16, R134, R264, R290, R291, R324,
R336, R342 to R356, R365, R366, R369). -/

namespace Sys2Proof.Machine

/-! ## Reach (R343, R363, R364) -/

/-- The partition block that holds an offset (R290, R342). -/
def blockPart (off : Nat) : Option Nat :=
  if 0x1000000 ≤ off && off < 0x2000000 then some ((off - 0x1000000) / 0x100000) else none

/-- The partition whose MSI-X table holds an offset (R342). -/
def msixPart (off : Nat) : Option Nat :=
  if 0x2000000 ≤ off && off < 0x2100000 then some ((off - 0x2000000) / 0x10000) else none

/-- Identity registers and the mailbox: all that recovery mode decodes (R364). -/
def recoveryReg (off : Nat) : Bool := decide (off < 0x100) || (decide (0x30000 ≤ off) && decide (off < 0x32000))

/-- Whether an agent reaches the register at an offset (R343): the host sees a running module, or recovery mode's
registers through function 0. -/
def cfgReach (s : State) (by_ : CfgAgent) (off : Nat) : Bool :=
  match by_ with
  | .system => true
  | .hostFn f =>
    match s.md.power with
    | .running => f == 0 || (decide (1 ≤ f) && (blockPart off == some (f - 1) || msixPart off == some (f - 1)))
    | .recovery => f == 0 && recoveryReg off
    | _ => false
  | .ctx c => blockPart off == some (ctxOf s c).part
  | .queueProc p => blockPart off == some p

/-! ## Reads -/

/-- A flag at a bit. -/
def flagAt (b : Bool) (n : Nat) : Nat := if b then 2 ^ n else 0

/-- Partition administration registers (R347). EN reads the switch in force, so a write of 1 that still awaits the stop reads 0.
DESIGN CHOICE, log 108. -/
def adminRead (s : State) (p o : Nat) : Nat :=
  let x := partOf s p
  match o with
  | 0x00 => flagAt x.en 63 + flagAt x.busy 62 + flagAt x.err 61 + flagAt x.stopped 60 + x.ddie
  | 0x08 => x.frames.toNat
  | 0x10 => x.root.toNat
  | 0x18 => x.qpriv.toNat % 2 ^ 64
  | 0x20 => x.qpriv.toNat / 2 ^ 64
  | _ => 0

/-- A queue's registers (R290). -/
def queueRead (s : State) (p q o : Nat) : Nat :=
  let x := queueOf s p q
  match o with
  | 0x00 => x.base.toNat
  | 0x08 => flagAt x.en 31 + flagAt ((partOf s p).qpriv.getLsbD q) 30 + 2 ^ 28 * x.die + 2 ^ 16 * x.log2sz + 2 ^ 8 * x.tenant
  | 0x10 => x.wr
  | 0x18 => x.rd
  | 0x20 => 2 ^ 8 * x.thread.getD 0 + flagAt x.qflt 3 + flagAt x.err 2 + flagAt x.blocked 1 + flagAt x.thread.isSome 0
  | _ => 0

/-- A format window's words as the partition registers give them (R264, R266). -/
def fwinRead (s : State) (p o : Nat) : Nat :=
  let w := mget {} (o / 32) (partOf s p).fwin
  match o % 32 with
  | 0 => w.base.toNat
  | 8 => w.fin.toNat
  | 16 => w.sbase.toNat
  | _ => w.ctl.toNat

/-- Partition registers (R324, R351). -/
def partRegRead (s : State) (p o : Nat) : Nat :=
  let x := partOf s p
  match o with
  | 0x4000 => x.starve
  | 0x4008 => x.tgang
  | 0x4010 => x.tcomp
  | 0x4018 => x.ppre
  | 0x4020 => x.tvec.toNat
  | 0x4028 => x.saveb.toNat
  | 0x4030 => x.savel
  | 0x4038 => x.fqbase.toNat
  | 0x4040 => flagAt x.fqen 31 + 2 ^ 16 * x.fqlog2 + x.fqvec
  | 0x4048 => x.fqwr
  | 0x4050 => x.fqrd
  | 0x4058 => 2 ^ 32 * x.vertag.toNat + flagAt x.inst 31 + x.installs.toNat
  | 0x4060 => flagAt x.inv 3 + flagAt x.pool 2 + flagAt x.lost 1 + flagAt x.ovr 0
  | 0x4068 => x.decn.toNat
  | 0x4070 => x.povrn.toNat
  | 0x4078 => x.plost.toNat
  | 0x40C0 => x.compv
  | 0x40C8 => x.lease
  | 0x40D0 => x.mrbase.toNat
  | 0x40D8 => x.mrcnt
  | 0x40E0 => x.epbase.toNat
  | 0x40E8 => x.epcnt
  | 0x40F0 => x.sealv
  | _ =>
    if 0x4080 ≤ o && o < 0x40C0 then (x.sw.getD ((o - 0x4080) / 8) 0).toNat
    else if 0x4100 ≤ o && o < 0x4300 then fwinRead s p (o - 0x4100)
    else 0

/-- The mailbox and start-status registers (R365). -/
def mailRead (s : State) (o : Nat) : Nat :=
  let m := s.md
  match o with
  | 0x00 => 2 ^ 32 * m.arg.toNat + m.cmd.toNat
  | 0x08 => flagAt m.busy 31 + m.result.toNat
  | 0x10 => m.mblen
  | 0x18 => 2 ^ 28 * m.always.fails + 2 ^ 24 * m.always.lastStage + 2 ^ 20 * m.stage + flagAt (m.power == .recovery) 16
            + flagAt m.warm 8 + m.code.toNat
  | _ => if 0x1000 ≤ o && o < 0x2000 then (upTo 8).foldr (fun k acc => (mget 0 (o - 0x1000 + k) m.buf).toNat + 256 * acc) 0 else 0

/-- The management registers (R366). -/
def mgmtRead (s : State) (o : Nat) : Nat :=
  let m := s.md
  match o with
  | 0x00 => m.pwrcap
  | 0x08 => m.pwrnow
  | 0x10 => m.temp
  | 0x18 => m.clk
  | 0x20 => flagAt m.trip 1 + flagAt (decide (m.clk < Config.clockNominal)) 0
  | 0x28 => m.cecnt.toNat
  | 0x30 => m.uecnt.toNat
  | 0x38 => m.sealcnt.toNat
  | 0x40 => s.ms.ccfail.toNat
  | _ => 0

/-- The global time registers (R356). -/
def timeRead (s : State) (o : Nat) : Nat :=
  match o with
  | 0x00 => s.gtime % 2 ^ 64
  | 0x08 => 2 ^ 32 * s.md.epoch.toNat + flagAt s.md.healthy 31 + flagAt s.md.master 30 + s.md.offs.toNat
  | _ => 0

/-- The aligned 8-byte register word at an offset (R16, R342): an unassigned address reads zero. -/
def cfgRead (s : State) (off : Nat) : W64 :=
  BitVec.ofNat 64 <|
    if off == 0x00 then 0x0D31 * 2 ^ 48 + 0x7240 * 2 ^ 32 + 2 ^ 16 * s.md.stepping.toNat + s.md.fwver.toNat
    else if off == 0x08 then s.md.modid
    else if 0x1000 ≤ off && off < 0x2000 then adminRead s ((off - 0x1000) / 0x100) (off % 0x100)
    else if 0x10000 ≤ off && off < 0x18000 then (mget 0 ((off - 0x10000) / 8) s.apertures).toNat
    else if 0x18000 ≤ off && off < 0x18100 then (mget 0 ((off - 0x18000) / 8) s.inbound).toNat
    else if 0x20000 ≤ off && off < 0x20100 then timeRead s (off - 0x20000)
    else if 0x30000 ≤ off && off < 0x32000 then mailRead s (off - 0x30000)
    else if 0x40000 ≤ off && off < 0x40100 then mgmtRead s (off - 0x40000)
    else
      match blockPart off, msixPart off with
      | some p, _ =>
        let o := off % 0x100000
        if o < 0x2000 then queueRead s p (o / 0x40) (o % 0x40) else partRegRead s p o
      | none, some p => (upTo 8).foldr (fun k acc => (msixByte s p (off % 0x10000 + k)).toNat + 256 * acc) 0
      | none, none => 0

/-! ## Writes of queue registers (R290, R291, R301, R336) -/

/-- Whether a QWR value would admit more packets than the queue holds (R291). -/
def wrBeyond (x : Queue) (v : Nat) : Bool := decide (2 ^ x.log2sz < ringDist v x.rd)

/-- QWR (R291): the doorbell admits packets, or is refused and sets ERR. DEDUCED, log 27. -/
def writeQwr (s : State) (p q v : Nat) : State :=
  let x := queueOf s p q
  if wrBeyond x v then modQueue s p q (fun x => { x with err := true })
  else bumpSeq (modQueue s p q (fun x => { x with wr := v, rung := if unstarted x then x.rung else s.seq, ready := if unstarted x then x.ready else s.gtime }))

/-- QBASE (R290): ignored while EN is 1. -/
def writeQbase (s : State) (p q : Nat) (v : W64) : State :=
  if (queueOf s p q).en then s
  else modQueue s p q (fun x => { x with base := BitVec.ofNat 64 (2 ^ 12 * bits v.toNat 12 43), rd := 0, wr := 0, start := 0, gen := x.gen + 1, waited := false })

/-- QCTL (R290): the size changes only while EN is 0 and within its range; a queue moved to another die leaves its
thread. DEDUCED, log 27. -/
def writeQctl (s : State) (p q : Nat) (v : W64) : State :=
  let n := v.toNat
  let die := bits n 28 2
  let sz := bits n 16 5
  let moved := (queueOf s p q).die != die
  let s := modQueue (if moved then unbindQueue s p q else s) p q (fun x => { x with
    en := bits n 31 1 == 1, die := die, tenant := bits n 8 4
    log2sz := if !x.en && decide (4 ≤ sz) && decide (sz ≤ 16) then sz else x.log2sz
    ready := if x.en then x.ready else s.gtime })
  if moved then checkpoint s die else s

/-- QSTAT (R290, R336): a 1 clears QFLT, which lets the queue start packets and retries a completion that failed, or
ERR. -/
def writeQstat (s : State) (p q : Nat) (ones : W64) : State :=
  let s := if ones.getLsbD 2 then modQueue s p q (fun x => { x with err := false }) else s
  if ones.getLsbD 3 then
    modQueue s p q (fun x => { x with qflt := false, ready := s.gtime, pkts := x.pkts.map (fun k =>
      if k.2.status.isSome && !k.2.written then (k.1, { k.2 with effect := true }) else k) })
  else s

/-- A queue's register written; `d` is the word after the write, `ones` the bits written as 1. -/
def queueWrite (s : State) (p q o : Nat) (d ones : W64) : State :=
  match o with
  | 0x00 => writeQbase s p q d
  | 0x08 => writeQctl s p q d
  | 0x10 => writeQwr s p q (bits d.toNat 0 32)
  | 0x20 => writeQstat s p q ones
  | _ => s

/-! ## Stopping, starting and moving frames (R321, R347 to R349) -/

/-- The queues of a partition unbound, and their blocked DEPWAITs completed KILLED (R349 step 1). -/
def stopQueues (s : State) (p : Nat) : State :=
  (partOf s p).queues.foldl (fun s q =>
    let s := unbindQueue s p q.1
    if q.2.blocked then
      q.2.pkts.foldl (fun s k => if pkType k.2.words == 2 && k.2.status.isNone then endDepwait s p q.1 k.1 4 else s) s
    else s) s

/-- COPYBs of a partition stopped at their chunk boundary, completed KILLED (R349 step 4). -/
def stopCopies (s : State) (p : Nat) : State :=
  s.ms.copies.foldl (fun s c => match c.2.who with
    | .packet pp q idx =>
      if pp == p then endEffect { s with ms := { s.ms with copies := mdel c.1 s.ms.copies } } p q idx 4 else s
    | .ctx _ => s) s

/-- Every launch of a partition killed (R330, R349 step 3). -/
def stopLaunches (s : State) (p : Nat) : State :=
  let mine := s.launches.filter (fun (l : Nat × Launch) => l.2.part == p && !l.2.ending)
  pumpAll (mine.foldl (fun s l => killLaunch s l.1) s)

/-- PACTL.EN written from 1 to 0 (R349); a start still waited for is called off. -/
def stopPartition (s : State) (p : Nat) : State :=
  if !(partOf s p).en then modPart s p (fun x => { x with enWanted := false })
  else
    let s := modPart s p (fun x => { x with en := false, enWanted := false, stopped := false, decisions := [], reserve := none,
                                            retryAt := [], poolRetry := [], writeRetry := [] })
    stopCopies (stopLaunches (stopQueues s p) p) p

/-- A partition that starts: its queues' packets can start from now on (R302, R349). -/
def enabled (now : Nat) (x : Partition) : Partition :=
  { x with en := true, stopped := false, queues := x.queues.map (fun q => (q.1, { q.2 with ready := now })) }

/-- PACTL.EN written as 1 (R349): at once where the partition is stopped, else once it is. -/
def startPartition (s : State) (p : Nat) : State :=
  let x := partOf s p
  if x.en then s
  else if x.stopped then modPart s p (enabled s.gtime)
  else modPart s p (fun x => { x with enWanted := true })

/-- Whether every effect of a stop has ended (R349). -/
def stopEnded (s : State) (p : Nat) : Bool :=
  let x := partOf s p
  !x.en && !x.stopped && x.queues.all (fun q => (openPkts q.2).isEmpty)
    && s.ctxs.all (fun c => c.2.part != p || c.2.phase == .free)
    && s.launches.all (fun l => l.2.part != p)

/-- A frame that a PFRAMES write names belongs to another partition, or is on its way to one (R348). -/
def frameTaken (s : State) (p f : Nat) : Bool :=
  let x := mget {} f s.frames
  x.owner.any (· != p) || x.joins.any (· != p)

/-- One frame as a PFRAMES write leaves it (R348): reassignment begins, or it joins at once or after its scrub. -/
def moveFrame (s : State) (p f : Nat) (want : Bool) : State :=
  let x := mget {} f s.frames
  let put : Frame → State := fun y => { s with frames := mput f y s.frames }
  if want then
    if x.scrub then put { x with joins := some p }
    else if x.owner == some p then s
    else put { x with owner := some p }
  else if x.owner == some p then
    let s := put { x with scrub := true, joins := none }
    (frameCtxs s f).foldl (fun s c => requestPreempt s c.1 true) s
  else if x.joins == some p then put { x with joins := none }
  else s

/-- PFRAMES written (R348): refused whole, or its frames begin to move. -/
def writePframes (s : State) (p : Nat) (v : W64) : State :=
  if (upTo 64).any (fun f => v.getLsbD f && frameTaken s p f) then modPart s p (fun x => { x with err := true })
  else
    let s := modPart s p (fun x => { x with frames := v, busy := true })
    let s := (upTo 64).foldl (fun s f => moveFrame s p f (v.getLsbD f)) s
    requestDispatch (reviseReservation (settleFrames s p) p) p

/-- Administration registers written; `mask` holds the bits of the written bytes. DEDUCED, log 33. -/
def adminWrite (s : State) (p o : Nat) (d ones mask : W64) : State :=
  match o with
  | 0x00 =>
    let s := if ones.getLsbD 61 then modPart s p (fun x => { x with err := false }) else s
    if !mask.getLsbD 63 then s
    else if d.getLsbD 63 then startPartition s p
    else stopPartition s p
  | 0x08 => writePframes s p d
  | 0x10 => modPart s p (fun x => { x with root := BitVec.ofNat 64 (2 ^ 16 * bits d.toNat 16 36) })
  | 0x18 => modPart s p (fun x => { x with qpriv := BitVec.ofNat 128 (2 ^ 64 * (x.qpriv.toNat / 2 ^ 64) + d.toNat) })
  | 0x20 => modPart s p (fun x => { x with qpriv := BitVec.ofNat 128 (2 ^ 64 * d.toNat + x.qpriv.toNat % 2 ^ 64) })
  | _ => s

/-! ## Partition registers written (R319, R324, R351) -/

/-- A value clamped to a range. -/
def clampTo (n lo hi : Nat) : Nat := max lo (min n hi)

/-- A write of PSAVEB or PSAVEL lets pre-emptions whose record could not be written be retried (R336). -/
def poolWritten (x : Partition) : Partition :=
  { x with poolRetry := x.writeRetry.foldl (fun l c => sinsert c l) x.poolRetry, writeRetry := [], poolFreed := true }

/-- Partition registers written. -/
def partRegWrite (s : State) (p o : Nat) (d ones : W64) : State :=
  let n := d.toNat
  let at_ : Nat → Nat → W64 := fun lo w => BitVec.ofNat 64 (bits n lo w * 2 ^ lo)
  modPart s p (fun x => match o with
    | 0x4000 => { x with starve := clampTo (bits n 0 17) 1000 100000 }
    | 0x4008 => { x with tgang := clampTo (bits n 0 20) 100 100000 }
    | 0x4010 => { x with tcomp := clampTo (bits n 0 20) 1000 100000 }
    | 0x4018 => { x with ppre := if bits n 0 20 == 0 then 0 else clampTo (bits n 0 20) 100 100000 }
    | 0x4020 => { x with tvec := at_ 5 50 }
    | 0x4028 => poolWritten { x with saveb := at_ 16 39 }
    | 0x4030 => poolWritten { x with savel := bits n 0 16 }
    | 0x4038 => { x with fqbase := at_ 12 43 }
    | 0x4040 => { x with fqen := bits n 31 1 == 1, fqvec := bits n 0 11,
                         fqlog2 := if 4 ≤ bits n 16 5 && bits n 16 5 ≤ 16 then bits n 16 5 else x.fqlog2 }
    | 0x4050 => { x with fqrd := bits n 0 32 }
    | 0x4060 => { x with inv := x.inv && !ones.getLsbD 3, pool := x.pool && !ones.getLsbD 2,
                         lost := x.lost && !ones.getLsbD 1, ovr := x.ovr && !ones.getLsbD 0 }
    | 0x40C0 => { x with compv := bits n 0 11 }
    | 0x40C8 => { x with lease := clampTo (bits n 0 10) 2 1000 }
    | 0x40D0 => { x with mrbase := at_ 6 49 }
    | 0x40D8 => { x with mrcnt := bits n 0 16 }
    | 0x40E0 => { x with epbase := at_ 6 49 }
    | 0x40E8 => { x with epcnt := bits n 0 16 }
    | _ => x)

/-! ## Mailbox, management, identity (R344, R356, R365, R366, R369) -/

/-- MBCMD written (R365): ignored while a command runs; a nonzero CMD starts one. An unknown one ends at once with RESULT 4, a
RESET with an ARG it does not know with RESULT 1. A command that has ended is pending with 0x100 + its RESULT. -/
def writeMbcmd (s : State) (d mask : W64) : State :=
  if s.md.busy then s
  else
    let cmd := bits d.toNat 0 8
    let m := { s.md with arg := BitVec.ofNat 32 (bits d.toNat 32 32), cmd := BitVec.ofNat 8 cmd }
    if !mask.getLsbD 0 || cmd == 0 then { s with md := m }
    else { s with md := { m with busy := true, pending := if 5 < cmd then 0x104 else if cmd == 5 && decide (2 < bits d.toNat 32 32) then 0x101 else cmd } }

/-- Eight bytes of the mailbox buffer written. -/
def writeBuf (s : State) (o : Nat) (d : W64) : State :=
  { s with md := { s.md with buf := (upTo 8).foldl (fun m k => mput (o + k) (d.extractLsb' (8 * k) 8) m) s.md.buf } }

/-- Mailbox registers written; a length above 4,096 is kept. DESIGN CHOICE, log 115. -/
def mailWrite (s : State) (o : Nat) (d mask : W64) : State :=
  if o == 0 then writeMbcmd s d mask
  else if o == 0x10 then { s with md := { s.md with mblen := bits d.toNat 0 13 } }
  else if 0x1000 ≤ o && o < 0x2000 then writeBuf s (o - 0x1000) d
  else s

/-- Whether power or temperature asks for a lower clock (R367). DEDUCED, log 61. -/
def isHot (m : Mod) : Bool := decide (m.pwrcap < m.pwrnow) || decide (100 ≤ m.temp)

/-- Since when both conditions of R367 have been clear. DEDUCED, log 61. -/
def noteClear (s : State) (m : Mod) : Mod :=
  { m with clearSince := if isHot m then none else match m.clearSince with | some t => some t | none => some s.gtime }

/-- Management registers written (R366, R367, R369). -/
def mgmtWrite (s : State) (o : Nat) (d : W64) : State :=
  let m := s.md
  match o with
  | 0x00 => { s with md := noteClear s { m with pwrcap := clampTo (bits d.toNat 0 12) 600 2800 } }
  | 0x28 => { s with md := { m with cecnt := d } }
  | 0x30 => { s with md := { m with uecnt := d } }
  | 0x38 => { s with md := { m with sealcnt := d.truncate 32 } }
  | 0x40 => { s with ms := { s.ms with ccfail := d } }
  | _ => s

/-! ## Apertures, windows and MSI-X (R351, R353, R354) -/

/-- The assigned bits of an aperture entry (R353), and of the two words of an inbound window (R354). -/
def apertureMask : W64 := 0xC000FFFFFFF01FFF
def inboundMask (second : Bool) : W64 := if second then 0x000FFFFFFFFFF000 else 0xC00FFFFFFFFFF000

/-- A byte of an MSI-X table written in the layout PCI Express defines; the pending bits are read-only. An entry
unmasked while pending sends its message. PRESUMED, log 32. -/
def msixPut (s : State) (p o : Nat) (b : Byte) : State :=
  if 0x8000 ≤ o then s
  else
    let v : Byte := match o % 16 with
      | 0 => b &&& 0xFC
      | 12 => b &&& 1
      | 13 => 0
      | 14 => 0
      | 15 => 0
      | _ => b
    let s := { s with msix := mput (65536 * p + o) v s.msix }
    let vec := o / 16
    let k := 0x8000 + vec / 8
    if o % 16 == 12 && v == 0 && (msixByte s p k).getLsbD (vec % 8) then
      raiseIrq { s with msix := mput (65536 * p + k) (msixByte s p k &&& ~~~(BitVec.ofNat 8 (2 ^ (vec % 8)))) s.msix } p vec
    else s

/-- Bytes of an MSI-X table written. PRESUMED, log 32. -/
def msixWrite (s : State) (p o : Nat) (d mask : W64) : State :=
  (upTo 8).foldl (fun s k => if mask.getLsbD (8 * k) then msixPut s p (o + k) (d.extractLsb' (8 * k) 8) else s) s

/-! ## A write -/

/-- The register word at an offset written: `d` is the word after the write, `ones` the bits written as 1, `mask` the bits
of the written bytes (R14, R342). DEDUCED, log 33. -/
def cfgPut (s : State) (off : Nat) (d ones mask : W64) : State :=
  if off == 0x08 then
    if (upTo 16).any (fun p => (partOf s p).en) then s else { s with md := { s.md with modid := bits d.toNat 0 12 } }
  else if 0x1000 ≤ off && off < 0x2000 then adminWrite s ((off - 0x1000) / 0x100) (off % 0x100) d ones mask
  else if 0x10000 ≤ off && off < 0x18000 then { s with apertures := mput ((off - 0x10000) / 8) (d &&& apertureMask) s.apertures }
  else if 0x18000 ≤ off && off < 0x18100 then
    { s with inbound := mput ((off - 0x18000) / 8) (d &&& inboundMask (off / 8 % 2 == 1)) s.inbound }
  else if off == 0x20008 then { s with md := { s.md with master := d.getLsbD 30 } }
  else if 0x30000 ≤ off && off < 0x32000 then mailWrite s (off - 0x30000) d mask
  else if 0x40000 ≤ off && off < 0x40100 then mgmtWrite s (off - 0x40000) d
  else
    match blockPart off, msixPart off with
    | some p, _ =>
      let o := off % 0x100000
      if o < 0x2000 then queueWrite s p (o / 0x40) (o % 0x40) d ones else partRegWrite s p o d ones
    | none, some p => msixWrite s p (off % 0x10000) d mask
    | none, none => s

/-- `n` bytes written at an offset, within an aligned word. DEDUCED, log 33. -/
def cfgWrite (s : State) (off n : Nat) (v : Nat) : State :=
  let sh := 8 * (off % 8)
  let mask : W64 := BitVec.ofNat 64 ((2 ^ (8 * n) - 1) * 2 ^ sh)
  let ones : W64 := BitVec.ofNat 64 (v % 2 ^ (8 * n) * 2 ^ sh) &&& mask
  let o := off / 8 * 8
  cfgPut s o ((cfgRead s o &&& ~~~mask) ||| ones) ones mask

/-- Whether an access is one a register takes: 4 or 8 bytes, naturally aligned (R134). DEDUCED, log 33. -/
def cfgShape (off n : Nat) : Bool := (n == 4 || n == 8) && off % n == 0

end Sys2Proof.Machine
end

