-- ==== Sys2Proof/Machine/MemEvents.lean ====
section
/-! DEFINITION. The memory system's steps: replies of loads, registrations and reads at home slices, echoes,
acknowledgements, atomics, watches, walks, copy chunks, barrier channels, on-chip windows, and requests that get no reply
(R130 to R132, R138 to R146, R156 to R162, R219 to R231, R235, R244, R252, R253, R333). Each step has its condition; where
it does not hold, nothing happens. -/

namespace Sys2Proof.Machine

/-! ## Words at their homes, for loads (R130, R132, R137, R140, R143, R159, R161) -/

/-- The nominal latency of a reply by its source (R218). DEDUCED, log 15. -/
def placeLat (s : State) (comb : Nat) (pl : Place) : Nat :=
  match pl with
  | .home pa =>
    if (setWord (mget [] (hiveSet (pa / 512)) s.ms.hives) (pa / 512) (pa / 8 % 64)).isSome then
      (if homeDie pa == dieOf comb then 60 else 140)
    else if pa < Config.hbmBytes then 400 else 600
  | .window c _ => if c == comb then 12 else if dieOf c == dieOf comb then 40 else 120
  | .cfg _ => 200
  | .remote .. => 1500
  | .hostMem _ => 1500

/-- A word and its poison obtained for a load, with the reply's time. -/
def gotWord (s : State) (n : Nat) (r : LoadReq) (w : Nat) (pl : Place) (v : W64 × Bool) : State :=
  let due := max r.due (s.cycles + placeLat s r.comb pl + tileCc (ctxOf s r.ctx).k r.kind)
  { s with ms := { s.ms with loads := mput n { r with got := mput w v r.got, due := due } s.ms.loads } }

/-- Whether a page's mode is leased and the lease for it has yet to be asked for (R161, R162). -/
def wantsLease (s : State) (r : LoadReq) (lp : LPiece) : Bool := lp.mode == 2 && s.md.healthy && r.lease == 0

/-- A proxy copy that may serve a load's word: of leased data only where the load keeps to one region, whose lease is then the
load's (R137, R161). -/
def proxyFor (s : State) (r : LoadReq) (lp : LPiece) (w : Nat) : Option (W64 × Bool × Nat × Nat) :=
  if lp.mode == 2 && r.pieces.any (fun p => p.mode == 2 && p.pa / 512 != w / 64) then none else proxyWord s r.comb lp w

/-- A word of another module for a load: of the slice's proxy copy, else of its home there, its lease granted first (R137, R161,
R353); unchanged while no port is live, or while a write is delayed there. -/
def fetchRemote (s : State) (n : Nat) (r : LoadReq) (lp : LPiece) (w md a : Nat) : State :=
  match proxyFor s r lp w with
  | some (d, poison, lease, epoch) =>
    let r := if lp.mode == 2 && r.lease == 0 then { r with lease := lease, epoch := epoch } else r
    gotWord s n r w (.home (homeDie 0)) (d, poison)
  | none =>
    if wantsLease s r lp || !linkUp s || delayedAt s (remoteTag (remoteKey md a)) then s
    else
      let v := remoteWord s.ms (remoteKey md a)
      gotWord { s with ms := proxyFill s r lp w v } n r w (.remote md a) v

/-- A word of a load read at its home, on its module, from the host, or from a register; unchanged while it must wait.
`must` marks an accessed word; a word that a span hint or the predictor adds is left out where it must wait. -/
def fetchWordFor (s : State) (n : Nat) (lp : LPiece) (must : Bool) (w : Nat) : State :=
  match mfind n s.ms.loads with
  | none => s
  | some r =>
    match placeOfPa s (ctxOf s r.ctx).part (8 * w) with
    | some (.home pa) =>
      if readBusy s w then (if must && hostOwns s.ms w then snoopWords s [w] else s)
      else
        let t := takeHome s.ms w
        let m := if lp.mode == 3 then t.2 else hiveFill t.2 (w / 64) (w % 64) (w % 64)
        gotWord { s with ms := m } n r w (.home pa) t.1
    | some (.remote md a) => fetchRemote s n r lp w md a
    | some (.hostMem a) => gotWord s n r w (.hostMem a) (remoteWord s.ms (remoteKey 4096 a))
    | some (.cfg o) => gotWord s n r w (.cfg o) (cfgRead s o, false)
    | some (.window ..) => s
    | none => s

/-- The first piece of a load in a word's region. -/
def regionPiece (r : LoadReq) (region : Nat) : Option LPiece := r.pieces.find? (fun p => !p.scratch && p.pa / 512 == region)

/-- The address of a load's block (R138). -/
def siteOf (s : State) (r : LoadReq) : W64 := match blockOf (ctxOf s r.ctx) r.tag with | some b => b.addr | none => 0

/-- Whether a load asks for a word of a region beside those it lacks: one its span hint or the predictor adds (R138). -/
def asksMore (s : State) (r : LoadReq) (lp : LPiece) (w : Nat) : Bool :=
  allocates s r lp && (isLocal lp.pa || lp.mode != 0) && spanAsks s r (siteOf s r) (w / 64) (w % 64)
    && (mfind w r.got).isNone && (combWord s.ms r.comb w).isNone

/-- Words lo to hi of one region read for a load: those it still lacks, and those its span brings. -/
def readSpan (s : State) (n : Nat) (r : LoadReq) (lo hi : Nat) : State :=
  match regionPiece r (lo / 64) with
  | none => s
  | some lp =>
    let need := missingWords s r
    ((rangeFrom lo (hi + 1 - lo)).filter (fun w => w / 64 == lo / 64 && (need.contains w || asksMore s r lp w))).foldl
      (fun s w => fetchWordFor s n lp (need.contains w) w) s

/-- HOME_READ (R137, R140, R143): words lo to hi of a region are read for a load at their homes. From here the reply is awaited
(R333). -/
def execHomeRead (n lo hi : Nat) (s : State) : Out :=
  match mfind n s.ms.loads with
  | none => .next s
  | some r =>
    if r.armed.isSome || loadWaits s r then .next s
    else
      let r := { r with asked := r.asked.or (some s.gtime) }
      .next (readSpan { s with ms := { s.ms with loads := mput n r s.ms.loads } } n r lo hi)

/-- The first and last word that a load asks of its homes next: of one region, the words it lacks and those its span brings
(R138). -/
def nextRead (s : State) (r : LoadReq) : Option (Nat × Nat) :=
  match (missingWords s r).filter (fun w => !isWindow (8 * w)) with
  | [] => none
  | w :: rest =>
    let base := 64 * (w / 64)
    let more := match regionPiece r (w / 64) with
      | some lp => (rangeFrom base 64).filter (asksMore s r lp)
      | none => []
    let mine := w :: (rest.filter (fun v => v / 64 == w / 64) ++ more)
    some (mine.foldl min w, mine.foldl max w)

/-- Whether a read of a word for a load would be answered now. -/
def readable (s : State) (r : LoadReq) (w : Nat) : Bool :=
  match placeOfPa s (ctxOf s r.ctx).part (8 * w) with
  | some (.home _) => !readBusy s w
  | some (.remote md a) =>
    (regionPiece r (w / 64)).any (fun lp => (proxyFor s r lp w).isSome
      || (!wantsLease s r lp && linkUp s && !delayedAt s (remoteTag (remoteKey md a))))
  | some (.window ..) => false
  | some _ => true
  | none => false

/-! ## Leases (R161, R162) -/

/-- The bytes of other modules, by their keys, whose leases a load asks for (R161). -/
def leaseKeys (s : State) (r : LoadReq) : List Nat :=
  r.pieces.filterMap (fun p =>
    if p.mode == 2 then (match placeOfPa s (ctxOf s r.ctx).part p.pa with | some (.remote md a) => some (remoteKey md a) | _ => none) else none)

/-- LEASE_REQUEST (R161): a load of leased-remote data has its lease granted by the home module, no write being delayed there; the
holder uses it until its own time passes the request's plus L. -/
def execLeaseRequest (n : Nat) (s : State) : Out :=
  match mfind n s.ms.loads with
  | none => .next s
  | some r =>
    let need := missingWords s r
    let asks := r.pieces.any (fun p => wantsLease s r p && need.contains (p.pa / 8) && (proxyFor s r p (p.pa / 8)).isNone)
    let keys := leaseKeys s r
    if asks && linkUp s && !loadWaits s r && !keys.any (fun k => delayedAt s (remoteTag k)) then
      let q := { r with lease := s.gtime + leaseLength s.fresh, epoch := s.md.epoch.toNat, asked := r.asked.or (some s.gtime) }
      let m := keys.foldl (fun m k => holdLease m k q.lease) s.ms
      .next (bumpFresh { s with ms := { m with loads := mput n q m.loads } })
    else .next s

/-! ## Replies (R140, R219 to R223, R230, R231, R235, R268) -/

/-- Bytes of a lane of a gather, extended to 32 bits (R223). -/
def gatherLane (d n : Nat) (sgn : Bool) (k : Nat) : Word :=
  let v : W64 := BitVec.ofNat 64 (bits d (64 * k) (8 * n))
  (if sgn then sext v (8 * n) else v).truncate 32

/-- A load's token from its data (R219, R222, R223, R235, R268). -/
def loadTok (k : LoadKind) (d : Nat) : Token :=
  match k with
  | .scalar n sgn _ => .s (if sgn then sext (BitVec.ofNat 64 (d % 2 ^ (8 * n))) (8 * n) else BitVec.ofNat 64 (d % 2 ^ (8 * n)))
  | .vec m => .v (BitVec.ofNat 512 d) m
  | .gather n sgn m => .v (mkLanes (fun k => if m.getLsbD k then gatherLane d n sgn k else 0)) m
  | .tile .. => .s 0
  | .watch .. => .s 0
  | .span _ => .s 0

/-- The tensor cells a TLD fills (R268). -/
def tldCells (x : Ctx) (bc : Bool) (cell : Nat) : List Nat := if bc then upTo (4 * x.k) else [cell]

/-- The staging copies of a TLD whose bytes have arrived; performed again after an acquire, a difference discards its
block (R145, R268). -/
def endTile (s : State) (n : Nat) (r : LoadReq) (u : TBuf) (cells : List Nat) (buf : Nat) : State :=
  let x := ctxOf s r.ctx
  let was := (blockOf x r.tag).bind (fun b => cells.head?.bind (fun t => mfind (16 * t + buf) b.staging))
  if r.recheck.isSome && was != some u then
    discardAt { s with ms := { s.ms with loads := mdel n s.ms.loads } } r.ctx r.tag
  else endLoad (cells.foldl (fun s t => stage s r.ctx r.tag t buf u) s) n r (.s 0)

/-- The words a load has accessed in its comb's cache count as used (R139). -/
def usedWords (s : State) (r : LoadReq) : State :=
  { s with ms := r.pieces.foldl (fun m p => if p.scratch || p.mode == 3 then m else combUsed m r.comb (p.pa / 8)) s.ms }

/-- A load whose words are all there ends (R140, R145, R221): a fill that finds no room waits. -/
def dataReply (s : State) (n : Nat) (r : LoadReq) : State :=
  match loadData s r with
  | none => s
  | some (_, some a) => failLoad s n r 0x0F a
  | some (d, none) =>
    let resident : Nat → Bool := fun region => (mget [] (combSet r.comb region) s.ms.caches).any (fun sp => sp.region == region)
    match fillAll s r with
    | none => s
    | some s =>
      let x := ctxOf s r.ctx
      let s := modComb (usedWords s r) r.comb (fun k => learnSpan k (siteOf s r) r resident)
      match r.kind with
      | .tile f sc tr bc cell buf scales => endTile s n r (tileOfBytes f sc tr d scales) (tldCells x bc cell) buf
      | .scalar _ _ true =>
        let first := r.recheck.isNone
        let s := endLoad s n r (loadTok r.kind d)
        if first then acquire s r.ctx (some r.tag) (r.lsid + 1) else s
      | k => endLoad s n r (loadTok k d)

/-- SPAN ends once its words are present, in the comb cache or in the home slice (R235); a poisoned word it has read traps
(R339). DEDUCED, log 20. -/
def spanReply (s : State) (n : Nat) (r : LoadReq) (hive : Bool) : State :=
  if hive then
    match r.pieces, r.pieces.find? (fun p => (homeWord s.ms (p.pa / 8)).2) with
    | [], _ => endLoad s n r (.s 0)
    | p :: rest, bad =>
      let last := rest.foldl (fun a q => max a (q.pa / 8 % 64)) (p.pa / 8 % 64)
      let s := { s with ms := hiveFill s.ms (p.pa / 512) (p.pa / 8 % 64) last }
      match bad with
      | some q => failLoad s n r 0x0F (BitVec.ofNat 64 q.va)
      | none => endLoad s n r (.s 0)
  else if !(missingWords s r).isEmpty then s
  else
    match loadData s r, fillAll s r with
    | some (_, some a), _ => failLoad s n r 0x0F a
    | some (_, none), some s => endLoad s n r (.s 0)
    | _, _ => s

/-- The value of a watched piece: of its home, or of another module (R231). -/
def watchValue (s : State) (r : LoadReq) (p : LPiece) : W64 × Bool :=
  let cut : W64 → W64 := fun v => BitVec.ofNat 64 (bits v.toNat (8 * (p.pa % 8)) (8 * p.n))
  match placeOfPa s (ctxOf s r.ctx).part p.pa with
  | some (.home pa) => let v := coherentWord s.ms (pa / 8); (cut v.1, v.2)
  | some (.remote md a) => let v := remoteWord s.ms (remoteKey md a); (cut v.1, v.2)
  | some (.hostMem a) => let v := remoteWord s.ms (remoteKey 4096 a); (cut v.1, v.2)
  | _ => (0, false)

/-- Whether a watched word lies on another module while no port is live or a write is delayed there (R161, R353). -/
def watchCut (s : State) (r : LoadReq) (p : LPiece) : Bool :=
  match placeOfPa s (ctxOf s r.ctx).part p.pa with
  | some (.remote md a) => !linkUp s || delayedAt s (remoteTag (remoteKey md a))
  | _ => false

/-- The watch table of a piece: its home slice's, or its module's. -/
def watchTable (s : State) (r : LoadReq) (p : LPiece) : Nat :=
  match placeOfPa s (ctxOf s r.ctx).part p.pa with
  | some (.home pa) => homeSlice pa
  | some (.remote md _) => 2 ^ 20 + md
  | _ => 2 ^ 21

/-- The word a watch entry is keyed by; words of other modules lie above every word of this one. -/
def watchKey (p : LPiece) : Nat := if isLocal p.pa then p.pa / 8 else 2 ^ 60 + p.pa / 8

/-- A WATCH arms its entry, or finds the table full (R231 step 3). -/
def armWatch (s : State) (n : Nat) (r : LoadReq) (p : LPiece) (wid : Wid2) (v : W64) : State :=
  let slice := watchTable s r p
  if Config.watchEntries ≤ (s.ms.watches.filter (fun w => w.2.slice == slice)).length then endLoad s n r (watchTok wid v 1)
  else
    let e : Watch := { req := n, slice := slice, word := watchKey p, since := s.gtime }
    let m := { s.ms with watches := mput s.seq e s.ms.watches, loads := mput n { r with armed := some s.seq } s.ms.loads }
    bumpSeq { s with ms := m }

/-- A value WATCH has read: it meets the condition, evaluates once on a sealed page, or arms (R230, R231). -/
def watchSeen (s : State) (n : Nat) (r : LoadReq) (p : LPiece) (c : WatchCond) (wid : Wid2) (cmp : W64) (v : W64 × Bool) : State :=
  if v.2 then failLoad s n r 0x0F (BitVec.ofNat 64 p.va)
  else if watchHolds c wid v.1 cmp then endLoad s n r (watchTok wid v.1 0)
  else if p.mode == 1 then endLoad s n r (watchTok wid v.1 2)
  else armWatch s n r p wid v.1

/-- The owned word of a context's comb that WATCH reads, its pending value included (R231 step 2). -/
def ownWord (s : State) (r : LoadReq) (p : LPiece) : Option CWord :=
  if !isLocal p.pa || p.mode == 3 then none
  else (membersOf r.ctx (ctxOf s r.ctx).k).findSome? (fun b => (combWord s.ms b (p.pa / 8)).bind (fun w => if w.owned then some w else none))

/-- WATCH evaluates its word (R231 steps 1 to 3); it waits while another context's release withholds it (R146). -/
def watchReply (s : State) (n : Nat) (r : LoadReq) (p : LPiece) (c : WatchCond) (wid : Wid2) (cmp : W64) : State :=
  let x := ctxOf s r.ctx
  let o := overlay s r.ctx x (earlierStores x r.tag r.lsid) p 0
  if o.2 == 2 ^ p.n - 1 then
    let v : W64 := BitVec.ofNat 64 o.1
    endLoad s n r (watchTok wid v (if watchHolds c wid v cmp then 0 else 2))
  else if o.2 != 0 then s
  else
    match ownWord s r p with
    | some w =>
      if w.pend.any (fun k => !ownRelease x k) then s
      else if w.valid.toNat &&& pieceMask p == pieceMask p then
        watchSeen s n r p c wid cmp (BitVec.ofNat 64 (bits w.data.toNat (8 * (p.pa % 8)) (8 * p.n)), w.poison)
      else s
    | none =>
      if watchCut s r p then s
      else if isLocal p.pa && readBusy s (p.pa / 8) then (if hostOwns s.ms (p.pa / 8) then snoopWords s [p.pa / 8] else s)
      else watchSeen { s with ms := if isLocal p.pa then (takeHome s.ms (p.pa / 8)).2 else s.ms } n r p c wid cmp (watchValue s r p)

/-- LOAD_REPLY (R140): a load-class access whose words are present, and which nothing holds, performs. -/
def execLoadReply (n : Nat) (s : State) : Out :=
  match mfind n s.ms.loads with
  | none => .next s
  | some r =>
    let s := advance s (r.due - s.cycles)
    if r.armed.isSome || loadWaits s r then .next s
    else
      match r.kind, r.pieces with
      | .watch c wid cmp, p :: _ => .next (watchReply s n r p c wid cmp)
      | .span hive, _ => .next (spanReply s n r hive)
      | _, _ => .next (dataReply s n r)

/-- WATCH_EXPIRED (R231 step 5): an entry armed for 1 ms completes with the word's value. DEDUCED, log 62. -/
def execWatchExpired (n : Nat) (s : State) : Out :=
  match mfind n s.ms.watches with
  | none => .next s
  | some e =>
    match mfind e.req s.ms.loads with
    | none => .next { s with ms := { s.ms with watches := mdel n s.ms.watches } }
    | some r =>
      match r.kind, r.pieces with
      | .watch _ wid _, p :: _ =>
        if s.gtime < e.since + Config.watchNs then .next s
        else
          let v := watchValue s r p
          let s1 := { s with ms := { s.ms with watches := mdel n s.ms.watches } }
          .next (if v.2 then failLoad s1 e.req r 0x0F (BitVec.ofNat 64 p.va) else endWatch s n e.req r (watchTok wid v.1 2))
      | _, _ => .next s

/-! ## Registrations (R139, R143, R146, R161, R346) -/

/-- Whether an earlier registration of the same word by the same comb or context is still on its way. DEDUCED, log 16. -/
def regBehind (s : State) (n : Nat) (r : Reg) : Bool :=
  s.ms.regs.any (fun p => decide (p.1 < n) && p.2.word == r.word && (p.2.comb == r.comb || p.2.ctx == r.ctx))

/-- A word that a context has written at its home fetched afresh by its swarm: its copies and the slices' are older (R142, R143,
R161, R228). -/
def freshen (s : State) (c w : Nat) : State :=
  forgetWord { s with ms := proxyDrop (dropCopies s.ms (membersOf c (ctxOf s c).k) w) w } c w

/-- A comb recorded as a word's owner in place of its data and of any other owner, the bytes it did not write brought to it
(R137, R139, R143). -/
def recordOwner (m : MemSys) (comb w : Nat) (c : CWord) : MemSys :=
  let m := if recorded m comb w then m else revokeWord m w
  let old := homeWord m w
  let part := c.valid != 0xFF
  let m := updComb m comb w (fun y =>
    { y with data := if part then mergeBytes old.1 y.data y.valid else y.data, valid := 0xFF, part := false
             poison := y.poison || ((part || c.part) && old.2) })
  hiveDrop { m with owners := mput w (.comb comb) m.owners } w

/-- A registration performed at its home slice (R143): data kept there, or the comb recorded if it still owns the word. -/
def registerAt (s : State) (n : Nat) (r : Reg) : State :=
  let s := { s with ms := undelay { s.ms with regs := mdel n s.ms.regs } n }
  match r.data with
  | some d =>
    let s := freshen s r.ctx r.word
    putHome s r.word d.1 d.2.1 (d.2.2 || (r.part && (coherentWord s.ms r.word).2))
  | none =>
    match combWord s.ms r.comb r.word with
    | some c => if c.owned && c.pend.isNone then watchScan { s with ms := recordOwner s.ms r.comb r.word c } r.word else s
    | none => s

/-- REGISTRATION (R143, R161, R346): it waits for an earlier one of its word, for the host's line, or for leases to end. -/
def execRegistration (n : Nat) (s : State) : Out :=
  match mfind n s.ms.regs with
  | none => .next s
  | some r =>
    if regBehind s n r then .next s
    else if hostHas s.ms (lineOf r.word) then .next (delayFor (snoopWords s [r.word]) n [r.word])
    else if leased s r.word then .next (delayFor s n [r.word])
    else .next (registerAt s n r)

/-- Whether a slice still has registrations of a context to process that were sent before a probe, or atomics earlier than its
release (R146, R228). -/
def sliceBusy (s : State) (c slice probe id : Nat) : Bool :=
  s.ms.regs.any (fun p => decide (p.1 < probe) && p.2.ctx == c && homeSlice (8 * p.2.word) == slice)
    || s.ms.amos.any (fun p => decide (p.1 < id) && p.2.ctx == c && p.2.sent && isLocal p.2.pa && homeSlice p.2.pa == slice)

/-- The started release of a context that has a probe at a slice. -/
def probed (s : State) (c slice : Nat) : Option Release := (ctxOf s c).releases.find? (fun r => r.started && r.probes.contains slice)

/-- SLICE_ECHO (R146): the slice has processed every earlier registration of the context; its bit clears where no later one is
outstanding. -/
def execSliceEcho (c slice : Nat) (s : State) : Out :=
  match probed s c slice with
  | none => .next s
  | some r =>
    if sliceBusy s c slice r.at_ r.id then .next s
    else
      let later := sliceBusy s c slice s.seq s.seq
      let s := modCtx s c (fun x => { x with
        touched := if later then x.touched else serase slice x.touched
        releases := x.releases.map (fun r => if r.started then { r with probes := serase slice r.probes } else r) })
      .next (pumpCtx s c)

/-! ## Writes and atomics at targets without copies (R130, R132, R134, R146, R227 to R229, R341) -/

/-- Bytes of a word under a byte mask of a write of n bytes at an address. -/
def wordMask (pa n : Nat) : Byte := BitVec.ofNat 8 ((2 ^ n - 1) * 2 ^ (pa % 8))

/-- n bytes at an address as a word's data. -/
def wordData (pa n d : Nat) : W64 := BitVec.ofNat 64 (d % 2 ^ (8 * n) * 2 ^ (8 * (pa % 8)))

/-- Watches of words of other modules evaluated after a write of this module there (R231). -/
def remoteScan (s : State) : State :=
  (s.ms.watches.filter (fun e => decide (2 ^ 60 ≤ e.2.word))).foldl (fun s e =>
    match mfind e.2.req s.ms.loads with
    | none => s
    | some r =>
      match r.kind, r.pieces with
      | .watch c wid cmp, p :: _ =>
        let v := watchValue s r p
        if v.2 then failLoad { s with ms := { s.ms with watches := mdel e.1 s.ms.watches } } e.2.req r 0x0F (BitVec.ofNat 64 p.va)
        else if watchHolds c wid v.1 cmp then endWatch s e.1 e.2.req r (watchTok wid v.1 0) else s
      | _, _ => s) s

/-- A word written at its home by an agent without a copy, through a cached page or, `raw`, one that is never cached (R136, R143,
R159), and its watch entries evaluated. -/
def putHomeAs (raw : Bool) (s : State) (w : Nat) (d : W64) (mask : Byte) (poison : Bool) : State :=
  if raw then watchScan { s with ms := uncachedWrite s.ms w d mask poison } w else putHome s w d mask poison

/-- A write within one word, of message number `mine` if it has one, performed at its place; none while it must wait (R132,
R146, R161, R341, R346, R353). DEDUCED, log 19, 21. -/
def putPlace (s : State) (pl : Option Place) (n d : Nat) (raw : Bool) (mine : Option Nat) : Option State :=
  match pl with
  | some (.home pa) =>
    if homeBusy s (pa / 8) then none else some (putHomeAs raw s (pa / 8) (wordData pa n d) (wordMask pa n) false)
  | some (.window comb off) =>
    if (mget {} comb s.combs).isSealed then some s
    else if windowWaits s comb (off / 8 * 8) mine then none
    else some (windowWrite s comb (off / 8 * 8) (wordData off n d) (wordMask off n))
  | some (.cfg off) => some (cfgWrite s off n d)
  | some (.remote md a) =>
    if remoteBusy s (remoteKey md a) then none else some (remoteScan { s with ms := remoteWrite s.ms (remoteKey md a) n d })
  | some (.hostMem a) => some (remoteScan { s with ms := remoteWrite s.ms (remoteKey 4096 a) n d })
  | none => some s

/-- Whether an earlier write of the same context that registers nowhere has yet to be performed. -/
def writeBehind (s : State) (n : Nat) (u : UWrite) : Bool := s.ms.uwrites.any (fun p => decide (p.1 < n) && p.2.ctx == u.ctx)

/-- A message that must wait at its place: the host's line is snooped, and its leases run out (R161, R346). -/
def holdAt (s : State) (n : Nat) (pl : Option Place) : State :=
  match pl with
  | some (.home pa) => delayFor (snoopWords s [pa / 8]) n [pa / 8]
  | some (.remote md a) => delayFor s n [remoteTag (remoteKey md a)]
  | _ => s

/-- A write that registers at no home slice performed at its target and acknowledged, in its context's order (R134,
R146). DESIGN CHOICE, log 11; DEDUCED, log 21. -/
def writeAt (s : State) (n : Nat) : State :=
  match mfind n s.ms.uwrites with
  | none => s
  | some u =>
    if !u.sent || writeBehind s n u then s
    else
      let pl := placeOfPa s (ctxOf s u.ctx).part u.pa
      match putPlace s pl u.n u.data true (some n) with
      | some t =>
        let t := freshen t u.ctx (u.pa / 8)
        pumpCtx { t with ms := undelay { t.ms with uwrites := mdel n t.ms.uwrites } n } u.ctx
      | none => holdAt s n pl

/-- WRITE_ACK (R146). DEDUCED, log 21. -/
def execWriteAck (n : Nat) (s : State) : Out := .next (writeAt s n)

/-- Whether a write of a word that a context made before message n has yet to reach the word's home: on its way, pending on a
release or held behind one (R101, R143, R146, R228). -/
def ownAhead (s : State) (c n w : Nat) : Bool :=
  let x := ctxOf s c
  s.ms.regs.any (fun p => decide (p.2.born < n) && p.2.ctx == c && p.2.word == w)
    || s.ms.uwrites.any (fun p => decide (p.1 < n) && p.2.ctx == c && p.2.pa / 8 == w)
    || s.ms.amos.any (fun p => decide (p.1 < n) && p.2.ctx == c && p.2.pa / 8 == w)
    || (x.releases.filter (fun r => decide (r.id < n))).any (fun r =>
        (membersOf c x.k).any (fun b => (combWord s.ms b w).any (fun cw => cw.pend == some r.id))
          || r.held.any (fun h => match h with | .stream v _ _ => v == w | .publish v _ _ _ _ => v == w | _ => false))

/-- Whether an atomic must wait at its home: for its context's earlier writes of the word, or for the word itself (R146,
R161, R228, R346). DEDUCED, log 16. -/
def amoBehind (s : State) (n : Nat) (a : AmoReq) (pa : Nat) : Bool := homeBusy s (pa / 8) || ownAhead s a.ctx n (a.pa / 8)

/-- An atomic that has been performed: its reply, and what waited for it; later loads of the word read it from the home (R228).
DEDUCED, log 19. -/
def endAmo (s : State) (n : Nat) (a : AmoReq) (res : RegVal) : State :=
  let s := { s with ms := undelay { s.ms with amos := mdel n s.ms.amos } n }
  let s := giveReply (freshen s a.ctx (a.pa / 8)) a.ctx n res
  pumpCtx s a.ctx

/-- The value n bytes at a place hold, for an atomic. -/
def amoOld (s : State) (pl : Place) (n : Nat) : Nat :=
  match pl with
  | .home pa => bits (coherentWord s.ms (pa / 8)).1.toNat (8 * (pa % 8)) (8 * n)
  | .window comb off => bits (windowWord s comb (off / 8 * 8)).toNat (8 * (off % 8)) (8 * n)
  | .remote md a => remoteRead s.ms (remoteKey md a) n
  | .hostMem a => remoteRead s.ms (remoteKey 4096 a) n
  | .cfg _ => 0

/-- An atomic at a word's home: its owner revoked, the new value kept there with the word's poison (R228, R339).
DESIGN CHOICE, log 11; DEDUCED, log 19. -/
def amoHome (s : State) (raw : Bool) (pa n v : Nat) : State :=
  let m := revokeWord s.ms (pa / 8)
  putHomeAs raw { s with ms := m } (pa / 8) (wordData pa n v) (wordMask pa n) (homeWord m (pa / 8)).2

/-- An atomic at a word of an on-chip window: on a sealed comb it completes as poisoned (R341); where the word is a register
that waits for an atomic of its own or later, what it reads is a free value. DESIGN CHOICE, log 94. -/
def amoWindow (s : State) (n : Nat) (a : AmoReq) (comb off : Nat) : State :=
  let sh := atomicShape a.op
  if (mget {} comb s.combs).isSealed then endAmo s n a (.poisoned sh.2.1)
  else if windowWaits s comb (off / 8 * 8) (some n) then s
  else if (windowReply s comb (off / 8 * 8)).isSome then
    endAmo (bumpFresh s) n a (.s (atomicApply a.op ((Config.freeWord s.fresh).toNat % 2 ^ (8 * sh.1))).2)
  else
    let r := atomicApply a.op (amoOld s (.window comb off) sh.1)
    endAmo ((putPlace s (some (.window comb off)) sh.1 r.1 true (some n)).getD s) n a (.s r.2)

/-- An atomic performed at its home, on a window, or on another module (R227 to R229); it waits where it must. -/
def amoAt (s : State) (n : Nat) : State :=
  match mfind n s.ms.amos with
  | none => s
  | some a =>
    let pl := placeOfPa s (ctxOf s a.ctx).part a.pa
    let sh := atomicShape a.op
    if !a.sent then s
    else
      match pl with
      | none => endAmo s n a (.poisoned sh.2.1)
      | some (.home pa) =>
        if amoBehind s n a pa then delayFor (snoopWords s [pa / 8]) n [pa / 8]
        else
          let r := atomicApply a.op (amoOld s (.home pa) sh.1)
          endAmo (amoHome s (a.mode == 3) pa sh.1 r.1) n a (.s r.2)
      | some (.window comb off) => if ownAhead s a.ctx n (a.pa / 8) then s else amoWindow s n a comb off
      | some p =>
        if ownAhead s a.ctx n (a.pa / 8) then s
        else
          let r := atomicApply a.op (amoOld s p sh.1)
          match putPlace s (some p) sh.1 r.1 true (some n) with
          | some s => endAmo s n a (.s r.2)
          | none => holdAt s n (some p)

/-- AMO_AT_HOME (R228). -/
def execAmoAtHome (n : Nat) (s : State) : Out := .next (amoAt s n)

/-- Words of a load that lie in on-chip windows read there (R132, R341). -/
def windowReads (s : State) (n : Nat) (r : LoadReq) : State :=
  ((missingWords s r).filter (fun w => isWindow (8 * w))).foldl (fun s w =>
    match mfind n s.ms.loads, placeOfPa s (ctxOf s r.ctx).part (8 * w) with
    | some r, some (.window comb off) => if windowWaits s comb off none then s else gotWord s n r w (.window comb off) (windowGet s comb off)
    | _, _ => s) s

/-- ONCHIP_WINDOW_ACCESS (R131, R132): an outstanding load, write or atomic reaches its comb's window. -/
def execOnchipWindowAccess (n : Nat) (s : State) : Out :=
  match mfind n s.ms.loads with
  | some r =>
    if r.armed.isSome || loadWaits s r then .next s
    else
      let r := { r with asked := if (missingWords s r).any (fun w => isWindow (8 * w)) then r.asked.or (some s.gtime) else r.asked }
      .next (windowReads { s with ms := { s.ms with loads := mput n r s.ms.loads } } n r)
  | none => .next (amoAt (writeAt s n) n)

/-! ## Range walks (R156 to R158) -/

/-- Whether a walk covers a word. -/
def covers (k : Walk) (w : Nat) : Bool := k.ranges.any (fun r => decide (r.1 ≤ w) && decide (w < r.2))

/-- Covered words of one set of the comb caches: comb, word, content. -/
def combCovered (s : State) (k : Walk) : List (Nat × Nat × CWord) :=
  (s.ms.caches.filter (fun p => p.1 % 64 == k.at_)).foldl (fun acc p => acc ++ (p.2.foldl (fun acc sp =>
    acc ++ (sp.words.zipIdx.filter (fun q => covers k (64 * sp.region + sp.s + q.2))).map (fun q =>
      (p.1 / 64, 64 * sp.region + sp.s + q.2, q.1))) [])) []

/-- Whether a walk waits for a store of its own context that is earlier than it and has not reached the home of a covered word:
pending on a release, held behind one, or on its way (R157). DEDUCED, log 58. -/
def walkWaits (s : State) (n : Nat) (k : Walk) : Bool :=
  k.ctx.any (fun c =>
    let early := (ctxOf s c).releases.filter (fun r => decide (r.id < n))
    s.ms.regs.any (fun p => p.2.ctx == c && covers k p.2.word)
      || s.ms.uwrites.any (fun p => decide (p.1 < n) && p.2.ctx == c && covers k (p.2.pa / 8))
      || s.ms.amos.any (fun p => decide (p.1 < n) && p.2.ctx == c && covers k (p.2.pa / 8))
      || early.any (fun r => (pendingWords s.ms r.id).any (fun p => covers k p.2)
          || r.held.any (fun h => match h with | .stream w _ _ => covers k w | .publish w _ _ _ _ => covers k w | _ => false)))

/-- Whether a word of a walk's set waits for its registration to reach its home: until then another comb may still be recorded as
the owner of its value before (R139, R143, R157). -/
def walkRegs (s : State) (k : Walk) : Bool :=
  (combCovered s k).any (fun e => s.ms.regs.any (fun p => p.2.comb == e.1 && p.2.word == e.2.1 && p.2.data.isNone))

/-- The sets of the comb caches that a walk visits now split at the edges of its ranges; none while one must wait (R141, R156). -/
def walkSplit (m : MemSys) (k : Walk) : Option MemSys :=
  ((m.caches.filter (fun p => p.1 % 64 == k.at_)).map (·.1)).foldl (fun a key => a.bind (fun m => splitSet m key (covers k))) (some m)

/-- One covered word of a comb cache visited (R156): pending words stay for their releases, and words that still wait for their
data as they are (R139). DEDUCED, log 58. -/
def walkComb (k : FlushKind) (m : MemSys) (comb w : Nat) (c : CWord) : MemSys :=
  if c.pend.isSome || (c.owned && c.valid != 0xFF) then m
  else
    let drop : MemSys → MemSys := fun m => combDropIn m comb (w / 64) (fun _ j _ => j == w % 64)
    let back := writeBack m w c
    let keep : CWord → CWord := fun y => { y with owned := false, dirty := false, valid := 0xFF, data := (homeWord back w).1 }
    let clean : MemSys := if c.dirty || c.owned then updComb back comb w keep else m
    match k with
    | .clean => clean
    | .cinv => drop clean
    | .dinv =>
      let m := updComb m comb w (fun y => { y with owned := false, dirty := false })
      drop (if recorded m comb w then { m with owners := mdel w m.owners } else m)

/-- Covered words of one set of the home slices cleaned or dropped, its spans split at the edges of the ranges (R141, R156).
DEDUCED, log 58. -/
def walkHive (k : Walk) (m : MemSys) : MemSys :=
  (m.hives.filter (fun p => p.1 % 192 + 64 == k.at_)).foldl (fun m p =>
    let out := p.2.foldl (fun m sp => (sp.words.zipIdx).foldl (fun m q =>
      let w := 64 * sp.region + sp.s + q.2
      if covers k w && q.1.dirty && k.kind != .dinv then memPutWord m w q.1.data q.1.poison else m) m) m
    let r := (splitIn (fun _ => false) 32 p.2 (covers k)).getD (p.2, [])
    let set := r.1.map (fun sp =>
      { sp with words := sp.words.zipIdx.map (fun q => if covers k (64 * sp.region + sp.s + q.2) then { q.1 with dirty := false } else q.1) })
    let set := if k.kind == .clean then set else (set.map (fun sp => runsOf sp (fun j _ => !covers k (64 * sp.region + j)))).flatten
    hiveEvict { out with hives := mput p.1 set out.hives } r.2) m

/-- A walk that has visited every set ends (R146, R360). -/
def endWalk (s : State) (n : Nat) (k : Walk) : State :=
  let s := { s with ms := { s.ms with walks := mdel n s.ms.walks } }
  let s := match k.pkt with
    | some (p, q, idx) => endEffect s p q idx 1
    | none => s
  match k.ctx with
  | some c => pumpCtx s c
  | none => s

/-- Whether a walk's next set may be visited. DEDUCED, log 58. -/
def walkReady (s : State) (n : Nat) (k : Walk) : Bool :=
  !walkWaits s n k && (decide (64 ≤ k.at_) || (!walkRegs s k && (walkSplit s.ms k).isSome))

/-- The words of a walk's next set visited. -/
def walkSet (s : State) (k : Walk) : MemSys :=
  if k.at_ < 64 then
    let m := (walkSplit s.ms k).getD s.ms
    (combCovered { s with ms := m } k).foldl (fun m e => walkComb k.kind m e.1 e.2.1 e.2.2) m
  else walkHive k s.ms

/-- FLUSHR_WALK (R156 to R158): the walk visits its next set, in rising index, comb caches first. -/
def execFlushrWalk (n : Nat) (s : State) : Out :=
  match mfind n s.ms.walks with
  | none => .next s
  | some k =>
    if !walkReady s n k then .next s
    else
      let m := walkSet s k
      let k1 := { k with at_ := k.at_ + 1 }
      let s := { s with ms := { m with walks := mput n k1 m.walks } }
      .next (if 256 ≤ k1.at_ then endWalk s n k1 else s)

/-! ## Copies and barriers (R244, R252, R253) -/

/-- COPY_CHUNK (R244): the next chunk of a request that has been sent, its context's earlier requests finished. -/
def execCopyChunk (n : Nat) (s : State) : Out :=
  match mfind n s.ms.copies with
  | none => .next s
  | some q => if q.sent && !q.finished && !copyBehind s n q then .next (copyStep s n q) else .next s

/-- BARRIER_ARRIVAL (R252): an arrival counted in its channel's phase, which releases when all members have arrived. -/
def execBarrierArrival (n : Nat) (s : State) : Out :=
  match mfind n s.arrivals with
  | none => .next s
  | some a =>
    let s := advance s (a.due - s.cycles)
    let s := { s with arrivals := mdel n s.arrivals }
    if (mfind a.launch s.launches).isNone then .next s
    else
    let s := modLaunch s a.launch (fun l => { l with channels := mmod {} a.ch (fun k => { k with arrived := sinsert a.rank k.arrived }) l.channels })
    .next (releaseChannel s a.launch a.ch)

/-- The first timed wait of a context that has run out. -/
def timedOut (s : State) (x : Ctx) : Option BarWait := x.barWait.find? (fun w => w.left.any (fun t => decide (t ≤ s.cycles)))

/-- BAR_TIMEOUT (R253): the member goes on with TIMEOUT, after a self-invalidation; its arrival stays counted.
DEDUCED, log 36. -/
def execBarTimeout (c : Nat) (s : State) : Out :=
  let x := ctxOf s c
  match x.phase, timedOut s x with
  | .barrier, some w =>
    let ws := waitsBut x.barWait w.ch w.phase
    let bar := if x.bar.ch == w.ch && x.bar.phase.toNat == w.phase % 2 ^ 32 then { x.bar with outcome := 1 } else x.bar
    .next (acquire (setCtx s c { x with barWait := ws, bar := bar, phase := if ws.isEmpty then .running else .barrier }) c none 0)
  | _, _ => .next s

/-! ## Requests without a reply (R228, R247, R333, R353, R358) -/

/-- The far word a load still waits for, or none. -/
def farWord (s : State) (r : LoadReq) : Option LPiece :=
  let need := missingWords s r
  r.pieces.find? (fun p => !p.scratch && need.contains (p.pa / 8) && isFar r.comb p.pa)

/-- A timed-out atomic (R228): its register is poisoned, and whether it was performed is a free value.
DEDUCED, log 19. -/
def lostAmo (s : State) (n : Nat) (a : AmoReq) : State :=
  let sh := atomicShape a.op
  let pl := placeOfPa s (ctxOf s a.ctx).part a.pa
  let s := match pl with
    | some p => if Config.freeBool s.fresh then (putPlace s (some p) sh.1 (atomicApply a.op (amoOld s p sh.1)).1 (a.mode == 3) (some n)).getD s else s
    | none => s
  let s := giveReply { bumpFresh s with ms := undelay { s.ms with amos := mdel n s.ms.amos } n } a.ctx n (.poisoned sh.2.1)
  pumpCtx (freshen s a.ctx (a.pa / 8)) a.ctx

/-- A word whose write or registration timed out (R333): its value at its home is a free value; `raw` tells a page that is never
cached (R159). -/
def lostWord (s : State) (raw : Bool) (pl : Option Place) : State :=
  let v := Config.freeWord s.fresh
  let s := bumpFresh s
  match pl with
  | some (.home pa) => { s with ms := (if raw then rawPut else homePut) { s.ms with owners := mdel (pa / 8) s.ms.owners } (pa / 8) v false }
  | some (.remote md a) => { s with ms := remoteWrite s.ms (remoteKey md (a / 8 * 8)) 8 v.toNat }
  | some (.hostMem a) => { s with ms := remoteWrite s.ms (remoteKey 4096 (a / 8 * 8)) 8 v.toNat }
  | some (.window comb off) => windowWrite s comb (off / 8 * 8) v 0xFF
  | _ => s

/-- Whether an engine's address has a far home (R333). DEDUCED, log 18. -/
def farAddr (s : State) (q : CopyReq) (va : Nat) : Bool :=
  if inScratch va then false
  else match lookup s q.comb q.part va with
    | .ok e => e.pte.isSome && isFar q.comb (e.pbase + (va - e.base))
    | .error _ => false

/-- The addresses a part still waits for: of its index, its source and its destination. -/
def partWaits (s : State) (q : CopyReq) (p : Partition) (d : CopyDesc) (c : CopyPart) : List Nat :=
  let r := c.row % rowsOf q.mode d
  let pl := c.row / rowsOf q.mode d
  let n := bytesNat (rowIndex s q d r).bytes
  let w := unitBits p d
  let src := rowAddr d.saddr (if q.mode == .rgath then n else r) pl d.ss1 d.ss2 + c.e * w.1 / 8
  let dst := rowAddr d.daddr (if q.mode == .rscat then n else r) pl d.ds1 d.ds2 + c.e * w.2 / 8
  let idx : List Nat := if q.mode == .rgath || q.mode == .rscat then [(d.aux + 4 * r) % 2 ^ 64] else []
  let reads := idx ++ (if q.mode == .fill then [] else (cutWords src (c.n * w.1 / 8)).map (·.1))
  let writes := if q.net.isSome then [] else (cutWords dst (c.n * w.2 / 8)).map (·.1)
  reads.filter (fun a => match engWord s q a with | .wait _ => true | _ => false)
    ++ writes.filter (fun a => match engDst s q a with | .ok x => dstBusy s x | .error _ => false)

/-- The first far address that a request's next chunk still waits for. -/
def copyFar (s : State) (q : CopyReq) : Option Nat :=
  let p := partOf s q.part
  let d := descOf q
  if badDesc p q.mode d || emptyCopy q.mode d || q.netPhase != 0 then none
  else (chunkParts (cutBits p q d) q.mode d q.chunk).findSome? (fun c => (partWaits s q p d c).find? (farAddr s q))

/-- A chunk whose far home has not replied for 2 ms ends its request: its bytes are those of a faulting chunk, whether their homes
answer or not; only writes that wait at a home of the engine's own die are not made (R166, R247, R333). -/
def lostChunk (s : State) (n : Nat) (q : CopyReq) (a : Nat) : State :=
  let puts := (chunkPlan s q (descOf q) q.chunk).puts.filter (fun p => !dstBusy s p.1 || farAddr s q p.2.va)
  endCopy (putFaulting s puts) n q (copyFault (0x14, BitVec.ofNat 64 a))

/-- The release that waits on a lost write goes on; the context's next block to reach commit traps (R333).
DEDUCED, log 18. -/
def lateFault (s : State) (c : Nat) (a : W64) : State := pumpCtx (modCtx s c (fun x => { x with lateFaults := x.lateFaults ++ [a] })) c

/-- REMOTE_TIMEOUT (R333): a request to a far home without a reply for 2 ms completes as poisoned; a COPYB's network
retries count as exhausted (R358). DEDUCED, log 18. -/
def execRemoteTimeout (n : Nat) (s : State) : Out :=
  match mfind n s.ms.loads, mfind n s.ms.amos, mfind n s.ms.uwrites, mfind n s.ms.regs, mfind n s.ms.copies with
  | some r, _, _, _, _ =>
    match farWord s r with
    | some p => if r.asked.any (overdue s) && !loadWaits s r then .next (failLoad s n r 0x14 (BitVec.ofNat 64 p.va)) else .next s
    | none => .next s
  | none, some a, _, _, _ =>
    if a.sent && overdue s a.since && isFar (homeOf a.ctx) a.pa then .next (lostAmo s n a) else .next s
  | none, none, some u, _, _ =>
    if u.sent && overdue s u.since && isFar (homeOf u.ctx) u.pa then
      let s1 := lostWord { s with ms := undelay { s.ms with uwrites := mdel n s.ms.uwrites } n } true (placeOfPa s (ctxOf s u.ctx).part u.pa)
      .next (lateFault s1 u.ctx (BitVec.ofNat 64 (u.va / 8 * 8)))
    else .next s
  | none, none, none, some r, _ =>
    if overdue s r.since && isFar r.comb (8 * r.word) then
      let m := combDropIn (updComb s.ms r.comb r.word (fun y => { y with owned := false, dirty := false })) r.comb (r.word / 64) (fun _ j _ => j == r.word % 64)
      let s1 := lostWord { s with ms := undelay { m with regs := mdel n m.regs } n } false (some (.home (8 * r.word)))
      .next (lateFault s1 r.ctx (BitVec.ofNat 64 (8 * r.word)))
    else .next s
  | none, none, none, none, some q =>
    if q.sent && !q.finished && !copyBehind s n q then
      let net := if q.net.isSome then endCopy s n q (copyFault (0x14, BitVec.ofNat 64 (descOf q).daddr)) else s
      match copyFar s q with
      | some a => .next (if q.asked.any (overdue s) then lostChunk s n q a else net)
      | none => .next net
    else .next s
  | _, _, _, _, _ => .next s

/-- PORT_DROP (R353): the port leaves the set; its outstanding requests go on over the others. -/
def execPortDrop (port : Nat) (s : State) : Out :=
  .next { s with md := { s.md with ports := s.md.ports &&& ~~~(BitVec.ofNat 16 (2 ^ port)) } }

end Sys2Proof.Machine
end

