-- ==== Sys2Proof/Machine/Packets.lean ====
section
/-! DEFINITION. The packets of a queue and the queue processors: one meaning per packet type, the re-read of a DEPWAIT,
completion, binding and the watchdog (R290 to R302, R312, R313, R329, R358, R360). -/

namespace Sys2Proof.Machine

/-- LAUNCH (R295). -/
def execLaunch (part queue : Nat) (s : State) : Host.Outcome State Fault Refusal := .next (startPacket s part queue 1)

/-- DEPWAIT (R300). -/
def execDepwait (part queue : Nat) (s : State) : Host.Outcome State Fault Refusal := .next (startPacket s part queue 2)

/-- SIGNAL (R293, R298). -/
def execSignal (part queue : Nat) (s : State) : Host.Outcome State Fault Refusal := .next (startPacket s part queue 3)

/-- COPYB (R296). -/
def execCopyb (part queue : Nat) (s : State) : Host.Outcome State Fault Refusal := .next (startPacket s part queue 4)

/-- POLICY (R312, R313). -/
def execPolicy (part queue : Nat) (s : State) : Host.Outcome State Fault Refusal := .next (startPacket s part queue 5)

/-- FWIN (R264). -/
def execFwin (part queue : Nat) (s : State) : Host.Outcome State Fault Refusal := .next (startPacket s part queue 6)

/-- TLBINV (R163). -/
def execTlbinv (part queue : Nat) (s : State) : Host.Outcome State Fault Refusal := .next (startPacket s part queue 7)

/-- SEAL (R360). -/
def execSealRange (part queue : Nat) (s : State) : Host.Outcome State Fault Refusal := .next (startPacket s part queue 8)

/-- UNSEAL (R360). -/
def execUnsealRange (part queue : Nat) (s : State) : Host.Outcome State Fault Refusal := .next (startPacket s part queue 9)

/-- RESUME (R329). -/
def execResume (part queue : Nat) (s : State) : Host.Outcome State Fault Refusal := .next (startPacket s part queue 10)

/-- MARKER (R293). -/
def execMarker (part queue : Nat) (s : State) : Host.Outcome State Fault Refusal := .next (startPacket s part queue 11)

/-! ## A blocked DEPWAIT -/

/-- The blocked DEPWAIT of a queue. -/
def blockedWait (s : State) (p q : Nat) : Option Packet :=
  let x := queueOf s p q
  if !x.blocked then none
  else ((openPkts x).map (·.2)).find? (fun k => pkType k.words == 2 && k.status.isNone)

/-- Whether a blocked DEPWAIT is due to read its counter again (R300). -/
def rereadDue (s : State) (p q : Nat) : Bool := (blockedWait s p q).any (fun k => decide (k.note ≤ s.gtime))

/-- A blocked DEPWAIT's re-read every 100 µs (R300). -/
def execDepwaitReread (part queue : Nat) (s : State) : Host.Outcome State Fault Refusal :=
  .next (match blockedWait s part queue with
    | some k =>
      if k.note ≤ s.gtime then
        let rs := [(dw k.words 1, 8)]
        match readWaits s part (devMsg part queue k.idx) rs with
        | some t =>
          match timedWait s t (readFar s part (devMsg part queue k.idx) rs) k.asked (fun s => modPkt s part queue k.idx (fun k => { k with asked := some s.gtime })) with
          | .ok t => t
          | .error e => stopQueue (endDepwait (deviceFault s part e k.idx queue) part queue k.idx 5) part queue
        | none => readCounter (seenAll s part [(dw k.words 1, 8)]) part queue k.idx k.words
      else s
    | none => s)

/-! ## Completion -/

/-- The packet of a queue that completes next taken one step further (R298). -/
def completeNext (s : State) (p q : Nat) : State :=
  match completing s p q with
  | some k => if k.effect then completePacket s p q k else packetWait s p q k
  | none => s

/-- A packet's completion: what it waits for has ended, or its STATUS and DONE are written (R298). -/
def execPacketComplete (part queue : Nat) (s : State) : Host.Outcome State Fault Refusal := .next (completeNext s part queue)

/-- A packet's write that has waited for leases tried again: of a packet that has started, or of the queue's next one (R161). -/
def retryPacket (s : State) (n : Nat) : State :=
  let p := (n - 2 ^ 96) / 2 ^ 72 / 128
  let q := (n - 2 ^ 96) / 2 ^ 72 % 128
  if (mfind (n % 2 ^ 72) (queueOf s p q).pkts).isSome then completeNext s p q
  else if mayStart s p q then [3, 11].foldl (fun s ty => startPacket s p q ty) s
  else s

/-! ## Threads -/

/-- A queue bound to a free thread of a die (R301). -/
def execQueueBind (die : Nat) (s : State) : Host.Outcome State Fault Refusal :=
  .next (match nextToBind s die, freeThread s die with
    | some (p, q), some t => bindQueue s die t p q
    | _, _ => s)

/-- Whether a bound queue has had nothing to do for 100 µs (R301). -/
def idleQueue (s : State) (p q : Nat) : Bool :=
  let x := queueOf s p q
  !unstarted x && !x.blocked && decide (x.idle + 100000 ≤ s.gtime)

/-- A thread whose queue has been idle unbinds (R301). -/
def execQueueUnbind (die thread : Nat) (s : State) : Host.Outcome State Fault Refusal :=
  .next (match mfind thread (mget {} die s.dies).threads with
    | some (p, q) => if idleQueue s p q then unbindQueue s p q else s
    | none => s)

/-- The bound queues of a die that have been able to start a packet for 10 ms and have made no progress (R302). DEDUCED, log 27. -/
def stuckQueues (s : State) (die : Nat) : List (Nat × Nat) :=
  ((mget {} die s.dies).threads.map (·.2)).filter (fun b =>
    let x := queueOf s b.1 b.2
    mayStart s b.1 b.2 && decide (max x.idle x.ready + 10000000 ≤ s.gtime)
      && (match devWords s b.1 (slotAddr x x.start) 8 with | .ok ws => startNow s b.1 b.2 ws | .error _ => true))

/-- The queue processor's watchdog: its threads are reset, and replay rebuilds the bindings, the start indices and the DEPWAIT
registrations; no effect is performed again (R302). -/
def execQpWatchdog (die : Nat) (s : State) : Host.Outcome State Fault Refusal :=
  .next (match stuckQueues s die with
    | [] => s
    | bs => bs.foldl (fun s b => modQueue s b.1 b.2 (fun x => { x with idle := s.gtime })) (replay s die))

end Sys2Proof.Machine
end

