-- ==== Sys2Proof/Machine/Pipeline.lean ====
section
/-! DEFINITION. The pipeline's steps: cell issue, weights, token delivery, block fetch, commit, growth, and matrix-unit
passes (R39 to R42, R52, R53, R85 to R92, R104 to R114, R154, R273 to R284). -/

namespace Sys2Proof.Machine

/-! ## Held instructions -/

/-- Whether what a fired and held instruction waits for has come about (R104, R106, R233, R246, R250, R258, R276). -/
def wakes (s : State) (c : Nat) (x : Ctx) (b : Block) (idx : Nat) (i : Instr) : Bool :=
  match i with
  | .rd n _ _ => readReg x b.tag n.toNat != .wait
  | .gets .. => isOldest x b.tag
  | .pget .. => isOldest x b.tag
  | .geti .. => isOldest x b.tag
  | .fence _ ls _ => isOldest x b.tag && loadsDone b ls.toNat
  | .waitb _ n _ => isOldest x b.tag && decide (x.batches.length ≤ n.toNat)
  | .join _ n _ => isOldest x b.tag && (decide (childrenOf s x ≤ n.toNat)
      || x.task.any (fun t => holdsEntry s (homeOf c) (mayTake s c t)))
  | .mma .. => !pprWaits x b.tag && !tileWaits x b idx i
  | .tst .. => !tileWaits x b idx i && (mfind idx b.captures).all (fun t => decide (t ≤ s.cycles))
  | i => !tileWaits x b idx i

/-! ## Cell issue (R52, R53) -/

/-- An instruction that may issue at a cell: context, block tag, index, when it became ready. -/
structure Cand where
  ctx : Nat
  tag : Nat
  idx : Nat
  since : Nat
  deriving DecidableEq, Repr

/-- The 64 of a cell's ready instructions that became ready first: a cell holds no more (R53). -/
def heldReady (l : List Cand) : List Cand :=
  if l.length ≤ 64 then l
  else (l.zipIdx.filter (fun a => decide ((l.zipIdx.filter (fun b =>
    decide (b.1.since < a.1.since) || (b.1.since == a.1.since && decide (b.2 < a.2)))).length < 64))).map (·.1)

/-- The ready instructions of a cell, oldest blocks first within each context (R52). DEDUCED, log 59. -/
def readyList (s : State) (comb cell : Nat) : List Cand :=
  (s.ctxs.filter (fun p => p.2.phase == .running)).foldl (fun acc p =>
    p.2.blocks.foldl (fun acc b => b.nodes.foldl (fun acc n =>
      match n.2.st with
      | .ready t => if t ≤ s.cycles && instrPlace p.2 p.1 b n.1 == (comb, cell) then acc ++ [⟨p.1, b.tag, n.1, t⟩] else acc
      | _ => acc) acc) acc) []

/-- A held instruction of a cell whose wait is over. -/
def wakeOf (s : State) (comb cell : Nat) : Option Cand :=
  (s.ctxs.filter (fun p => p.2.phase == .running)).findSome? (fun p =>
    p.2.blocks.findSome? (fun b => b.nodes.findSome? (fun n =>
      if n.2.st == .held && instrPlace p.2 p.1 b n.1 == (comb, cell) then
        match instrAt b.words n.1 with
        | some i => if wakes s p.1 p.2 b n.1 i then some ⟨p.1, b.tag, n.1, s.cycles⟩ else none
        | none => none
      else none)))

/-- The earliest of a list of candidates, the first on ties. DEDUCED, log 59. -/
def earliest (l : List Cand) : Option Cand :=
  l.foldl (fun acc a => match acc with | none => some a | some b => if a.since < b.since then some a else some b) none

/-- Deficit round robin over the slots with ready instructions: the slot that issues, and the cell after it (R52).
DEDUCED, log 59. -/
def roundRobin (k : Cell) (has : Nat → Bool) : Option (Nat × Cell) :=
  if has k.visit && 1 ≤ mget 0 k.visit k.credit then
    some (k.visit, { k with credit := mmod 0 k.visit (· - 1) k.credit })
  else
    match (rangeFrom 1 8).findSome? (fun d => if has ((k.visit + d) % 8) then some ((k.visit + d) % 8) else none) with
    | none => none
    | some v => some (v, { k with visit := v, credit := mput v (mget 0 v k.credit + mget 1 v k.weight - 1) k.credit })

/-- The instruction a cell picks among its ready ones, and its credits after the pick (R52). -/
def pickIssue (s : State) (k : Cell) (rs : List Cand) : Option (Cand × Cell) :=
  match earliest (rs.filter (fun a => decide (a.since + 192 ≤ s.cycles))) with
  | some a => some (a, k)
  | none =>
    match roundRobin k (fun v => rs.any (fun a => slotOf a.ctx == v)) with
    | none => none
    | some (v, k) => (earliest (rs.filter (fun a => slotOf a.ctx == v))).map (fun a => (a, k))

/-- The instruction a cell issues next, one a cc, and the cell's arbitration state after it: a context left with no ready
instruction loses its remaining credit (R52). -/
def chooseIssue (s : State) (comb cell : Nat) : Option (Cand × Cell) :=
  let rs := heldReady (readyList s comb cell)
  let k := mget {} (16 * comb + cell) s.cells
  if k.issuedAt == some s.cycles then none
  else (pickIssue s { k with credit := k.credit.filter (fun p => rs.any (fun a => slotOf a.ctx == p.1)) } rs).map (fun r =>
    (r.1, { r.2 with issuedAt := some s.cycles
                     credit := r.2.credit.filter (fun p => rs.any (fun a => a != r.1 && slotOf a.ctx == p.1)) }))

/-- An instruction put into the issue latch with its operands (R89). -/
def latch (s : State) (a : Cand) : State :=
  match blockOf (ctxOf s a.ctx) a.tag with
  | none => s
  | some b =>
    let n := nodeOf b a.idx
    modCtx { s with issue := some ⟨a.ctx, a.tag, a.idx, n.left, n.right, n.third⟩ } a.ctx (fun x => { x with idle := 0 })

/-- CELL_ISSUE (R52): the cell's instruction goes to the issue latch; the machine runs it next. -/
def execCellIssue (comb cell : Nat) (s : State) : Out :=
  match wakeOf s comb cell with
  | some a => .next (latch s a)
  | none =>
    match chooseIssue s comb cell with
    | some (a, k) => .next (latch { s with cells := mput (16 * comb + cell) k s.cells } a)
    | none => .next s

/-- WEIGHT_RECOMPUTE (R53): every 1,024 cc. -/
def execWeightRecompute (comb cell : Nat) (s : State) : Out :=
  let k := mget {} (16 * comb + cell) s.cells
  if s.cycles < k.weightAt + 1024 then .next s
  else .next { s with cells := mput (16 * comb + cell) (recomputeWeights k) s.cells }

/-! ## Token delivery (R35, R88 to R92) -/

/-- A node with a token in a slot. -/
def putTok (n : Node) (k : Slot) (t : Token) : Node :=
  match k with
  | .left => { n with left := some t }
  | .right => { n with right := some t }
  | .third => { n with third := some t }

/-- The token a slot holds. -/
def slotTok (n : Node) (k : Slot) : Option Token :=
  match k with
  | .left => n.left
  | .right => n.right
  | .third => n.third

/-- Whether every slot an instruction uses holds a token (R89). -/
def allSlots (i : Instr) (n : Node) : Bool :=
  (!usesSlot i .left || n.left.isSome) && (!usesSlot i .right || n.right.isSome) && (!usesSlot i .third || n.third.isSome)

/-- What an instruction that faults while it executes has under way is given up: it emits no result (R110). -/
def quench (s : State) (c tag idx : Nat) : State :=
  let gone := s.ms.loads.filter (fun p => p.2.ctx == c && p.2.tag == tag && p.2.idx == idx)
  let s := modBlock s c tag (fun b => { b with loads := b.loads.map (fun l => if l.2.idx == idx then (l.1, { l.2 with finished := true, req := none }) else l) })
  { s with
    net := s.net.filter (fun p => !(p.2.ctx == c && p.2.tag == tag && p.2.src == idx && decide (s.cycles < p.2.leaves)))
    jobs := s.jobs.map (fun p => (p.1, p.2.filter (fun j => !(j.ctx == c && j.tag == tag && j.idx == idx))))
    ms := { s.ms with
      loads := s.ms.loads.filter (fun p => !(p.2.ctx == c && p.2.tag == tag && p.2.idx == idx))
      watches := s.ms.watches.filter (fun w => !gone.any (fun p => p.1 == w.2.req)) } }

/-- Whether a predicate of kind V has reached an instruction that has not fired (R91). -/
def badPred (i : Instr) (n : Node) : Bool := !isThree i && predOf i != .always && n.third.isSome && prMatch (predOf i) n.third == none

/-- A token arrives in a slot (R89 to R91): a second one faults, even while the instruction executes; a predicate of kind V
faults, one that does not match resolves the instruction; with every slot filled it is ready. -/
def arrive (s : State) (c tag idx : Nat) (b : Block) (k : Slot) (t : Token) : State :=
  let iss : Issue := ⟨c, tag, idx, none, none, none⟩
  let n := nodeOf b idx
  if (slotTok n k).isSome then recordFault (quench s c tag idx) iss 0x04 1
  else
    let n := putTok n k t
    if n.st == .waiting && (instrAt b.words idx).any (fun i => badPred i n) then
      recordFault (modBlock s c tag (fun b => modNode b idx (fun _ => n))) iss 0x04 0
    else
    let st := match n.st, instrAt b.words idx with
      | .waiting, some i =>
        if !isThree i && predOf i != .always && n.third.isSome && prMatch (predOf i) n.third == some false then .resolved
        else if allSlots i n then .ready s.cycles
        else .waiting
      | st, _ => st
    modBlock s c tag (fun b => modNode b idx (fun _ => { n with st := st }))

/-- TOKEN_DELIVERY (R20, R35, R88 to R92): a token on the operand network reaches its slot. -/
def execTokenDelivery (n : Nat) (s : State) : Out :=
  match mfind n s.net with
  | none => .next s
  | some p =>
    let s := advance s (p.due - s.cycles)
    let s := { s with net := mdel n s.net }
    match blockOf (ctxOf s p.ctx) p.tag with
    | none => .next s
    | some b => .next (arrive s p.ctx p.tag p.idx b p.slot p.tok)

/-! ## Block fetch (R85, R105, R113, R114, R153, R154) -/

/-- A word that a fetch has read: its data, the home word to recall from an owner, and the piece it fills the comb cache with,
where it came from outside that cache (R143, R153), with the lease of a slice's copy and the key of another module's byte
(R161). -/
structure Fetched where
  data : W64
  home : Option Nat := none
  fill : Option LPiece := none
  lease : Option (Nat × Nat) := none
  key : Option Nat := none
  deriving DecidableEq, Repr

/-- A word of a block as a fetch reads it: read, not yet to be had, or the fetch's fault (R85, R153). It waits, as a load would,
for a word that another context withholds or the host owns, for a delayed write, for the context's own writes of it, and for
another module while no port is live. DEDUCED, log 14. -/
def fetchWord (s : State) (c : Nat) (x : Ctx) (va : Nat) : Except AccErr (Option Fetched) :=
  let bad : BitVec 8 → Except AccErr (Option Fetched) := fun e => .error (e, BitVec.ofNat 64 va)
  if va ≥ Config.vaLimit then bad 0x0D
  else if inScratch va then bad 0x0E
  else
    match translate s (homeOf c) x.part va .fetch with
    | .error e => bad e
    | .ok t =>
      let lp : LPiece := { va := va, pa := t.pa, n := 8, pos := 0, scratch := false, mode := t.mode, sver := t.sver }
      let cached := if t.mode == 3 then .missing
        else match cachedWord s x (homeOf c) lp false with
          | .missing => ((otherMembers c x (homeOf c)).findSome? (fun m =>
              match cachedWord s x m lp true with | .missing => none | y => some y)).getD .missing
          | y => y
      match cached with
      | .have_ d poison => if poison then bad 0x0F else .ok (some { data := d })
      | .wait => .ok none
      | .missing =>
        let fill := if t.mode < 2 || (t.mode == 2 && s.md.healthy) then some lp else none
        let read : W64 × Bool → Fetched → Except AccErr (Option Fetched) := fun v f =>
          if v.2 then bad 0x0F else .ok (some { f with data := v.1, fill := fill })
        if writeAhead s c lp then .ok none
        else match t.place with
        | .home pa => if readBusy s (pa / 8) then .ok none else read (coherentWord s.ms (pa / 8)) { data := 0, home := some (pa / 8) }
        | .remote m a =>
          match proxyWord s (homeOf c) lp (t.pa / 8) with
          | some (d, poison, l) => read (d, poison) { data := 0, lease := some l }
          | none =>
            if linkUp s && !delayedAt s (remoteTag (remoteKey m a)) then read (remoteWord s.ms (remoteKey m a)) { data := 0, key := some (remoteKey m a) }
            else .ok none
        | .hostMem a => read (remoteWord s.ms (remoteKey 4096 a)) { data := 0 }
        | _ => bad 0x0E

/-- Words of a block from an address on; none while one is not to be had (R146). DEDUCED, log 14. -/
def fetchWords (s : State) (c : Nat) (x : Ctx) (va : Nat) : Nat → Except AccErr (Option (List Fetched))
  | 0 => .ok (some [])
  | n + 1 =>
    match fetchWord s c x va with
    | .error e => .error e
    | .ok none => .ok none
    | .ok (some d) =>
      match fetchWords s c x (va + 8) n with
      | .error e => .error e
      | .ok none => .ok none
      | .ok (some r) => .ok (some (d :: r))

/-- 64-bit words as 32-bit words (R12). -/
def halves (l : List W64) : List Word := (l.map (fun (d : W64) => [d.truncate 32, (d >>> 32).truncate 32])).flatten

/-- Blocks a context may hold in flight (R34). DEDUCED, log 13. -/
def maxFlight (s : State) (x : Ctx) : Nat := min 16 (x.k * kWins (kernelOf s x))

/-- Whether a block holds its successors unmapped (R109): a BAR the next block waits for. DEDUCED, log 13. -/
def holdsNext (b : Block) : Bool :=
  (instrsOf b).any (fun p => match p.2 with | .bar _ _ _ .wait => true | .bar _ _ _ .tmd => true | _ => false)

/-- Whether RET is the only exit a block can take (R172). -/
def onlyRet (b : Block) : Bool :=
  let exits := (instrsOf b).filter (fun p => match p.2 with
    | .exit .. => true | .exitr .. => true | .call .. => true | .callr .. => true | .ret .. => true | .halt .. => true | .tret .. => true | _ => false)
  !exits.isEmpty && exits.all (fun p => match p.2 with | .ret .. => true | _ => false)

/-- The return stack behind a block in flight, by the exit it has fired or is predicted to take (R172). -/
def stackAfter (st : List W64) (b : Block) : List W64 :=
  match b.exits.head? with
  | some (_, .call _ l) => (l :: st).take Config.returnStack
  | some (i, .goto _) => match instrAt b.words i with | some (.ret ..) => st.drop 1 | _ => st
  | some _ => st
  | none => if onlyRet b then st.drop 1 else st

/-- The link that RET pops as its prediction: of the youngest block in flight, where RET is its only exit and has not fired
(R172). -/
def predictedRet (x : Ctx) : Option W64 :=
  match x.blocks.getLast? with
  | some b => if b.exits.isEmpty && onlyRet b then ((x.blocks.dropLast).foldl stackAfter x.rstack).head? else none
  | none => none

/-- Whether a context may fetch a block from an address (R34, R105, R109, R172): its next block first, then along a predicted
path until an exit has fired elsewhere. DEDUCED, log 13. -/
def mayFetch (s : State) (x : Ctx) (a : W64) : Bool :=
  x.phase == .running && decide (x.blocks.length < maxFlight s x) && !x.blocks.any holdsNext
    && match x.blocks.getLast? with
       | none => a == x.next
       | some b =>
         match b.exits with
         | [] => b.mapTrap.isNone && b.fetchFault.isNone && (predictedRet x).all (· == a)
         | e :: _ => exitAddr e.2 == some a

/-- A block put into flight. -/
def addBlock (s : State) (c : Nat) (b : Block) : State :=
  modCtx s c (fun x => { x with blocks := x.blocks ++ [b], strictAt := x.strictAt.filter (· != b.addr), fetch := none })

/-- A fetch that failed (R85): a block that traps once it is the oldest. DEDUCED, log 14. -/
def faultBlock (x : Ctx) (a : W64) (e : AccErr) : Block := { tag := freeTag x, addr := a, hdr := [], words := [], fetchFault := some e }

/-- A fetched word kept in the comb cache and its home slice, as a load's would be, where there is room; a word of leased data
under its slice copy's lease, or one that its home grants with it (R138, R139, R153, R161). -/
def fillFetched (s : State) (comb : Nat) (f : Fetched) : State :=
  match f.fill with
  | none => s
  | some lp =>
    let r := lp.pa / 512
    let k := lp.pa / 8 % 64
    let m := dropStale s comb r lp
    let m := if f.home.isSome then hiveFill m r k k else m
    let m := (combFill m comb r k k k k (fun _ => { data := f.data, valid := 0xFF }) (if lp.mode == 1 then lp.sver else 0)).getD m
    if lp.mode != 2 then { s with ms := m }
    else
      let l := f.lease.getD (s.gtime + leaseLength s.fresh, s.md.epoch.toNat)
      let m := if f.lease.isNone then (f.key.map (fun k => holdLease m k l.1)).getD m else m
      bumpFresh { s with ms := markLease m comb r l.1 l.2 }

/-- The owners of the words a fetch read at their homes write them back (R143), the words fill the comb cache (R153), and the
pages' translations are cached (R126). -/
def afterFetch (s : State) (c : Nat) (x : Ctx) (a : W64) (n : Nat) (l : List Fetched) : State :=
  let s := { s with ms := l.foldl (fun m d => match d.home with | some w => recallWord m w | none => m) s.ms }
  let s := l.foldl (fun s f => fillFetched s (homeOf c) f) s
  (pagePieces a.toNat n 3).foldl (fun s p => tlbUse s (homeOf c) x.part p.1) s

/-- An image put into a comb's block cache (R114). DESIGN CHOICE, log 7. -/
def cacheImage (s : State) (comb : Nat) (a : W64) (hdr ws : List Word) : State :=
  modComb s comb (fun k => { k with images := ((a, hdr.getD 6 0, hdr ++ ws) :: k.images).take Config.blockImages })

/-- The first word of a fetch that is not yet to be had. -/
def fetchLacks (s : State) (c : Nat) (x : Ctx) (va n : Nat) : Option Nat :=
  ((upTo n).map (fun k => va + 8 * k)).find? (fun a => match fetchWord s c x a with | .ok none => true | _ => false)

/-- Whether the word of a fetch has a far home (R333). -/
def farFetch (s : State) (c : Nat) (x : Ctx) (va : Nat) : Bool :=
  match translate s (homeOf c) x.part va .fetch with
  | .ok t => isFar (homeOf c) t.pa
  | .error _ => false

/-- The host's line snooped for a word of a fetch that the host owns (R143, R346). -/
def snoopFetch (s : State) (c : Nat) (x : Ctx) (va : Nat) : State :=
  match translate s (homeOf c) x.part va .fetch with
  | .ok { place := .home pa, .. } => if hostOwns s.ms (pa / 8) then snoopWords s [pa / 8] else s
  | _ => s

/-- A fetch that waits for a word: once a far home has not replied for 2 ms it faults (R333). -/
def holdFetch (s : State) (c : Nat) (x : Ctx) (a : W64) (va n : Nat) : State :=
  let t := match x.fetch with | some f => if f.1 == a then f.2 else s.gtime | none => s.gtime
  match fetchLacks s c x va n with
  | some w =>
    let s := snoopFetch s c x w
    if overdue s t && farFetch s c x w then addBlock s c (faultBlock x a (0x14, BitVec.ofNat 64 w)) else setCtx s c { x with fetch := some (a, t) }
  | none => s

/-- A block fetched whole after its header: mapped, or faulted (R85, R113, R114). DEDUCED, log 14. -/
def fetchBody (s : State) (c : Nat) (x : Ctx) (a : W64) (h : List Fetched) : State :=
  let hdr := halves (h.map (·.data))
  match (mget {} (homeOf c) s.combs).images.find? (fun i => i.1 == a && i.2.1 == hdr.getD 6 0) with
  | some i => addBlock (afterFetch s c x a 32 h) c (mapBlock (mapEnv s x) x a (i.2.2.take 8) (i.2.2.drop 8) s.cycles 8)
  | none =>
    match fetchWords s c x (a.toNat + 32) (8 * tiersOf hdr) with
    | .error e => addBlock s c (faultBlock x a e)
    | .ok none => holdFetch s c x a (a.toNat + 32) (8 * tiersOf hdr)
    | .ok (some l) =>
      let ws := halves (l.map (·.data))
      let b := mapBlock (mapEnv s x) x a hdr ws s.cycles 40
      let s := afterFetch s c x a (32 + 64 * tiersOf hdr) (h ++ l)
      addBlock (if b.mapTrap.isNone then cacheImage s (homeOf c) a hdr ws else s) c b

/-- BLOCK_FETCH (R85, R105, R113, R114): the block at an address arrives, is checked, cached and mapped. -/
def execBlockFetch (c : Nat) (a : W64) (s : State) : Out :=
  let x := ctxOf s c
  if !mayFetch s x a then .next s
  else if !blockAddrOk a then .next (addBlock s c (faultBlock x a (0x0D, a)))
  else
    match fetchWords s c x a.toNat 4 with
    | .error e => .next (addBlock s c (faultBlock x a e))
    | .ok none => .next (holdFetch s c x a a.toNat 4)
    | .ok (some h) => .next (fetchBody s c x a h)

/-! ## Commit and composition (R39 to R42, R108) -/

/-- BLOCK_COMMIT (R107, R108, R110): the oldest block of a context, settled, commits, is held at step 2, or traps. -/
def execBlockCommit (c : Nat) (s : State) : Out :=
  let x := ctxOf s c
  match x.phase, x.blocks with
  | .running, b :: _ => if settled s c b then .next (commitBlock s c x b) else .next s
  | _, _ => .next s

/-- GROWTH_COMPLETE (R40 to R42, R48): the added combs have room; after a HALT the context then takes its next work. -/
def execGrowthComplete (c : Nat) (s : State) : Out :=
  let x := ctxOf s c
  match x.phase, x.growth with
  | .growing, some g =>
    match growthRoom s c g.k with
    | some bs => let s := growNow s c g bs; .next (if g.halting || g.resume then takeNext s c else s)
    | none => .next s
  | _, _ => .next s

/-- T_compact of a context's partition in ns (R40, R324). -/
def compactNs (s : State) (x : Ctx) : Nat := 1000 * (partOf s x.part).tcomp

/-- COMPACT_TIMEOUT (R40, R42): the contexts in the way of a growth are pre-empted. -/
def execCompactTimeout (c : Nat) (s : State) : Out :=
  let x := ctxOf s c
  match x.phase, x.growth with
  | .growing, some g =>
    let due := g.since + (g.rounds + 1) * compactNs s x
    if s.gtime < due then .next s
    else
      let s1 := (inTheWay s c g.k).foldl (fun s o => requestPreempt s o false) s
      .next (modCtx s1 c (fun x => { x with growth := some { g with rounds := g.rounds + 1 } }))
  | _, _ => .next s

/-- A set-aside task resumed at the composition its context has, which is too small for it (R48). DEDUCED, log 76. -/
def resumeSmall (s : State) (c : Nat) : State :=
  match (ctxOf s c).asides.reverse with
  | r :: rest => match mfind r s.saves with
    | some v => resumeAside s c r rest.reverse v false
    | none => s
  | [] => s

/-- COMPOSITION_REFUSED (R40, R48): a growth incomplete after 2 × T_compact traps, except after a HALT (R42); a resumed task
traps at the composition its context has. DEDUCED, log 76. -/
def execCompositionRefused (c : Nat) (s : State) : Out :=
  let x := ctxOf s c
  match x.phase, x.growth with
  | .growing, some g =>
    if g.halting || s.gtime < g.since + 2 * compactNs s x then .next s
    else
      let t := if g.resume then resumeSmall s c else s
      .next (takeTrap t c 0x15 (BitVec.ofNat 64 g.k) (ctxOf t c).next 0x3FF)
  | _, _ => .next s

/-! ## The matrix unit (R273 to R284) -/

/-- Whether an adaptive pass is squashed and replayed one rank higher (R279). -/
def replays (j : MmaJob) (r : PassResult) : Bool :=
  let t := fun (lo : Nat) => bits j.ppr.toNat lo 8
  j.adaptive && bits j.ppr.toNat 29 2 == 0 && decide (j.rung < j.top)
    && (decide (t 0 < r.satc) || decide (t 8 < r.undc) || (t 16 != 255 && decide (t 16 < r.canc)))

/-- A job's pass over the operands as its block sees them (R279). -/
def passOf (s : State) (x : Ctx) (b : Block) (j : MmaJob) : PassResult :=
  let cin := if j.zc then accData (fun _ _ => mmaIdentity j.mode) else (accSeen s j.ctx x b j.cell j.acc).data
  mmaPassOn j.mode j.rung (bits j.ppr.toNat 24 4) cin (bufSeen s j.ctx x b j.cell j.a) (bufSeen s j.ctx x b j.cell j.b)

/-- The final pass of a job: the shadow, the rank for the counters and the status token (R279 to R283). -/
def endPass (s : State) (x : Ctx) (b : Block) (j : MmaJob) (r : PassResult) : State :=
  let old := (accSeen s j.ctx x b j.cell j.acc).sr
  let s := shade s j.ctx j.tag j.cell j.acc { data := r.data, sr := if j.sticky then j.rung else old }
  let s := modBlock s j.ctx j.tag (fun b => { b with ranks := mput j.idx (j.rung, j.replays) b.ranks })
  finish s ⟨j.ctx, j.tag, j.idx, none, none, none⟩ 0 [j.t0, j.t1] (.s (mmaStatus r j.replays j.start j.rung))

/-- MMA_PASS (R279, R280, R284): a tensor cell's unit ends a pass of its oldest MMA; a squashed pass runs again at the
next rank before any other. -/
def execMmaPass (comb cell : Nat) (s : State) : Out :=
  let key := 4 * comb + cell
  match mget [] key s.jobs with
  | [] => .next s
  | j :: rest =>
    match blockOf (ctxOf s j.ctx) j.tag with
    | none => .next { s with jobs := mput key rest s.jobs }
    | some b =>
      let fin := j.ends.getD (s.cycles + passCc j.mode j.rung)
      let s := advance s (fin - s.cycles)
      let r := passOf s (ctxOf s j.ctx) b j
      if replays j r then
        let j' := { j with rung := j.rung + 1, replays := j.replays + 1, ends := some (fin + passCc j.mode (j.rung + 1)) }
        .next { s with jobs := mput key (j' :: rest) s.jobs }
      else .next (endPass { s with jobs := mput key rest s.jobs } (ctxOf s j.ctx) b j r)

end Sys2Proof.Machine
end

