-- ==== Sys2Proof/Machine/Scalar.lean ====
section
/-! DEFINITION. Scalar integer, bit-field and carry instructions (R69 to R71, R187 to R194). -/

namespace Sys2Proof.Machine

/-- An instruction of an operand and the immediate (R188). -/
def immOp (p : Pr) (lat : Nat) (imm : BitVec 9) (t0 : Target) (f : W64 → W64 → W64) (s : State) : Out :=
  scalar1 p lat [t0] (fun a => f a (imm9 imm)) s

/-- An instruction of three S operands (R89, R168). -/
def scalar3 (ts : List Target) (f : W64 → W64 → W64 → W64) (s : State) : Out :=
  fire3 s (nullTo ts) (fun i _ _ t u w s =>
    match t, u, w with
    | .s a, .s b, .s c => finish s i 1 ts (.s (f a b c))
    | _, _, _ => kindFault s i)

/-- Sum and carry to their targets (R169, R194). -/
def emitCarry (s : State) (i : Issue) (t1 t0 : Target) (r : W64 × W64) : State :=
  setSt (deliver (deliver s i 1 t0 (.s r.1)) i 1 t1 (.s r.2)) i .done

/-- ADD (R187). -/
def execAdd (p : Pr) (t1 t0 : Target) (s : State) : Out := scalar2 p 1 [t0, t1] (fun a b => a + b) s
/-- SUB (R187). -/
def execSub (p : Pr) (t1 t0 : Target) (s : State) : Out := scalar2 p 1 [t0, t1] (fun a b => a - b) s
/-- MUL (R187). -/
def execMul (p : Pr) (t1 t0 : Target) (s : State) : Out := scalar2 p 3 [t0, t1] (fun a b => a * b) s
/-- MULH (R187). -/
def execMulh (p : Pr) (k : MulhKind) (t1 t0 : Target) (s : State) : Out := scalar2 p 3 [t0, t1] (mulHigh k) s
/-- DIV (R187). -/
def execDiv (p : Pr) (g : Sgn) (t1 t0 : Target) (s : State) : Out := scalar2l p (divLat g) [t0, t1] (divide g) s
/-- REM (R187). -/
def execRem (p : Pr) (g : Sgn) (t1 t0 : Target) (s : State) : Out := scalar2l p (divLat g) [t0, t1] (remainder g) s
/-- AND (R187). -/
def execAnd (p : Pr) (t1 t0 : Target) (s : State) : Out := scalar2 p 1 [t0, t1] (fun a b => a &&& b) s
/-- OR (R187). -/
def execOr (p : Pr) (t1 t0 : Target) (s : State) : Out := scalar2 p 1 [t0, t1] (fun a b => a ||| b) s
/-- XOR (R187). -/
def execXor (p : Pr) (t1 t0 : Target) (s : State) : Out := scalar2 p 1 [t0, t1] (fun a b => a ^^^ b) s
/-- ANDN (R187). -/
def execAndn (p : Pr) (t1 t0 : Target) (s : State) : Out := scalar2 p 1 [t0, t1] (fun a b => a &&& ~~~b) s
/-- SHL (R187). -/
def execShl (p : Pr) (t1 t0 : Target) (s : State) : Out := scalar2 p 1 [t0, t1] (fun a b => a <<< shCount b) s
/-- SHR (R187). -/
def execShr (p : Pr) (t1 t0 : Target) (s : State) : Out := scalar2 p 1 [t0, t1] (fun a b => a >>> shCount b) s
/-- SAR (R187). -/
def execSar (p : Pr) (t1 t0 : Target) (s : State) : Out := scalar2 p 1 [t0, t1] (fun a b => a.sshiftRight (shCount b)) s
/-- ROR (R187). -/
def execRor (p : Pr) (t1 t0 : Target) (s : State) : Out := scalar2 p 1 [t0, t1] (fun a b => a.rotateRight (shCount b)) s
/-- MIN (R187). -/
def execMin (p : Pr) (g : Sgn) (t1 t0 : Target) (s : State) : Out := scalar2 p 1 [t0, t1] (minOf g) s
/-- MAX (R187). -/
def execMax (p : Pr) (g : Sgn) (t1 t0 : Target) (s : State) : Out := scalar2 p 1 [t0, t1] (maxOf g) s
/-- ADDI (R188). -/
def execAddi (p : Pr) (imm : BitVec 9) (t0 : Target) (s : State) : Out := immOp p 1 imm t0 (fun a b => a + b) s
/-- MULI (R188). -/
def execMuli (p : Pr) (imm : BitVec 9) (t0 : Target) (s : State) : Out := immOp p 3 imm t0 (fun a b => a * b) s
/-- ANDI (R188). -/
def execAndi (p : Pr) (imm : BitVec 9) (t0 : Target) (s : State) : Out := immOp p 1 imm t0 (fun a b => a &&& b) s
/-- ORI (R188). -/
def execOri (p : Pr) (imm : BitVec 9) (t0 : Target) (s : State) : Out := immOp p 1 imm t0 (fun a b => a ||| b) s
/-- XORI (R188). -/
def execXori (p : Pr) (imm : BitVec 9) (t0 : Target) (s : State) : Out := immOp p 1 imm t0 (fun a b => a ^^^ b) s
/-- SHLI (R188). -/
def execShli (p : Pr) (imm : BitVec 9) (t0 : Target) (s : State) : Out := scalar1 p 1 [t0] (fun a => a <<< imm.toNat) s
/-- SHRI (R188). -/
def execShri (p : Pr) (imm : BitVec 9) (t0 : Target) (s : State) : Out := scalar1 p 1 [t0] (fun a => a >>> imm.toNat) s
/-- SARI (R188). -/
def execSari (p : Pr) (imm : BitVec 9) (t0 : Target) (s : State) : Out := scalar1 p 1 [t0] (fun a => a.sshiftRight imm.toNat) s
/-- CLZ (R189). -/
def execClz (p : Pr) (t1 t0 : Target) (s : State) : Out := scalar1 p 1 [t0, t1] (leadZeros) s
/-- CTZ (R189). -/
def execCtz (p : Pr) (t1 t0 : Target) (s : State) : Out := scalar1 p 1 [t0, t1] (fun a => BitVec.ofNat 64 (lowestSet a.toNat 64)) s
/-- POPC (R189). -/
def execPopc (p : Pr) (t1 t0 : Target) (s : State) : Out := scalar1 p 1 [t0, t1] (popCount) s
/-- BREV (R189). -/
def execBrev (p : Pr) (t1 t0 : Target) (s : State) : Out := scalar1 p 1 [t0, t1] (bitReverse) s
/-- BSWAP (R189). -/
def execBswap (p : Pr) (t1 t0 : Target) (s : State) : Out := scalar1 p 1 [t0, t1] (byteSwap) s
/-- SXB (R189). -/
def execSxb (p : Pr) (t1 t0 : Target) (s : State) : Out := scalar1 p 1 [t0, t1] (fun a => sext a 8) s
/-- SXH (R189). -/
def execSxh (p : Pr) (t1 t0 : Target) (s : State) : Out := scalar1 p 1 [t0, t1] (fun a => sext a 16) s
/-- SXW (R189). -/
def execSxw (p : Pr) (t1 t0 : Target) (s : State) : Out := scalar1 p 1 [t0, t1] (fun a => sext a 32) s
/-- ZXB (R189). -/
def execZxb (p : Pr) (t1 t0 : Target) (s : State) : Out := scalar1 p 1 [t0, t1] (fun a => zext a 8) s
/-- ZXH (R189). -/
def execZxh (p : Pr) (t1 t0 : Target) (s : State) : Out := scalar1 p 1 [t0, t1] (fun a => zext a 16) s
/-- ZXW (R189). -/
def execZxw (p : Pr) (t1 t0 : Target) (s : State) : Out := scalar1 p 1 [t0, t1] (fun a => zext a 32) s
/-- NEG (R189). -/
def execNeg (p : Pr) (t1 t0 : Target) (s : State) : Out := scalar1 p 1 [t0, t1] (fun a => 0 - a) s
/-- NOT (R189). -/
def execNot (p : Pr) (t1 t0 : Target) (s : State) : Out := scalar1 p 1 [t0, t1] (fun a => ~~~a) s
/-- ABS (R189). -/
def execAbs (p : Pr) (t1 t0 : Target) (s : State) : Out := scalar1 p 1 [t0, t1] (absOf) s
/-- LEA (R190). -/
def execLea (p : Pr) (sh : BitVec 3) (t1 t0 : Target) (s : State) : Out := scalar2 p 1 [t0, t1] (fun a b => a + (b <<< sh.toNat)) s
/-- BFX (R191). -/
def execBfx (p : Pr) (sgn : Bool) (t1 t0 : Target) (s : State) : Out := scalar2 p 1 [t0, t1] (fieldExtract sgn) s
/-- BFI (R192). -/
def execBfi (t1 t0 : Target) (s : State) : Out := scalar3 [t0, t1] fieldInsert s
/-- LOP3 (R193). -/
def execLop3 (p : Pr) (imm : BitVec 24) (tt : BitVec 8) (t1 t0 : Target) (s : State) : Out :=
  scalar2 p 1 [t0, t1] (fun a b => lop3 tt a b (imm.signExtend 64)) s
/-- ADDC (R194). -/
def execAddc (p : Pr) (t1 t0 : Target) (s : State) : Out :=
  fire2 p s (nullTo [t0, t1]) (fun i _ _ t u s =>
    match t, u with
    | .s a, .s b => emitCarry s i t1 t0 (carrySum a b false)
    | _, _ => kindFault s i)
/-- ADC (R194). -/
def execAdc (t1 t0 : Target) (s : State) : Out :=
  fire3 s (nullTo [t0, t1]) (fun i _ _ t u w s =>
    match t, u, w with
    | .s a, .s b, .s c => emitCarry s i t1 t0 (carrySum a b (c.getLsbD 0))
    | _, _, _ => kindFault s i)

end Sys2Proof.Machine
end

