-- ==== Sys2Proof/Machine/SchedEvents.lean ====
section
/-! DEFINITION. The dispatch unit's decisions and timers: dispatch, pre-emption and fault decisions, the starvation floor,
reservations and compaction, the save engine, and the no-progress watchdog (R303 to R332). -/

namespace Sys2Proof.Machine

/-! ## Dispatch (R303, R306, R307) -/

/-- A dispatch decision (R306); one that places nothing is followed by a request 10 µs later (R303). DEDUCED, log 69. -/
def execDispatchDecision (part : Nat) (s : State) : Host.Outcome State Fault Refusal :=
  .next (match nextDecision s part with
    | some .dispatch =>
      let r := runPolicy (popDecision s part) part 0 none none
      let out := applyDispatch r.2 part r.1
      match out.1 with
      | some t => t
      | none => modPart out.2 part (fun x => { x with retryAt := x.retryAt ++ [s.gtime + 10000] })
    | _ => s)

/-- 10 µs after a dispatch decision that placed nothing, another is requested (R303). -/
def execDispatchRetry (part : Nat) (s : State) : Host.Outcome State Fault Refusal :=
  .next (if (partOf s part).retryAt.any (fun t => decide (t ≤ s.gtime)) then
      requestDispatch (modPart s part (fun x => { x with retryAt := x.retryAt.filter (fun t => decide (s.gtime < t)) })) part
    else s)

/-! ## Pre-emption (R303, R311, R317) -/

/-- Whether VICT may name a context (R311). DEDUCED, log 24. -/
def victimOk (s : State) (p c : Nat) : Bool :=
  let x := ctxOf s c
  decide (c < 4096) && x.phase != .free && x.part == p && !pinnedCtx s x && x.preempt.isNone
    && (match x.phase with | .parked => false | .saving .. => false | _ => true)

/-- A pre-emption decision (R307, R311): a victim context, or none. -/
def execPreemptionDecision (part queue : Nat) (s : State) : Host.Outcome State Fault Refusal :=
  .next (if nextDecision s part == some (.preempt queue) then
      let r := runPolicy (popDecision s part) part 1 (some queue) none
      match r.1 with
      | .vict c =>
        if c == 0xFFFFFFFF then r.2
        else if victimOk r.2 part c then requestPreempt r.2 c false
        else modPart r.2 part (fun x => { x with inv := true })
      | _ => r.2
    else s)

/-! ## Faults (R325, R326, R328) -/

/-- Whether the next decision of a context's partition is about its trap: whether it is a double fault. -/
def faultNext (s : State) (c : Nat) : Option Bool :=
  match nextDecision s (ctxOf s c).part with
  | some (.fault o dbl) => if o == c then some dbl else none
  | _ => none

/-- A fault decision (R326). -/
def execFaultDecision (ctx : Nat) (s : State) : Host.Outcome State Fault Refusal :=
  .next (match faultNext s ctx with
    | some dbl =>
      let p := (ctxOf s ctx).part
      let s := popDecision s p
      if (ctxOf s ctx).phase != .deciding then s
      else
        let r := runPolicy s p 2 none (some (faultView s ctx dbl))
        applyAction r.2 ctx (faultAction r.1 dbl) dbl
    | none => s)

/-! ## The floor, reservations and compaction (R303, R314, R315) -/

/-- Whether the dispatch unit's check of a partition is due (R303, R314). -/
def checkDue (s : State) (p : Nat) : Bool := isUp s && (partOf s p).en && decide ((partOf s p).checkAt ≤ s.gtime)

/-- The check at every decision request and every 100 µs (R303, R314, R315). -/
def execStarvationCheck (part : Nat) (s : State) : Host.Outcome State Fault Refusal :=
  .next (if checkDue s part then
      modPart (gangCheck (preemptCheck (floorCheck s part) part) part) part (fun x => { x with checkAt := s.gtime + 100000 })
    else s)

/-- Whether the launch whose turn it is begins a reservation now, or is placed past the floor (R314, R315). -/
def gangDue (s : State) (p : Nat) : Bool :=
  let x := partOf s p
  match reserveNext s p with
  | some l => isUp s && x.en && x.reserve.isNone && ((reserveFrames s p l).isSome || (olderUs s (launchOf s l) x.starve && (placeDefault s p l).isSome))
  | none => false

/-- Whether a reservation ends now: its launch fits, or awaits nothing any more (R315). -/
def reservedDue (s : State) (p : Nat) : Bool :=
  match (partOf s p).reserve with
  | some r => isUp s && (!launchReady (launchOf s r.launch) || (reservedPlace s p r).isSome)
  | none => false

/-- A reservation begins, or its launch is placed (R315). -/
def execReservation (part : Nat) (s : State) : Host.Outcome State Fault Refusal :=
  .next (if (partOf s part).reserve.isSome then (if reservedDue s part then tryReserved s part else s)
    else if gangDue s part then gangCheck s part else s)

/-- The reservation whose compaction is due (R315 step 3). -/
def compactionDue (s : State) (p : Nat) : Option Reservation :=
  (partOf s p).reserve.bind (fun r => if isUp s && !r.compacted && decide (r.since + 1000 * (partOf s p).tcomp ≤ s.gtime) then some r else none)

/-- Compaction of a partition's reservation (R315 step 3). -/
def execCompaction (part : Nat) (s : State) : Host.Outcome State Fault Refusal :=
  .next (match compactionDue s part with
    | some r => compactFrames s part r
    | none => s)

/-! ## The save engine (R317 to R319) -/

/-- Whether 1 ms has passed since a context's pre-emption request with no block committed (R317). -/
def preemptOverdue (s : State) (c : Nat) : Bool :=
  let x := ctxOf s c
  let stoppable := match x.phase with | .running => true | .growing => true | .barrier => true | _ => false
  stoppable && !x.retired && x.preempt.any (fun p => p.blocks == 0 && decide (p.since + 1000000 ≤ s.gtime))
    && !(partOf s x.part).poolRetry.contains c && !(partOf s x.part).writeRetry.contains c

/-- A pre-empted context stopped with full state (R317). -/
def execPreemptTimeout (ctx : Nat) (s : State) : Host.Outcome State Fault Refusal :=
  .next (if preemptOverdue s ctx then stopForSave s ctx true else s)

/-- A stopped context's record written once its release and copies have ended: a pre-emption's (R317 to R319), or a
set-aside's (R47). DESIGN CHOICE, log 26. -/
def writeSave (s : State) (c : Nat) : State :=
  let x := ctxOf s c
  match x.phase, x.task, x.saveAt with
  | .saving full _, some t, some run => if saveReady s c x then finishPreempt s c x t full run else s
  | .setAside full, some t, some run => if saveReady s c x then finishAside s c t full run else s
  | _, _, _ => s

/-- SAVE_COMPLETE (R47, R317 to R319): the release that precedes the save goes on, and the record is written. -/
def execSaveComplete (ctx : Nat) (s : State) : Host.Outcome State Fault Refusal :=
  .next (if (ctxOf s ctx).saveAt.isSome then writeSave (pumpCtx s ctx) ctx else s)

/-- The contexts of a partition whose pre-emption waited for pool room, once some has freed: each stops at its point again, with
the record that it then needs (R317, R319). DEDUCED, log 25. -/
def retryReady (s : State) (p : Nat) : List Nat := if (partOf s p).poolFreed then (partOf s p).poolRetry else []

/-- Pre-emptions retried once pool room frees (R319, R336). -/
def execPreemptRetry (part : Nat) (s : State) : Host.Outcome State Fault Refusal :=
  .next ((retryReady s part).foldl (fun s c =>
    let s := modPart s part (fun x => { x with poolRetry := serase c x.poolRetry, poolFreed := false })
    let s := modCtx s c (fun x => { x with preempt := x.preempt.map (fun p => { p with since := s.gtime, blocks := 0 }) })
    if (ctxOf s c).phase == .parked then stopForSave s c true else s) s)

/-! ## The watchdog (R332) -/

/-- Whether a context has made no progress for 2^20 cc (R332). -/
def stuckCtx (s : State) (c : Nat) : Bool :=
  let x := ctxOf s c
  x.phase == .running && !x.blocks.isEmpty && !heldStill s c x && decide (Config.watchdogCc ≤ x.idle)

/-- The no-progress watchdog's trap, with which its count begins again (R332). DEDUCED, log 77. -/
def execNoProgress (ctx : Nat) (s : State) : Host.Outcome State Fault Refusal :=
  .next (if stuckCtx s ctx then
      match (ctxOf s ctx).blocks with
      | b :: _ => modCtx (takeTrap s ctx 0x13 0 b.addr 0x3FF) ctx (fun x => { x with idle := 0 })
      | [] => s
    else s)

end Sys2Proof.Machine
end

