-- ==== Sys2Proof/Machine/Crypto.lean ====
section
/-! DEFINITION. SHA-256 and the verification of ECDSA P-256 signatures, as the boot ROM uses them (R361, R362, R365). The
two algorithms are the published standards the spec names; numbers are big-endian byte strings as those standards have
them. -/

namespace Sys2Proof.Machine

/-! ## SHA-256 -/

/-- The largest r below 2^bits over `acc` with r^k ≤ n, found bit by bit. -/
def rootFloor (k n : Nat) : Nat → Nat → Nat
  | 0, acc => acc
  | b + 1, acc => rootFloor k n b (if (acc + 2 ^ b) ^ k ≤ n then acc + 2 ^ b else acc)

/-- The first 64 primes: the numbers from 2 to 311 that no smaller number up to 17 divides. -/
def smallPrimes : List Nat := (rangeFrom 2 310).filter (fun p => (rangeFrom 2 16).all (fun d => decide (p ≤ d) || p % d != 0))

/-- The first 32 bits of the fraction of a prime's k-th root: the standard defines its constants so. -/
def rootWord (k p : Nat) : Word := BitVec.ofNat 32 (rootFloor k (p * 2 ^ (32 * k)) 35 0)

/-- SHA-256's round constants, of cube roots. -/
def shaK : List Word := smallPrimes.map (rootWord 3)

/-- SHA-256's initial hash value, of square roots. -/
def shaInit : List Word := (smallPrimes.take 8).map (rootWord 2)

/-- A number's n bytes, most significant first. -/
def beBytes : Nat → Nat → List Byte
  | 0, _ => []
  | n + 1, x => BitVec.ofNat 8 (x / 2 ^ (8 * n)) :: beBytes n x

/-- Bytes as a number, most significant first. -/
def beNat (l : List Byte) : Nat := l.foldl (fun a b => 256 * a + b.toNat) 0

/-- Bytes as a number, least significant first (R12). -/
def leNat (l : List Byte) : Nat := l.foldr (fun b a => b.toNat + 256 * a) 0

/-- A message padded to whole blocks of 64 bytes. -/
def shaPad (l : List Byte) : List Byte :=
  l ++ [0x80] ++ (upTo ((119 - l.length % 64) % 64)).map (fun _ => (0 : Byte)) ++ beBytes 8 (8 * l.length)

/-- The message schedule: the last sixteen words, newest last, and the words so far. -/
def shaExpand : Nat → List Word → List Word
  | 0, _ => []
  | n + 1, w =>
    let at_ : Nat → Word := fun k => w.getD k 0
    let s0 := (at_ 1).rotateRight 7 ^^^ (at_ 1).rotateRight 18 ^^^ (at_ 1 >>> 3)
    let s1 := (at_ 14).rotateRight 17 ^^^ (at_ 14).rotateRight 19 ^^^ (at_ 14 >>> 10)
    at_ 0 :: shaExpand n (w.drop 1 ++ [at_ 0 + s0 + at_ 9 + s1])

/-- One round on the eight working words. -/
def shaRound (h : List Word) (kw : Word × Word) : List Word :=
  let at_ : Nat → Word := fun k => h.getD k 0
  let e := at_ 4
  let a := at_ 0
  let s1 := e.rotateRight 6 ^^^ e.rotateRight 11 ^^^ e.rotateRight 25
  let ch := (e &&& at_ 5) ^^^ (~~~e &&& at_ 6)
  let t1 := at_ 7 + s1 + ch + kw.1 + kw.2
  let s0 := a.rotateRight 2 ^^^ a.rotateRight 13 ^^^ a.rotateRight 22
  let maj := (a &&& at_ 1) ^^^ (a &&& at_ 2) ^^^ (at_ 1 &&& at_ 2)
  [t1 + s0 + maj, a, at_ 1, at_ 2, at_ 3 + t1, e, at_ 5, at_ 6]

/-- One block of 64 bytes. -/
def shaBlock (h : List Word) (blk : List Byte) : List Word :=
  let w := (upTo 16).map (fun k => BitVec.ofNat 32 (beNat ((blk.drop (4 * k)).take 4)))
  let out := (shaK.zip (shaExpand 64 w)).foldl shaRound h
  h.zipWith (· + ·) out

/-- The blocks of a padded message. -/
def shaBlocks : Nat → List Word → List Byte → List Word
  | 0, h, _ => h
  | n + 1, h, l => if l.isEmpty then h else shaBlocks n (shaBlock h (l.take 64)) (l.drop 64)

/-- SHA-256 of a byte string, as a number. PRESUMED, log 47. -/
def sha256 (l : List Byte) : Nat :=
  let p := shaPad l
  (shaBlocks (p.length / 64) shaInit p).foldl (fun a (w : Word) => 2 ^ 32 * a + w.toNat) 0

/-! ## ECDSA P-256 -/

/-- The curve's field, order, coefficient b and generator. -/
def p256P : Nat := 0xffffffff00000001000000000000000000000000ffffffffffffffffffffffff
def p256N : Nat := 0xffffffff00000000ffffffffffffffffbce6faada7179e84f3b9cac2fc632551
def p256B : Nat := 0x5ac635d8aa3a93e7b3ebbd55769886bc651d06b0cc53b0f63bce3c3e27d2604b
def p256G : Nat × Nat :=
  (0x6b17d1f2e12c4247f8bce6e563a440f277037d812deb33a0f4a13945d898c296,
   0x4fe342e2fe1a7f9b8ee7eb4a7c0f9e162bce33576b315ececbb6406837bf51f5)

/-- A power modulo m by squaring, `n` bits of exponent. -/
def powModB (m : Nat) : Nat → Nat → Nat → Nat
  | 0, _, _ => 1 % m
  | n + 1, b, e => let r := powModB m n (b * b % m) (e / 2); if e % 2 == 1 then b * r % m else r

/-- The inverse modulo a prime. -/
def invMod (m a : Nat) : Nat := powModB m 256 (a % m) (m - 2)

/-- A difference modulo m. -/
def subMod (m a b : Nat) : Nat := (a % m + (m - b % m)) % m

/-- The sum of two points; none is the point at infinity. -/
def ecAdd (a b : Option (Nat × Nat)) : Option (Nat × Nat) :=
  let p := p256P
  match a, b with
  | none, _ => b
  | _, none => a
  | some (x1, y1), some (x2, y2) =>
    if x1 == x2 && (y1 + y2) % p == 0 then none
    else
      let l := if x1 == x2 then (3 * x1 * x1 + p - 3) * invMod p (2 * y1) % p else subMod p y2 y1 * invMod p (subMod p x2 x1) % p
      let x := subMod p (l * l) (x1 + x2)
      some (x, subMod p (l * subMod p x1 x) y1)

/-- A multiple of a point, `n` bits of multiplier. -/
def ecMul : Nat → Nat → Option (Nat × Nat) → Option (Nat × Nat)
  | 0, _, _ => none
  | n + 1, k, q => let r := ecMul n (k / 2) (ecAdd q q); if k % 2 == 1 then ecAdd q r else r

/-- Whether a point lies on the curve. -/
def onCurve (q : Nat × Nat) : Bool :=
  let p := p256P
  decide (q.1 < p) && decide (q.2 < p) && q.2 * q.2 % p == (q.1 * q.1 * q.1 + (p - 3) * q.1 + p256B) % p

/-- Whether (r, s) is a signature of a message's hash under a public key. PRESUMED, log 47. -/
def ecdsaVerify (key : Nat × Nat) (hash r s : Nat) : Bool :=
  let n := p256N
  if r == 0 || s == 0 || n ≤ r || n ≤ s || !onCurve key then false
  else
    let w := invMod n s
    match ecAdd (ecMul 256 (hash * w % n) (some p256G)) (ecMul 256 (r * w % n) (some key)) with
    | some q => q.1 % n == r
    | none => false

end Sys2Proof.Machine
end

