-- ==== Sys2Proof/Machine/Start.lean ====
section
/-! DEFINITION. Start-up: the firmware image and the keys the boot ROM accepts, the stages of a start, recovery mode, and
the mailbox's commands (R356, R361 to R365). -/

namespace Sys2Proof.Machine

/-! ## Images (R361, R362) -/

/-- A little-endian field of a byte string (R12). PRESUMED, log 47. -/
def leField (b : List Byte) (off n : Nat) : Nat := leNat ((b.drop off).take n)

/-- A big-endian number of a byte string, as SHA-256 and ECDSA have them. PRESUMED, log 47. -/
def beField (b : List Byte) (off n : Nat) : Nat := beNat ((b.drop off).take n)

/-- The key a KEYSEL value selects, when the owner state accepts it (R362). DESIGN CHOICE, log 48. -/
def acceptedKey (m : Mod) (keysel : Nat) : Option (Nat × Nat) :=
  match m.always.owner, keysel with
  | none, 0 => some Config.vendorKey
  | none, _ => none
  | some o, 0 => if o.2.2 then some Config.vendorKey else none
  | some o, _ => some (o.1, o.2.1)

/-- KEYSEL of an image (R361). -/
def imageKeysel (i : Image) : Nat := match i with | .shipped => 0 | .staged b => leField b 0 8 % 2

/-- FWVER of an image (R361). DESIGN CHOICE, log 48. -/
def imageVersion (i : Image) : BitVec 16 :=
  match i with
  | .shipped => 0
  | .staged b => BitVec.ofNat 16 (bits (leField b 0 8) 16 16)

/-- BODYHASH of an image (R361). DESIGN CHOICE, log 48. -/
def imageHash (i : Image) : Nat := match i with | .shipped => Config.shippedHash | .staged b => beField b 0x10 32

/-- A header of R361: MAGIC, reserved bits zero, a body of at most 64 MiB that is there. PRESUMED, log 47. -/
def headerWellFormed (b : List Byte) : Bool :=
  let h := leField b 0 8
  let len := leField b 8 8
  bits h 32 32 == 0x5058494D && bits h 1 15 == 0 && decide (len ≤ 0x4000000) && decide (0x70 + len ≤ b.length)

/-- An image the boot ROM accepts (R362). The image the part is delivered with is signed with the vendor key.
PRESUMED, log 47; DESIGN CHOICE, log 48. -/
def imageOk (m : Mod) (i : Image) : Bool :=
  match acceptedKey m (imageKeysel i), i with
  | none, _ => false
  | some _, .shipped => true
  | some key, .staged b =>
    headerWellFormed b && sha256 ((b.drop 0x70).take (leField b 8 8)) == beField b 0x10 32
      && ecdsaVerify key (sha256 (b.take 0x30)) (beField b 0x30 32) (beField b 0x50 32)

/-! ## Starts (R356, R363, R364) -/

/-- The module registers as a start leaves them: the always-on store, the flash and the time epoch stay; a warm start also
keeps the image in use and TRIP. DESIGN CHOICE, log 1; DEDUCED, log 43. -/
def startMod (m : Mod) (warm : Bool) : Mod :=
  { always := m.always, flash := m.flash, stepping := m.stepping, fwver := m.fwver, epoch := m.epoch + 1
    running := if warm then m.running else none
    trip := warm && m.trip, code := m.code, stopClock := m.stopClock
    temp := m.temp, pwrnow := m.pwrnow
    warm := warm, stage := 1, power := if !warm && decide (3 ≤ m.always.fails) then .recovery else .starting }

/-- A start begun (R363): every register at its reset value, no partition enabled, no frame owned; memory and SRAM keep
their contents until their stages. DEDUCED, log 43. -/
def beginStart (s : State) (warm : Bool) : State :=
  { State.reset with
    agenda := s.agenda, fresh := s.fresh, seq := s.seq, irqs := s.irqs
    ms := { mem := s.ms.mem, poison := s.ms.poison, remote := s.ms.remote, codes := s.ms.codes }
    tbufs := s.tbufs, taccs := s.taccs
    md := startMod s.md warm }

/-- Stage 1: the image retained by a warm start, where its hash is the one recorded, or else the flash's verified (R362, R363);
recovery mode where there is none that is acceptable (R364). DEDUCED, log 43. -/
def loadStage (m : Mod) (retainedOk : Bool) : Mod :=
  match (if retainedOk then m.running else none), m.flash with
  | some _, _ => { m with stage := 2 }
  | none, some i =>
    if imageOk m i then { m with stage := 2, running := some i, fwver := imageVersion i } else { m with power := .recovery }
  | none, none => { m with power := .recovery }

/-- Stage 3 of a cold start: zeros in HBM and the second tier, and no poison there (R363). DEDUCED, log 43. -/
def zeroMemory (m : MemSys) : MemSys :=
  { m with mem := m.mem.filter (fun c => !isLocal c.1), poison := m.poison.filter (fun w => !isLocal (8 * w))
           codes := m.codes.filter (fun p => !isLocal (32 * p.1)) }

/-- Stage 5: every SRAM of the four dies scrubbed (R363). DEDUCED, log 43. -/
def scrubSram (s : State) : State :=
  { s with ms := { s.ms with mem := s.ms.mem.filter (fun c => isLocal c.1), poison := s.ms.poison.filter (fun w => isLocal (8 * w))
                             codes := s.ms.codes.filter (fun p => isLocal (32 * p.1))
                             hives := [], caches := [] }
           tbufs := [], taccs := [], cells := [], combs := [] }

/-- The stage in progress ends well (R363); `retainedOk` tells whether what a warm start kept has passed its check.
DESIGN CHOICE, log 1. -/
def nextStage (s : State) (retainedOk : Bool) : State :=
  let m := s.md
  let up : State → State := fun s => { s with md := { s.md with stage := m.stage + 1 } }
  match m.stage with
  | 1 => { s with md := loadStage m retainedOk }
  | 3 => up (if m.warm then s else { s with ms := zeroMemory s.ms })
  | 5 => up (scrubSram s)
  | 6 => { s with md := { m with stage := 7, power := .running, ports := 0xFFFF, always := { m.always with fails := 0 } } }
  | _ => up s

/-- A stage other than stage 1 failed (R364): counted and recorded, and a cold start follows, or recovery mode. -/
def failStart (s : State) (code : BitVec 8) : State :=
  let m := s.md
  let a := { m.always with fails := m.always.fails + 1, lastStage := m.stage }
  beginStart { s with md := { m with always := a, code := code } } false

/-! ## Mailbox commands (R362, R364, R365) -/

/-- Whether a command is running and has not ended. -/
def cmdRuns (s : State) (cmd : Nat) : Bool := s.md.busy && s.md.pending == cmd

/-- A command's end: its RESULT waits for MAILBOX_COMMAND_COMPLETE. -/
def cmdEnd (s : State) (result : Nat) : State := { s with md := { s.md with pending := 0x100 + result } }

/-- Whether IMGCHUNK, IMGCOMMIT and OWNER are refused: in normal mode, while a partition has EN = 1 (R365).
DEDUCED, log 45. -/
def cmdRefused (s : State) : Bool := s.md.power != .recovery && (upTo 16).any (fun p => (partOf s p).en)

/-- Bytes of the mailbox buffer. -/
def bufBytes (m : Mod) (n : Nat) : List Byte := (upTo n).map (fun k => mget 0 k m.buf)

/-- The mailbox buffer with bytes from its start. -/
def putBuf (m : Mod) (l : List Byte) : Mod := { m with buf := l.zipIdx.foldl (fun b x => mput x.2 x.1 b) m.buf, mblen := l.length }

/-- IMGCHUNK: LEN bytes appended at ARG × 4,096, offsets in order from 0 (R365), offset 0 starting a new image. DESIGN CHOICE,
log 115. -/
def runImgchunk (s : State) : State :=
  let m := s.md
  let off := 4096 * m.arg.toNat
  if cmdRefused s || 4096 < m.mblen || (off != 0 && off != m.staging.length) then cmdEnd s 1
  else cmdEnd { s with md := { m with staging := (if off == 0 then [] else m.staging) ++ bufBytes m m.mblen } } 0

/-- IMGCOMMIT: the staged image verified and written to the single slot; a write that the flash fails leaves no acceptable
image (R365). DEDUCED, log 46. -/
def runImgcommit (written : Bool) (s : State) : State :=
  let m := s.md
  if cmdRefused s then cmdEnd s 1
  else if imageOk m (.staged m.staging) then
    if !written then cmdEnd { s with md := { m with flash := none } } 3
    else cmdEnd { s with md := { m with flash := some (.staged m.staging), always := { m.always with fails := 0, lastStage := 0 } } } 0
  else cmdEnd s 2

/-- A P-256 public key's bytes: its two coordinates. PRESUMED, log 47. -/
def keyBytes (k : Nat × Nat) : List Byte := beBytes 32 k.1 ++ beBytes 32 k.2

/-- The fields ATTEST signs (R365): FWVER, BODYHASH, the accepted key's SHA-256, BOOTSTAT and the nonce;
where no image runs, those of the shipped image. DESIGN CHOICE, log 10, log 115. -/
def attestFields (s : State) : List Byte :=
  let m := s.md
  let le : Nat → Nat → List Byte := fun n x => (beBytes n x).reverse
  let i := m.running.getD .shipped
  le 2 m.fwver.toNat ++ beBytes 32 (imageHash i) ++ beBytes 32 (sha256 (keyBytes ((acceptedKey m (imageKeysel i)).getD Config.vendorKey)))
    ++ le 8 (mailRead s 0x18) ++ bufBytes m 32

/-- ATTEST: the signed report returned in BUF (R365). DESIGN CHOICE, log 10. -/
def runAttest (s : State) : State :=
  let f := attestFields s
  cmdEnd { s with md := putBuf s.md (f ++ beBytes 64 (Config.identitySignature (beNat f))) } 0

/-- OWNER: the transfer record in BUF enrolled when its authority signed it and its number is higher (R362). The record:
sequence number, the key's two coordinates, VOK in bit 0 of the byte at 72, and at 80 the signature over what precedes.
DESIGN CHOICE, log 10. -/
def runOwner (s : State) : State :=
  let m := s.md
  let b := bufBytes m 144
  let authority := match m.always.owner with | none => Config.vendorKey | some o => (o.1, o.2.1)
  let n := leField b 0 8
  if cmdRefused s then cmdEnd s 1
  else if !ecdsaVerify authority (sha256 (b.take 80)) (beField b 80 32) (beField b 112 32) then cmdEnd s 2
  else if n ≤ m.always.seqNo then cmdEnd s 1
  else cmdEnd { s with md := { m with always := { m.always with owner := some (beField b 8 32, beField b 40 32, leField b 72 1 % 2 == 1), seqNo := n } } } 0

end Sys2Proof.Machine
end

