-- ==== Sys2Proof/Machine/SysEvents.lean ====
section
/-! DEFINITION. Events from outside the cores: the host, other modules, the network, time, errors, clock and temperature,
start-up, register writes and mailbox commands (R14, R161, R290, R291, R336 to R369). -/

namespace Sys2Proof.Machine

/-! ## The host's accesses to device memory (R150, R346) -/

/-- The words that n bytes at a physical address touch. -/
def wordsOf (pa n : Nat) : List Nat := if n == 0 then [] else rangeFrom (pa / 8) ((pa + n - 1) / 8 + 1 - pa / 8)

/-- Words read at their homes from a word on: data and whether one is poisoned. -/
def takeWords (m : MemSys) (w : Nat) : Nat → (Nat × Bool) × MemSys
  | 0 => ((0, false), m)
  | n + 1 =>
    let t := takeHome m w
    let r := takeWords t.2 (w + 1) n
    ((t.1.1.toNat + 2 ^ 64 * r.1.1, t.1.2 || r.1.2), r.2)

/-- n bytes written at a physical address by an agent that keeps no copy, with the host as owner or none. -/
def putRange (s : State) (pa n data : Nat) (host : Bool) : State :=
  (cutPieces pa n data).foldl (fun s p =>
    let v := pieceWord ({ va := p.va, pa := p.va, n := p.n, pos := 0, scratch := false } : LPiece) p.data
    let s := putHome s (p.va / 8) v.1 v.2 false
    if host then { s with ms := { s.ms with owners := mput (p.va / 8) .host s.ms.owners } } else s) s

/-- A line of device memory read by the host (R346): none while a word of it must wait, or its slice has no room to track the line,
for which another is back-invalidated. DEDUCED, log 17. -/
def hostLine (s : State) (pa : Nat) : Option State :=
  let w := pa / 64 * 8
  if (rangeFrom w 8).any (fun w => withheld s.ms w || delayedAt s w) || !trackRoom s.ms (lineOf w) then none
  else
    let r := takeWords s.ms w 8
    some { s with ms := { trackLine r.2 (lineOf w) with lastHostRead := some (BitVec.ofNat 512 r.1.1, r.1.2) } }

/-- n bytes of a line written by the host, registered with it as owner (R150); none while they must wait. -/
def hostPut (s : State) (pa n data : Nat) : Option State :=
  let ws := wordsOf pa n
  if ws.any (fun w => withheld s.ms w || leased s w) then none else some (putRange s pa n data true)

/-- BISNP_RESPONSE (R346): the host's response to a back-invalidate; dirty data is written first and registered to it.
DEDUCED, log 17. -/
def execBisnpResponse (line : Nat) (dirty : Option (BitVec 512)) (s : State) : Host.Outcome State Fault Refusal :=
  if !s.ms.snoops.contains line then .next s
  else
    let s := match dirty with
      | some d => putRange s (64 * line) 64 d.toNat true
      | none => s
    .next (drainAll { s with ms := untrackLine s.ms line })

/-! ## Requests of other modules (R161, R354) -/

/-- Whether an enabled inbound window accepts a request (R354). DEDUCED, log 50. -/
def inboundOk (s : State) (pa : Nat) (write : Bool) : Bool :=
  (upTo 16).any (fun w =>
    let a := mget 0 (2 * w) s.inbound
    let l := mget 0 (2 * w + 1) s.inbound
    a.getLsbD 63 && (!write || a.getLsbD 62) && decide (2 ^ 12 * bits a.toNat 12 40 ≤ pa) && decide (pa < 2 ^ 12 * bits l.toNat 12 40))

/-- The answer to a request from outside; none where it was refused. -/
def answer (s : State) (r : Option Nat) : State := { s with ms := { s.ms with lastReply := r.map (BitVec.ofNat 512) } }

/-- A remote lease's length in µs (R354): PLEASE of the partition that owns frames of the die where the memory lies, 10 where none
does; of several owners one freely chosen. DEDUCED, log 12. -/
def leaseUs (s : State) (pa : Nat) : Nat :=
  let ps := (rangeFrom (16 * homeDie pa) 16).foldl (fun acc f => match (mget {} f s.frames).owner with | some p => sinsert p acc | none => acc) []
  match ps with
  | [] => 10
  | _ => (partOf s (ps.getD ((Config.freeWord s.fresh).toNat % ps.length) 0)).lease

/-- A lease of a region granted to another module (R161): the home records its expiry. DEDUCED, log 12. -/
def grantLease (s : State) (pa : Nat) : State :=
  let t := s.gtime + 1000 * leaseUs s pa
  bumpFresh { s with ms := { s.ms with leases := mmod 0 (pa / 512) (fun e => max e t) s.ms.leases } }

/-- The line of an address read for another module and the request answered; none while a word must wait. -/
def lineReply (s : State) (pa : Nat) : Option State :=
  let w := pa / 64 * 8
  if (rangeFrom w 8).any (readBusy s) then none
  else
    let r := takeWords s.ms w 8
    some (answer { s with ms := r.2 } (some r.1.1))

/-- An atomic of another module or of the network at its home (R228, R354, R359); none while it must wait. -/
def atomicReply (s : State) (raw : Bool) (pa n : Nat) (op : StoreOp) : Option State :=
  if homeBusy s (pa / 8) then none
  else
    let r := atomicApply op (amoOld s (.home pa) n)
    some (answer (amoHome s raw pa n r.1) (some r.2.toNat))

/-- An accepted request performed as an access by another module (R144, R354); none while it must wait. DEDUCED, log 50. -/
def fabricPerform (s : State) (pa : Nat) (op : FabricOp) : Option State :=
  match op with
  | .read => lineReply s pa
  | .write n data => if (wordsOf pa n).any (homeBusy s) then none else some (answer (putRange s pa n data.toNat false) (some 0))
  | .amo o wid v =>
    let op : StoreOp := .amo o wid (BitVec.ofNat 64 pa) v .none
    atomicReply s false pa (atomicShape op).1 op
  | .cas wid c v =>
    let op : StoreOp := .cas wid (BitVec.ofNat 64 pa) c v .none
    atomicReply s false pa (atomicShape op).1 op
  | .lease => (lineReply s pa).map (fun s => grantLease s pa)

/-- Whether a fabric request writes (R354). -/
def fabricWrites (op : FabricOp) : Bool := match op with | .read => false | .lease => false | _ => true

/-! ## Inbound RDMA (R359) -/

/-- The first entry of a partition's remote-access table that names a key: its four words; none where there is none
(R359). DEDUCED, log 51. -/
def remoteEntry (s : State) (p : Nat) (rkey : Nat) : Nat → Nat → Except (BitVec 8 × Nat) (Option (List W64))
  | 0, _ => .ok none
  | fuel + 1, k =>
    match devWords s p ((partOf s p).mrbase.toNat + 32 * k) 4 with
    | .error e => .error e
    | .ok e => if bits (dw e 0) 32 32 == rkey then .ok (some e) else remoteEntry s p rkey fuel (k + 1)

/-- Whether an entry lets an operation through: every byte covered, W for a write or atomic, reserved fields zero (R15,
R359). DEDUCED, log 51. -/
def entryCovers (e : List W64) (va n : Nat) (write : Bool) : Bool :=
  bits (dw e 0) 1 31 == 0 && dw e 3 == 0 && (!write || bits (dw e 0) 0 1 == 1) && decide (dw e 1 ≤ va) && decide (va + n ≤ dw e 1 + dw e 2)

/-- The pieces of a range within words, each with its physical place, when all translate (R359). -/
def rdmaPlaces (s : State) (p va n data : Nat) (acc : Acc) : Option (List (Piece × Place)) :=
  (cutPieces va n data).mapM (fun x => match devAddr s p x.va acc with | .ok pl => some (x, pl) | .error _ => none)

/-- Whether the page of a partition's address is never cached (R159). -/
def devRaw (s : State) (p va : Nat) (acc : Acc) : Bool := match devTrans s p va acc with | .ok t => t.mode == 3 | .error _ => false

/-- The words of some places that have home slices here. -/
def homeWords (ps : List (Piece × Place)) : List Nat := ps.filterMap (fun x => match x.2 with | .home pa => some (pa / 8) | _ => none)

/-- The word by which a place's accesses wait: its own at its home, its `remoteTag` on another module (R161). -/
def waitWord (pl : Place) : Option Nat :=
  match pl with
  | .home pa => some (pa / 8)
  | .remote m a => some (remoteTag (remoteKey m a))
  | _ => none

/-- The words by which the accesses of some places wait. -/
def waitWordsOf (ps : List (Piece × Place)) : List Nat := ps.filterMap (fun x => waitWord x.2)

/-- Whether the word of a place is poisoned (R339). -/
def placePoison (s : State) (pl : Place) : Bool :=
  match pl with
  | .home pa => (coherentWord s.ms (pa / 8)).2
  | .remote m a => (remoteWord s.ms (remoteKey m a)).2
  | .hostMem a => (remoteWord s.ms (remoteKey 4096 a)).2
  | _ => false

/-- An inbound write performed (R359); none while it must wait. -/
def rdmaWrite (s : State) (p va n data : Nat) : Option State :=
  match rdmaPlaces s p va n data .wr with
  | none => some (answer s none)
  | some ps =>
    let raw : Nat → Bool := fun a => devRaw s p a .wr
    if (waitWordsOf ps).any (homeBusy s) then none
    else some (answer (ps.foldl (fun s x => (putPlace s (some x.2) x.1.n x.1.data (raw x.1.va) none).getD s) s) (some 0))

/-- An inbound read performed (R359); poison is a fault. -/
def rdmaRead (s : State) (p va n : Nat) : Option State :=
  match rdmaPlaces s p va n 0 .rd with
  | none => some (answer s none)
  | some ps =>
    if (waitWordsOf ps).any (readBusy s) then none
    else if ps.any (fun x => placePoison s x.2) then some (answer s none)
    else
      let d := ps.foldr (fun x acc => amoOld s x.2 x.1.n + 2 ^ (8 * x.1.n) * acc) 0
      some (answer { s with ms := (homeWords ps).foldl (fun m w => recallWord m w) s.ms } (some d))

/-- An inbound fetch-and-add, performed as AMO `.add.d` is (R359). -/
def rdmaAdd (s : State) (p va : Nat) (v : W64) : Option State :=
  let op : StoreOp := .amo .add .d (BitVec.ofNat 64 va) v .none
  if va % 8 != 0 then some (answer s none)
  else
    match devAddr s p va .rw with
    | .error _ => some (answer s none)
    | .ok (.home pa) => atomicReply s (devRaw s p va .rw) pa 8 op
    | .ok pl =>
      if (waitWord pl).any (homeBusy s) then none else
      let r := atomicApply op (amoOld s pl 8)
      some (answer ((putPlace s (some pl) 8 r.1 true none).getD s) (some r.2.toNat))

/-- The words of the remote-access table that a request's search may read (R359). -/
def tableReads (s : State) (p : Nat) : List (Nat × Nat) := [((partOf s p).mrbase.toNat, 32 * (partOf s p).mrcnt)]

/-- An inbound operation performed: one that the remote-access table accepts, or else answered with a remote access error (R336,
R359); none while it must wait. DEDUCED, log 31. -/
def rdmaPerform (s : State) (part : Nat) (rkey : BitVec 32) (va : W64) (op : RdmaOp) : Option State :=
  let sh : Nat × Bool := match op with | .write n _ => (n, true) | .read n => (n, false) | .fetchAdd _ => (8, true)
  if (readWaits s part 0 (tableReads s part)).isSome then none
  else
    match remoteEntry s part rkey.toNat (partOf s part).mrcnt 0 with
    | .error e => some (answer (deviceFault s part e 0 0) none)
    | .ok none => some (answer s none)
    | .ok (some e) =>
      if !entryCovers e va.toNat sh.1 sh.2 then some (answer s none)
      else
        match op with
        | .write n data => rdmaWrite s part va.toNat n data.toNat
        | .read n => rdmaRead s part va.toNat n
        | .fetchAdd v => rdmaAdd s part va.toNat v

/-! ## Requests from outside, in their order (R143, R144, R161, R346, R359) -/

/-- A request from outside performed, or none while it must wait. -/
def outsidePerform (s : State) (o : Outside) : Option State :=
  match o with
  | .hostRead pa => hostLine s pa
  | .hostWrite pa n data => hostPut s pa n data.toNat
  | .fabric _ pa op => fabricPerform s pa op
  | .rdma part _ rkey va op => rdmaPerform s part rkey va op

/-- The home words that a request from outside writes. -/
def outsideWrites (s : State) (o : Outside) : List Nat :=
  match o with
  | .hostRead _ => []
  | .hostWrite pa n _ => wordsOf pa n
  | .fabric _ pa op => match op with
    | .write n _ => wordsOf pa n
    | .amo .. => [pa / 8]
    | .cas .. => [pa / 8]
    | _ => []
  | .rdma part _ _ va op =>
    let n := match op with | .write n _ => n | .fetchAdd _ => 8 | .read _ => 0
    waitWordsOf ((rdmaPlaces s part va.toNat n 0 .wr).getD [])

/-- The home words that a request from outside reads. -/
def outsideReads (s : State) (o : Outside) : List Nat :=
  match o with
  | .hostRead pa => rangeFrom (pa / 64 * 8) 8
  | .fabric _ pa op => match op with | .read => rangeFrom (pa / 64 * 8) 8 | .lease => rangeFrom (pa / 64 * 8) 8 | _ => []
  | .rdma part _ _ va (.read n) => homeWords ((rdmaPlaces s part va.toNat n 0 .rd).getD [])
  | _ => []

/-- Whether two requests from outside keep their order: the host's or one module's to one line, and those of one queue pair
(R359). DESIGN CHOICE, log 101. -/
def sameOrder (a b : Outside) : Bool :=
  match a, b with
  | .rdma p q _ _ _, .rdma p' q' _ _ _ => p == p' && q == q'
  | .fabric m pa _, .fabric m' pa' _ => m == m' && pa / 64 == pa' / 64
  | .hostRead pa, .hostRead pa' => pa / 64 == pa' / 64
  | .hostRead pa, .hostWrite pa' _ _ => pa / 64 == pa' / 64
  | .hostWrite pa _ _, .hostRead pa' => pa / 64 == pa' / 64
  | .hostWrite pa _ _, .hostWrite pa' _ _ => pa / 64 == pa' / 64
  | _, _ => false

/-- What a request that must wait sets going: snoops of the host's lines, a line back-invalidated for room, and the end of leases
awaited (R161, R346). The host's own line is no obstacle to the host. -/
def outsideWait (s : State) (n : Nat) (o : Outside) : State :=
  let s := delayFor s n (outsideWrites s o)
  match o with
  | .hostRead pa =>
    if trackRoom s.ms (lineOf (pa / 64 * 8)) then s
    else match lineToSnoop s.ms (lineOf (pa / 64 * 8)) with
      | some l => if s.ms.snoops.any (fun k => homeSlice (64 * k) == homeSlice (64 * l)) then s else { s with ms := snoopLine s.ms l }
      | none => s
  | .hostWrite .. => s
  | o => snoopWords s (outsideWrites s o ++ (outsideReads s o).filter (hostOwns s.ms))

/-- A request from outside tried: performed and gone, or it waits. -/
def tryOutside (s : State) (n : Nat) : State :=
  match mfind n s.ms.outside with
  | none => s
  | some o =>
    if s.ms.outside.any (fun p => decide (p.1 < n) && sameOrder p.2 o) then s
    else match outsidePerform s o with
      | some t => { t with ms := undelay { t.ms with outside := mdel n t.ms.outside } n }
      | none => outsideWait s n o

/-- A request from outside arrives. -/
def addOutside (s : State) (o : Outside) : State :=
  tryOutside (bumpSeq { s with ms := { s.ms with outside := mput s.seq o s.ms.outside } }) s.seq

/-- A configuration read of the host (R343): the register's word, or an Unsupported Request. -/
def hostCfgRead (s : State) (fn off : Nat) : State :=
  let v := if decide (off < Config.cfgBytes) && cfgReach s (.hostFn fn) off then some ((cfgRead s (off / 8 * 8)).zeroExtend 512, false) else none
  { s with ms := { s.ms with lastHostRead := v } }

/-- HOST_READ (R343, R346): a line of device memory read at its home, a poisoned word with CXL poison; a register; or the host's own
memory, which no rule of the device touches. DEDUCED, log 17, 95. -/
def execHostRead (at_ : HostAddr) (s : State) : Host.Outcome State Fault Refusal :=
  match at_ with
  | .device pa => if !isUp s || !isLocal pa then .next s else .next (addOutside s (.hostRead pa))
  | .cfg fn off => .next (hostCfgRead s fn off)
  | .hostMem a =>
    let k := remoteKey 4096 (a / 64 * 64)
    .next { s with ms := { s.ms with lastHostRead := some (BitVec.ofNat 512 (remoteRead s.ms k 64), (upTo 8).any (fun j => (remoteWord s.ms (k + 8 * j)).2)) } }

/-- HOST_WRITE (R150, R343, R352): n bytes of a line of device memory, registered with the host as owner; a register; or bytes of the
host's own memory. DEDUCED, log 95. -/
def execHostWrite (at_ : HostAddr) (n : Nat) (data : BitVec 512) (s : State) : Host.Outcome State Fault Refusal :=
  match at_ with
  | .device pa => if !isUp s || !isLocal pa || n == 0 || 64 < pa % 64 + n then .next s else .next (addOutside s (.hostWrite pa n data))
  | .cfg fn off => .next (if cfgShape off n && decide (off + n ≤ Config.cfgBytes) && cfgReach s (.hostFn fn) off then cfgWrite s off n data.toNat else s)
  | .hostMem a => .next (remoteScan { s with ms := remoteWrite s.ms (remoteKey 4096 a) (min n 64) data.toNat })

/-- FABRIC_REQUEST (R354): accepted in an inbound window, or refused; a write is answered once it has been applied (R161). -/
def execFabricRequest (module pa : Nat) (op : FabricOp) (s : State) : Host.Outcome State Fault Refusal :=
  if !isUp s || module == s.md.modid then .next s
  else if !isLocal pa || !inboundOk s pa (fabricWrites op) then .next (answer s none)
  else .next (addOutside s (.fabric module pa op))

/-- INBOUND_RDMA (R359): an operation of a queue pair, each performed before the next of its pair. DEDUCED, log 31. -/
def execInboundRdma (part qp : Nat) (rkey : BitVec 32) (va : W64) (op : RdmaOp) (s : State) : Host.Outcome State Fault Refusal :=
  if !isUp s || 16 ≤ part || 2 ^ 24 ≤ qp then .next s else .next (addOutside s (.rdma part qp rkey va op))

/-- A message that waits for leases tried again: a registration, a write, an atomic, a copy request's chunk, a request from
outside, a partition's fault records, or a packet's own write (R161). -/
def retryMessage (n : Nat) (s : State) : Host.Outcome State Fault Refusal :=
  if (mfind n s.ms.regs).isSome then execRegistration n s
  else if (mfind n s.ms.uwrites).isSome then execWriteAck n s
  else if (mfind n s.ms.amos).isSome then execAmoAtHome n s
  else if (mfind n s.ms.copies).isSome then execCopyChunk n s
  else if (mfind n s.ms.outside).isSome then .next (tryOutside s n)
  else if n < 2 ^ 95 then .next { s with ms := undelay s.ms n }
  else if n < 2 ^ 96 then .next (drainRecords s (n - 2 ^ 95) (partOf s (n - 2 ^ 95)).records.length)
  else .next (retryPacket s n)

/-- LEASED_WRITE_APPLY (R161): the home's time has passed the leases of a region, and the write that waits there is applied; it
serves likewise a request from outside that waits for a word. A write of the device's own that something else still holds back
does not hold back its region's readers any longer. -/
def execLeasedWriteApply (n : Nat) (s : State) : Host.Outcome State Fault Refusal :=
  match mfind n s.ms.delayed with
  | some d =>
    if s.gtime ≤ d.until_ then .next s
    else if d.msg < 2 ^ 95 then retryMessage d.msg s
    else
      match retryMessage d.msg s with
      | .next t => .next { t with ms := { t.ms with delayed := mdel n t.ms.delayed } }
      | o => o
  | none => .next (tryOutside s n)

/-! ## Time (R162, R356) -/

/-- TIME_EXCHANGE (R356): the two-way exchange with the switch toward the master, its offset estimate and the master's time, which is
not taken where the offset leaves the module unsynchronised; a failed one changes nothing. DEDUCED, log 9. -/
def execTimeExchange (ok : Bool) (offs : BitVec 24) (master : Nat) (s : State) : Host.Outcome State Fault Refusal :=
  let m := s.md
  if !isUp s || m.master || m.ports == 0 || !ok then .next s
  else
    let fine := decide (-2000 ≤ offs.toInt) && decide (offs.toInt ≤ 2000)
    let t := if fine then max s.gtime master else s.gtime
    .next { s with gtime := t, md := { m with offs := offs, lastSync := t, healthy := fine, epoch := if fine && !m.healthy then m.epoch + 1 else m.epoch } }

/-- SYNC_LOSS (R356): no exchange has succeeded within the last 1 ms. -/
def execSyncLoss (s : State) : Host.Outcome State Fault Refusal :=
  .next (if s.md.healthy && decide (s.md.lastSync + 1000000 < s.gtime) then { s with md := { s.md with healthy := false } } else s)

/-- TIME_BASE_RESUME (R162, R356): the time base runs again; the epoch advances and leased copies are discarded.
DEDUCED, log 44. -/
def execTimeBaseResume (s : State) : Host.Outcome State Fault Refusal :=
  .next (if !s.md.stopClock then s
    else
      let combs := (s.ms.caches.map (fun p => p.1 / 64)).foldl (fun a c => sinsert c a) []
      { s with md := { s.md with stopClock := false, epoch := s.md.epoch + 1 }
               ms := combs.foldl (fun m comb => combDrop m comb (fun sp _ c => sp.lease != 0 && !c.dirty)) s.ms })

/-! ## Errors and the propolis seal (R337 to R341, R369) -/

/-- An event reported to the system controller, which keeps the last 256 (R369). DEDUCED, log 49. -/
def logEvent (s : State) (kind loc : Nat) : State :=
  { s with md := { s.md with events := (s.md.events ++ [(kind, loc)]).drop (s.md.events.length + 1 - 256) } }

/-- A context's copy requests cancelled (R341). -/
def cancelCopies (s : State) (c : Nat) : State :=
  let s := { s with ms := { s.ms with copies := s.ms.copies.filter (fun q => q.2.who != .ctx c) } }
  modCtx s c (fun x => { x with fifo := [], unsealed := [], batches := [] })

/-- A context killed with a machine check, with its record of kind 4 and no fault decision (R340, R341, R368); the tasks set aside on
it continue elsewhere (R330). DEDUCED, log 41, 42. -/
def machineCheck (s : State) (c : Nat) : State :=
  let x := ctxOf s c
  let l := x.task.map (fun t => launchOf s t.launch)
  let s := faultRecord s x.part { kind := 4, ctx := c, task := (x.task.map (·.id)).getD 0xFFFFFFFFFFFFFFFF,
                                  index := (l.map (·.idx)).getD 0, queue := (l.map (·.queue)).getD 0 }
  killTask (cancelCopies s c) c

/-- The contexts with a member on a comb. -/
def ctxsOn (s : State) (comb : Nat) : List Nat :=
  (s.ctxs.filter (fun c => c.2.phase != .free && (membersOf c.1 c.2.k).contains comb)).map (·.1)

/-- The pending words of a comb's cache: word, content and release. -/
def pendingOn (m : MemSys) (comb : Nat) : List (Nat × CWord × Nat) :=
  ((m.caches.filter (fun p => p.1 / 64 == comb)).map (fun p => (p.2.map (fun sp => sp.words.zipIdx.filterMap (fun q =>
    q.1.pend.map (fun id => (64 * sp.region + sp.s + q.2, q.1, id))))).flatten)).flatten

/-- A pending word of a sealed comb written back in its release's turn, with the bytes its stores have written: no reader obtains it
before the earlier stores of its release (R146, R341). Its comb's record ends with the value before it at home. -/
def deferWord (comb : Nat) (s : State) (e : Nat × CWord × Nat) : State :=
  let m := if recorded s.ms comb e.1 then revokeWord s.ms e.1 else s.ms
  let m := updComb m comb e.1 (fun y => { y with pend := none, owned := false, dirty := false })
  { s with ms := m
           ctxs := s.ctxs.map (fun c => (c.1, { c.2 with releases := c.2.releases.map (fun r =>
             if r.id == e.2.2 then { r with held := r.held ++ [.publish e.1 e.2.1.data e.2.1.wrote e.2.1.poison e.2.1.part] } else r) })) }

/-- A comb sealed (R340): its contexts killed, its cache's dirty words written back, the pending ones as their releases complete
(R341), and no placement until its scrub. DEDUCED, log 42. -/
def sealComb (s : State) (comb : Nat) : State :=
  if (mget {} comb s.combs).isSealed then s
  else
    let s := modComb s comb (fun k => { k with isSealed := true })
    let s := (ctxsOn s comb).foldl machineCheck s
    let s := (pendingOn s.ms comb).foldl (deferWord comb) s
    let s := { s with ms := flushComb s.ms comb, md := { s.md with sealcnt := satInc s.md.sealcnt } }
    pumpAll (logEvent s 1 comb)

/-- The words whose records a slice keeps: owned, cached or watched (R337). -/
def sliceWords (s : State) (slice : Nat) : List Nat :=
  let own := (s.ms.owners.map (·.1)).filter (fun w => homeSlice (8 * w) == slice)
  let kept := (s.ms.hives.filter (fun p => p.1 / 192 == slice)).foldl (fun acc p =>
    p.2.foldl (fun acc sp => sp.words.zipIdx.foldl (fun acc q => sinsert (64 * sp.region + sp.s + q.2) acc) acc) acc) []
  let watched := (s.ms.watches.filter (fun e => e.2.slice == slice)).map (fun e => e.2.word)
  (own ++ watched).foldl (fun acc w => sinsert w acc) kept

/-- A present word of one set of the slices changed. -/
def updHive (m : MemSys) (key w : Nat) (f : CWord → CWord) : MemSys :=
  { m with hives := mput key (updSet (mget [] key m.hives) (w / 64) (w % 64) f) m.hives }

/-- The set of a die's slices that may hold a word: its home's, or that of a proxy copy (R136, R137). -/
def sliceKey (die w : Nat) : Nat := if isLocal (8 * w) then hiveSet (w / 64) else proxyKey (128 * die) (w / 64)

/-- A word poisoned where its home or its comb store holds it, or, of another module, where the slices hold a proxy copy
(R337). -/
def poisonWord (s : State) (w : Nat) : State :=
  if isLocal (8 * w) then { s with ms := rawPut s.ms w (homeWord s.ms w).1 true }
  else if isWindow (8 * w) then poisonWindow s (windowOf (8 * w)).1 (windowOf (8 * w)).2
  else { s with ms := (upTo 4).foldl (fun m d => updHive m (sliceKey d w) w (fun c => { c with poison := true })) s.ms }

/-- A comb cache's copy of a word poisoned (R337). -/
def poisonCopy (s : State) (comb w : Nat) : State :=
  if (combWord s.ms comb w).isSome then { s with ms := updComb s.ms comb w (fun y => { y with poison := true }) } else s

/-- Bits of a byte of memory changed with no error seen: its sector keeps the code it had (R338). DESIGN CHOICE, log 102. -/
def unseenByte (s : State) (pa : Nat) (flips : Byte) : State :=
  let m := s.ms
  let code := mget (carryCode (sectorBytes m (pa / 32))) (pa / 32) m.codes
  { s with ms := { m with mem := memSet m.mem pa (BitVec.ofNat 8 (memRead m.mem pa 1) ^^^ flips), codes := mput (pa / 32) code m.codes } }

/-- Whether the carry code of a sector tells that bits of one of its bytes have changed: the code is linear, so it differs by the code
of the change alone (R338). -/
def codeTells (pa : Nat) (flips : Byte) : Bool := carryCode ((upTo 32).map (fun j => if j == pa % 32 then flips else 0)) != 0

/-- The words of an address's sector. -/
def sectorWords (pa : Nat) : List Nat := (upTo 4).map (fun k => pa / 32 * 4 + k)

/-- The bits of a byte within its word. -/
def flipBits (pa : Nat) (flips : Byte) : W64 := BitVec.ofNat 64 (flips.toNat * 2 ^ (8 * (pa % 8)))

/-- A failed check of a carry code counted (R338, R369). -/
def countCarry (s : State) : State := { s with ms := { s.ms with ccfail := satInc s.ms.ccfail } }

/-- Bits of a copy changed with no error seen: the sector's code goes with the copy through every transfer up to a delivery, which
checks it, so its words are poisoned at once (R338). DESIGN CHOICE, log 102. -/
def unseenCopy (s : State) (pa : Nat) (flips : Byte) (held : Bool) (change : State → State) (poison : State → Nat → State) : State :=
  if !held then s
  else if codeTells pa flips then (sectorWords pa).foldl poison (countCarry (change s))
  else change s

/-- A word of the reply to a load that is on its way poisoned (R338). -/
def poisonReply (n : Nat) (s : State) (w : Nat) : State :=
  match mfind n s.ms.loads with
  | some r => { s with ms := { s.ms with loads := mput n { r with got := match mfind w r.got with | some v => mput w (v.1, true) r.got | none => r.got } s.ms.loads } }
  | none => s

/-- A word of a comb store or of tile storage, whose window shows it, changed by a byte's flips as it lies there. -/
def flipWindow (pa : Nat) (flips : Byte) (s : State) : State :=
  let comb := (windowOf pa).1
  let off := (windowOf pa).2 / 8 * 8
  let bad := windowPoison s comb off
  let t := windowWrite s comb off (windowWord s comb off ^^^ flipBits pa flips) 0xFF
  if bad then poisonWindow t comb off else t

/-- Bits of a byte changed with no error seen (R338). DESIGN CHOICE, log 102. -/
def unseenError (s : State) (site : UnseenSite) (flips : Byte) : State :=
  match site with
  | .byte pa =>
    if isLocal pa then unseenByte s pa flips
    else
      unseenCopy s pa flips (isWindow pa && decide ((windowOf pa).2 < 0x18C000)) (flipWindow pa flips) poisonWord
  | .copy comb pa =>
    unseenCopy s pa flips (combWord s.ms comb (pa / 8)).isSome
      (fun s => { s with ms := updComb s.ms comb (pa / 8) (fun c => { c with data := c.data ^^^ flipBits pa flips }) }) (fun s w => poisonCopy s comb w)
  | .slice die pa =>
    let key := sliceKey die (pa / 8)
    unseenCopy s pa flips (setWord (mget [] key s.ms.hives) (pa / 512) (pa / 8 % 64)).isSome
      (fun s => { s with ms := updHive s.ms key (pa / 8) (fun c => { c with data := c.data ^^^ flipBits pa flips }) })
      (fun s w => { s with ms := updHive s.ms key w (fun c => { c with poison := true }) })
  | .reply n pa =>
    let has : Option LoadReq := (mfind n s.ms.loads).filter (fun r => (mfind (pa / 8) r.got).isSome)
    unseenCopy s pa flips has.isSome
      (fun s => match has, has.bind (fun r => mfind (pa / 8) r.got) with
        | some r, some v => { s with ms := { s.ms with loads := mput n { r with got := mput (pa / 8) (v.1 ^^^ flipBits pa flips, v.2) r.got } s.ms.loads } }
        | _, _ => s) (poisonReply n)

/-- The byte of another module or of the host that a fabric address reaches, by its key (R353). -/
def fabricKey (s : State) (pa : Nat) : Nat :=
  let ap := (mget 0 ((pa - Config.fabricBase) / 2 ^ 39) s.apertures).toNat
  remoteKey (if bits ap 62 1 == 1 then 4096 else bits ap 20 12) (2 ^ 39 * bits ap 0 13 + pa % 2 ^ 39)

/-- A word whose record a slice has lost, poisoned at its home: here, or on its module, where the slice held a proxy copy (R337). -/
def loseWord (s : State) (w : Nat) : State :=
  if isLocal (8 * w) then watchScan { s with ms := homePut { s.ms with owners := mdel w s.ms.owners } w (homeWord s.ms w).1 true } w
  else if isFabric (8 * w) then
    let m := proxyDrop s.ms w
    remoteScan { s with ms := { m with poison := sinsert (remoteTag (fabricKey s (8 * w))) m.poison } }
  else s

/-- Every word whose record a slice lost poisoned at its home (R337). DEDUCED, log 42. -/
def loseRecords (s : State) (slice : Nat) : State := (sliceWords s slice).foldl loseWord s

/-- An uncorrectable error's effect (R337, R340). -/
def uncorrectable (s : State) (site : ErrorSite) : State :=
  let n : State → Nat → Nat → State := fun s kind loc => logEvent { s with md := { s.md with uecnt := satInc s.md.uecnt } } kind loc
  match site with
  | .data pa => poisonWord (n s 2 pa) (pa / 8)
  | .cached comb pa => poisonCopy (n s 2 pa) comb (pa / 8)
  | .unseen at_ flips => unseenError s at_ flips
  | .tile comb cell buf word acc =>
    let s := n s 3 comb
    if acc then { s with taccs := mmod {} (accKey comb cell buf) (fun t => { t with poison := sinsert word t.poison }) s.taccs }
    else { s with tbufs := mmod {} (bufKey comb cell buf) (fun t => { t with poison := sinsert word t.poison }) s.tbufs }
  | .control comb => sealComb (n s 4 comb) comb
  | .records slice => loseRecords (n s 5 slice) slice
  | .carry pa => (upTo 4).foldl (fun s k => poisonWord s (pa / 32 * 4 + k)) { s with ms := { s.ms with ccfail := satInc s.ms.ccfail } }

/-- SRAM_ERROR (R337 to R340, R369): a single-bit error is corrected and counted; an uncorrectable one poisons words or seals
a comb; a failed carry code poisons its sector. -/
def execSramError (site : ErrorSite) (uncorrectable_ : Bool) (s : State) : Host.Outcome State Fault Refusal :=
  .next (match site, uncorrectable_ with
    | .carry pa, _ => uncorrectable s (.carry pa)
    | .unseen at_ flips, _ => unseenError s at_ flips
    | _, false => { s with md := { s.md with cecnt := satInc s.md.cecnt } }
    | x, true => uncorrectable s x)

/-! ## Clock and temperature (R366 to R368) -/

/-- A step of the core clock, the time already run kept. DESIGN CHOICE, log 2. -/
def setClock (s : State) (mhz : Nat) : State :=
  { s with gfrac := s.gfrac * mhz / s.md.clk, md := { s.md with clk := mhz, lastStepAt := s.gtime } }

/-- The readings of power and temperature, and since when both conditions are clear (R367). DEDUCED, log 61. -/
def readings (s : State) (watts celsius : Nat) : State :=
  { s with md := noteClear s { s.md with pwrnow := watts % 4096, temp := celsius % 256 } }

/-- Whether a clock step may be taken: one every 100 µs (R367). DEDUCED, log 61. -/
def stepDue (s : State) : Bool := s.md.lastStepAt == 0 || decide (s.md.lastStepAt + 100000 ≤ s.gtime)

/-- The trip at 110 °C (R368): every context killed with a machine check, a record of kind 4 to each partition, the links down;
the module holds until a cold start. DEDUCED, log 52. -/
def tripNow (s : State) : State :=
  let s := (upTo 16).foldl (fun s p => faultRecord s p { kind := 4 }) s
  let cs := (s.ctxs.filter (fun c => c.2.phase != .free)).map (·.1)
  let s := cs.foldl (fun s c => killTask (cancelCopies s c) c) s
  { s with md := { s.md with power := .tripped, trip := true, ports := 0 } }

/-- Whether the device trips at a reading: it runs, and its junction has reached 110 °C (R368). -/
def tripDue (s : State) (celsius : Nat) : Bool := isUp s && decide (110 ≤ celsius)

/-- CLOCK_STEP_DOWN (R367): 25 MHz lower, down to 425 MHz, while a condition holds; a reading of 110 °C trips the device (R368). -/
def execClockStepDown (watts celsius : Nat) (s : State) : Host.Outcome State Fault Refusal :=
  let s := readings s watts celsius
  .next (if tripDue s celsius then tripNow s
    else if isHot s.md && stepDue s then setClock s (max Config.clockFloor (s.md.clk - Config.clockStep)) else s)

/-- CLOCK_STEP_UP (R367): 25 MHz higher once both conditions have cleared for 1 ms; a reading of 110 °C trips the device (R368). -/
def execClockStepUp (watts celsius : Nat) (s : State) : Host.Outcome State Fault Refusal :=
  let s := readings s watts celsius
  .next (if tripDue s celsius then tripNow s
    else if s.md.clearSince.any (fun t => decide (t + 1000000 ≤ s.gtime)) && stepDue s && decide (s.md.clk < Config.clockNominal) then
      setClock s (min Config.clockNominal (s.md.clk + Config.clockStep))
    else s)

/-- THERMAL_TRIP (R368): a reading of the temperature, and the trip where it has reached 110 °C. DEDUCED, log 52. -/
def execThermalTrip (celsius : Nat) (s : State) : Host.Outcome State Fault Refusal :=
  let s := readings s s.md.pwrnow celsius
  .next (if tripDue s celsius then tripNow s else s)

/-! ## Power and start-up (R348, R349, R356, R363, R364) -/

/-- POWER_ON (R364): a cold start, in the state the always-on store records. -/
def execPowerOn (s : State) : Host.Outcome State Fault Refusal :=
  .next (if s.md.power == .off then beginStart s false else s)

/-- START_STAGE (R363): the stage in progress ends; `retainedOk` tells whether what a warm start kept, the image's hash in stage 1 and
the calibration in stage 3, has passed its check. Full training leaves the same state as a calibration that passes. -/
def execStartStage (retainedOk : Bool) (s : State) : Host.Outcome State Fault Refusal :=
  .next (if s.md.power == .starting then nextStage s retainedOk else s)

/-- START_FAILURE (R364): a stage other than stage 1 reports an error or exceeds its limit. -/
def execStartFailure (code : BitVec 8) (s : State) : Host.Outcome State Fault Refusal :=
  .next (if s.md.power == .starting && s.md.stage != 1 then failStart s code else s)

/-- POWER_LOSS (R364, R365): the always-on store and the flash survive; an IMGCOMMIT caught while writing leaves no
acceptable image. DEDUCED, log 44. -/
def execPowerLoss (s : State) : Host.Outcome State Fault Refusal :=
  let m := s.md
  let cut := cmdRuns s 2 && !cmdRefused s && imageOk m (.staged m.staging)
  .next { beginStart s false with
    md := { always := m.always, flash := if cut then none else m.flash, stepping := m.stepping, epoch := m.epoch,
            running := none, power := .off, stage := 1, stopClock := true } }

/-- FRAME_SCRUB_DONE (R321, R348): a leaving frame whose contexts have gone is scrubbed, and joins its new partition. -/
def execFrameScrubDone (frame : Nat) (s : State) : Host.Outcome State Fault Refusal :=
  let x := mget {} frame s.frames
  if !isUp s || !x.scrub || 64 ≤ frame || !(frameCtxs s frame).isEmpty then .next s
  else
    let s := scrubFrame s frame
    let s := { s with frames := mput frame { owner := x.joins } s.frames }
    let each : State → Option Nat → State := fun s p => match p with | some p => requestDispatch (settleFrames s p) p | none => s
    .next (each (each s x.owner) x.joins)

/-- STOP_COMPLETE (R349): every effect of a stop has ended; a start that waits takes effect. -/
def execStopComplete (part : Nat) (s : State) : Host.Outcome State Fault Refusal :=
  .next (if stopEnded s part then
      modPart s part (fun x => if x.enWanted then { enabled s.gtime x with enWanted := false } else { x with stopped := true })
    else s)

/-! ## Register writes (R14, R290, R291, R336, R343 to R349) -/

/-- The configuration offset of a register in a partition's block (R290, R342). -/
def blockOff (part o : Nat) : Nat := 0x1000000 + 0x100000 * part + o

/-- A write of a queue's register by an agent that reaches it. -/
def queueAccess (by_ : CfgAgent) (part queue o : Nat) (s : State) (f : State → State) : State :=
  if decide (part < 16) && decide (queue < 128) && cfgReach s by_ (blockOff part (0x40 * queue + o)) then f s else s

/-- QWR written (R291). -/
def execQwr (by_ : CfgAgent) (part queue : Nat) (v : BitVec 32) (s : State) : Host.Outcome State Fault Refusal :=
  .next (queueAccess by_ part queue 0x10 s (fun s => writeQwr s part queue v.toNat))

/-- QBASE written (R290). -/
def execQbase (by_ : CfgAgent) (part queue : Nat) (v : W64) (s : State) : Host.Outcome State Fault Refusal :=
  .next (queueAccess by_ part queue 0 s (fun s => writeQbase s part queue v))

/-- QCTL written (R290). -/
def execQctl (by_ : CfgAgent) (part queue : Nat) (v : W64) (s : State) : Host.Outcome State Fault Refusal :=
  .next (queueAccess by_ part queue 8 s (fun s => writeQctl s part queue v))

/-- QSTAT.QFLT written as 1 (R336). -/
def execQflt (by_ : CfgAgent) (part queue : Nat) (s : State) : Host.Outcome State Fault Refusal :=
  .next (queueAccess by_ part queue 0x20 s (fun s => writeQstat s part queue 8))

/-- A write of a partition's administration registers by an agent that reaches them (R343, R347). -/
def adminAccess (by_ : CfgAgent) (part o : Nat) (s : State) (f : State → State) : State :=
  if decide (part < 16) && cfgReach s by_ (0x1000 + 0x100 * part + o) then f s else s

/-- PACTL.EN written as 0 (R349). -/
def execPartitionStop (by_ : CfgAgent) (part : Nat) (s : State) : Host.Outcome State Fault Refusal :=
  .next (adminAccess by_ part 0 s (fun s => stopPartition s part))

/-- PACTL.EN written as 1 (R349). -/
def execPartitionStart (by_ : CfgAgent) (part : Nat) (s : State) : Host.Outcome State Fault Refusal :=
  .next (adminAccess by_ part 0 s (fun s => startPartition s part))

/-- PFRAMES written (R348). -/
def execPframes (by_ : CfgAgent) (part : Nat) (v : W64) (s : State) : Host.Outcome State Fault Refusal :=
  .next (adminAccess by_ part 8 s (fun s => writePframes s part v))

/-- Any register written (R14, R16, R342, R343): 4 or 8 aligned bytes at an offset of the configuration range. -/
def execRegisterWrite (by_ : CfgAgent) (off size : Nat) (v : W64) (s : State) : Host.Outcome State Fault Refusal :=
  .next (if cfgShape off size && decide (off + size ≤ Config.cfgBytes) && cfgReach s by_ off then cfgWrite s off size v.toNat else s)

/-! ## The mailbox's commands (R365) -/

/-- IMGCHUNK (R365). -/
def execImgchunk (s : State) : Host.Outcome State Fault Refusal := .next (if cmdRuns s 1 then runImgchunk s else s)

/-- IMGCOMMIT (R365); `written` says whether the flash took what was written. DEDUCED, log 46. -/
def execImgcommit (written : Bool) (s : State) : Host.Outcome State Fault Refusal :=
  .next (if cmdRuns s 2 then runImgcommit written s else s)

/-- ATTEST (R365). -/
def execAttest (s : State) : Host.Outcome State Fault Refusal := .next (if cmdRuns s 3 then runAttest s else s)

/-- OWNER (R362, R365). -/
def execOwner (s : State) : Host.Outcome State Fault Refusal := .next (if cmdRuns s 4 then runOwner s else s)

/-- RESET with ARG 0: a warm start; a cold one from recovery mode (R364, R365). A tripped module holds until a cold start
(R368). DEDUCED, log 45. -/
def execResetWarm (s : State) : Host.Outcome State Fault Refusal :=
  .next (if !(cmdRuns s 5 && s.md.arg == 0) then s
    else match s.md.power with
      | .tripped => cmdEnd s 1
      | .recovery => beginStart s false
      | _ => beginStart s true)

/-- RESET with ARG 1: a cold start (R365). DEDUCED, log 45. -/
def execResetCold (s : State) : Host.Outcome State Fault Refusal :=
  .next (if cmdRuns s 5 && s.md.arg == 1 then beginStart s false else s)

/-- RESET with ARG 2: FAILS and LASTSTAGE cleared, then a cold start (R364, R365). -/
def execResetClear (s : State) : Host.Outcome State Fault Refusal :=
  .next (if cmdRuns s 5 && s.md.arg == 2 then
      beginStart { s with md := { s.md with always := { s.md.always with fails := 0, lastStage := 0 } } } false
    else s)

/-- MAILBOX_COMMAND_COMPLETE (R365): RESULT written and BUSY cleared. -/
def execMailboxCommandComplete (s : State) : Host.Outcome State Fault Refusal :=
  .next (if s.md.busy && decide (0x100 ≤ s.md.pending) then
      { s with md := { s.md with busy := false, pending := 0, result := BitVec.ofNat 8 (s.md.pending - 0x100) } }
    else s)

end Sys2Proof.Machine
end

