-- ==== Sys2Proof/Machine/Vector.lean ====
section
/-! DEFINITION. Vector instructions (R195 to R214). -/

namespace Sys2Proof.Machine

/-- The latency of a lane instruction by its type (R170). -/
def laneLat (ty : ElemTy) (int float : Nat) : Nat := if ty.isLaneFloat then float else int

/-- An element-wise instruction of two V operands (R196). -/
def lanewise (p : Pr) (lat : Nat) (ty : ElemTy) (op : LaneOp) (t1 t0 : Target) (s : State) : Out :=
  vector2 p lat [t0, t1] (vec2 (laneOp2 ty op)) s

/-- A V and an S operand (R168). -/
def vectorScalar (p : Pr) (lat : Nat) (ts : List Target) (f : Lanes → Mask → W64 → Token) (s : State) : Out :=
  fire2 p s (nullTo ts) (fun i _ _ t u s =>
    match t, u with
    | .v l m, .s x => finish s i lat ts (f l m x)
    | _, _ => kindFault s i)

/-- An S operand to a token (R168). -/
def scalarToken (p : Pr) (lat : Nat) (ts : List Target) (f : W64 → Token) (s : State) : Out :=
  fire1 p s (nullTo ts) (fun i _ _ t s =>
    match t with
    | .s a => finish s i lat ts (f a)
    | _ => kindFault s i)

/-- VADD (R196). -/
def execVadd (p : Pr) (ty : ElemTy) (t1 t0 : Target) (s : State) : Out := lanewise p (laneLat ty 2 3) ty .add t1 t0 s
/-- VSUB (R196). -/
def execVsub (p : Pr) (ty : ElemTy) (t1 t0 : Target) (s : State) : Out := lanewise p (laneLat ty 2 3) ty .sub t1 t0 s
/-- VMUL (R196). -/
def execVmul (p : Pr) (ty : ElemTy) (t1 t0 : Target) (s : State) : Out := lanewise p (laneLat ty 2 3) ty .mul t1 t0 s
/-- VFMA (R197). -/
def execVfma (ty : ElemTy) (t1 t0 : Target) (s : State) : Out :=
  vector3 (laneLat ty 3 4) [t0, t1] (fun la ma lb mb lc mc =>
    let m := ma &&& mb &&& mc
    .v (maskedLanes m (fun i => mapSubs ty (fun j =>
      fmaSub ty (sub (lane la i) j ty.width) (sub (lane lb i) j ty.width) (sub (lane lc i) j ty.width)))) m) s
/-- VMIN (R196). -/
def execVmin (p : Pr) (ty : ElemTy) (t1 t0 : Target) (s : State) : Out := lanewise p (laneLat ty 2 3) ty .min t1 t0 s
/-- VMAX (R196). -/
def execVmax (p : Pr) (ty : ElemTy) (t1 t0 : Target) (s : State) : Out := lanewise p (laneLat ty 2 3) ty .max t1 t0 s
/-- VAND (R196). -/
def execVand (p : Pr) (ty : ElemTy) (t1 t0 : Target) (s : State) : Out := lanewise p 2 ty .and t1 t0 s
/-- VOR (R196). -/
def execVor (p : Pr) (ty : ElemTy) (t1 t0 : Target) (s : State) : Out := lanewise p 2 ty .or t1 t0 s
/-- VXOR (R196). -/
def execVxor (p : Pr) (ty : ElemTy) (t1 t0 : Target) (s : State) : Out := lanewise p 2 ty .xor t1 t0 s
/-- VSHL (R196). -/
def execVshl (p : Pr) (ty : ElemTy) (t1 t0 : Target) (s : State) : Out := lanewise p 2 ty .shl t1 t0 s
/-- VSHR (R196). -/
def execVshr (p : Pr) (ty : ElemTy) (t1 t0 : Target) (s : State) : Out := lanewise p 2 ty .shr t1 t0 s
/-- VSAR (R196). -/
def execVsar (p : Pr) (ty : ElemTy) (t1 t0 : Target) (s : State) : Out := lanewise p 2 ty .sar t1 t0 s
/-- VCMP (R198). -/
def execVcmp (p : Pr) (ty : ElemTy) (c : CmpCond) (t0 : Target) (s : State) : Out := vector2 p 2 [t0] (vec2 (cmpLane ty c)) s

/-- VSEL by a mask of lanes (R199). -/
def selByBits (la : Lanes) (ma : Mask) (lb : Lanes) (mb : Mask) (x : W64) : Token :=
  .v (mkLanes (fun i => if x.getLsbD i then (if ma.getLsbD i then lane la i else 0) else if mb.getLsbD i then lane lb i else 0))
    (mkMask (fun i => if x.getLsbD i then ma.getLsbD i else mb.getLsbD i))

/-- VSEL by an element mask (R199). -/
def selByLanes (la : Lanes) (ma : Mask) (lb : Lanes) (mb : Mask) (lm : Lanes) (mm : Mask) : Token :=
  let m := ma &&& mb &&& mm
  .v (maskedLanes m (fun i => (lane la i &&& lane lm i) ||| (lane lb i &&& ~~~(lane lm i)))) m

/-- VSEL (R199). -/
def execVsel (t1 t0 : Target) (s : State) : Out :=
  fire3 s (nullTo [t0, t1]) (fun i _ _ t u w s =>
    match t, u, w with
    | .v la ma, .v lb mb, .s x => finish s i 2 [t0, t1] (selByBits la ma lb mb x)
    | .v la ma, .v lb mb, .v lm mm => finish s i 2 [t0, t1] (selByLanes la ma lb mb lm mm)
    | _, _, _ => kindFault s i)

/-- A sub-element's bits from a scalar: the ternary clamp for tern2x16, else the low bits (R200, R202). -/
def subOfScalar (ty : ElemTy) (x : W64) : Nat := if ty == .tern2x16 then ternCode x.toInt else x.toNat % 2 ^ ty.width

/-- A scalar from a sub-element (R201). -/
def scalarOfSub (ty : ElemTy) (x : Nat) : W64 :=
  if ty == .tern2x16 then BitVec.ofInt 64 (intVal (decodeElem ty x))
  else if ty.isSigned then BitVec.ofInt 64 (signedOf ty.width x)
  else BitVec.ofNat 64 x

/-- VSPLAT (R200). -/
def execVsplat (p : Pr) (ty : ElemTy) (t1 t0 : Target) (s : State) : Out :=
  scalarToken p 1 [t0, t1] (fun a => .v (mkLanes (fun _ => mapSubs ty (fun _ => subOfScalar ty a))) 0xFFFF) s

/-- The lane and sub-element an index names (R201). -/
def subIndex (ty : ElemTy) (x : W64) : Nat × Nat := (x.toNat % (16 * ty.count) / ty.count, x.toNat % ty.count)

/-- VEXT (R201): N for an invalid lane. -/
def execVext (p : Pr) (ty : ElemTy) (t1 t0 : Target) (s : State) : Out :=
  vectorScalar p 2 [t0, t1] (fun l m x =>
    let k := subIndex ty x
    if m.getLsbD k.1 then .s (scalarOfSub ty (sub (lane l k.1) k.2 ty.width)) else .n) s

/-- VINS (R202). -/
def execVins (ty : ElemTy) (t1 t0 : Target) (s : State) : Out :=
  fire3 s (nullTo [t0, t1]) (fun i _ _ t u w s =>
    match t, u, w with
    | .v l m, .s v, .s x =>
      let k := subIndex ty x
      finish s i 2 [t0, t1]
        (.v (mkLanes (fun j => if j == k.1 then setSub (lane l j) k.2 ty.width (subOfScalar ty v) else lane l j))
          (m ||| BitVec.twoPow 16 k.1))
    | _, _, _ => kindFault s i)

/-- VPERM (R203). -/
def permLanes (ld : Lanes) (md : Mask) (li : Lanes) (mi : Mask) : Token :=
  pickLanes (fun i => if mi.getLsbD i then some ((lane li i).toNat % 16) else none) ld md
/-- VPERM (R203). -/
def execVperm (p : Pr) (t1 t0 : Target) (s : State) : Out := vector2 p 2 [t0, t1] permLanes s
/-- VSWZ (R204). -/
def execVswz (p : Pr) (pat : SwzPat) (t1 t0 : Target) (s : State) : Out := vector1 p 1 [t0, t1] (pickLanes (swzSrc pat)) s

/-- The latency of VRED and VSCAN (R170). -/
def redLat (ty : ElemTy) (op : RedOp) : Nat :=
  match op with
  | .add | .min | .max => laneLat ty 8 12
  | .and | .or | .xor => 8
/-- VRED (R205). -/
def execVred (p : Pr) (ty : ElemTy) (op : RedOp) (t0 : Target) (s : State) : Out :=
  vector1 p (redLat ty op) [t0] (fun l m => .s ((vred ty op l m).zeroExtend 64)) s
/-- VSCAN (R206): an invalid lane carries its computed prefix (R83). -/
def execVscan (p : Pr) (ty : ElemTy) (op : RedOp) (t0 : Target) (s : State) : Out :=
  vector1 p (redLat ty op) [t0] (fun l m => .v (vscan ty op l m) m) s

/-- VCVT (R207). -/
def execVcvt (p : Pr) (src dst : ElemTy) (sat : Bool) (rnd : Rnd) (t0 : Target) (s : State) : Out :=
  vector1 p 3 [t0] (fun l m => .v (maskedLanes m (fun i => convLane src dst sat rnd (lane l i))) m) s
/-- VPACK (R208). -/
def execVpack (p : Pr) (ty : ElemTy) (t1 t0 : Target) (s : State) : Out := vector2 p 3 [t0, t1] (vec2 (vpackLane ty)) s
/-- VUNPK (R169, R209): the low half to T0 and the high half to T1. -/
def execVunpk (p : Pr) (ty : ElemTy) (t1 t0 : Target) (s : State) : Out :=
  fire1 p s (nullTo [t0, t1]) (fun i _ _ t s =>
    match t with
    | .v l m =>
      let half : Bool → Token := fun h => .v (maskedLanes m (fun k => vunpkLane ty h (lane l k))) m
      setSt (deliver (deliver s i 2 t0 (half false)) i 2 t1 (half true)) i .done
    | _ => kindFault s i)
/-- VDOT (R210). -/
def execVdot (ty : ElemTy) (t1 t0 : Target) (s : State) : Out :=
  vector3 4 [t0, t1] (fun la ma lb mb lc mc =>
    let m := ma &&& mb &&& mc
    .v (maskedLanes m (fun i => vdotLane ty (lane la i) (lane lb i) (lane lc i))) m) s

/-- The latency of a special function (R211). -/
def sfuLat (fn : SfuFn) : Nat :=
  match fn with
  | .rcp | .rsq => 6
  | .sqrt | .exp2 | .log2 => 8
  | .sin | .cos => 12
  | .tanh => 10
/-- VSFU (R211). -/
def execVsfu (p : Pr) (fn : SfuFn) (t1 t0 : Target) (s : State) : Out :=
  vector1 p (sfuLat fn) [t0, t1] (fun l m => .v (maskedLanes m (fun i => sfuLane fn (lane l i))) m) s

/-- VMASK by its form (R213). -/
def execVmask (p : Pr) (fn : MaskFn) (t1 t0 : Target) (s : State) : Out :=
  match fn with
  | .mtos => vector1 p 1 [t0, t1] (fun l m => .s ((mkMask (fun i => m.getLsbD i && lane l i != 0)).zeroExtend 64)) s
  | .stom => scalarToken p 1 [t0, t1] (fun a => .v (mkLanes (fun i => if a.getLsbD i then 0xFFFFFFFF else 0)) 0xFFFF) s
  | .getv => vector1 p 1 [t0, t1] (fun _ m => .s (m.zeroExtend 64)) s
  | .setv => vectorScalar p 1 [t0, t1] (fun l _ x => .v l (x.truncate 16)) s
  | .andv => vectorScalar p 1 [t0, t1] (fun l m x => .v l (m &&& x.truncate 16)) s
  | .first => scalarToken p 1 [t0, t1] (fun a => .s (BitVec.ofNat 64 (lowestSet (a.toNat % 2 ^ 16) 16))) s
/-- VLOP3 (R214). -/
def execVlop3 (p : Pr) (imm : BitVec 24) (tt : BitVec 8) (t1 t0 : Target) (s : State) : Out :=
  vector2 p 2 [t0, t1] (vec2 (fun a b => lop3 tt a b (imm.signExtend 32))) s

end Sys2Proof.Machine
end

