-- ==== Sys2Proof/Machine/Dispatch.lean ====
section
/-! DEFINITION. The dispatch of every instruction, operation and event to its meaning. -/

namespace Sys2Proof.Machine

def exec (i : Instr) (s : State) : Host.Outcome State Fault Refusal :=
  match i with
  | .nop => Sys2Proof.Machine.execNop s
  | .exit p e off => Sys2Proof.Machine.execExit p e off s
  | .call p e off => Sys2Proof.Machine.execCall p e off s
  | .exitr p e => Sys2Proof.Machine.execExitr p e s
  | .callr p e => Sys2Proof.Machine.execCallr p e s
  | .ret p e => Sys2Proof.Machine.execRet p e s
  | .halt p e => Sys2Proof.Machine.execHalt p e s
  | .tret p e => Sys2Proof.Machine.execTret p e s
  | .genc imm t0 => Sys2Proof.Machine.execGenc imm t0 s
  | .appc imm t0 => Sys2Proof.Machine.execAppc imm t0 s
  | .badr imm t0 => Sys2Proof.Machine.execBadr imm t0 s
  | .rd n t1 t0 => Sys2Proof.Machine.execRd n t1 t0 s
  | .wr n => Sys2Proof.Machine.execWr n s
  | .mov p t1 t0 => Sys2Proof.Machine.execMov p t1 t0 s
  | .mov4 p t3 t2 t1 t0 => Sys2Proof.Machine.execMov4 p t3 t2 t1 t0 s
  | .null p t1 t0 => Sys2Proof.Machine.execNull p t1 t0 s
  | .sel t1 t0 => Sys2Proof.Machine.execSel t1 t0 s
  | .teq p t1 t0 => Sys2Proof.Machine.execTeq p t1 t0 s
  | .tne p t1 t0 => Sys2Proof.Machine.execTne p t1 t0 s
  | .tlt p t1 t0 => Sys2Proof.Machine.execTlt p t1 t0 s
  | .tle p t1 t0 => Sys2Proof.Machine.execTle p t1 t0 s
  | .tltu p t1 t0 => Sys2Proof.Machine.execTltu p t1 t0 s
  | .tleu p t1 t0 => Sys2Proof.Machine.execTleu p t1 t0 s
  | .teqi p imm t0 => Sys2Proof.Machine.execTeqi p imm t0 s
  | .tnei p imm t0 => Sys2Proof.Machine.execTnei p imm t0 s
  | .tlti p imm t0 => Sys2Proof.Machine.execTlti p imm t0 s
  | .tlei p imm t0 => Sys2Proof.Machine.execTlei p imm t0 s
  | .tgti p imm t0 => Sys2Proof.Machine.execTgti p imm t0 s
  | .tgei p imm t0 => Sys2Proof.Machine.execTgei p imm t0 s
  | .trap p code => Sys2Proof.Machine.execTrap p code s
  | .gets p r t0 => Sys2Proof.Machine.execGets p r t0 s
  | .sets p r => Sys2Proof.Machine.execSets p r s
  | .add p t1 t0 => Sys2Proof.Machine.execAdd p t1 t0 s
  | .sub p t1 t0 => Sys2Proof.Machine.execSub p t1 t0 s
  | .mul p t1 t0 => Sys2Proof.Machine.execMul p t1 t0 s
  | .mulh p k t1 t0 => Sys2Proof.Machine.execMulh p k t1 t0 s
  | .div p g t1 t0 => Sys2Proof.Machine.execDiv p g t1 t0 s
  | .rem p g t1 t0 => Sys2Proof.Machine.execRem p g t1 t0 s
  | .and p t1 t0 => Sys2Proof.Machine.execAnd p t1 t0 s
  | .or p t1 t0 => Sys2Proof.Machine.execOr p t1 t0 s
  | .xor p t1 t0 => Sys2Proof.Machine.execXor p t1 t0 s
  | .andn p t1 t0 => Sys2Proof.Machine.execAndn p t1 t0 s
  | .shl p t1 t0 => Sys2Proof.Machine.execShl p t1 t0 s
  | .shr p t1 t0 => Sys2Proof.Machine.execShr p t1 t0 s
  | .sar p t1 t0 => Sys2Proof.Machine.execSar p t1 t0 s
  | .ror p t1 t0 => Sys2Proof.Machine.execRor p t1 t0 s
  | .min p g t1 t0 => Sys2Proof.Machine.execMin p g t1 t0 s
  | .max p g t1 t0 => Sys2Proof.Machine.execMax p g t1 t0 s
  | .addi p imm t0 => Sys2Proof.Machine.execAddi p imm t0 s
  | .muli p imm t0 => Sys2Proof.Machine.execMuli p imm t0 s
  | .andi p imm t0 => Sys2Proof.Machine.execAndi p imm t0 s
  | .ori p imm t0 => Sys2Proof.Machine.execOri p imm t0 s
  | .xori p imm t0 => Sys2Proof.Machine.execXori p imm t0 s
  | .shli p imm t0 => Sys2Proof.Machine.execShli p imm t0 s
  | .shri p imm t0 => Sys2Proof.Machine.execShri p imm t0 s
  | .sari p imm t0 => Sys2Proof.Machine.execSari p imm t0 s
  | .clz p t1 t0 => Sys2Proof.Machine.execClz p t1 t0 s
  | .ctz p t1 t0 => Sys2Proof.Machine.execCtz p t1 t0 s
  | .popc p t1 t0 => Sys2Proof.Machine.execPopc p t1 t0 s
  | .brev p t1 t0 => Sys2Proof.Machine.execBrev p t1 t0 s
  | .bswap p t1 t0 => Sys2Proof.Machine.execBswap p t1 t0 s
  | .sxb p t1 t0 => Sys2Proof.Machine.execSxb p t1 t0 s
  | .sxh p t1 t0 => Sys2Proof.Machine.execSxh p t1 t0 s
  | .sxw p t1 t0 => Sys2Proof.Machine.execSxw p t1 t0 s
  | .zxb p t1 t0 => Sys2Proof.Machine.execZxb p t1 t0 s
  | .zxh p t1 t0 => Sys2Proof.Machine.execZxh p t1 t0 s
  | .zxw p t1 t0 => Sys2Proof.Machine.execZxw p t1 t0 s
  | .neg p t1 t0 => Sys2Proof.Machine.execNeg p t1 t0 s
  | .not p t1 t0 => Sys2Proof.Machine.execNot p t1 t0 s
  | .abs p t1 t0 => Sys2Proof.Machine.execAbs p t1 t0 s
  | .lea p sh t1 t0 => Sys2Proof.Machine.execLea p sh t1 t0 s
  | .bfx p sgn t1 t0 => Sys2Proof.Machine.execBfx p sgn t1 t0 s
  | .bfi t1 t0 => Sys2Proof.Machine.execBfi t1 t0 s
  | .lop3 p imm tt t1 t0 => Sys2Proof.Machine.execLop3 p imm tt t1 t0 s
  | .addc p t1 t0 => Sys2Proof.Machine.execAddc p t1 t0 s
  | .adc t1 t0 => Sys2Proof.Machine.execAdc t1 t0 s
  | .vadd p ty t1 t0 => Sys2Proof.Machine.execVadd p ty t1 t0 s
  | .vsub p ty t1 t0 => Sys2Proof.Machine.execVsub p ty t1 t0 s
  | .vmul p ty t1 t0 => Sys2Proof.Machine.execVmul p ty t1 t0 s
  | .vfma ty t1 t0 => Sys2Proof.Machine.execVfma ty t1 t0 s
  | .vmin p ty t1 t0 => Sys2Proof.Machine.execVmin p ty t1 t0 s
  | .vmax p ty t1 t0 => Sys2Proof.Machine.execVmax p ty t1 t0 s
  | .vand p ty t1 t0 => Sys2Proof.Machine.execVand p ty t1 t0 s
  | .vor p ty t1 t0 => Sys2Proof.Machine.execVor p ty t1 t0 s
  | .vxor p ty t1 t0 => Sys2Proof.Machine.execVxor p ty t1 t0 s
  | .vshl p ty t1 t0 => Sys2Proof.Machine.execVshl p ty t1 t0 s
  | .vshr p ty t1 t0 => Sys2Proof.Machine.execVshr p ty t1 t0 s
  | .vsar p ty t1 t0 => Sys2Proof.Machine.execVsar p ty t1 t0 s
  | .vcmp p ty c t0 => Sys2Proof.Machine.execVcmp p ty c t0 s
  | .vsel t1 t0 => Sys2Proof.Machine.execVsel t1 t0 s
  | .vsplat p ty t1 t0 => Sys2Proof.Machine.execVsplat p ty t1 t0 s
  | .vext p ty t1 t0 => Sys2Proof.Machine.execVext p ty t1 t0 s
  | .vins ty t1 t0 => Sys2Proof.Machine.execVins ty t1 t0 s
  | .vperm p t1 t0 => Sys2Proof.Machine.execVperm p t1 t0 s
  | .vswz p pat t1 t0 => Sys2Proof.Machine.execVswz p pat t1 t0 s
  | .vred p ty op t0 => Sys2Proof.Machine.execVred p ty op t0 s
  | .vscan p ty op t0 => Sys2Proof.Machine.execVscan p ty op t0 s
  | .vcvt p src dst sat rnd t0 => Sys2Proof.Machine.execVcvt p src dst sat rnd t0 s
  | .vpack p ty t1 t0 => Sys2Proof.Machine.execVpack p ty t1 t0 s
  | .vunpk p ty t1 t0 => Sys2Proof.Machine.execVunpk p ty t1 t0 s
  | .vdot ty t1 t0 => Sys2Proof.Machine.execVdot ty t1 t0 s
  | .vsfu p fn t1 t0 => Sys2Proof.Machine.execVsfu p fn t1 t0 s
  | .vmask p fn t1 t0 => Sys2Proof.Machine.execVmask p fn t1 t0 s
  | .vlop3 p imm tt t1 t0 => Sys2Proof.Machine.execVlop3 p imm tt t1 t0 s
  | .ld p ls sz hint off t0 => Sys2Proof.Machine.execLd p ls sz hint off t0 s
  | .ldv p ls masked hint off t0 => Sys2Proof.Machine.execLdv p ls masked hint off t0 s
  | .ldg p ls sz hint off t0 => Sys2Proof.Machine.execLdg p ls sz hint off t0 s
  | .lda p ls sz hint off t0 => Sys2Proof.Machine.execLda p ls sz hint off t0 s
  | .st p ls sz hint off => Sys2Proof.Machine.execSt p ls sz hint off s
  | .stv p ls hint off => Sys2Proof.Machine.execStv p ls hint off s
  | .sts p ls sz hint off => Sys2Proof.Machine.execSts p ls sz hint off s
  | .stl p ls sz hint off => Sys2Proof.Machine.execStl p ls sz hint off s
  | .amo p ls op wid off d => Sys2Proof.Machine.execAmo p ls op wid off d s
  | .cas p ls wid off d => Sys2Proof.Machine.execCas p ls wid off d s
  | .watch p ls c wid off t0 => Sys2Proof.Machine.execWatch p ls c wid off t0 s
  | .fence p ls k => Sys2Proof.Machine.execFence p ls k s
  | .flushr p ls k => Sys2Proof.Machine.execFlushr p ls k s
  | .span p ls hive off t0 => Sys2Proof.Machine.execSpan p ls hive off t0 s
  | .claim p ls => Sys2Proof.Machine.execClaim p ls s
  | .isync p ls => Sys2Proof.Machine.execIsync p ls s
  | .copy p try_ mode ls d => Sys2Proof.Machine.execCopy p try_ mode ls d s
  | .batch p ls d => Sys2Proof.Machine.execBatch p ls d s
  | .waitb p n t0 => Sys2Proof.Machine.execWaitb p n t0 s
  | .fork p ls d => Sys2Proof.Machine.execFork p ls d s
  | .join p n t0 => Sys2Proof.Machine.execJoin p n t0 s
  | .bar p ch ls mode => Sys2Proof.Machine.execBar p ch ls mode s
  | .phint p form => Sys2Proof.Machine.execPhint p form s
  | .geti p sel t0 => Sys2Proof.Machine.execGeti p sel t0 s
  | .tld p bc tr fmt cell ls buf t1 t0 => Sys2Proof.Machine.execTld p bc tr fmt cell ls buf t1 t0 s
  | .tst p acc tr cell ls idx => Sys2Proof.Machine.execTst p acc tr cell ls idx s
  | .mma p mode cell acc a b rung stk zc t1 t0 => Sys2Proof.Machine.execMma p mode cell acc a b rung stk zc t1 t0 s
  | .top p op cell t1 t0 => Sys2Proof.Machine.execTop p op cell t1 t0 s
  | .trow p op cell idx row chunk t1 t0 => Sys2Proof.Machine.execTrow p op cell idx row chunk t1 t0 s
  | .pset p mask => Sys2Proof.Machine.execPset p mask s
  | .pget p t0 => Sys2Proof.Machine.execPget p t0 s
  | .cellIssue comb cell => Sys2Proof.Machine.execCellIssue comb cell s
  | .weightRecompute comb cell => Sys2Proof.Machine.execWeightRecompute comb cell s
  | .tokenDelivery n => Sys2Proof.Machine.execTokenDelivery n s
  | .blockFetch ctx addr => Sys2Proof.Machine.execBlockFetch ctx addr s
  | .blockCommit ctx => Sys2Proof.Machine.execBlockCommit ctx s
  | .growthComplete ctx => Sys2Proof.Machine.execGrowthComplete ctx s
  | .compactTimeout ctx => Sys2Proof.Machine.execCompactTimeout ctx s
  | .compositionRefused ctx => Sys2Proof.Machine.execCompositionRefused ctx s
  | .mmaPass comb cell => Sys2Proof.Machine.execMmaPass comb cell s
  | .loadReply n => Sys2Proof.Machine.execLoadReply n s
  | .registration n => Sys2Proof.Machine.execRegistration n s
  | .homeRead n lo hi => Sys2Proof.Machine.execHomeRead n lo hi s
  | .sliceEcho ctx slice => Sys2Proof.Machine.execSliceEcho ctx slice s
  | .writeAck n => Sys2Proof.Machine.execWriteAck n s
  | .amoAtHome n => Sys2Proof.Machine.execAmoAtHome n s
  | .watchExpired n => Sys2Proof.Machine.execWatchExpired n s
  | .flushrWalk n => Sys2Proof.Machine.execFlushrWalk n s
  | .copyChunk n => Sys2Proof.Machine.execCopyChunk n s
  | .barrierArrival n => Sys2Proof.Machine.execBarrierArrival n s
  | .barTimeout ctx => Sys2Proof.Machine.execBarTimeout ctx s
  | .onchipWindowAccess n => Sys2Proof.Machine.execOnchipWindowAccess n s
  | .launch part queue => Sys2Proof.Machine.execLaunch part queue s
  | .depwait part queue => Sys2Proof.Machine.execDepwait part queue s
  | .depwaitReread part queue => Sys2Proof.Machine.execDepwaitReread part queue s
  | .signal part queue => Sys2Proof.Machine.execSignal part queue s
  | .copyb part queue => Sys2Proof.Machine.execCopyb part queue s
  | .policy part queue => Sys2Proof.Machine.execPolicy part queue s
  | .fwin part queue => Sys2Proof.Machine.execFwin part queue s
  | .tlbinv part queue => Sys2Proof.Machine.execTlbinv part queue s
  | .sealRange part queue => Sys2Proof.Machine.execSealRange part queue s
  | .unsealRange part queue => Sys2Proof.Machine.execUnsealRange part queue s
  | .resume part queue => Sys2Proof.Machine.execResume part queue s
  | .marker part queue => Sys2Proof.Machine.execMarker part queue s
  | .packetComplete part queue => Sys2Proof.Machine.execPacketComplete part queue s
  | .queueBind die => Sys2Proof.Machine.execQueueBind die s
  | .queueUnbind die thread => Sys2Proof.Machine.execQueueUnbind die thread s
  | .qpWatchdog die => Sys2Proof.Machine.execQpWatchdog die s
  | .dispatchDecision part => Sys2Proof.Machine.execDispatchDecision part s
  | .dispatchRetry part => Sys2Proof.Machine.execDispatchRetry part s
  | .preemptionDecision part queue => Sys2Proof.Machine.execPreemptionDecision part queue s
  | .faultDecision ctx => Sys2Proof.Machine.execFaultDecision ctx s
  | .starvationCheck part => Sys2Proof.Machine.execStarvationCheck part s
  | .reservation part => Sys2Proof.Machine.execReservation part s
  | .compaction part => Sys2Proof.Machine.execCompaction part s
  | .preemptTimeout ctx => Sys2Proof.Machine.execPreemptTimeout ctx s
  | .saveComplete ctx => Sys2Proof.Machine.execSaveComplete ctx s
  | .preemptRetry part => Sys2Proof.Machine.execPreemptRetry part s
  | .noProgress ctx => Sys2Proof.Machine.execNoProgress ctx s
  | .remoteTimeout n => Sys2Proof.Machine.execRemoteTimeout n s
  | .leaseRequest n => Sys2Proof.Machine.execLeaseRequest n s
  | .leasedWriteApply n => Sys2Proof.Machine.execLeasedWriteApply n s
  | .hostRead at_ => Sys2Proof.Machine.execHostRead at_ s
  | .hostWrite at_ n data => Sys2Proof.Machine.execHostWrite at_ n data s
  | .bisnpResponse line dirty => Sys2Proof.Machine.execBisnpResponse line dirty s
  | .fabricRequest module pa op => Sys2Proof.Machine.execFabricRequest module pa op s
  | .inboundRdma part qp rkey va op => Sys2Proof.Machine.execInboundRdma part qp rkey va op s
  | .portDrop port => Sys2Proof.Machine.execPortDrop port s
  | .timeExchange ok offs master => Sys2Proof.Machine.execTimeExchange ok offs master s
  | .syncLoss => Sys2Proof.Machine.execSyncLoss s
  | .sramError site uncorrectable => Sys2Proof.Machine.execSramError site uncorrectable s
  | .clockStepDown watts celsius => Sys2Proof.Machine.execClockStepDown watts celsius s
  | .clockStepUp watts celsius => Sys2Proof.Machine.execClockStepUp watts celsius s
  | .thermalTrip celsius => Sys2Proof.Machine.execThermalTrip celsius s
  | .powerOn => Sys2Proof.Machine.execPowerOn s
  | .startStage calibrationOk => Sys2Proof.Machine.execStartStage calibrationOk s
  | .startFailure code => Sys2Proof.Machine.execStartFailure code s
  | .frameScrubDone frame => Sys2Proof.Machine.execFrameScrubDone frame s
  | .stopComplete part => Sys2Proof.Machine.execStopComplete part s
  | .qwr by_ part queue v => Sys2Proof.Machine.execQwr by_ part queue v s
  | .qbase by_ part queue v => Sys2Proof.Machine.execQbase by_ part queue v s
  | .qctl by_ part queue v => Sys2Proof.Machine.execQctl by_ part queue v s
  | .qflt by_ part queue => Sys2Proof.Machine.execQflt by_ part queue s
  | .partitionStop by_ part => Sys2Proof.Machine.execPartitionStop by_ part s
  | .partitionStart by_ part => Sys2Proof.Machine.execPartitionStart by_ part s
  | .pframes by_ part v => Sys2Proof.Machine.execPframes by_ part v s
  | .registerWrite by_ off size v => Sys2Proof.Machine.execRegisterWrite by_ off size v s
  | .imgchunk => Sys2Proof.Machine.execImgchunk s
  | .imgcommit written => Sys2Proof.Machine.execImgcommit written s
  | .attest => Sys2Proof.Machine.execAttest s
  | .owner => Sys2Proof.Machine.execOwner s
  | .resetWarm => Sys2Proof.Machine.execResetWarm s
  | .resetCold => Sys2Proof.Machine.execResetCold s
  | .resetClear => Sys2Proof.Machine.execResetClear s
  | .powerLoss => Sys2Proof.Machine.execPowerLoss s
  | .timeBaseResume => Sys2Proof.Machine.execTimeBaseResume s
  | .mailboxCommandComplete => Sys2Proof.Machine.execMailboxCommandComplete s

end Sys2Proof.Machine
end

