-- ==== Sys2Proof/Machine/Next.lean ====
section
/-! DEFINITION. What happens next: the issued word, and, between words, the machine's own events in a fixed order, with the
time that passes while nothing happens. -/

namespace Sys2Proof.Machine

/-! ## The issued word (R52, R89, R93) -/

/-- The word at an index of a block, and the word after it, decoded (R93, R96). -/
def decodeAt (b : Block) (idx : Nat) : Except Reject Instr := decode (b.words.getD idx 0) (b.words.getD (idx + 1) 0)

/-- The instruction in the issue latch run. A latch whose block is gone is dropped; a word that encodes nothing, which no
mapped block holds, is an illegal encoding (R113). DEDUCED, log 56. -/
def runIssue (s : State) (f : Issue) : Host.Outcome State Fault Refusal :=
  match blockOf (ctxOf s f.ctx) f.tag with
  | none => .next { s with issue := none }
  | some b =>
    match decodeAt b f.idx with
    | .ok i => exec i s
    | .error _ => .next (recordFault { s with issue := none } f 0x01 ((b.words.getD f.idx 0).zeroExtend 64))

/-! ## Placing an instruction to be issued next -/

/-- The kernel header of the task that runs a placed instruction: the most that a header may declare, on one comb.
DESIGN CHOICE, log 8. -/
def placedHeader : List W64 := [0, BitVec.ofNat 64 (64 * 2 ^ 13 + 16 * 2 ^ 20 + 8 * 2 ^ 25 + 16 * 2 ^ 29 + 2 ^ 37 + 2 ^ 40), 16, 0, 0, 0, 0, 0]

/-- The launch of that task. DESIGN CHOICE, log 8. -/
def placedLaunch : Launch :=
  { part := 0, queue := 0, idx := 0, hdr := placedHeader, args := [], x := 1, y := 1, z := 1, prio := 0, pin := false, spill := 0, spillu := 0,
    start := 0, lastPlaced := 0, nextTile := 1, live := 1 }

/-- The block of a placed instruction: its word at index 0 and its extension word at index 1. DESIGN CHOICE, log 8. -/
def placedBlock (w x : Word) : Block := { tag := 0, addr := 0, hdr := [0, 0, 0, 0, 0, 0, 0, 0], words := [w, x], nodes := [(0, { st := .ready 0 })] }

/-- An S operand that is also an address of the context's scratch, and a V operand. -/
def placedS : Token := .s (BitVec.ofNat 64 Config.scratchBase)
def placedV : Token := .v 0 0xFFFF

/-- Whether a placed instruction's left operand is a V token. -/
def leftIsV (i : Instr) : Bool :=
  match i with
  | .vadd .. | .vsub .. | .vmul .. | .vfma .. | .vmin .. | .vmax .. | .vand .. | .vor .. | .vxor .. | .vshl .. | .vshr .. | .vsar .. | .vcmp ..
  | .vsel .. | .vext .. | .vins .. | .vperm .. | .vswz .. | .vred .. | .vscan .. | .vcvt .. | .vpack .. | .vunpk .. | .vdot .. | .vsfu .. | .vmask ..
  | .vlop3 .. | .copy .. | .fork .. => true
  | _ => false

/-- Whether its right operand is a V token. -/
def rightIsV (i : Instr) : Bool :=
  match i with
  | .vadd .. | .vsub .. | .vmul .. | .vfma .. | .vmin .. | .vmax .. | .vand .. | .vor .. | .vxor .. | .vshl .. | .vshr .. | .vsar .. | .vcmp ..
  | .vsel .. | .vperm .. | .vpack .. | .vdot .. | .vlop3 .. | .ldg .. | .stv .. | .sts .. | .cas .. => true
  | _ => false

/-- A placed instruction's third operand: its predicate's match, or data. -/
def placedThird (i : Instr) : Token :=
  match i with
  | .vfma .. => placedV
  | .vdot .. => placedV
  | _ => match predOf i with
    | .ifZero => .s 0
    | _ => .s 1

/-- The issue latch of a placed instruction. DESIGN CHOICE, log 8. -/
def placedIssue (i : Except Reject Instr) : Issue :=
  match i with
  | .ok i => ⟨0, 0, 0, some (if leftIsV i then placedV else placedS), some (if rightIsV i then placedV else placedS), some (placedThird i)⟩
  | .error _ => ⟨0, 0, 0, none, none, none⟩

/-- Context 0 running a task of launch 0 whose block holds a word and its extension word, and that word issued.
DESIGN CHOICE, log 8. -/
def placeWord (s : State) (w x : Word) : State :=
  let c : Ctx := { ctxOf s 0 with phase := .running, task := some { launch := 0, id := 0, x := 0, y := 0, z := 0, rank := some 0 },
                                  k := 1, scrOff := 0, scrSize := 4096, blocks := [placedBlock w x] }
  { s with launches := mput 0 placedLaunch s.launches, ctxs := mput 0 c s.ctxs, issue := some (placedIssue (decode w x)) }

/-! ## Events that may be due -/

/-- Cells that hold a ready or held instruction of a context, each once. -/
def busyCells (s : State) : List (Nat × Nat) :=
  s.ctxs.foldl (fun acc p => p.2.blocks.foldl (fun acc b => b.nodes.foldl (fun acc n =>
    match n.2.st with
    | .ready _ => let c := instrPlace p.2 p.1 b n.1; if acc.contains c then acc else acc ++ [c]
    | .held => let c := instrPlace p.2 p.1 b n.1; if acc.contains c then acc else acc ++ [c]
    | _ => acc) acc) acc) []

/-- The steps of the command in the mailbox (R365). -/
def mailboxOps (m : Mod) : List Instr :=
  if !m.busy || m.power == .off then []
  else match m.pending with
    | 1 => [.imgchunk]
    | 2 => [.imgcommit true]
    | 3 => [.attest]
    | 4 => [.owner]
    | 5 => [.resetWarm, .resetCold, .resetClear]
    | _ => [.mailboxCommandComplete]

/-- The module's own steps: its time base, its mailbox, a start, the loss of synchronisation (R356, R363, R365). -/
def moduleOps (s : State) : List Instr :=
  let base : List Instr := if s.md.stopClock && s.md.power != .off then [.timeBaseResume] else []
  let start : List Instr := if s.md.power == .starting then [.startStage true, .syncLoss] else [.syncLoss]
  [base, mailboxOps s.md, start].flatten

/-- The address a context fetches next where its exits or its return stack tell it (R172). DEDUCED, log 13. -/
def knownNext (x : Ctx) : Option W64 :=
  match x.blocks.getLast? with
  | some b => (b.exits.head?.bind (fun e => exitAddr e.2)).or (predictedRet x)
  | none => some x.next

/-- Waits, growth, saves and the watchdog of a context. -/
def waitOps (c : Nat) : List Instr :=
  [.growthComplete c, .compositionRefused c, .compactTimeout c, .preemptTimeout c, .saveComplete c, .noProgress c, .barTimeout c]

/-- Steps of contexts: cells, commits, fetches along known exits, waits and saves. -/
def contextOps (s : State) : List Instr :=
  let used := s.ctxs.filter (fun (p : Nat × Ctx) => p.2.phase != .free)
  let cells := (busyCells s).map (fun c => Instr.cellIssue c.1 c.2)
  let commits := used.map (fun p => Instr.blockCommit p.1)
  let fetches := used.filterMap (fun p => (knownNext p.2).map (fun a => Instr.blockFetch p.1 a))
  [cells, commits, fetches, (used.map (fun p => waitOps p.1)).flatten].flatten

/-- Steps of one outstanding load. -/
def loadOps (s : State) (l : Nat × LoadReq) : List Instr :=
  let read : List Instr := match nextRead s l.2 with | some r => [.homeRead l.1 r.1 r.2] | none => []
  let reply : List Instr := if l.2.due ≤ s.cycles then [.loadReply l.1] else []
  [read, [.leaseRequest l.1, .onchipWindowAccess l.1], reply].flatten

/-- The echoes that a context's releases wait for (R146). -/
def echoOps (p : Nat × Ctx) : List Instr := (p.2.releases.map (fun r => r.probes.map (fun k => Instr.sliceEcho p.1 k))).flatten

/-- Steps of outstanding accesses. -/
def memoryOps (s : State) : List Instr :=
  [(s.ms.loads.map (loadOps s)).flatten, s.ms.regs.map (fun r => Instr.registration r.1), s.ms.uwrites.map (fun u => Instr.writeAck u.1),
   s.ms.amos.map (fun a => Instr.amoAtHome a.1), (s.ctxs.map echoOps).flatten, s.ms.walks.map (fun k => Instr.flushrWalk k.1),
   s.ms.copies.map (fun c => Instr.copyChunk c.1), s.ms.delayed.map (fun d => Instr.leasedWriteApply d.1),
   s.ms.outside.map (fun o => Instr.leasedWriteApply o.1), s.ms.watches.map (fun w => Instr.watchExpired w.1)].flatten

/-- Requests that a far home has left without a reply for 2 ms (R333): their message numbers. -/
def overdueMsgs (s : State) : List Nat :=
  [(s.ms.loads.filter (fun (l : Nat × LoadReq) => l.2.asked.any (overdue s))).map (·.1),
   (s.ms.amos.filter (fun (a : Nat × AmoReq) => a.2.sent && overdue s a.2.since)).map (·.1),
   (s.ms.uwrites.filter (fun (u : Nat × UWrite) => u.2.sent && overdue s u.2.since)).map (·.1),
   (s.ms.regs.filter (fun (r : Nat × Reg) => overdue s r.2.since)).map (·.1),
   (s.ms.copies.filter (fun (c : Nat × CopyReq) => c.2.asked.any (overdue s) && (copyFar s c.2).isSome)).map (·.1)].flatten

/-- The steps of the core clock that the readings ask for (R367). DEDUCED, log 61. -/
def clockOps (m : Mod) : List Instr :=
  if isHot m then [.clockStepDown m.pwrnow m.temp]
  else if m.clk < Config.clockNominal then [.clockStepUp m.pwrnow m.temp] else []

/-- The start of a queue's next packet, by its type (R292, R293). -/
def packetOp (s : State) (p q : Nat) : List Instr :=
  if !mayStart s p q then []
  else
    match devWords s p (slotAddr (queueOf s p q) (queueOf s p q).start) 8 with
    | .error _ => [.launch p q]
    | .ok ws =>
      match typeOf ws with
      | 2 => [.depwait p q]
      | 3 => [.signal p q]
      | 4 => [.copyb p q]
      | 5 => [.policy p q]
      | 6 => [.fwin p q]
      | 7 => [.tlbinv p q]
      | 8 => [.sealRange p q]
      | 9 => [.unsealRange p q]
      | 10 => [.resume p q]
      | 11 => [.marker p q]
      | _ => [.launch p q]

/-- The next decision of a partition (R303). -/
def decisionOp (p : Nat) (d : Option Decision) : List Instr :=
  match d with
  | some .dispatch => [.dispatchDecision p]
  | some (.preempt q) => [.preemptionDecision p q]
  | some (.fault c _) => [.faultDecision c]
  | none => []

/-- Steps of one partition: its queues, and its dispatch unit with the check of R314 before decisions. -/
def partitionOps (s : State) (p : Nat × Partition) : List Instr :=
  let queues := (p.2.queues.map (fun q => [packetOp s p.1 q.1, [Instr.packetComplete p.1 q.1, Instr.depwaitReread p.1 q.1]].flatten)).flatten
  let timers : List Instr := [.starvationCheck p.1, .reservation p.1, .compaction p.1, .preemptRetry p.1, .dispatchRetry p.1]
  [queues, timers, decisionOp p.1 (nextDecision s p.1), [Instr.stopComplete p.1]].flatten

/-- Steps of a die's queue processor (R301, R302). -/
def dieOps (s : State) (d : Nat) : List Instr :=
  [[Instr.queueBind d, Instr.qpWatchdog d], (mget {} d s.dies).threads.map (fun t => Instr.queueUnbind d t.1)].flatten

/-- Frames being scrubbed, cells that count, and matrix units with work. -/
def unitOps (s : State) : List Instr :=
  let frames := (s.frames.filter (fun (f : Nat × Frame) => f.2.scrub)).map (fun f => Instr.frameScrubDone f.1)
  let cells := (s.cells.filter (fun (k : Nat × Cell) => !k.2.sums.isEmpty || !k.2.weight.isEmpty)).map (fun k => Instr.weightRecompute (k.1 / 16) (k.1 % 16))
  let units := (s.jobs.filter (fun (j : Nat × List MmaJob) => !j.2.isEmpty)).map (fun j => Instr.mmaPass (j.1 / 4) (j.1 % 4))
  [frames, cells, units].flatten

/-- The events that may happen now, in the order in which they are looked at. DESIGN CHOICE, log 6. -/
def dueOps (s : State) : List Instr :=
  if s.md.power != .running then moduleOps s
  else
    let tokens := (s.net.filter (fun (t : Nat × NetTok) => decide (t.2.due ≤ s.cycles))).map (fun t => Instr.tokenDelivery t.1)
    let arrivals := (s.arrivals.filter (fun (a : Nat × Arrival) => decide (a.2.due ≤ s.cycles))).map (fun a => Instr.barrierArrival a.1)
    [moduleOps s, tokens, contextOps s, memoryOps s, arrivals, (s.parts.map (partitionOps s)).flatten,
     ((upTo 4).map (dieOps s)).flatten, unitOps s, clockOps s.md, (overdueMsgs s).map (fun n => Instr.remoteTimeout n)].flatten

/-- Whether an event changes anything but the order of last uses. DESIGN CHOICE, log 6. -/
def changes (s : State) (i : Instr) : Bool :=
  match exec i s with
  | .next t => { t with ms := { t.ms with stamp := s.ms.stamp } } != s
  | _ => false

/-- The event that happens next by itself: the first of those due that changes anything. The spec orders them no further.
DESIGN CHOICE, log 6. -/
def auto (s : State) : Option Instr := (dueOps s).find? (changes s)

/-! ## Time in which nothing happens -/

/-- Cycles at which something of a context becomes due: a ready instruction, a timed BAR's end, a TST's capture, the watchdog. -/
def ctxCycles (s : State) (p : Nat × Ctx) : List Nat :=
  let ready : List Nat := (p.2.blocks.map (fun b => b.mappedAt :: b.nodes.filterMap (fun (n : Nat × Node) => match n.2.st with | .ready t => some t | _ => none))).flatten
  let captures : List Nat := (p.2.blocks.map (fun b => b.captures.map (·.2))).flatten
  let dog : List Nat := if heldStill s p.1 p.2 then [] else [s.cycles + (Config.watchdogCc - p.2.idle)]
  [ready, p.2.barWait.filterMap (fun w => w.left), captures, dog].flatten

/-- Cycles at which a cell may issue again and recomputes its weights (R52, R53). -/
def cellCycles (k : Cell) : List Nat :=
  (k.issuedAt.map (· + 1)).toList ++ (if k.sums.isEmpty && k.weight.isEmpty then [] else [k.weightAt + 1024])

/-- Cycles at which something becomes due: a token, a reply, an arrival, something of a cell or a context. -/
def cycleTimes (s : State) : List Nat :=
  [s.net.map (fun (t : Nat × NetTok) => t.2.due), s.ms.loads.map (fun (l : Nat × LoadReq) => l.2.due),
   s.arrivals.map (fun (a : Nat × Arrival) => a.2.due), (s.cells.map (fun (k : Nat × Cell) => cellCycles k.2)).flatten, (s.ctxs.map (ctxCycles s)).flatten].flatten

/-- Global times at which something of a context becomes due: growth, pre-emption, a fetch's time-out. -/
def ctxTimes (s : State) (x : Ctx) : List Nat :=
  let grow : List Nat := match x.growth with
    | some g => [g.since + (g.rounds + 1) * compactNs s x, g.since + 2 * compactNs s x]
    | none => []
  let stop : List Nat := match x.preempt with | some r => [r.since + 1000000] | none => []
  let fetch : List Nat := match x.fetch with | some f => [f.2 + Config.remoteNs] | none => []
  [grow, stop, fetch].flatten

/-- Global times at which something of a queue becomes due. -/
def queueTimes (x : Queue) : List Nat :=
  let bound : List Nat := if x.thread.isSome then [x.idle + 100000, max x.idle x.ready + 10000000] else []
  let blocked : List Nat := if x.blocked then x.pkts.map (fun (k : Nat × Packet) => k.2.note) else []
  let far : List Nat := (x.asked.toList ++ x.pkts.filterMap (fun (k : Nat × Packet) => k.2.asked)).map (· + Config.remoteNs)
  [bound, blocked, far].flatten

/-- Global times at which something of a partition becomes due. -/
def partTimes (p : Partition) : List Nat :=
  let check : List Nat := if p.en then [p.checkAt] else []
  let hold : List Nat := match p.reserve with | some r => [r.since + 1000 * p.tcomp] | none => []
  [check, p.retryAt, hold, (p.queues.map (fun (q : Nat × Queue) => queueTimes q.2)).flatten].flatten

/-- Global times at which requests to far homes time out (R333). DEDUCED, log 62. -/
def timeoutTimes (m : MemSys) : List Nat :=
  ([m.loads.filterMap (fun (l : Nat × LoadReq) => l.2.asked), m.amos.map (fun (a : Nat × AmoReq) => a.2.since),
    m.uwrites.map (fun (u : Nat × UWrite) => u.2.since), m.regs.map (fun (r : Nat × Reg) => r.2.since),
    m.copies.filterMap (fun (c : Nat × CopyReq) => c.2.asked)].flatten).map (· + Config.remoteNs)

/-- Global times at which a step of the clock becomes due (R367). DEDUCED, log 61. -/
def stepTimes (m : Mod) : List Nat :=
  if isHot m then [m.lastStepAt + 100000]
  else if m.clk < Config.clockNominal then (m.lastStepAt + 100000) :: (m.clearSince.map (· + 1000000)).toList else []

/-- Global times at which something becomes due. DEDUCED, log 62. -/
def clockTimes (s : State) : List Nat :=
  let sync : List Nat := if s.md.healthy then [s.md.lastSync + 1000001] else []
  [s.ms.watches.map (fun (w : Nat × Watch) => w.2.since + Config.watchNs), s.ms.delayed.map (fun (d : Nat × Delayed) => d.2.until_ + 1),
   (s.ctxs.map (fun (p : Nat × Ctx) => ctxTimes s p.2)).flatten, (s.parts.map (fun (p : Nat × Partition) => partTimes p.2)).flatten, timeoutTimes s.ms, stepTimes s.md, sync].flatten

/-- The cc until the next thing becomes due, at least one. DESIGN CHOICE, log 53; DEDUCED, log 62. -/
def quietCc (s : State) : Nat :=
  let cs := (cycleTimes s).filterMap (fun t => if s.cycles < t then some (t - s.cycles) else none)
  let gs := (clockTimes s).filterMap (fun t => if s.gtime < t then some (ccUntil s t) else none)
  match cs ++ gs with
  | [] => 1
  | d :: r => max 1 (r.foldl min d)

/-- An event that happens if it can. -/
def doEvent (s : State) (i : Instr) : State :=
  match exec i s with
  | .next t => t
  | _ => s

/-- The writes that would otherwise become visible more than 2 µs after they were sent are performed before time passes (R149). -/
def hurry (s : State) (cc : Nat) : State :=
  let late : Nat → Bool := fun since => decide (since + Config.visibleNs ≤ (advance s cc).gtime)
  let regs := (s.ms.regs.filter (fun (r : Nat × Reg) => late r.2.since)).map (fun r => Instr.registration r.1)
  let writes := (s.ms.uwrites.filter (fun (u : Nat × UWrite) => u.2.sent && late u.2.since)).map (fun u => Instr.writeAck u.1)
  (regs ++ writes).foldl doEvent s

/-- Time passed before a planned event: writes become visible in time, and requests of 2 ms ago have timed out (R149, R333). -/
def passTime (s : State) (cc : Nat) : State :=
  let s := advance (hurry s cc) cc
  (overdueMsgs s).foldl (fun s n => doEvent s (.remoteTimeout n)) s

/-- What the outside has planned next, after the time before it. A word no cell has issued is no event and does nothing.
DESIGN CHOICE, log 6; DEDUCED, log 56. -/
def runPlanned (s : State) (p : Planned) (rest : List Planned) : Host.Outcome State Fault Refusal :=
  let s := passTime { s with agenda := rest } p.cc
  match exec p.op s with
  | .fault _ => .next s
  | o => o

/-- With nothing issued and nothing planned: the next event, or time. DESIGN CHOICE, log 53. -/
def runAuto (s : State) : Host.Outcome State Fault Refusal :=
  match auto s with
  | some i => exec i s
  | none => .next (advance s (quietCc s))

end Sys2Proof.Machine
end

