-- ==== Sys2Proof/Machine/Step.lean ====
section
/-! DEFINITION. One step of the machine, and the placing of an instruction to be issued next. -/

namespace Sys2Proof.Machine

/-- One step: the issued word runs; else what the outside has planned happens; else the machine's next event, or time
passes. DESIGN CHOICE, log 6. -/
def step (s : State) : Host.Outcome State Fault Refusal :=
  match s.issue with
  | some f => runIssue s f
  | none =>
    match s.agenda with
    | p :: rest => runPlanned s p rest
    | [] => runAuto s

/-- The state with an instruction issued: `w` and its extension word stand at indexes 0 and 1 of a block that context 0
runs, and the issue latch holds index 0 with operands. DESIGN CHOICE, log 8. -/
def State.withFetchWord (s : State) (nbits w : Nat) : State := placeWord s (BitVec.ofNat 32 w) (if nbits ≤ 32 then 0 else BitVec.ofNat 32 (w / 2 ^ 32))

end Sys2Proof.Machine
end

