-- ==== Sys2Proof/Safety.lean ====
section
/-! DEFINITION. The terms the claims use: an instruction issued with its operands, what its meaning may answer, what a
token may be for a slot, the parts of the machine an instruction word leaves alone, and the invariants. -/

namespace Sys2Proof.Machine

/-! ## An instruction issued (R52, R89) -/

/-- Word `f` stands in the issue latch and `b` is the block it comes from. -/
def Issued (s : State) (f : Issue) (b : Block) : Prop := s.issue = some f ∧ blockOf (ctxOf s f.ctx) f.tag = some b

/-- The state with the issue latch empty. -/
def taken (s : State) : State := { s with issue := none }

/-- A predicate sense lets an instruction fire with a token in its predicate slot (R91). -/
def Fires (p : Pr) (t : Option Token) : Prop :=
  match p with
  | .always => True
  | .ifZero => t = some (.s 0)
  | .ifNonzero => ∃ v : W64, v ≠ 0 ∧ t = some (.s v)

/-- A predicate sense does not match a token in the predicate slot: N never does, and an S token does by its value (R91). -/
def Mismatches (p : Pr) (t : Token) : Prop :=
  match p with
  | .always => False
  | .ifZero => t = .n ∨ ∃ v : W64, v ≠ 0 ∧ t = .s v
  | .ifNonzero => t = .n ∨ t = .s 0

/-- Word `f` of block `b` is issued, and its predicate lets it fire. -/
def Ready (s : State) (f : Issue) (b : Block) (p : Pr) : Prop := Issued s f b ∧ Fires p f.third

/-- The token that a data slot of an issued instruction holds. The third slot is data for a three-input instruction. -/
def slotOfIssue (f : Issue) (k : Slot) : Option Token :=
  match k with
  | .left => f.left
  | .right => f.right
  | .third => f.third

/-- The data slots of an instruction (R89). -/
def dataSlots (i : Instr) : List Slot := [Slot.left, .right, .third].filter (fun k => if k == .third then isThree i else usesSlot i k)

/-- Every data slot of an instruction holds a token. -/
def SlotsFilled (i : Instr) (f : Issue) : Prop := ∀ k ∈ dataSlots i, (slotOfIssue f k).isSome = true

/-- A data slot of an instruction holds an N token. -/
def NullIn (i : Instr) (f : Issue) : Prop := ∃ k ∈ dataSlots i, slotOfIssue f k = some .n

/-- The kinds of token that an instruction's data slot accepts (R168): S, V or both. -/
def acceptsS (i : Instr) (k : Slot) : Bool :=
  match i, k with
  | .vsel .., .third => true
  | .vext .., .right => true
  | .vins .., .right => true
  | .vins .., .third => true
  | .vsplat .., .left => true
  | .vmask _ .stom .., .left => true
  | .vmask _ .first .., .left => true
  | .vmask _ .setv .., .right => true
  | .vmask _ .andv .., .right => true
  | .vadd .., _ | .vsub .., _ | .vmul .., _ | .vfma .., _ | .vmin .., _ | .vmax .., _ | .vand .., _ | .vor .., _ | .vxor .., _
  | .vshl .., _ | .vshr .., _ | .vsar .., _ | .vcmp .., _ | .vsel .., _ | .vext .., _ | .vins .., _ | .vperm .., _ | .vswz .., _
  | .vred .., _ | .vscan .., _ | .vcvt .., _ | .vpack .., _ | .vunpk .., _ | .vdot .., _ | .vsfu .., _ | .vmask .., _
  | .vlop3 .., _ => false
  | .ldg .., .right => false
  | .stv .., .right => false
  | .sts .., .right => false
  | .cas .., .right => false
  | .copy .., .left => false
  | .fork .., .left => false
  | .top _ (.rscale ..) .., .right => false
  | .top _ (.rsub ..) .., .right => false
  | .trow _ .wb .., .left => false
  | .trow _ .wa .., .left => false
  | _, _ => true

/-- Whether a data slot accepts a V token (R168, R182, R184, R285, R287). -/
def acceptsV (i : Instr) (k : Slot) : Bool :=
  match i, k with
  | .mov .., _ | .mov4 .., _ | .wr .., _ | .mma .., _ => true
  | .sel .., .left => true
  | .sel .., .right => true
  | .vsel .., .third => true
  | .top .., .left => true
  | .trow .., _ => true
  | i, k => !acceptsS i k

/-- A data slot of an instruction holds an S or V token of a kind it does not accept. -/
def WrongKind (i : Instr) (f : Issue) : Prop :=
  ∃ k ∈ dataSlots i, match slotOfIssue f k with
    | some (.s _) => acceptsS i k = false
    | some (.v _ _) => acceptsV i k = false
    | _ => False

/-! ## What a word's meaning answers -/

/-- The instruction completes: its result leaves for its targets, and it is done. -/
def Emits (i : Instr) (s : State) (f : Issue) (lat : Nat) (ts : List Target) (t : Token) : Prop :=
  exec i s = .next (finish (taken s) f lat ts t)

/-- The instruction completes with what it does recorded in its block, and it is done. -/
def Records (i : Instr) (s : State) (f : Issue) (g : Block → Block) : Prop :=
  exec i s = .next (setSt (modBlock (taken s) f.ctx f.tag g) f .done)

/-- The instruction faults: its cause and value are recorded against it (R110). -/
def FaultsWith (i : Instr) (s : State) (f : Issue) (cause : BitVec 8) (v : W64) : Prop :=
  exec i s = .next (recordFault (taken s) f cause v)

/-- A V token with valid mask `m` whose lane i is `f i` where it is valid and 0 where it is not (R195). -/
def LanesAre (t : Token) (m : Mask) (f : Nat → Word) : Prop :=
  ∃ l : Lanes, t = .v l m ∧ ∀ i, i < 16 → lane l i = if m.getLsbD i then f i else 0

/-- A V token of type `ty` with valid mask `m` whose sub-element j of lane i is `f i j` where the lane is valid; a lane that
is not valid is 0 (R55, R195). -/
def SubsAre (ty : ElemTy) (t : Token) (m : Mask) (f : Nat → Nat → Nat) : Prop :=
  ∃ l : Lanes, t = .v l m ∧ ∀ i, i < 16 →
    (m.getLsbD i = true → ∀ j, j < ty.count → sub (lane l i) j ty.width = f i j) ∧ (m.getLsbD i = false → lane l i = 0)

/-- A store-class instruction executes: its effect is recorded under its LSID and checked against younger loads (R100,
R102). -/
def Stores (i : Instr) (s : State) (f : Issue) (b : Block) (ls : BitVec 5) (op : StoreOp) : Prop :=
  exec i s = .next (fireStore (taken s) f (ctxOf s f.ctx) b ls.toNat op)

/-- The comb and cell that issue word `f` (R36, R37). -/
def combOf (s : State) (f : Issue) (b : Block) : Nat := issueComb (ctxOf s f.ctx) f b

/-- An access to ranges (first byte, bytes, place in the result) begins where every byte may be accessed, and faults at
the lowest byte that may not (R216, R219). -/
def Accesses (i : Instr) (s : State) (f : Issue) (b : Block) (ls : BitVec 5) (kind : LoadKind) (acq : Bool) (hint : Hint) (k : Plain)
    (ranges : List (Nat × Nat × Nat)) (t1 t0 : Target) : Prop :=
  let tr := transRanges (taken s) f.ctx (ctxOf s f.ctx) (combOf s f b) .rd k ranges
  (∀ e, tr = .error e → FaultsWith i s f e.1 e.2)
  ∧ (∀ ps, tr = .ok ps → exec i s = .next (startLoad (taken s) f ls.toNat kind acq hint ps t1 t0))

/-- The byte that a list of pieces, written in order, leaves at an address; none where no piece covers it. -/
def storedByte (ps : List Piece) (a : Nat) : Option Byte :=
  ps.foldl (fun r p => if p.va ≤ a ∧ a < p.va + p.n then some (BitVec.ofNat 8 (p.data >>> (8 * (a - p.va)))) else r) none

/-- The byte at a physical address that the last of some recorded stores to write it gives, by the places their bytes have for a
context; none where no store writes it (R101). -/
def forwardedByte (s : State) (c : Nat) (x : Ctx) (rs : List StoreRec) (a : Nat) : Option Byte :=
  rs.foldl (fun r q => match q.op with
    | some (.data _ ps) => ps.foldl (fun r p =>
        let k := byteKey s c x q.comb p.va
        if k / 8 = a / 8 ∧ k ≤ a ∧ a < k + p.n then some (BitVec.ofNat 8 (p.data >>> (8 * (a - k)))) else r) r
    | _ => r) none

/-- A tensor instruction of block `b` whose waits under R104 are over and whose tile operands hold no poison (R339). -/
def TileReady (i : Instr) (s : State) (f : Issue) (b : Block) : Prop :=
  instrAt b.words f.idx = some i ∧ tileWaits (ctxOf s f.ctx) b f.idx i = false ∧ tilePoison (taken s) f.ctx (ctxOf s f.ctx) b i = none

/-- A tensor instruction ends with tile state written and a token emitted. -/
def EmitsWith (i : Instr) (s : State) (f : Issue) (lat : Nat) (ts : List Target) (t : Token) (w : State → State) : Prop :=
  exec i s = .next (finish (w (taken s)) f lat ts t)

/-- An operation or event answers this next state. -/
def Becomes (i : Instr) (s t : State) : Prop := exec i s = .next t

/-! ## Packets started (R291 to R297) -/

/-- The start of a queue's next packet, by the type code of R293; a type that is not listed goes with LAUNCH's. -/
def startOp (p q ty : Nat) : Instr :=
  match ty with
  | 2 => .depwait p q
  | 3 => .signal p q
  | 4 => .copyb p q
  | 5 => .policy p q
  | 6 => .fwin p q
  | 7 => .tlbinv p q
  | 8 => .sealRange p q
  | 9 => .unsealRange p q
  | 10 => .resume p q
  | 11 => .marker p q
  | _ => .launch p q

/-- The address of the slot of a queue's next packet (R291). -/
def nextSlot (s : State) (p q : Nat) : Nat := slotAddr (queueOf s p q) (queueOf s p q).start

/-- The number under which the device's own accesses for a queue's next packet wait. -/
def nextMsg (s : State) (p q : Nat) : Nat := devMsg p q (pktKey (queueOf s p q))

/-- A queue may start a packet and need not wait to read it, and these are its eight words. -/
def NextPacket (s : State) (p q : Nat) (ws : List W64) : Prop :=
  mayStart s p q = true ∧ readWaits s p (nextMsg s p q) [(nextSlot s p q, 64)] = none ∧ devWords s p (nextSlot s p q) 8 = .ok ws ∧ startNow s p q ws = true

/-- The state in which a packet's words have been read: words that a comb owned are written back (R143). -/
def packetRead (s : State) (p q : Nat) : State := seenAll s p [(nextSlot s p q, 64)]

/-- The state in which a packet is judged: the structures that a well-formed one with its privilege names have been read as well,
and no write of its own waits. -/
def packetSeen (s : State) (p q : Nat) (ws : List W64) : State :=
  let r := packetRead s p q
  if pkHeadOk ws && pkBodyOk ws && !pkDenied r p q ws then
    seenAll { r with ms := undelay r.ms (nextMsg s p q) } p (packetReads r p ws)
  else r

/-- A well-formed packet with its privilege need not wait for a home word that it reads or stores to. -/
def PacketFree (s : State) (p q : Nat) (ws : List W64) : Prop :=
  let r := packetRead s p q
  (pkHeadOk ws && pkBodyOk ws && !pkDenied r p q ws) = true →
    readWaits r p (nextMsg s p q) (packetReads r p ws) = none ∧ waitHomes r p (nextMsg s p q) (storeAddrs ws) = none

/-- The packet that is next in `s` opened in `r`: its index is passed, and it is recorded with the queue and in the journal. -/
def opened (s r : State) (p q : Nat) (ws : List W64) : State :=
  let x := queueOf s p q
  journalAdd (modQueue r p q (fun y => { y with
    start := (y.start + 1) % 2 ^ 32
    pkts := mput (pktKey x) { idx := pktKey x, words := ws, status := none, slot := slotAddr x x.start } y.pkts
    idle := r.gtime
    asked := none })) 0 p q (pktKey x)

/-- The state in which the packet that is next in `s` has started. -/
def started (s : State) (p q : Nat) (ws : List W64) : State := opened s (packetSeen s p q ws) p q ws

/-- A privileged packet in a queue with PRIV = 0 (R294). -/
def Denied (s : State) (p q : Nat) (ws : List W64) : Prop := 5 ≤ pkType ws ∧ pkType ws ≤ 10 ∧ (partOf s p).qpriv.getLsbD q = false

/-- A well-formed packet of a type that its queue may start, whose own reads and store need not wait. -/
def PacketStarts (s : State) (p q ty : Nat) (ws : List W64) : Prop :=
  NextPacket s p q ws ∧ pkType ws = ty ∧ pkHeadOk ws = true ∧ pkBodyOk ws = true ∧ ¬Denied s p q ws ∧ PacketFree s p q ws

/-- An access of the device's own must wait, in `u`. Where a far home among those it waits for has not replied for 2 ms since it was
asked, noted in `note` when that began, it fails at that home's address (R333, R336). -/
def TimedWait (i : Instr) (s u note : State) (far asked : Option Nat) (fails : Nat → State) : Prop :=
  (far = none ∨ (∃ g, asked = some g ∧ s.gtime < g + 2000000) → Becomes i s u)
  ∧ (far ≠ none → asked = none → Becomes i s note)
  ∧ ∀ a g, far = some a → asked = some g → g + 2000000 ≤ s.gtime → Becomes i s (fails a)

/-- A packet's effect ends with a status, and a device fault is recorded (R336). -/
def faultStatus (s : State) (p q idx : Nat) (e : BitVec 8 × Nat) : State := endEffect (deviceFault s p e idx q) p q idx 5

/-! ## Requests from outside (R161, R346, R354, R359) -/

/-- The state in which a request from outside has arrived. -/
def arrived (s : State) (o : Outside) : State := bumpSeq { s with ms := { s.ms with outside := mput s.seq o s.ms.outside } }

/-- An earlier request whose order a new one keeps is outstanding. -/
def Behind (s : State) (o : Outside) : Prop := ∃ k ∈ s.ms.outside, k.1 < s.seq ∧ sameOrder k.2 o = true

/-- The state in which the request that came as a state's next message is done with. -/
def answered (s t : State) : State := { t with ms := undelay { t.ms with outside := mdel s.seq t.ms.outside } s.seq }

/-! ## What a word leaves alone -/

/-- A context with the fields set apart that the words of its blocks may change as they fire: its blocks, SQC, the blocks to
be run in order after an ordering violation, a fetch under way, a commit's translations, and the fault word that WAITB takes and a
discard gives back (R102, R110, R112, R246). -/
def ctxFrame (x : Ctx) : Ctx := { x with blocks := [], sqc := 0, strictAt := [], fetch := none, xlat := none, batFault := 0 }

/-- A context's fault word for WAITB is as it was, or as one of the context's blocks had taken it (R110, R246). -/
def FaultKept (x y : Ctx) : Prop := y.batFault = x.batFault ∨ ∃ b ∈ x.blocks, b.taken ≠ 0 ∧ y.batFault = b.taken

/-- A state with the fields set apart that words may change as they fire: the latch, the operand network, message numbers,
contexts, outstanding loads and watches, the matrix units' queues, and translations used. -/
def wordFrame (s : State) : State :=
  { s with issue := none, net := [], seq := 0, ctxs := [], jobs := [], combs := [], dies := [], ms := { s.ms with loads := [], watches := [] } }

/-- Every register, every byte of memory and all else is the same but what a word of context `c` may change as it fires. -/
def WordFrame (c : Nat) (s t : State) : Prop :=
  (∀ d, d ≠ c → ctxOf t d = ctxOf s d) ∧ ctxFrame (ctxOf t c) = ctxFrame (ctxOf s c) ∧ FaultKept (ctxOf s c) (ctxOf t c) ∧ wordFrame t = wordFrame s
  ∧ (∀ k, { mget {} k t.combs with tlb := [] } = { mget {} k s.combs with tlb := [] })
  ∧ ∀ k, { mget {} k t.dies with tlb := [] } = { mget {} k s.dies with tlb := [] }

/-- Two states differ at most in the latch, the operand network, the message numbers and context `c`'s blocks. -/
def TokenFrame (c : Nat) (s t : State) : Prop :=
  (∀ d, d ≠ c → ctxOf t d = ctxOf s d) ∧ { ctxOf t c with blocks := [] } = { ctxOf s c with blocks := [] }
  ∧ { t with issue := none, net := [], seq := 0, ctxs := [] } = { s with issue := none, net := [], seq := 0, ctxs := [] }

/-- The instruction words whose firing changes only tokens and their own block: all but exits, loads, store-class
instructions, WAITB, JOIN and MMA. -/
def tokenWord (i : Instr) : Bool :=
  i.isWord && (exitNum i).isNone && (lsidOf i).isNone &&
    match i with
    | .waitb .. | .join .. | .mma .. => false
    | _ => true

/-- The instruction words that may complete as an acquire (R145). -/
def acquireWord (i : Instr) : Bool :=
  match i with
  | .fence _ _ .full | .fence _ _ .acq | .waitb .. | .join .. => true
  | _ => false

/-! ## System registers at the commit point (R179, R288) -/

/-- What a context's registers hold of a value that SETS has written to one, its read-only and reserved fields apart (R14, R179,
R275, R322). -/
def SysHolds (y : Ctx) (r : SysReg) (v : W64) : Prop :=
  match r with
  | .h n => mget 0 n.toNat y.h = v
  | .tcause => y.trap.inh = v.getLsbD 8 ∧ y.trap.cause = v.extractLsb' 0 8
  | .tval => y.trap.tval = v
  | .tepc => y.trap.tepc = v
  | .tidx => y.trap.tidx = v.extractLsb' 0 10
  | .tstat => y.trap.retries = v.extractLsb' 24 8
  | .tcause2 => y.trap.cause2 = v.extractLsb' 0 8
  | .tval2 => y.trap.tval2 = v
  | .ppr => y.ppr.extractLsb' 0 29 = v.extractLsb' 0 29 ∧ (v.extractLsb' 29 2 ≠ 3 → y.ppr.extractLsb' 29 2 = v.extractLsb' 29 2)
  | .rpc n => y.rpc.getD n.toNat 0 = v
  | .sqc => y.sqc = v
  | .tvec | .scrbase | .scrsize | .touched => True

/-- A write that the system registers take: of SETS to a register, or of PSET to PPR. -/
def writesSys (w : SysWr) (r : SysReg) : Bool :=
  match w with
  | .sets q _ => q == r
  | .pset .. => r == .ppr

/-- The fields of PPR that PSET's mask selects, by its bits: lowest bit and width (R275, R288). -/
def pprFields : List (Nat × Nat × Nat) := [(0, 0, 8), (1, 8, 8), (2, 16, 8), (3, 24, 4), (4, 28, 1), (5, 29, 2)]

/-! ## Invariants -/

/-- Memory is in its canonical form. -/
def MemoryCanonical (s : State) : Prop := Memory.wf s.ms.mem = true

end Sys2Proof.Machine
end

