-- ==== Sys2Proof/Certificates/Slice0/Obligations.lean ====
section
/-! DEFINITION. The statements for the provers, from the numbered rules of spec/. -/

open Sys2Proof Sys2Proof.Machine

/-- ADD, SUB, MUL, AND, OR, XOR and ANDN on S operands; MULH delivers bits [127:64] of the exact 128-bit product, each operand read as its form
says; MIN and MAX deliver the lesser and the greater, compared as signed or as unsigned (R69, R170, R187). -/
def Obligations.ScalarArithmeticResults : Prop :=
  ∀ (s : State) (f : Issue) (b : Block) (p : Pr) (t1 t0 : Target) (x y : W64),
    Ready s f b p → f.left = some (.s x) → f.right = some (.s y) →
    Emits (.add p t1 t0) s f 1 [t0, t1] (.s (x + y)) ∧ Emits (.sub p t1 t0) s f 1 [t0, t1] (.s (x - y))
    ∧ Emits (.mul p t1 t0) s f 3 [t0, t1] (.s (x * y)) ∧ Emits (.and p t1 t0) s f 1 [t0, t1] (.s (x &&& y))
    ∧ Emits (.or p t1 t0) s f 1 [t0, t1] (.s (x ||| y)) ∧ Emits (.xor p t1 t0) s f 1 [t0, t1] (.s (x ^^^ y))
    ∧ Emits (.andn p t1 t0) s f 1 [t0, t1] (.s (x &&& ~~~y))
    ∧ Emits (.mulh p .ss t1 t0) s f 3 [t0, t1] (.s ((BitVec.ofInt 128 (x.toInt * y.toInt)).extractLsb' 64 64))
    ∧ Emits (.mulh p .uu t1 t0) s f 3 [t0, t1] (.s ((BitVec.ofNat 128 (x.toNat * y.toNat)).extractLsb' 64 64))
    ∧ Emits (.mulh p .su t1 t0) s f 3 [t0, t1] (.s ((BitVec.ofInt 128 (x.toInt * (y.toNat : Int))).extractLsb' 64 64))
    ∧ Emits (.min p .s t1 t0) s f 1 [t0, t1] (.s (BitVec.ofInt 64 (min x.toInt y.toInt)))
    ∧ Emits (.max p .s t1 t0) s f 1 [t0, t1] (.s (BitVec.ofInt 64 (max x.toInt y.toInt)))
    ∧ Emits (.min p .u t1 t0) s f 1 [t0, t1] (.s (BitVec.ofNat 64 (min x.toNat y.toNat)))
    ∧ Emits (.max p .u t1 t0) s f 1 [t0, t1] (.s (BitVec.ofNat 64 (max x.toNat y.toNat)))

/-- DIV and REM by the cases of R70 in their order, with their latency (R70, R170); SHL, SHR, SAR and ROR take their count from bits
[5:0] of the right operand: bit k of each result (R71, R187). -/
def Obligations.DivisionsAndShiftsFollowTheirCases : Prop :=
  ∀ (s : State) (f : Issue) (b : Block) (p : Pr) (g : Sgn) (t1 t0 : Target) (x y : W64),
    Ready s f b p → f.left = some (.s x) → f.right = some (.s y) →
    let n := (y.extractLsb' 0 6).toNat
    (∃ q r : W64, ∃ lat : Nat,
      Emits (.div p g t1 t0) s f lat [t0, t1] (.s q) ∧ Emits (.rem p g t1 t0) s f lat [t0, t1] (.s r)
      ∧ (y = 0 → q = BitVec.allOnes 64 ∧ r = x)
      ∧ (g = .s → y ≠ 0 → x = BitVec.intMin 64 → y = BitVec.allOnes 64 → q = x ∧ r = 0)
      ∧ (g = .s → y ≠ 0 → ¬(x = BitVec.intMin 64 ∧ y = BitVec.allOnes 64) →
          q.toInt = x.toInt.tdiv y.toInt ∧ r.toInt = x.toInt.tmod y.toInt)
      ∧ (g = .u → y ≠ 0 → q.toNat = x.toNat / y.toNat ∧ r.toNat = x.toNat - y.toNat * (x.toNat / y.toNat))
      ∧ (g = .s → lat = if -(2 : Int) ^ 31 ≤ x.toInt ∧ x.toInt < 2 ^ 31 ∧ -(2 : Int) ^ 31 ≤ y.toInt ∧ y.toInt < 2 ^ 31 then 18 else 34)
      ∧ (g = .u → lat = if x.toNat < 2 ^ 32 ∧ y.toNat < 2 ^ 32 then 18 else 34))
    ∧ ∃ l r a o : W64,
      Emits (.shl p t1 t0) s f 1 [t0, t1] (.s l) ∧ Emits (.shr p t1 t0) s f 1 [t0, t1] (.s r)
      ∧ Emits (.sar p t1 t0) s f 1 [t0, t1] (.s a) ∧ Emits (.ror p t1 t0) s f 1 [t0, t1] (.s o)
      ∧ ∀ k, k < 64 →
        l.getLsbD k = (decide (n ≤ k) && x.getLsbD (k - n))
        ∧ r.getLsbD k = x.getLsbD (k + n)
        ∧ a.getLsbD k = (if k + n < 64 then x.getLsbD (k + n) else x.msb)
        ∧ o.getLsbD k = x.getLsbD ((k + n) % 64)

/-- ADDI, MULI, ANDI, ORI and XORI with the sign-extended immediate; SHLI, SHRI and SARI with an immediate of 0 to 63 (R188); the
immediate tests compare the left operand with the sign-extended immediate as signed (R186). -/
def Obligations.ImmediateFormsUseTheSignExtendedImmediate : Prop :=
  ∀ (s : State) (f : Issue) (b : Block) (p : Pr) (imm : BitVec 9) (t0 : Target) (x : W64),
    Ready s f b p → f.left = some (.s x) →
    let i := imm.toInt
    let one : Prop → Token → Prop := fun r t => (r → t = .s 1) ∧ (¬r → t = .s 0)
    Emits (.addi p imm t0) s f 1 [t0] (.s (x + imm.signExtend 64)) ∧ Emits (.muli p imm t0) s f 3 [t0] (.s (x * imm.signExtend 64))
    ∧ Emits (.andi p imm t0) s f 1 [t0] (.s (x &&& imm.signExtend 64)) ∧ Emits (.ori p imm t0) s f 1 [t0] (.s (x ||| imm.signExtend 64))
    ∧ Emits (.xori p imm t0) s f 1 [t0] (.s (x ^^^ imm.signExtend 64))
    ∧ (imm.toNat ≤ 63 → Emits (.shli p imm t0) s f 1 [t0] (.s (x <<< imm.toNat)) ∧ Emits (.shri p imm t0) s f 1 [t0] (.s (x >>> imm.toNat))
        ∧ Emits (.sari p imm t0) s f 1 [t0] (.s (x.sshiftRight imm.toNat)))
    ∧ (∃ t, Emits (.teqi p imm t0) s f 1 [t0] t ∧ one (x.toInt = i) t) ∧ (∃ t, Emits (.tnei p imm t0) s f 1 [t0] t ∧ one (x.toInt ≠ i) t)
    ∧ (∃ t, Emits (.tlti p imm t0) s f 1 [t0] t ∧ one (x.toInt < i) t) ∧ (∃ t, Emits (.tlei p imm t0) s f 1 [t0] t ∧ one (x.toInt ≤ i) t)
    ∧ (∃ t, Emits (.tgti p imm t0) s f 1 [t0] t ∧ one (i < x.toInt) t) ∧ (∃ t, Emits (.tgei p imm t0) s f 1 [t0] t ∧ one (i ≤ x.toInt) t)

/-- SXB, SXH, SXW, ZXB, ZXH and ZXW extend the low bits; NEG, NOT and ABS, where −2^63 gives −2^63; CLZ, CTZ and POPC count bits;
BREV and BSWAP reverse bits and bytes (R69, R189). -/
def Obligations.OneOperandScalarResults : Prop :=
  ∀ (s : State) (f : Issue) (b : Block) (p : Pr) (t1 t0 : Target) (x : W64),
    Ready s f b p → f.left = some (.s x) →
    Emits (.sxb p t1 t0) s f 1 [t0, t1] (.s ((x.extractLsb' 0 8).signExtend 64)) ∧ Emits (.sxh p t1 t0) s f 1 [t0, t1] (.s ((x.extractLsb' 0 16).signExtend 64))
    ∧ Emits (.sxw p t1 t0) s f 1 [t0, t1] (.s ((x.extractLsb' 0 32).signExtend 64)) ∧ Emits (.zxb p t1 t0) s f 1 [t0, t1] (.s ((x.extractLsb' 0 8).zeroExtend 64))
    ∧ Emits (.zxh p t1 t0) s f 1 [t0, t1] (.s ((x.extractLsb' 0 16).zeroExtend 64)) ∧ Emits (.zxw p t1 t0) s f 1 [t0, t1] (.s ((x.extractLsb' 0 32).zeroExtend 64))
    ∧ Emits (.neg p t1 t0) s f 1 [t0, t1] (.s (BitVec.ofInt 64 (-x.toInt))) ∧ Emits (.not p t1 t0) s f 1 [t0, t1] (.s (~~~x))
    ∧ Emits (.abs p t1 t0) s f 1 [t0, t1] (.s (BitVec.ofInt 64 x.toInt.natAbs))
    ∧ ∃ c z n r w : W64,
      Emits (.clz p t1 t0) s f 1 [t0, t1] (.s c) ∧ Emits (.ctz p t1 t0) s f 1 [t0, t1] (.s z) ∧ Emits (.popc p t1 t0) s f 1 [t0, t1] (.s n)
      ∧ Emits (.brev p t1 t0) s f 1 [t0, t1] (.s r) ∧ Emits (.bswap p t1 t0) s f 1 [t0, t1] (.s w)
      ∧ c.toNat ≤ 64 ∧ (∀ k, k < c.toNat → x.getLsbD (63 - k) = false) ∧ (c.toNat < 64 → x.getLsbD (63 - c.toNat) = true)
      ∧ z.toNat ≤ 64 ∧ (∀ k, k < z.toNat → x.getLsbD k = false) ∧ (z.toNat < 64 → x.getLsbD z.toNat = true)
      ∧ n.toNat = ((List.range 64).filter (fun k => x.getLsbD k)).length
      ∧ (∀ k, k < 64 → r.getLsbD k = x.getLsbD (63 - k))
      ∧ (∀ k, k < 8 → w.extractLsb' (8 * k) 8 = x.extractLsb' (8 * (7 - k)) 8)

/-- LEA adds a shifted right operand; LOP3 looks each bit up in its truth table; BFX extracts a field (R190, R191, R193). -/
def Obligations.AddressesTruthTablesAndFieldExtraction : Prop :=
  ∀ (s : State) (f : Issue) (b : Block) (p : Pr) (t1 t0 : Target) (x y : W64),
    Ready s f b p → f.left = some (.s x) → f.right = some (.s y) →
    (∀ sh : BitVec 3, Emits (.lea p sh t1 t0) s f 1 [t0, t1] (.s (x + (y <<< sh.toNat))))
    ∧ (∀ (imm : BitVec 24) (tt : BitVec 8), ∃ r : W64, Emits (.lop3 p imm tt t1 t0) s f 1 [t0, t1] (.s r)
        ∧ ∀ k, k < 64 → r.getLsbD k = tt.getLsbD (4 * (x.getLsbD k).toNat + 2 * (y.getLsbD k).toNat + ((imm.signExtend 64).getLsbD k).toNat))
    ∧ (let pos := (y.extractLsb' 0 6).toNat
       let len := (y.extractLsb' 8 6).toNat
       let w := if len = 0 then 64 else len
       let fld := (x.toNat >>> pos) % 2 ^ w
       Emits (.bfx p false t1 t0) s f 1 [t0, t1] (.s (BitVec.ofNat 64 fld))
       ∧ Emits (.bfx p true t1 t0) s f 1 [t0, t1] (.s ((BitVec.ofNat w fld).signExtend 64)))

/-- BFI inserts the low bits of the right operand into the left under the control token in the third slot (R192). -/
def Obligations.FieldInsertionUnderItsControlToken : Prop :=
  ∀ (s : State) (f : Issue) (b : Block) (t1 t0 : Target) (x y c : W64),
    Issued s f b → f.left = some (.s x) → f.right = some (.s y) → f.third = some (.s c) →
    let pos := (c.extractLsb' 0 6).toNat
    let w := if c.extractLsb' 8 6 = 0 then 64 else (c.extractLsb' 8 6).toNat
    let mask : W64 := BitVec.ofNat 64 ((2 ^ w - 1) <<< pos)
    isThree (.bfi t1 t0) = true
    ∧ encode (.bfi t1 t0) = (encG 0x3B .always 0 (encTarget t1) (encTarget t0), 0)
    ∧ Emits (.bfi t1 t0) s f 1 [t0, t1] (.s ((x &&& ~~~mask) ||| ((y <<< pos) &&& mask)))

/-- ADDC and ADC send the sum's low 64 bits to T0 and its carry to T1 (R194). -/
def Obligations.CarriesGoToTheSecondTarget : Prop :=
  ∀ (s : State) (f : Issue) (b : Block) (p : Pr) (t1 t0 : Target) (x y c : W64),
    Issued s f b → f.left = some (.s x) → f.right = some (.s y) →
    let out : Nat → Host.Outcome State Fault Refusal := fun sum =>
      .next (setSt (deliver (deliver (taken s) f 1 t0 (.s (BitVec.ofNat 64 sum))) f 1 t1 (.s (if sum < 2 ^ 64 then 0 else 1))) f .done)
    (Fires p f.third → exec (.addc p t1 t0) s = out (x.toNat + y.toNat))
    ∧ (f.third = some (.s c) → exec (.adc t1 t0) s = out (x.toNat + y.toNat + (c.toNat % 2)))

/-- The register tests emit 1 when their relation holds and 0 when it does not (R185), and their words (R93). -/
def Obligations.RegisterTestsEmitOneOrZero : Prop :=
  ∀ (s : State) (f : Issue) (b : Block) (p : Pr) (t1 t0 : Target) (x y : W64),
    Ready s f b p → f.left = some (.s x) → f.right = some (.s y) →
    let one : Prop → Token → Prop := fun r t => (r → t = .s 1) ∧ (¬r → t = .s 0)
    (∃ t, Emits (.teq p t1 t0) s f 1 [t0, t1] t ∧ one (x = y) t) ∧ (∃ t, Emits (.tne p t1 t0) s f 1 [t0, t1] t ∧ one (x ≠ y) t)
    ∧ (∃ t, Emits (.tlt p t1 t0) s f 1 [t0, t1] t ∧ one (x.toInt < y.toInt) t) ∧ (∃ t, Emits (.tle p t1 t0) s f 1 [t0, t1] t ∧ one (x.toInt ≤ y.toInt) t)
    ∧ (∃ t, Emits (.tltu p t1 t0) s f 1 [t0, t1] t ∧ one (x.toNat < y.toNat) t) ∧ (∃ t, Emits (.tleu p t1 t0) s f 1 [t0, t1] t ∧ one (x.toNat ≤ y.toNat) t)
    ∧ ([Instr.teq p t1 t0, .tne p t1 t0, .tlt p t1 t0, .tle p t1 t0, .tltu p t1 t0, .tleu p t1 t0].map encode
        = [0x12, 0x13, 0x14, 0x15, 0x16, 0x17].map (fun op => (encG op p 0 (encTarget t1) (encTarget t0), 0)))

/-- GENC, APPC and BADR make constants (R180). MOV and MOV4 pass a token of any kind to their targets in order (R182), NULL
emits N (R183), and SEL passes the operand that its third token selects, N for an N selector, and faults on a V selector
(R184). -/
def Obligations.ConstantsMovesAndSelection : Prop :=
  ∀ (s : State) (f : Issue) (b : Block) (p : Pr) (imm : BitVec 16) (t3 t2 t1 t0 : Target) (u v : Token),
    (Issued s f b → Emits (.genc imm t0) s f 1 [t0] (.s (imm.signExtend 64)) ∧ Emits (.badr imm t0) s f 1 [t0] (.s (b.addr + imm.signExtend 64 * 32))
      ∧ ∀ x : W64, f.left = some (.s x) → Emits (.appc imm t0) s f 1 [t0] (.s (x <<< 16 ||| imm.zeroExtend 64)))
    ∧ (Ready s f b p → f.left = some u →
      Emits (.mov p t1 t0) s f 1 [t0, t1] u ∧ Emits (.mov4 p t3 t2 t1 t0) s f 1 [t0, t1, t2, t3] u)
    ∧ (Ready s f b p → Emits (.null p t1 t0) s f 1 [t0, t1] .n)
    ∧ (Issued s f b → f.left = some u → f.right = some v →
        (f.third = some .n → Emits (.sel t1 t0) s f 1 [t0, t1] .n)
        ∧ (f.third = some (.s 0) → Emits (.sel t1 t0) s f 1 [t0, t1] v)
        ∧ (∀ x : W64, x ≠ 0 → f.third = some (.s x) → Emits (.sel t1 t0) s f 1 [t0, t1] u)
        ∧ (∀ l m, f.third = some (.v l m) → FaultsWith (.sel t1 t0) s f 0x04 0))

/-- RD delivers the register as every older block leaves it (R106, R181): the register file's S or V token where no older
block may write it, the token the nearest older writer wrote, the next older value where that writer wrote N; it waits
for a writer that has not written and for a reply that has not arrived, and faults on a register that a time-out poisoned (R228). Behind a
block that holds a CALL or CALLR, RD of g62 waits until the block has fired its exit and sees the link of a fired call; where another of
its exits fired, it sees the block as any other (R106, R172). -/
def Obligations.RegisterReadsSeeOlderBlocksWrites : Prop :=
  ∀ (s : State) (f : Issue) (b : Block) (n : BitVec 6) (t1 t0 : Target), Issued s f b →
    let x := ctxOf s f.ctx
    let free : List Block → Prop := fun l => ∀ o ∈ l, (wmaskOf o.hdr).testBit n.toNat = false ∧ (n = 62 → ∀ p ∈ instrsOf o, isCall p.2 = false)
    let file : Prop :=
      (∀ v, mget (.s 0) n.toNat x.regs = .s v → Emits (.rd n t1 t0) s f 1 [t0, t1] (.s v))
      ∧ (∀ l m, mget (.s 0) n.toNat x.regs = .v l m → Emits (.rd n t1 t0) s f 1 [t0, t1] (.v l m))
      ∧ (∀ q a, mget (.s 0) n.toNat x.regs = .reply q a → exec (.rd n t1 t0) s = .next (setSt (taken s) f .held))
      ∧ (∀ a, mget (.s 0) n.toNat x.regs = .poisoned a → FaultsWith (.rd n t1 t0) s f 0x14 a)
    let waits : Prop := exec (.rd n t1 t0) s = .next (setSt (taken s) f .held)
    let seen : List Block → Block → Prop := fun old w =>
      ((wmaskOf w.hdr).testBit n.toNat = true →
        (∀ t, t ≠ .n → mfind n.toNat w.wr = some t → Emits (.rd n t1 t0) s f 1 [t0, t1] t)
        ∧ (mfind n.toNat w.wr = some .n → free old → file) ∧ (mfind n.toNat w.wr = none → waits))
      ∧ ((wmaskOf w.hdr).testBit n.toNat = false → free old → file)
    (free (olderThan x f.tag) → file)
    ∧ ∀ (old new : List Block) (w : Block), olderThan x f.tag = old ++ w :: new → free new →
        ((n = 62 → ∀ p ∈ instrsOf w, isCall p.2 = false) → seen old w)
        ∧ (n = 62 → (∃ p ∈ instrsOf w, isCall p.2 = true) →
            (w.exits = [] → waits)
            ∧ (∀ k a l, w.exits = [(k, .call a l)] → Emits (.rd n t1 t0) s f 1 [t0, t1] (.s l))
            ∧ (∀ k e, w.exits = [(k, e)] → (∀ a l, e ≠ .call a l) → seen old w))

/-- WR records its token, N included, as its block's write of the register (R92, R181). PHINT records up to two ranges, in units
of 4 KiB or of 256 bytes; a count of 0 names none (R256). -/
def Obligations.RegisterWritesAndSaveHintsAreRecorded : Prop :=
  ∀ (s : State) (f : Issue) (b : Block) (p : Pr) (n : BitVec 6) (t : Token),
    let ranges : List (Nat × Nat) → List (Nat × Nat) := fun l => l.filter (fun r => r.2 ≠ 0)
    (Issued s f b → f.left = some t → Records (.wr n) s f (fun k => { k with wr := mput n.toNat t k.wr }))
    ∧ (Ready s f b p → ∀ s0 c0 s1 c1 : BitVec 8, Records (.phint p (.imm s0 c0 s1 c1)) s f (fun k =>
        { k with hints := mput f.idx (ranges [(4096 * s0.toNat, 4096 * c0.toNat), (4096 * s1.toNat, 4096 * c1.toNat)]) k.hints }))
    ∧ (Ready s f b p → ∀ v : W64, f.left = some (.s v) → Records (.phint p .reg) s f (fun k =>
        { k with hints := mput f.idx (ranges [(256 * (v.extractLsb' 0 12).toNat, 256 * (v.extractLsb' 12 12).toNat),
                                              (256 * (v.extractLsb' 32 12).toNat, 256 * (v.extractLsb' 44 12).toNat)]) k.hints }))

/-- A fired exit is recorded with the address it names, and blocks fetched along another path are discarded; an address
that is not a block's faults instead, and so does TRET in task mode (R105, R171, R172, R174). -/
def Obligations.ExitsRecordTheirAddresses : Prop :=
  ∀ (s : State) (f : Issue) (b : Block) (p : Pr) (e : BitVec 3) (off : BitVec 20) (r : W64), Ready s f b p →
    let exits : Instr → ExitTo → Prop := fun i x =>
      exec i s = .next (checkPath (setSt (modBlock (taken s) f.ctx f.tag (fun k => { k with exits := mput f.idx x k.exits })) f .done) f.ctx f.tag x)
    let legal : W64 → Prop := fun a => a.toNat < 2 ^ 55 ∧ a.toNat % 32 = 0
    let at_ := b.addr + off.signExtend 64 * 32
    let link := b.addr + BitVec.ofNat 64 (32 + 64 * tiersOf b.hdr)
    (legal at_ → exits (.exit p e off) (.goto at_) ∧ exits (.call p e off) (.call at_ link))
    ∧ (¬legal at_ → FaultsWith (.exit p e off) s f 0x0D at_ ∧ FaultsWith (.call p e off) s f 0x0D at_)
    ∧ (f.left = some (.s r) → legal r → exits (.exitr p e) (.goto r) ∧ exits (.callr p e) (.call r link) ∧ exits (.ret p e) (.goto r))
    ∧ (f.left = some (.s r) → ¬legal r →
        FaultsWith (.exitr p e) s f 0x0D r ∧ FaultsWith (.callr p e) s f 0x0D r ∧ FaultsWith (.ret p e) s f 0x0D r)
    ∧ exits (.halt p e) .halt
    ∧ ((ctxOf s f.ctx).trap.hm = true → exits (.tret p e) .tret)
    ∧ ((ctxOf s f.ctx).trap.hm = false → FaultsWith (.tret p e) s f 0x11 0x012)

/-- NOP does nothing (R93); TRAP faults with its code (R175); GETS reads in the oldest block and SETS and PSET record their
writes, each within its mode's access (R176 to R179, R288); PGET reads PPR. -/
def Obligations.SystemRegisterInstructions : Prop :=
  ∀ (s : State) (f : Issue) (b : Block) (p : Pr) (code : BitVec 9) (r : SysReg) (mask : BitVec 6) (t0 : Target) (v : W64),
    let x := ctxOf s f.ctx
    let handlerOnly : Prop := ∃ n, r = .h n
    let readOnly : Prop := r = .tvec ∨ r = .scrbase ∨ r = .scrsize ∨ r = .touched
    (Issued s f b → exec .nop s = .next (setSt (taken s) f .done))
    ∧ (Ready s f b p →
      FaultsWith (.trap p code) s f 0x10 (code.zeroExtend 64)
      ∧ (handlerOnly → x.trap.hm = false → FaultsWith (.gets p r t0) s f 0x11 (r.num.zeroExtend 64))
      ∧ (isOldest x f.tag = true → (handlerOnly → x.trap.hm = true) → r ≠ .tcause → Emits (.gets p r t0) s f 2 [t0] (.s (boundRead s f.ctx x r)))
      ∧ (isOldest x f.tag = true → exec (.gets p .tcause t0) s =
          .next (modBlock (finish (taken s) f 2 [t0] (.s (sysRead s f.ctx x .tcause))) f.ctx f.tag (fun k => { k with got := sinsert f.idx k.got })))
      ∧ (isOldest x f.tag = false → (handlerOnly → x.trap.hm = true) → exec (.gets p r t0) s = .next (setSt (taken s) f .held))
      ∧ (isOldest x f.tag = true → Emits (.pget p t0) s f 2 [t0] (.s x.ppr))
      ∧ (isOldest x f.tag = false → exec (.pget p t0) s = .next (setSt (taken s) f .held))
      ∧ (f.left = some (.s v) →
          ((r = .ppr ∨ (x.trap.hm = true ∧ ¬readOnly)) → Records (.sets p r) s f (fun k => { k with sys := mput f.idx (.sets r v) k.sys }))
          ∧ (¬(r = .ppr ∨ (x.trap.hm = true ∧ ¬readOnly)) → FaultsWith (.sets p r) s f 0x11 (r.num.zeroExtend 64))
          ∧ Records (.pset p mask) s f (fun k => { k with sys := mput f.idx (.pset mask v) k.sys })))

/-- The values that GETS reads, by register (R111, R128, R176, R322), SQC, TOUCHED and TVEC as they were at the block boundary that the
context's oldest block stands at (R178), and GETI: for a context with a task it completes at every selector
that is an encoding, after 1 cc, with the selector's value, which selectors 11, 13, 14, 17 and 20 deliver after 2 cc in the oldest block
and wait for elsewhere (R44, R255, R257, R258). -/
def Obligations.SystemRegisterAndIdentityValues : Prop :=
  (∀ (s : State) (c : Nat) (x : Ctx),
    (∀ n : BitVec 3, sysRead s c x (.h n) = mget 0 n.toNat x.h)
    ∧ (sysRead s c x .tcause).extractLsb' 0 8 = x.trap.cause ∧ (sysRead s c x .tcause).getLsbD 8 = x.trap.inh ∧ (sysRead s c x .tcause).toNat < 2 ^ 9
    ∧ sysRead s c x .tval = x.trap.tval ∧ sysRead s c x .tepc = x.trap.tepc ∧ sysRead s c x .tidx = x.trap.tidx.zeroExtend 64
    ∧ (sysRead s c x .tstat).getLsbD 0 = x.trap.hm ∧ (sysRead s c x .tstat).getLsbD 1 = x.trap.trd ∧ (sysRead s c x .tstat).getLsbD 2 = x.trap.df
    ∧ (sysRead s c x .tstat).extractLsb' 16 4 = x.trap.lastact ∧ (sysRead s c x .tstat).extractLsb' 24 8 = x.trap.retries
    ∧ sysRead s c x .tcause2 = x.trap.cause2.zeroExtend 64 ∧ sysRead s c x .tval2 = x.trap.tval2
    ∧ sysRead s c x .tvec = (partOf s x.part).tvec ∧ sysRead s c x .ppr = x.ppr ∧ sysRead s c x .sqc = x.sqc
    ∧ (∀ n : BitVec 2, sysRead s c x (.rpc n) = x.rpc.getD n.toNat 0)
    ∧ sysRead s c x .scrbase = BitVec.ofNat 64 (windowBaseOf (homeOf c) + x.scrOff) ∧ sysRead s c x .scrsize = BitVec.ofNat 64 x.scrSize
    ∧ (x.touched.length < 512 → ((sysRead s c x .touched).extractLsb' 0 9).toNat = x.touched.length ∧ (sysRead s c x .touched).extractLsb' 9 7 = 0
        ∧ (sysRead s c x .touched).extractLsb' 20 44 = 0 ∧ ∀ d, d < 4 → ((sysRead s c x .touched).getLsbD (16 + d) = true ↔ ∃ n ∈ x.touched, n / 64 = d)))
  ∧ (∀ (s : State) (c : Nat) (x : Ctx) (r : SysReg),
      ((x.bound = none ∨ (r ≠ .sqc ∧ r ≠ .touched ∧ r ≠ .tvec)) → boundRead s c x r = sysRead s c x r)
      ∧ ∀ b : Bound, x.bound = some b → boundRead s c x .sqc = b.sqc ∧ boundRead s c x .tvec = b.tvec
          ∧ boundRead s c x .touched = sysRead s c { x with touched := b.touched } .touched)
  ∧ ∀ (s : State) (f : Issue) (b : Block) (p : Pr) (sel : BitVec 9) (t0 : Target), Ready s f b p →
    let x := ctxOf s f.ctx
    let one : Nat → W64 → Prop := fun n v => sel.toNat = n → Emits (.geti p sel t0) s f 1 [t0] (.s v)
    let two : Nat → W64 → Prop := fun n v => sel.toNat = n →
      (isOldest x f.tag = true → Emits (.geti p sel t0) s f 2 [t0] (.s v)) ∧ (isOldest x f.tag = false → exec (.geti p sel t0) s = .next (setSt (taken s) f .held))
    (∀ t : Task, x.task = some t →
      let l := launchOf s t.launch
      one 0 (.ofNat 64 t.x) ∧ one 1 (.ofNat 64 t.y) ∧ one 2 (.ofNat 64 t.z) ∧ one 3 (.ofNat 64 t.id)
      ∧ one 4 (.ofNat 64 l.x) ∧ one 5 (.ofNat 64 l.y) ∧ one 6 (.ofNat 64 l.z)
      ∧ (∀ r, t.rank = some r → one 15 (.ofNat 64 r) ∧ one 16 (.ofNat 64 (l.x * l.y * l.z)))
      ∧ (t.rank = none → one 15 0 ∧ one 16 0)
      ∧ (∀ q, t.parent = some q → one 18 (.ofNat 64 q)) ∧ (t.parent = none → one 18 (.allOnes 64)))
    ∧ one 7 (.ofNat 64 (f.ctx % 8)) ∧ one 8 (.ofNat 64 (f.ctx / 8 % 8)) ∧ one 9 (.ofNat 64 (f.ctx / 64 % 16)) ∧ one 10 (.ofNat 64 (f.ctx / 1024))
    ∧ two 11 (.ofNat 64 x.k) ∧ one 12 (.ofNat 64 x.part) ∧ two 13 (.ofNat 64 s.cycles) ∧ two 14 (.ofNat 64 s.gtime)
    ∧ two 17 (.ofNat 64 (2 ^ 32 * x.bar.phase.toNat + 16 * x.bar.done.toNat + 4 * x.bar.departed.toNat + x.bar.outcome.toNat))
    ∧ one 19 (.ofNat 64 s.md.modid) ∧ two 20 (.ofNat 64 x.batches.length)

/-- WAITB in the oldest block completes once at most N batches are unfinished, with the batch fault word, which it clears,
and then acquires (R145, R246), and waits until then; its block keeps the first word taken that is not 0, for a discard to give back
(R110). JOIN in the oldest block completes once at most N children are outstanding, with
their number, and then acquires (R145, R250); until then it waits, unless the comb's logical deque holds an unstarted child that its
context may take, when the task is set aside at its last boundary with every block discarded (R47), or traps with cause 0x12 where the
spill area cannot hold or take the record. Outside the oldest block each waits. -/
def Obligations.BatchAndChildWaitsCompleteAsAcquires : Prop :=
  ∀ (s : State) (f : Issue) (b : Block) (p : Pr) (n : BitVec 9) (t0 : Target), Ready s f b p →
    let x := ctxOf s f.ctx
    let old := isOldest x f.tag = true
    let kids := childrenOf s x
    (old → x.batches.length ≤ n.toNat → exec (.waitb p n t0) s =
      .next (acquire (finish (modBlock (modCtx (taken s) f.ctx (fun y => { y with batFault := 0 })) f.ctx f.tag
        (fun k => { k with taken := if k.taken = 0 then x.batFault else k.taken })) f 2 [t0] (.s x.batFault)) f.ctx (some f.tag) 0))
    ∧ (¬(old ∧ x.batches.length ≤ n.toNat) → exec (.waitb p n t0) s = .next (setSt (taken s) f .held))
    ∧ (old → kids ≤ n.toNat → exec (.join p n t0) s = .next (acquire (finish (taken s) f 2 [t0] (.s (.ofNat 64 kids))) f.ctx (some f.tag) 0))
    ∧ (¬old → exec (.join p n t0) s = .next (setSt (taken s) f .held))
    ∧ (old → n.toNat < kids → ∀ t : Task, x.task = some t →
        let comb := homeOf f.ctx
        let mine : Child → Prop := fun e => e.launch = t.launch ∧ e.parent = t.id ∧ (kSteal (launchOf s t.launch).hdr ≠ 0 ∨ e.forkCtx = f.ctx)
        let near := (∃ e ∈ (mget {} comb s.combs).deque, mine e) ∨ (newestSpilled s comb (mayTake s f.ctx t)).isSome = true
        let units := recordUnits x (kernelOf s x) (fullSave x)
        let a : Nat → Nat := fun u => (launchOf s t.launch).spill + 65536 * u
        (¬near → exec (.join p n t0) s = .next (setSt (taken s) f .held))
        ∧ (near → unitRun s t.launch units = none → FaultsWith (.join p n t0) s f 0x12 0)
        ∧ (∀ u e, near → unitRun s t.launch units = some u → devRange s x.part (a u) (65536 * units) .wr = some e →
            exec (.join p n t0) s = .next (recordFault
              (deviceFault (taken s) x.part e (launchOf s t.launch).idx (launchOf s t.launch).queue) f 0x12 (BitVec.ofNat 64 (a u))))
        ∧ (∀ u, near → unitRun s t.launch units = some u → devRange s x.part (a u) (65536 * units) .wr = none → ∃ v, exec (.join p n t0) s = .next v ∧
            let y := ctxOf v f.ctx
            y.phase = .setAside (x.live.isNone) ∧ y.saveAt = some (u, units) ∧ y.blocks = [] ∧ y.sqc = x.sqc + BitVec.ofNat 64 x.blocks.length
            ∧ y.task = x.task ∧ y.regs = x.regs ∧ y.next = x.next ∧ v.ms.mem = s.ms.mem ∧ ∀ d, d ≠ f.ctx → ctxOf v d = ctxOf s d))

/-- The element-wise instructions on the integer types wrap modulo 2^w, shift by the low count bits and compare by the type's
signedness, on each sub-element of the lanes that both operands have valid (R55, R71, R72, R195, R196). -/
def Obligations.IntegerLanesWrapWithinTheirSubElements : Prop :=
  ∀ (s : State) (f : Issue) (b : Block) (p : Pr) (ty : ElemTy) (t1 t0 : Target) (la lb : Lanes) (ma mb : Mask),
    Ready s f b p → f.left = some (.v la ma) → f.right = some (.v lb mb) → ty.isLaneInt = true →
    let w := ty.width
    let x : Nat → Nat → Nat := fun i j => sub (lane la i) j w
    let y : Nat → Nat → Nat := fun i j => sub (lane lb i) j w
    let less : Nat → Nat → Prop := fun u v => if ty.isSigned then (BitVec.ofNat w u).toInt < (BitVec.ofNat w v).toInt else u < v
    let gives : Instr → (Nat → Nat → Nat → Prop) → Prop := fun i r =>
      ∃ t g, Emits i s f 2 [t0, t1] t ∧ SubsAre ty t (ma &&& mb) g ∧ ∀ i j, i < 16 → j < ty.count → r i j (g i j)
    gives (.vadd p ty t1 t0) (fun i j r => r = (x i j + y i j) % 2 ^ w)
    ∧ gives (.vsub p ty t1 t0) (fun i j r => (r + y i j) % 2 ^ w = x i j % 2 ^ w ∧ r < 2 ^ w)
    ∧ gives (.vmul p ty t1 t0) (fun i j r => r = x i j * y i j % 2 ^ w)
    ∧ gives (.vmin p ty t1 t0) (fun i j r => (less (y i j) (x i j) → r = y i j) ∧ (¬less (y i j) (x i j) → r = x i j))
    ∧ gives (.vmax p ty t1 t0) (fun i j r => (less (x i j) (y i j) → r = y i j) ∧ (¬less (x i j) (y i j) → r = x i j))
    ∧ gives (.vshl p ty t1 t0) (fun i j r => r = x i j * 2 ^ (y i j % w) % 2 ^ w)
    ∧ gives (.vshr p ty t1 t0) (fun i j r => r = x i j / 2 ^ (y i j % w))
    ∧ gives (.vsar p ty t1 t0) (fun i j r => r = if ty.isSigned then ((BitVec.ofNat w (x i j)).sshiftRight (y i j % w)).toNat else x i j / 2 ^ (y i j % w))

/-- The element-wise instructions on f32, f16x2 and bf16x2 deliver the exact result rounded once to nearest even; VMIN and VMAX
choose as the format orders (R73, R196); VFMA rounds the exact a × b + c once, and wraps on the integer types (R197). -/
def Obligations.FloatLanesRoundTheExactResultOnce : Prop :=
  ∀ (s : State) (f : Issue) (b : Block) (p : Pr) (ty : ElemTy) (t1 t0 : Target) (la lb lc : Lanes) (ma mb mc : Mask),
    f.left = some (.v la ma) → f.right = some (.v lb mb) →
    let w := ty.width
    let val : Lanes → Nat → Nat → FVal := fun l i j => decodeFloat (fmtOf ty) (sub (lane l i) j w)
    let gives : Instr → Nat → Mask → (Nat → Nat → Nat) → Prop := fun i lat m g => ∃ t, Emits i s f lat [t0, t1] t ∧ SubsAre ty t m g
    let near : FVal → Nat := fun v => encodeFloat (fmtOf ty) .ne false v % 2 ^ w
    (Ready s f b p → ty.isLaneFloat = true →
      gives (.vadd p ty t1 t0) 3 (ma &&& mb) (fun i j => near (fadd (val la i j) (val lb i j)))
      ∧ gives (.vsub p ty t1 t0) 3 (ma &&& mb) (fun i j => near (fadd (val la i j) (fneg (val lb i j))))
      ∧ gives (.vmul p ty t1 t0) 3 (ma &&& mb) (fun i j => near (fmul (val la i j) (val lb i j)))
      ∧ gives (.vmin p ty t1 t0) 3 (ma &&& mb) (fun i j => near (fmin (val la i j) (val lb i j)))
      ∧ gives (.vmax p ty t1 t0) 3 (ma &&& mb) (fun i j => near (fmax (val la i j) (val lb i j))))
    ∧ (Issued s f b → f.third = some (.v lc mc) →
      (ty.isLaneFloat = true → gives (.vfma ty t1 t0) 4 (ma &&& mb &&& mc) (fun i j => near (fadd (fmul (val la i j) (val lb i j)) (val lc i j))))
      ∧ (ty.isLaneInt = true → gives (.vfma ty t1 t0) 3 (ma &&& mb &&& mc)
          (fun i j => (sub (lane la i) j w * sub (lane lb i) j w + sub (lane lc i) j w) % 2 ^ w)))

/-- VAND, VOR, VXOR and VLOP3 work bit by bit on whole lanes (R196, R214); VCMP makes an element mask by its condition (R198); VMASK's
six forms (R213). -/
def Obligations.LaneLogicComparisonsAndMasks : Prop :=
  ∀ (s : State) (f : Issue) (b : Block) (p : Pr) (ty : ElemTy) (t1 t0 : Target) (la lb : Lanes) (ma mb : Mask) (x : W64), Ready s f b p →
    let m := ma &&& mb
    (f.left = some (.v la ma) → f.right = some (.v lb mb) →
      (ty.isLane = true →
        (∃ t, Emits (.vand p ty t1 t0) s f 2 [t0, t1] t ∧ LanesAre t m (fun i => lane la i &&& lane lb i))
        ∧ (∃ t, Emits (.vor p ty t1 t0) s f 2 [t0, t1] t ∧ LanesAre t m (fun i => lane la i ||| lane lb i))
        ∧ (∃ t, Emits (.vxor p ty t1 t0) s f 2 [t0, t1] t ∧ LanesAre t m (fun i => lane la i ^^^ lane lb i)))
      ∧ (∀ (imm : BitVec 24) (tt : BitVec 8), ∃ t g, Emits (.vlop3 p imm tt t1 t0) s f 2 [t0, t1] t ∧ LanesAre t m g
          ∧ ∀ i k, k < 32 → (g i).getLsbD k =
              tt.getLsbD (4 * ((lane la i).getLsbD k).toNat + 2 * ((lane lb i).getLsbD k).toNat + ((imm.signExtend 32).getLsbD k).toNat))
      ∧ (∀ c : CmpCond, ∃ t, Emits (.vcmp p ty c t0) s f 2 [t0] t
          ∧ SubsAre ty t m (fun i j => if cmpSub ty c (sub (lane la i) j ty.width) (sub (lane lb i) j ty.width) then 2 ^ ty.width - 1 else 0)))
    ∧ (f.left = some (.v la ma) →
      (∃ r : W64, Emits (.vmask p .mtos t1 t0) s f 1 [t0, t1] (.s r) ∧ r.toNat < 2 ^ 16 ∧ ∀ i, i < 16 → r.getLsbD i = (ma.getLsbD i && lane la i != 0))
      ∧ Emits (.vmask p .getv t1 t0) s f 1 [t0, t1] (.s (ma.zeroExtend 64))
      ∧ (f.right = some (.s x) → Emits (.vmask p .setv t1 t0) s f 1 [t0, t1] (.v la (x.extractLsb' 0 16))
          ∧ Emits (.vmask p .andv t1 t0) s f 1 [t0, t1] (.v la (ma &&& x.extractLsb' 0 16))))
    ∧ (f.left = some (.s x) →
      (∃ r, Emits (.vmask p .stom t1 t0) s f 1 [t0, t1] (.v r 0xFFFF) ∧ ∀ i, i < 16 → lane r i = if x.getLsbD i then 0xFFFFFFFF else 0)
      ∧ ∃ r : W64, Emits (.vmask p .first t1 t0) s f 1 [t0, t1] (.s r) ∧ r.toNat ≤ 16
          ∧ (∀ k, k < r.toNat → x.getLsbD k = false) ∧ (r.toNat < 16 → x.getLsbD r.toNat = true))

/-- VPERM picks data lane idx[i][3:0] with both valid bits (R203); VSWZ moves each lane with its valid bit by its fixed pattern (R204);
and their words. -/
def Obligations.PermutedAndSwizzledLanesTakeTheirSources : Prop :=
  ∀ (s : State) (f : Issue) (b : Block) (p : Pr) (pat : SwzPat) (t1 t0 : Target) (ld li : Lanes) (md mi : Mask),
    Ready s f b p → f.left = some (.v ld md) →
    let k : Nat → Nat := fun i => ((lane li i).extractLsb' 0 4).toNat
    let src : Nat → Option Nat := fun i => match pat with
      | .x1 => some (if i % 2 = 0 then i + 1 else i - 1)
      | .x2 => some (if i / 2 % 2 = 0 then i + 2 else i - 2)
      | .x4 => some (if i / 4 % 2 = 0 then i + 4 else i - 4)
      | .x8 => some (if i < 8 then i + 8 else i - 8)
      | .rev => some (15 - i)
      | .rotu => some ((i + 15) % 16)
      | .rotd => some ((i + 1) % 16)
      | .bc0 => some 0
      | .shu => if i = 0 then none else some (i - 1)
      | .shd => if i = 15 then none else some (i + 1)
    let xop : BitVec 5 := match pat with
      | .x1 => 0 | .x2 => 1 | .x4 => 2 | .x8 => 3 | .rev => 4 | .rotu => 5 | .rotd => 6 | .bc0 => 7 | .shu => 8 | .shd => 9
    (f.right = some (.v li mi) →
      encode (.vperm p t1 t0) = (encG 0x51 p 0 (encTarget t1) (encTarget t0), 0)
      ∧ ∃ t l m, Emits (.vperm p t1 t0) s f 2 [t0, t1] t ∧ t = .v l m
        ∧ ∀ i, i < 16 → m.getLsbD i = (mi.getLsbD i && md.getLsbD (k i)) ∧ lane l i = if m.getLsbD i then lane ld (k i) else 0)
    ∧ encode (.vswz p pat t1 t0) = (encG 0x52 p xop (encTarget t1) (encTarget t0), 0)
    ∧ ∃ t l m, Emits (.vswz p pat t1 t0) s f 1 [t0, t1] t ∧ t = .v l m
      ∧ ∀ i, i < 16 →
        (∀ k, src i = some k → m.getLsbD i = md.getLsbD k ∧ lane l i = if md.getLsbD k then lane ld k else 0)
        ∧ (src i = none → m.getLsbD i = false ∧ lane l i = 0)

/-- VSEL selects by the bits of an S token or by the lanes of an element mask (R199); VSPLAT fills every sub-element (R200); VEXT
takes one sub-element, or N from an invalid lane (R201); VINS replaces one (R202). -/
def Obligations.LaneSelectionInsertionAndExtraction : Prop :=
  ∀ (s : State) (f : Issue) (b : Block) (p : Pr) (ty : ElemTy) (t1 t0 : Target) (la lb lm : Lanes) (ma mb mm : Mask) (x v : W64),
    let w := ty.width
    let k := x.toNat % (16 * ty.count)
    let code : W64 → Nat := fun v => if ty = .tern2x16 then (if v.toInt < 0 then 3 else if v = 0 then 0 else 1) else v.toNat % 2 ^ w
    (Issued s f b → f.left = some (.v la ma) → f.right = some (.v lb mb) →
      (f.third = some (.s x) → ∃ l m, Emits (.vsel t1 t0) s f 2 [t0, t1] (.v l m) ∧ ∀ i, i < 16 →
        m.getLsbD i = (if x.getLsbD i then ma.getLsbD i else mb.getLsbD i)
        ∧ lane l i = if m.getLsbD i then (if x.getLsbD i then lane la i else lane lb i) else 0)
      ∧ (f.third = some (.v lm mm) → ∃ t, Emits (.vsel t1 t0) s f 2 [t0, t1] t
        ∧ LanesAre t (ma &&& mb &&& mm) (fun i => (lane la i &&& lane lm i) ||| (lane lb i &&& ~~~(lane lm i)))))
    ∧ (Ready s f b p → f.left = some (.s v) →
        ∃ t, Emits (.vsplat p ty t1 t0) s f 1 [t0, t1] t ∧ SubsAre ty t 0xFFFF (fun _ _ => code v))
    ∧ (Ready s f b p → f.left = some (.v la ma) → f.right = some (.s x) →
        (ma.getLsbD (k / ty.count) = false → Emits (.vext p ty t1 t0) s f 2 [t0, t1] .n)
        ∧ (ma.getLsbD (k / ty.count) = true → ∃ r : W64, Emits (.vext p ty t1 t0) s f 2 [t0, t1] (.s r)
            ∧ (let e := sub (lane la (k / ty.count)) (k % ty.count) w
               (ty = .i32 ∨ ty = .i16x2 ∨ ty = .i8x4 ∨ ty = .i4x8 → r = (BitVec.ofNat w e).signExtend 64)
               ∧ (ty = .tern2x16 → r.toInt = if e = 1 then 1 else if e = 3 then -1 else 0)
               ∧ (¬(ty = .i32 ∨ ty = .i16x2 ∨ ty = .i8x4 ∨ ty = .i4x8 ∨ ty = .tern2x16) → r.toNat = e))))
    ∧ (Issued s f b → f.left = some (.v la ma) → f.right = some (.s v) → f.third = some (.s x) →
        ∃ l, Emits (.vins ty t1 t0) s f 2 [t0, t1] (.v l (ma ||| BitVec.twoPow 16 (k / ty.count)))
          ∧ ∀ i j, i < 16 → j < ty.count →
            sub (lane l i) j w = if i = k / ty.count ∧ j = k % ty.count then code v else sub (lane la i) j w)

/-- VRED combines the lanes in a tree of four levels and VSCAN forms an inclusive prefix in four steps; an invalid lane first
takes the identity of the operation, and every lane of VSCAN's result carries its prefix, the valid mask as it was (R82, R83, R205, R206). -/
def Obligations.ReductionsFollowTheTreeAndScansTheSteps : Prop :=
  ∀ (s : State) (f : Issue) (b : Block) (p : Pr) (ty : ElemTy) (op : RedOp) (t0 : Target) (l : Lanes) (m : Mask),
    Ready s f b p → f.left = some (.v l m) →
    let o : Word → Word → Word := laneOp2 ty (redLaneOp op)
    let x : Nat → Word := fun i => if m.getLsbD i then lane l i else mapSubs ty (fun _ => redIdentity ty op)
    let up : (Nat → Word) → Nat → Word := fun y i => o (y (2 * i)) (y (2 * i + 1))
    let stepBy : Nat → (Nat → Word) → Nat → Word := fun d y i => if d ≤ i then o (y (i - d)) (y i) else y i
    let lat := if op = .and ∨ op = .or ∨ op = .xor ∨ ty.isLaneFloat = false then 8 else 12
    Emits (.vred p ty op t0) s f lat [t0] (.s ((if m = 0 ∧ op = .add then 0 else up (up (up (up x))) 0).zeroExtend 64))
    ∧ ∃ r : Lanes, Emits (.vscan p ty op t0) s f lat [t0] (.v r m) ∧ ∀ i, i < 16 → lane r i = stepBy 8 (stepBy 4 (stepBy 2 (stepBy 1 x))) i

/-- VCVT, VPACK and VUNPK convert each sub-element's exact value, rounded as they say (R207 to R209). VDOT adds the exact products of its
sub-elements to the addend: for a float type the exact sum is rounded once to f32 (R74, R210), the sign of an exactly zero sum being that of
the model's addition (log entry 63), for an integer type it is clamped to the i32 range, or to the u32 range for u8x4 and u16x2. VSFU completes for each of its functions with the latency R170 lists, each lane the
model's value of its function (log entry 54), which on a NaN is a NaN and at the zeros, infinities, negative numbers and powers named here
is the one of R211 and R212. -/
def Obligations.LaneConversionsAndDotProducts : Prop :=
  ∀ (s : State) (f : Issue) (b : Block) (p : Pr) (ty dst : ElemTy) (sat : Bool) (rnd : Rnd) (t1 t0 : Target) (la lb lc : Lanes) (ma mb mc : Mask),
    f.left = some (.v la ma) →
    let wide := widePartner ty
    (Ready s f b p → ty.count = dst.count → ∃ t, Emits (.vcvt p ty dst sat rnd t0) s f 3 [t0] t
      ∧ SubsAre dst t ma (fun i j => encodeElem dst rnd sat (decodeElem ty (sub (lane la i) j ty.width)) % 2 ^ dst.width))
    ∧ (Ready s f b p → 3 ≤ ty.code → f.right = some (.v lb mb) → ∃ t, Emits (.vpack p ty t1 t0) s f 3 [t0, t1] t
      ∧ SubsAre ty t (ma &&& mb) (fun i j => encodeElem ty .ne true (decodeElem wide
          (if j < wide.count then sub (lane la i) j wide.width else sub (lane lb i) (j - wide.count) wide.width)) % 2 ^ ty.width))
    ∧ (Ready s f b p → 3 ≤ ty.code → ∃ lo hi,
        exec (.vunpk p ty t1 t0) s = .next (setSt (deliver (deliver (taken s) f 2 t0 lo) f 2 t1 hi) f .done)
        ∧ SubsAre wide lo ma (fun i j => encodeElem wide .ne false (decodeElem ty (sub (lane la i) j ty.width)) % 2 ^ wide.width)
        ∧ SubsAre wide hi ma (fun i j => encodeElem wide .ne false (decodeElem ty (sub (lane la i) (j + wide.count) ty.width)) % 2 ^ wide.width))
    ∧ (Issued s f b → 3 ≤ ty.code → f.right = some (.v lb mb) → f.third = some (.v lc mc) →
        ∃ t g, Emits (.vdot ty t1 t0) s f 4 [t0, t1] t ∧ LanesAre t (ma &&& mb &&& mc) g ∧ ∀ i, i < 16 →
          let x : Nat → Nat := fun j => sub (lane la i) j ty.width
          let y : Nat → Nat := fun j => sub (lane lb i) j ty.width
          let num : Nat → Int := fun u => if ty = .tern2x16 then (if u % 4 = 1 then 1 else if u % 4 = 3 then -1 else 0)
            else if ty.isSigned then (BitVec.ofNat ty.width u).toInt else u
          let total : Int → Int := fun c => (List.range ty.count).foldl (fun acc j => acc + num (x j) * num (y j)) c
          (ty.isFloat = true → g i = BitVec.ofNat 32 (encodeFloat fmtF32 .ne false ((List.range ty.count).foldl
              (fun acc j => fadd acc (fmul (decodeFloat (fmtOf ty) (x j)) (decodeFloat (fmtOf ty) (y j)))) (decodeFloat fmtF32 (lane lc i).toNat))))
          ∧ (ty = .u8x4 ∨ ty = .u16x2 → ((g i).toNat : Int) = max 0 (min (2 ^ 32 - 1) (total (lane lc i).toNat)))
          ∧ (ty.isFloat = false → ty ≠ .u8x4 → ty ≠ .u16x2 → (g i).toInt = max (-(2 : Int) ^ 31) (min (2 ^ 31 - 1) (total (lane lc i).toInt))))
    ∧ (∀ fn : SfuFn, Ready s f b p → ∃ t,
        Emits (.vsfu p fn t1 t0) s f (match fn with | .rcp | .rsq => 6 | .sqrt | .exp2 | .log2 => 8 | .sin | .cos => 12 | .tanh => 10) [t0, t1] t
        ∧ LanesAre t ma (fun i => sfuLane fn (lane la i)))
    ∧ (∀ fn : SfuFn, sfuLane fn 0x7FC00000 = 0x7FC00000)
    ∧ (sfuLane .rcp 0 = 0x7F800000 ∧ sfuLane .rcp 0x80000000 = 0xFF800000 ∧ sfuLane .rcp 0x7F800000 = 0 ∧ sfuLane .rcp 0xFF800000 = 0x80000000 ∧ sfuLane .rcp 0x40000000 = 0x3F000000)
    ∧ (sfuLane .rsq 0 = 0x7F800000 ∧ sfuLane .rsq 0x7F800000 = 0 ∧ sfuLane .rsq 0xBF800000 = 0x7FC00000 ∧ sfuLane .rsq 0x40800000 = 0x3F000000)
    ∧ (sfuLane .sqrt 0 = 0 ∧ sfuLane .sqrt 0x7F800000 = 0x7F800000 ∧ sfuLane .sqrt 0xBF800000 = 0x7FC00000 ∧ sfuLane .sqrt 0x40800000 = 0x40000000)
    ∧ (sfuLane .exp2 0 = 0x3F800000 ∧ sfuLane .exp2 0x40400000 = 0x41000000 ∧ sfuLane .exp2 0x7F800000 = 0x7F800000 ∧ sfuLane .exp2 0xFF800000 = 0)
    ∧ (sfuLane .log2 0 = 0xFF800000 ∧ sfuLane .log2 0x41000000 = 0x40400000 ∧ sfuLane .log2 0xBF800000 = 0x7FC00000 ∧ sfuLane .log2 0x7F800000 = 0x7F800000)
    ∧ (sfuLane .sin 0 = 0 ∧ sfuLane .sin 0x7F800000 = 0x7FC00000 ∧ sfuLane .cos 0 = 0x3F800000 ∧ sfuLane .cos 0x7F800000 = 0x7FC00000)
    ∧ (sfuLane .tanh 0 = 0 ∧ sfuLane .tanh 0x7F800000 = 0x3F800000 ∧ sfuLane .tanh 0xFF800000 = 0xBF800000)

/-- LD and LDA access their EA; an address at or above 2^55 faults 0x0B, and LDA's must be aligned (R216, R219). -/
def Obligations.ScalarLoadsAccessTheirEffectiveAddress : Prop :=
  ∀ (s : State) (f : Issue) (b : Block) (p : Pr) (ls : BitVec 5) (sz : LdSize) (hint : Hint) (off : BitVec 4) (t0 : Target) (x : W64),
    Ready s f b p → f.left = some (.s x) →
    let n := match sz with | .b | .sb => 1 | .h | .sh => 2 | .w | .sw => 4 | .d => 8
    let sg := match sz with | .sb | .sh | .sw => true | _ => false
    let a := x + off.signExtend 64 * BitVec.ofNat 64 n
    let gives : Instr → Bool → Prop := fun i acq => Accesses i s f b ls (.scalar n sg acq) acq hint (.plain n) [(a.toNat, n, 0)] .none t0
    (2 ^ 55 ≤ a.toNat → FaultsWith (.ld p ls sz hint off t0) s f 0x0B a ∧ FaultsWith (.lda p ls sz hint off t0) s f 0x0B a)
    ∧ (a.toNat < 2 ^ 55 → gives (.ld p ls sz hint off t0) false)
    ∧ (a.toNat < 2 ^ 55 → a.toNat % n ≠ 0 → FaultsWith (.lda p ls sz hint off t0) s f 0x0A a)
    ∧ (a.toNat < 2 ^ 55 → a.toNat % n = 0 → gives (.lda p ls sz hint off t0) true)

/-- LDV accesses the four bytes of each lane its mask names, a lane at or above 2^55 faulting 0x0B (R216, R222), LDG one element for each
valid lane (R223). That lanes lie at a + 4j without wrapping, so that a masked LDV faults at its first lane at or above 2^55, is log entry 91,
and what the configuration range's rule sees of LDV and LDG (R134) log entry 66 (the model's readings). -/
def Obligations.VectorLoadsAccessTheirLanes : Prop :=
  ∀ (s : State) (f : Issue) (b : Block) (p : Pr) (ls : BitVec 5) (sz : LdSize) (hint : Hint) (off : BitVec 4) (t0 : Target) (x y : W64)
    (l : Lanes) (m : Mask), Ready s f b p → f.left = some (.s x) →
    let a := x + off.signExtend 64 * 64
    let n := match sz with | .b | .sb => 1 | .h | .sh => 2 | .w | .sw => 4 | .d => 8
    let sg := match sz with | .sb | .sh | .sw => true | _ => false
    let lanes : Mask → List (Nat × Nat × Nat) := fun m =>
      (List.range 16).filterMap (fun j => if m.getLsbD j then some (a.toNat + 4 * j, 4, 4 * j) else none)
    let elems : List (Nat × Nat × Nat) :=
      (List.range 16).filterMap (fun i => if m.getLsbD i then
        some ((x + ((lane l i).signExtend 64 + off.signExtend 64) * BitVec.ofNat 64 n).toNat, n, 8 * i) else none)
    Accesses (.ldv p ls false hint off t0) s f b ls (.vec 0xFFFF) false hint .other (lanes 0xFFFF) .none t0
    ∧ (2 ^ 55 ≤ a.toNat → FaultsWith (.ldv p ls false hint off t0) s f 0x0B a)
    ∧ (f.right = some (.s y) →
        Accesses (.ldv p ls true hint off t0) s f b ls (.vec (y.extractLsb' 0 16)) false hint .other (lanes (y.extractLsb' 0 16)) .none t0
        ∧ ∀ j, j < 16 → y.getLsbD j = true → (∀ k, k < j → y.getLsbD k = false) → 2 ^ 55 ≤ a.toNat + 4 * j →
            FaultsWith (.ldv p ls true hint off t0) s f 0x0B (BitVec.ofNat 64 (a.toNat + 4 * j)))
    ∧ (f.right = some (.v l m) → Accesses (.ldg p ls sz hint off t0) s f b ls (.gather n sg m) false hint (.plain n) elems .none t0)

/-- WATCH checks its address and waits at its word (R216, R230); SPAN asks for the words from a to the lesser of k words on
and its region's end, and fills nothing in scratch and on uncached pages (R216, R235). The order of WATCH's faults is log entry 92, and
SPAN with ty 1 on a page of another module filling nothing log entry 93 (the model's choices). -/
def Obligations.WatchesAndSpansAccessTheirWords : Prop :=
  ∀ (s : State) (f : Issue) (b : Block) (p : Pr) (ls : BitVec 5) (c : WatchCond) (wid : Wid2) (hive : Bool) (off : BitVec 4) (t0 : Target)
    (x y : W64), Ready s f b p → f.left = some (.s x) → f.right = some (.s y) →
    let n := match wid with | .w => 4 | .d => 8
    let a := x + off.signExtend 64 * BitVec.ofNat 64 n
    let tr := fun (r : Nat × Nat × Nat) => transRanges (taken s) f.ctx (ctxOf s f.ctx) (combOf s f b) .rd .other [r]
    let w : Instr := .watch p ls c wid off t0
    let sp : Instr := .span p ls hive off t0
    let d := x + off.signExtend 64 * 8
    (2 ^ 55 ≤ a.toNat → FaultsWith w s f 0x0B a)
    ∧ (a.toNat < 2 ^ 55 → a.toNat % n ≠ 0 → FaultsWith w s f 0x0A a)
    ∧ (a.toNat % n = 0 → 0x007FFF0000000000 ≤ a.toNat → a.toNat < 0x0080000000000000 → FaultsWith w s f 0x0E a)
    ∧ (a.toNat % n = 0 → a.toNat < 0x007FFF0000000000 →
        (∀ e, tr (a.toNat, n, 0) = .error e → FaultsWith w s f e.1 e.2)
        ∧ ∀ ps, tr (a.toNat, n, 0) = .ok ps →
          ((∃ q ∈ ps, isWindow q.pa = true ∨ isCfg q.pa = true) → FaultsWith w s f 0x0E a)
          ∧ ((∀ q ∈ ps, q.scratch = false ∧ isWindow q.pa = false ∧ isCfg q.pa = false) →
              exec w s = .next (startLoad (taken s) f ls.toNat (.watch c wid y) false .exact ps .none t0)))
    ∧ (∀ e, tr (d.toNat, 1, 0) = .error e → FaultsWith sp s f e.1 e.2)
    ∧ ∀ q, tr (d.toNat, 1, 0) = .ok [q] →
        ((q.scratch = true ∨ q.mode = 3 ∨ (hive = true ∧ isLocal q.pa = false)) → Emits sp s f 6 [t0] (.s 0))
        ∧ (q.scratch = false → q.mode ≠ 3 → (hive = true → isLocal q.pa = true) →
            ∃ ps, exec sp s = .next (startLoad (taken s) f ls.toNat (.span hive) false .exact ps .none t0)
              ∧ (∀ r ∈ ps, r.n = 8 ∧ r.pa % 8 = 0)
              ∧ ∀ v, (∃ r ∈ ps, r.pa = 8 * v) ↔
                  q.pa / 8 ≤ v ∧ v ≤ q.pa / 512 * 64 + 63 ∧ v < q.pa / 8 + min 64 (max 1 y.toNat))

/-- ST, STL and STV record the bytes they write, little-endian, lane j of STV at a + 4j where it is valid (R224, R225); the span
hint 0b11 makes a store stream, and STL is a release (R146, R224). STS records up to eight elements; where two write one
byte, the higher prevails (R226). A store that fires discards the block of the first later load that had read its bytes, and every
younger one (R102). At the commit point the recorded bytes, of whichever of these and of TST, are written, and no other byte: in the scratch
at their places; in the issuing comb's cache, which owns the word, for normal local memory, pending where a release holds it
back; to the home for a stream, with no owner; else in a write to the target, sent at once or held behind a release (R127, R139, R143, R146, R159).
STV's lanes lie at a + 4j without wrapping (the model's reading: log entry 91). -/
def Obligations.StoresAndScattersRecordTheirBytes : Prop :=
  (∀ (s : State) (f : Issue) (b : Block) (p : Pr) (ls : BitVec 5) (sz : StSize) (hint : Hint) (off : BitVec 4) (x y : W64) (l : Lanes) (m : Mask),
    Ready s f b p → f.left = some (.s x) →
    let n := match sz with | .b => 1 | .h => 2 | .w => 4 | .d => 8
    let a := x + off.signExtend 64 * BitVec.ofNat 64 n
    let v := x + off.signExtend 64 * 64
    (f.right = some (.s y) → ∃ ps,
      Stores (.st p ls sz hint off) s f b ls (.data (if hint = .stream then .stream else .plain) ps)
      ∧ Stores (.stl p ls sz hint off) s f b ls (.data (if hint = .stream then .relStream else .rel) ps)
      ∧ ∀ q, storedByte ps q = if a.toNat ≤ q ∧ q < a.toNat + n then some (BitVec.ofNat 8 (y.toNat >>> (8 * (q - a.toNat)))) else none)
    ∧ (f.right = some (.v l m) → ∃ ps,
      Stores (.stv p ls hint off) s f b ls (.data (if hint = .stream then .stream else .plain) ps)
      ∧ (∀ j k, j < 16 → k < 4 → m.getLsbD j = true →
          storedByte ps (v.toNat + 4 * j + k) = some ((lane l j).extractLsb' (8 * k) 8))
      ∧ ∀ q, storedByte ps q ≠ none → ∃ j k, j < 16 ∧ k < 4 ∧ m.getLsbD j = true ∧ q = v.toNat + 4 * j + k)
    ∧ (f.right = some (.v l m) →
      let w : Nat → Nat := fun e => (x + ((lane l e).signExtend 64 + off.signExtend 64) * BitVec.ofNat 64 n).toNat
      let on : Nat → Prop := fun e => e < 8 ∧ m.getLsbD e = true ∧ m.getLsbD (e + 8) = true
      ∃ ps, Stores (.sts p ls sz hint off) s f b ls (.data (if hint = .stream then .stream else .plain) ps)
        ∧ (∀ e k, on e → k < n → (∀ g, e < g → on g → ¬(w g ≤ w e + k ∧ w e + k < w g + n)) →
            storedByte ps (w e + k) = some (BitVec.ofNat 8 ((lane l (e + 8)).toNat >>> (8 * k))))
        ∧ ∀ q, storedByte ps q ≠ none → ∃ e k, on e ∧ k < n ∧ q = w e + k))
  ∧ (∀ (s : State) (c tag lsid comb : Nat) (ps : List Piece),
      let x := ctxOf s c
      let read : Block → Prop := fun b => ∃ l ∈ b.loads, l.2.finished = true ∧ laterThan x tag (lsid + 1) b.tag l.1 = true
        ∧ ∃ q ∈ l.2.ranges, ∃ p ∈ ps, byteKey s c x comb p.va < q.1 + q.2 ∧ q.1 < byteKey s c x comb p.va + p.n
      ((∀ b ∈ x.blocks, ¬read b) → orderCheck s c tag lsid comb ps = s)
      ∧ ∀ old b young, x.blocks = old ++ b :: young → read b → (∀ o ∈ old, ¬read o ∧ o.tag ≠ b.tag) →
          let y := ctxOf (orderCheck s c tag lsid comb ps) c
          y.blocks = old ∧ b.addr ∈ y.strictAt ∧ y.next = x.next ∧ y.regs = x.regs ∧ (orderCheck s c tag lsid comb ps).ms.mem = s.ms.mem)
  ∧ (∀ (s : State) (c : Nat) (b : Block) (lsid : Nat) (r : StoreRec) (k : StKind) (ps : List Piece), MemoryCanonical s → r.op = some (.data k ps) →
      let x := ctxOf s c
      (∀ q ∈ ps, inScratch q.va = true ∧ 1 ≤ q.n ∧ q.va % 8 + q.n ≤ 8 ∧ q.va + q.n ≤ Config.scratchBase + x.scrSize) →
      ∃ t, performStore s c b lsid r = some t ∧ t.ms.caches = s.ms.caches ∧ t.ms.hives = s.ms.hives ∧ (∀ d, d ≠ c → ctxOf t d = ctxOf s d)
        ∧ ctxOf t c = (if k = .rel ∨ k = .relStream then { x with releases := x.releases ++ [{ id := s.seq, fence := false }] } else x)
        ∧ (∀ o, o < x.scrSize → memGet t.ms.mem (scratchPa x c + o) = (storedByte ps (Config.scratchBase + o)).getD (memGet s.ms.mem (scratchPa x c + o)))
        ∧ ∀ a, a < scratchPa x c ∨ scratchPa x c + x.scrSize ≤ a → memGet t.ms.mem a = memGet s.ms.mem a)
  ∧ ∀ (s : State) (c : Nat) (b : Block) (lsid : Nat) (r : StoreRec) (k : StKind) (q : Piece) (lp : LPiece), r.op = some (.data k [q]) →
      let x := ctxOf s c
      let w := lp.pa / 8
      let at_ := lp.pa % 8
      let local_ : Prop := lp.mode = 0 ∧ isLocal lp.pa = true
      let release : Prop := k = .rel ∨ k = .relStream
      let cached := tlbHit s r.comb x.part q.va = true
      transPiece s c x r.comb .wr (storePlain (storeInstr b r)) q.va q.n 0 = .ok lp → lp.scratch = false → at_ + lp.n ≤ 8 →
      (local_ → k = .plain ∨ k = .rel → ∀ t, performStore s c b lsid r = some t → ∃ cw, combWord t.ms r.comb w = some cw ∧ cw.owned = true
        ∧ (k = .rel ∨ lastFence x ≠ none → cw.pend ≠ none)
        ∧ ∀ j, j < lp.n → cw.valid.getLsbD (at_ + j) = true ∧ cw.data.extractLsb' (8 * (at_ + j)) 8 = BitVec.ofNat 8 (q.data >>> (8 * j)))
      ∧ (∀ old, local_ → k = .plain → cached → x.releases = [] → membersOf c x.k = [r.comb] → combWord s.ms r.comb w = some old → old.owned = true → old.pend = none →
          (∀ sp ∈ mget [] (combSet r.comb (w / 64)) s.ms.caches, sp.sver = 0 ∧ sp.lease = 0) →
          ∃ t cw, performStore s c b lsid r = some t ∧ t.ms.mem = s.ms.mem ∧ t.ms.hives = s.ms.hives ∧ combWord t.ms r.comb w = some cw ∧ cw.pend = none
            ∧ (∀ j, j < 8 → j < at_ ∨ at_ + lp.n ≤ j → cw.data.extractLsb' (8 * j) 8 = old.data.extractLsb' (8 * j) 8)
            ∧ ∀ comb v, comb ≠ r.comb ∨ v ≠ w → combWord t.ms comb v = combWord s.ms comb v)
      ∧ (local_ → k = .stream → cached → x.releases = [] → (∀ m ∈ membersOf c x.k, combWord s.ms m w = none) →
          ∃ t g d mask, performStore s c b lsid r = some t ∧ mfind s.seq t.ms.regs = some g ∧ g.ctx = c ∧ g.comb = homeOf c ∧ g.word = w ∧ g.grant = false
            ∧ g.data = some (d, mask, false) ∧ homeSlice (8 * w) ∈ (ctxOf t c).touched
            ∧ t.ms.mem = s.ms.mem ∧ t.ms.hives = s.ms.hives ∧ t.ms.caches = s.ms.caches
            ∧ ∀ j, j < 8 → mask.getLsbD j = decide (at_ ≤ j ∧ j < at_ + lp.n)
                ∧ (at_ ≤ j → j < at_ + lp.n → d.extractLsb' (8 * j) 8 = BitVec.ofNat 8 (q.data >>> (8 * (j - at_)))))
      ∧ (¬local_ → ∃ t n u, performStore s c b lsid r = some t ∧ mfind n t.ms.uwrites = some u
          ∧ u.ctx = c ∧ u.pa = lp.pa ∧ u.n = lp.n ∧ u.data = q.data
          ∧ (release → n = s.seq + 1 ∧ u.sent = false ∧ ∃ g ∈ (ctxOf t c).releases, g.id = s.seq ∧ .uwrite n ∈ g.held)
          ∧ (¬release → n = s.seq ∧ (u.sent = true ↔ lastFence x = none)
              ∧ ∀ id, lastFence x = some id → ∃ g ∈ (ctxOf t c).releases, g.id = id ∧ .uwrite n ∈ g.held)
          ∧ (cached → lp.mode ≠ 2 → t.ms.mem = s.ms.mem ∧ t.ms.hives = s.ms.hives ∧ t.ms.caches = s.ms.caches))

/-- AMO and CAS record their operation at their EA (R227, R229); CAS with a required lane invalid faults (R229). At the commit point an
atomic on scratch is performed there, its result in its register; any other is sent to its home, at once or behind a fence's release,
and its register waits for the reply (R146, R216, R228). -/
def Obligations.AtomicsAreRecordedWithTheirOperands : Prop :=
  (∀ (s : State) (f : Issue) (b : Block) (p : Pr) (ls : BitVec 5) (op : AmoOp) (k : AmoWid) (off : BitVec 4) (d : RegDest) (x v : W64)
    (l : Lanes) (m : Mask), Ready s f b p → f.left = some (.s x) →
    let n : AmoWid → Nat := fun k => match k with | .w | .wu => 4 | .d | .du => 8
    let at_ : Nat → W64 := fun n => x + off.signExtend 64 * BitVec.ofNat 64 n
    let two : Nat → W64 := fun j => (l.extractLsb' (32 * j) 64)
    (f.right = some (.s v) → Stores (.amo p ls op k off d) s f b ls (.amo op k (at_ (n k)) v d))
    ∧ (f.right = some (.v l m) →
      (m.getLsbD 0 = true → m.getLsbD 2 = true →
        Stores (.cas p ls .w off d) s f b ls (.cas .w (at_ 4) ((lane l 0).zeroExtend 64) ((lane l 2).zeroExtend 64) d))
      ∧ (¬(m.getLsbD 0 = true ∧ m.getLsbD 2 = true) → FaultsWith (.cas p ls .w off d) s f 0x04 0)
      ∧ (m.extractLsb' 0 4 = 0xF → Stores (.cas p ls .d off d) s f b ls (.cas .d (at_ 8) (two 0) (two 2) d))
      ∧ (m.extractLsb' 0 4 ≠ 0xF → FaultsWith (.cas p ls .d off d) s f 0x04 0)))
  ∧ ∀ (s : State) (c : Nat) (b : Block) (lsid : Nat) (r : StoreRec) (op : StoreOp), r.op = some op →
      ((∃ o k a v d, op = .amo o k a v d) ∨ ∃ k a y v d, op = .cas k a y v d) →
      let x := ctxOf s c
      let n := (atomicShape op).1
      let a := (atomicShape op).2.1.toNat
      let d := (atomicShape op).2.2
      let pa := scratchPa x c + (a - Config.scratchBase)
      let res := atomicApply op (memRead s.ms.mem pa n)
      let others : State → Prop := fun t => ∀ m, (∀ g, d = .reg g → m ≠ g.toNat) → mget (.s 0) m (ctxOf t c).regs = mget (.s 0) m x.regs
      (MemoryCanonical s → inScratch a = true → a + n ≤ Config.scratchBase + x.scrSize →
        ∃ t, performStore s c b lsid r = some t ∧ memRead t.ms.mem pa n = res.1 % 2 ^ (8 * n) ∧ (∀ e, e < pa ∨ pa + n ≤ e → memGet t.ms.mem e = memGet s.ms.mem e)
          ∧ t.ms.caches = s.ms.caches ∧ t.ms.amos = s.ms.amos ∧ (∀ g, d = .reg g → mget (.s 0) g.toNat (ctxOf t c).regs = .s res.2) ∧ others t)
      ∧ ∀ lp, transPiece s c x r.comb .rw .other a n 0 = .ok lp → lp.scratch = false →
          ∃ t q, performStore s c b lsid r = some t ∧ mfind s.seq t.ms.amos = some q ∧ q.ctx = c ∧ q.op = op ∧ q.pa = lp.pa
            ∧ (q.sent = true ↔ lastFence x = none)
            ∧ (∀ id, lastFence x = some id → t.ms.mem = s.ms.mem ∧ t.ms.caches = s.ms.caches ∧ ∃ g ∈ (ctxOf t c).releases, g.id = id ∧ .amo s.seq ∈ g.held)
            ∧ (∀ g, d = .reg g → mget (.s 0) g.toNat (ctxOf t c).regs = .reply s.seq (atomicShape op).2.1) ∧ others t

/-- FENCE is recorded, and its acquire act is performed once the older blocks have committed and its block's earlier loads have
performed (R232, R233); FLUSHR, CLAIM and ISYNC record their ranges, and .dinv faults in task mode (R234, R236, R237). At the commit point a
FENCE rel, full or eng begins its release and acq does no more; code and ISYNC take the members' images and clean words of their range away, ISYNC
not in the scratch and only once the members' spans are split at its range's edges (R141), and discard younger blocks; FLUSHR begins its walk; CLAIM makes the comb the word's owner, pending behind a release (R146, R151, R153,
R216, R232 to R237). A word that its release lets go is pending no more: it registers, or its data goes home (R143, R146). -/
def Obligations.FencesAndRangeInstructionsAreRecorded : Prop :=
  (∀ (s : State) (f : Issue) (b : Block) (p : Pr) (ls : BitVec 5), Ready s f b p →
    let x := ctxOf s f.ctx
    let fence : FenceKind → State := fun k => fireStore (taken s) f x b ls.toNat (.fence k)
    let now := isOldest x f.tag = true ∧ loadsDone b ls.toNat = true
    (∀ k, k = .rel ∨ k = .eng ∨ k = .code → Stores (.fence p ls k) s f b ls (.fence k))
    ∧ (∀ k, k = .full ∨ k = .acq →
        (now → exec (.fence p ls k) s = .next (acquire (fence k) f.ctx (some f.tag) (ls.toNat + 1)))
        ∧ (¬now → exec (.fence p ls k) s = .next (setSt (fence k) f .held)))
    ∧ ∀ a n : W64, f.left = some (.s a) → f.right = some (.s n) →
        let len := n.toNat % 2 ^ 32
        (∀ k, (k = .dinv → len ≠ 0 → x.trap.hm = true) → Stores (.flushr p ls k) s f b ls (.flushr k a len))
        ∧ (len ≠ 0 → x.trap.hm = false → FaultsWith (.flushr p ls .dinv) s f 0x11 a)
        ∧ Stores (.claim p ls) s f b ls (.claim a (min n.toNat 4096)) ∧ Stores (.isync p ls) s f b ls (.isync a len))
  ∧ (∀ (s : State) (c : Nat) (b : Block) (lsid : Nat) (r : StoreRec) (op : StoreOp), r.op = some op →
      let x := ctxOf s c
      let does : State → Prop := fun t => performStore s c b lsid r = some t
      let begins : Bool → Prop := fun eng => does (bumpSeq (setCtx s c { x with releases := x.releases ++ [{ id := s.seq, fence := true, eng := eng }] }))
      let young : State → Prop := fun t => (ctxOf t c).blocks = x.blocks.take ((olderThan x b.tag).length + 1)
      let ranges := fun a len => rangeWords s c x r.comb .rd a len
      (op = .fence .full ∨ op = .fence .rel → begins false) ∧ (op = .fence .eng → begins true) ∧ (op = .fence .acq → does s)
      ∧ (op = .fence .code → ∃ t, does t ∧ young t ∧ ∀ m ∈ membersOf c x.k, (mget {} m t.combs).images = []
          ∧ ∀ w cw, combWord t.ms m w = some cw → cw.owned = true ∨ cw.dirty = true)
      ∧ (∀ k a, op = .flushr k a 0 → does s)
      ∧ (∀ k a len, op = .flushr k a len → len ≠ 0 → ∃ t v, does t ∧ mfind s.seq t.ms.walks = some v ∧ v.ctx = some c ∧ v.kind = k ∧ v.at_ = 0 ∧ v.pkt = none
          ∧ t.ctxs = s.ctxs ∧ t.ms.mem = s.ms.mem ∧ t.ms.caches = s.ms.caches
          ∧ ∀ lp, a.toNat % 65536 + len ≤ 65536 → transPiece s c x r.comb .rd .other a.toNat len 0 = .ok lp →
              v.ranges = if lp.scratch || isWindow lp.pa || isCfg lp.pa then [] else [(lp.pa / 8, (lp.pa + lp.n - 1) / 8 + 1)])
      ∧ (∀ a len w, op = .claim a len → rangeWords s c x r.comb .wr a len = [(w, w + 1, 0)] → isLocal (8 * w) = true → ∀ t, does t →
          ∃ cw, combWord t.ms r.comb w = some cw ∧ cw.owned = true ∧ (lastFence x ≠ none → cw.pend ≠ none))
      ∧ (∀ a len, op = .isync a len →
          (len = 0 ∨ (inScratch a.toNat = true ∧ inScratch (a.toNat + len - 1) = true) → does s)
          ∧ (¬(len = 0 ∨ (inScratch a.toNat = true ∧ inScratch (a.toNat + len - 1) = true)) →
              let covered : Nat → Prop := fun w => ∃ g ∈ ranges a len, g.1 ≤ w ∧ w < g.2.1
              (isyncSplit s c (ranges a len) = none → performStore s c b lsid r = none)
              ∧ ((∀ m ∈ membersOf c x.k, ∀ p ∈ s.ms.caches, p.1 / 64 = m → ∀ sp ∈ p.2,
                    (∀ j, j < sp.words.length → covered (64 * sp.region + sp.s + j)) ∨ (∀ j, j < sp.words.length → ¬covered (64 * sp.region + sp.s + j))) →
                  isyncSplit s c (ranges a len) ≠ none)
              ∧ (isyncSplit s c (ranges a len) ≠ none → ∃ t, does t ∧ young t ∧ ∀ m ∈ membersOf c x.k,
                  (∀ i ∈ (mget {} m t.combs).images, ¬(a.toNat ≤ i.1.toNat ∧ i.1.toNat < a.toNat + len))
                  ∧ ∀ w cw, covered w → combWord t.ms m w = some cw → cw.owned = true ∨ cw.dirty = true))))
  ∧ ∀ (s : State) (c comb w : Nat) (cw : CWord), combWord s.ms comb w = some cw → cw.owned = true →
      let t := unpend s c comb w
      (cw.home = true → combWord t.ms comb w = none ∧ ∃ g, mfind s.seq t.ms.regs = some g ∧ g.ctx = c ∧ g.comb = comb ∧ g.word = w ∧ g.data = some (cw.data, cw.wrote, cw.poison))
      ∧ (cw.home = false → ∃ y, combWord t.ms comb w = some y ∧ y.pend = none ∧ y.data = cw.data ∧ y.owned = true
          ∧ (needsReg s.ms c comb w = true → ∃ g, mfind s.seq t.ms.regs = some g ∧ g.ctx = c ∧ g.comb = comb ∧ g.word = w ∧ g.data = none))

/-- COPY records its descriptor, every lane of which must be valid (R238); BATCH and FORK are recorded, a child's invalid argument
lanes as 0 (R245, R249); BAR is recorded for a gang member's channel below BARS and faults otherwise (R50, R251). At the commit point a
COPY takes an entry of the FIFO, or, as a TRY with none free, answers 1; a BATCH seals the requests before it under its number; a FORK counts its
child, which goes to the deque behind a release, and gives its identifier; a BAR sets the barrier status, waits as its mode says, one of count 0
for as long as it takes if its arrival is the phase's last, and arrives behind a release (R43 to R45, R243, R245, R249 to R255). The child's deque being the home comb's is log entry 35 (the model's reading), and a second BAR
of one block on one channel arriving as well log entry 103 (its choice). -/
def Obligations.CopiesChildrenAndBarriersAreRecorded : Prop :=
  (∀ (s : State) (f : Issue) (b : Block) (p : Pr) (ls : BitVec 5) (d : RegDest) (l : Lanes) (m : Mask) (e n : W64), Ready s f b p →
    let x := ctxOf s f.ctx
    (f.left = some (.v l m) →
      (∀ try_ mode, (m = 0xFFFF → Stores (.copy p try_ mode ls d) s f b ls (.copy try_ mode l d))
        ∧ (m ≠ 0xFFFF → FaultsWith (.copy p try_ mode ls d) s f 0x04 0))
      ∧ (f.right = some (.s e) → ∃ arg, Stores (.fork p ls d) s f b ls (.fork arg e d)
          ∧ ∀ i, i < 16 → lane arg i = if m.getLsbD i then lane l i else 0))
    ∧ Stores (.batch p ls d) s f b ls (.batch d)
    ∧ ∀ ch : BitVec 4,
        let may := (∃ t r, x.task = some t ∧ t.rank = some r) ∧ ch.toNat < kBars (kernelOf s x)
        (may → Stores (.bar p ch ls .wait) s f b ls (.bar ch.toNat .wait 0) ∧ Stores (.bar p ch ls .arr) s f b ls (.bar ch.toNat .arr 0)
          ∧ (f.left = some (.s n) → Stores (.bar p ch ls .tmd) s f b ls (.bar ch.toNat .tmd n.toNat)))
        ∧ (¬may → FaultsWith (.bar p ch ls .wait) s f 0x08 (ch.zeroExtend 64) ∧ FaultsWith (.bar p ch ls .arr) s f 0x08 (ch.zeroExtend 64)
          ∧ (f.left = some (.s n) → FaultsWith (.bar p ch ls .tmd) s f 0x08 (ch.zeroExtend 64))))
  ∧ ∀ (s : State) (c : Nat) (b : Block) (lsid : Nat) (r : StoreRec) (op : StoreOp), r.op = some op →
      let x := ctxOf s c
      let does : State → Prop := fun t => performStore s c b lsid r = some t
      let gives : RegDest → State → W64 → Prop := fun d t v => ∀ g, d = .reg g → mget (.s 0) g.toNat (ctxOf t c).regs = .s v
      let later := (b.stores.filter (fun q => decide (lsid < q.1) && (match q.2.op with | some (.copy false _ _ _) => true | _ => false))).length
      (∀ try_ mode desc d, op = .copy try_ mode desc d →
        (try_ = true → Config.fifoEntries ≤ x.fifo.length + later → ∃ t, does t ∧ gives d t 1 ∧ t.ms = s.ms ∧ (ctxOf t c).fifo = x.fifo ∧ (ctxOf t c).unsealed = x.unsealed)
        ∧ (try_ = false ∨ x.fifo.length + later < Config.fifoEntries → ∃ t q, does t ∧ gives d t 0 ∧ mfind s.seq t.ms.copies = some q
            ∧ q.who = .ctx c ∧ q.mode = mode ∧ q.desc = desc ∧ q.chunk = 0 ∧ q.part = x.part ∧ q.scrOff = x.scrOff ∧ q.scrSize = x.scrSize ∧ q.net = none
            ∧ (ctxOf t c).fifo = x.fifo ++ [s.seq] ∧ (ctxOf t c).unsealed = x.unsealed ++ [s.seq] ∧ t.ms.mem = s.ms.mem ∧ t.ms.caches = s.ms.caches
            ∧ (q.sent = true ↔ lastCopyFence x = none)
            ∧ ∀ id, lastCopyFence x = some id → ∃ g ∈ (ctxOf t c).releases, g.id = id ∧ .copy s.seq ∈ g.held))
      ∧ (∀ d, op = .batch d → ∃ t, does t ∧ t.ms = s.ms ∧ gives d t ((x.batch + 1).zeroExtend 64) ∧ (ctxOf t c).batch = x.batch + 1 ∧ (ctxOf t c).unsealed = []
          ∧ (ctxOf t c).batches = x.batches ++ [{ num := x.batch + 1, reqs := x.unsealed, fault := x.unsealFault }])
      ∧ (∀ arg e d k, op = .fork arg e d → x.task = some k → let l := launchOf s k.launch
          ∃ t, does t ∧ t.ms = s.ms ∧ gives d t (BitVec.ofNat 64 (2 ^ 40 + l.seq)) ∧ (launchOf t k.launch).live = l.live + 1 ∧ (launchOf t k.launch).seq = l.seq + 1
            ∧ mget 0 k.id (launchOf t k.launch).kids = mget 0 k.id l.kids + 1
            ∧ ∃ g ∈ (ctxOf t c).releases, g.id = s.seq ∧ g.fence = false ∧ g.held = [.fork (homeOf c)
                { launch := k.launch, id := 2 ^ 40 + l.seq, parent := k.id, forkCtx := c, entry := e, arg := arg, x := k.x, y := k.y, z := k.z }])
      ∧ ∀ ch mode n, op = .bar ch mode n →
          let phase := match x.task with | some k => (mget {} ch (launchOf s k.launch).channels).phase | none => 0
          ∃ t, does t ∧ t.ms = s.ms ∧ (ctxOf t c).bar = { phase := BitVec.ofNat 32 phase, outcome := 2, ch := ch } ∧ (ctxOf t c).arrived = x.arrived ++ [ch]
            ∧ (mode = .arr → (ctxOf t c).barWait = x.barWait)
            ∧ (mode = .wait → (ctxOf t c).barWait = x.barWait ++ [{ ch := ch, phase := phase }])
            ∧ (mode = .tmd → n ≠ 0 → (ctxOf t c).barWait = x.barWait ++ [{ ch := ch, phase := phase, left := some (s.cycles + n) }])
            ∧ (∀ k, mode = .tmd → n = 0 → x.task = some k →
                let l := launchOf s k.launch
                let last := ∀ r, r < l.x * l.y * l.z → r = k.rank.getD 0 ∨ r ∈ (mget {} ch l.channels).arrived ∨ r ∈ l.departed
                  ∨ ∃ a ∈ s.arrivals, a.2.launch = k.launch ∧ a.2.ch = ch ∧ a.2.rank = r
                (last → (ctxOf t c).barWait = x.barWait ++ [{ ch := ch, phase := phase }])
                ∧ (¬last → (ctxOf t c).barWait = x.barWait ++ [{ ch := ch, phase := phase, left := some s.cycles }]))
            ∧ ∃ g ∈ (ctxOf t c).releases, g.id = s.seq ∧ g.fence = false ∧ g.held = [.arrive ch]

/-- TLD reads its rows, of 32 elements' bits each or, transposed, of 256 columns, in the format its word or the window that
holds its base names (R264 to R268); the lowest byte that may not be read faults. TST captures its rows, which takes 4 cc for an
accumulator and 32 for a buffer, and records their bytes, where rows overlap those of the later row: of a buffer its rows, or, transposed,
element j of each row in its j-th row (R270, R271). -/
def Obligations.TileLoadsAndStoresAccessTheirRows : Prop :=
  ∀ (s : State) (f : Issue) (b : Block) (p : Pr) (bc tr acc : Bool) (fmt : TldFmt) (cell ls : BitVec 5) (n : BitVec 4) (t1 t0 : Target)
    (base pitch : W64), Ready s f b p → f.left = some (.s base) → f.right = some (.s pitch) →
    let x := ctxOf s f.ctx
    let i : Instr := .tld p bc tr fmt cell ls n t1 t0
    let win := windowAt (partOf s x.part) base.toNat
    (TileReady i s f b → fmt = .auto → win = none → FaultsWith i s f 0x0E base)
    ∧ (TileReady i s f b → ∀ (fw : Option FWin) (ty : ElemTy) (sc : Bool),
        ((fmt = .fmt ty ∧ fw = none ∧ sc = false) ∨ ∃ w, fmt = .auto ∧ win = some w ∧ fw = some w ∧ windowFmt w = (ty, sc)) →
        let rows := if tr then 256 else 16
        let row : Nat → Except AccErr (List LPiece) := fun j =>
          tldRow (taken s) f.ctx x (combOf s f b) fw ty (if tr then 2 * ty.width else 32 * ty.width) j (base + BitVec.ofNat 64 j * pitch)
            (if tr then 64 * j else 512 * j)
        (∀ q : Nat → List LPiece, (∀ j, j < rows → row j = .ok (q j)) →
          exec i s = .next (startLoad (taken s) f ls.toNat (.tile ty sc tr bc cell.toNat n.toNat 16384) false .predict
            ((List.range rows).map q).flatten t1 t0))
        ∧ ((∃ j e, j < rows ∧ row j = .error e) → ∃ j e, j < rows ∧ row j = .error e ∧ FaultsWith i s f e.1 e.2
            ∧ ∀ j' e', j' < rows → row j' = .error e' → e.2.toNat ≤ e'.2.toNat))
    ∧ (TileReady (.tst p acc tr cell ls n) s f b → mfind f.idx b.captures = none →
        exec (.tst p acc tr cell ls n) s = .next (setSt (modBlock (taken s) f.ctx f.tag (fun k =>
          { k with captures := mput f.idx (s.cycles + if acc then 4 else 32) k.captures })) f .held))
    ∧ (∀ t, TileReady (.tst p acc tr cell ls n) s f b → mfind f.idx b.captures = some t → s.cycles < t →
        exec (.tst p acc tr cell ls n) s = .next (setSt (taken s) f .held))
    ∧ (∀ t, TileReady (.tst p acc tr cell ls n) s f b → mfind f.idx b.captures = some t → t ≤ s.cycles → ∃ (ps : List Piece) (rows : List (W64 × Nat × Nat)),
        Stores (.tst p acc tr cell ls n) s f b ls (.data .plain ps)
        ∧ (∀ q, storedByte ps q = storedByte (rows.map (fun r => cutPieces r.1.toNat r.2.1 r.2.2)).flatten q)
        ∧ rows.map (·.1) = (List.range (if tr && !acc then 256 else 16)).map (fun j => base + BitVec.ofNat 64 j * pitch)
        ∧ (acc = true → ∀ j k r, j < 16 → k < 16 → rows[j]? = some r → r.2.1 = 64
            ∧ bits r.2.2 (32 * k) 32 = if tr then accElem (accSeen s f.ctx x b cell.toNat n.toNat) k j else accElem (accSeen s f.ctx x b cell.toNat n.toNat) j k)
        ∧ (acc = false → tr = false → let u := bufSeen s f.ctx x b cell.toNat n.toNat
            ∀ j r, j < 16 → rows[j]? = some r → r.2 = (32 * u.fmt.width, (u.data.toNat >>> (4096 * j)) % 2 ^ 4096 % 2 ^ (256 * u.fmt.width)))
        ∧ (acc = false → tr = true → let u := bufSeen s f.ctx x b cell.toNat n.toNat
            let w := u.fmt.width
            ∀ j r, j < 256 → rows[j]? = some r → r.2.1 = 2 * w ∧ r.2.2 < 2 ^ (16 * w)
              ∧ ∀ k, k < 16 → bits r.2.2 (w * k) w = (u.data.toNat >>> (4096 * k + w * j)) % 2 ^ w))

/-- MMA waits for the tile state it names and for older blocks that may still write PPR, and keeps the place of its issue (R104, R276,
R284). It faults on operands of other formats than its mode takes (R278), and otherwise joins its tensor cell's queue, after the passes
under way and the MMAs that issued before it, at the rank that its mode, RUNG, PPR and its accumulator's SR give (R279, R284). That an MMA
held at its waits is not in its cell's queue, so that a later one may run first, is log entry 99 (the model's reading). -/
def Obligations.MatrixProductsJoinTheirUnitsQueue : Prop :=
  ∀ (s : State) (f : Issue) (b : Block) (p : Pr) (mode : MmaMode) (cell : BitVec 5) (acc : BitVec 3) (na nb : BitVec 4) (rung : BitVec 2)
    (stk zc : Bool) (t1 t0 : Target) (t : Token), Ready s f b p → f.left = some t → t ≠ .n →
    let x := ctxOf s f.ctx
    let i : Instr := .mma p mode cell acc na nb rung stk zc t1 t0
    let a := (bufSeen s f.ctx x b cell.toNat na.toNat).fmt
    let c := (bufSeen s f.ctx x b cell.toNat nb.toNat).fmt
    let ok : Bool := match mode with
      | .f | .fp | .maxp | .minp => a.isStoredFloat && c.isStoredFloat
      | .i | .ip => a.isStoredInt && c.isStoredInt
      | .t => (a == .tern2x16 && c == .i8x4) || (a == .i8x4 && c == .tern2x16)
    let ppr := pprSeen x f.tag
    let top := max (storedRank a) (storedRank c)
    let adaptive : Prop := mode = .f ∨ mode = .i
    let sticky : Prop := adaptive ∧ (ppr.getLsbD 28 = true ∨ stk = true)
    (instrAt b.words f.idx = some i → pprWaits x f.tag = true ∨ tileWaits x b f.idx i = true →
      (mfind f.idx b.issued ≠ none → exec i s = .next (setSt (taken s) f .held))
      ∧ (mfind f.idx b.issued = none → exec i s =
          .next (setSt (bumpSeq (modBlock (taken s) f.ctx f.tag (fun k => { k with issued := mput f.idx s.seq k.issued }))) f .held)))
    ∧ (pprWaits x f.tag = false → TileReady i s f b → ok = false → FaultsWith i s f 0x04 2)
    ∧ (pprWaits x f.tag = false → TileReady i s f b → ok = true → ∃ j : MmaJob, ∃ key,
        let before : MmaJob → Bool := fun o => o.ends.isSome || decide (o.order < j.order)
        let queue := mget [] key s.jobs
        exec i s = .next (setSt (bumpSeq { taken s with jobs := mput key (queue.filter before ++ j :: queue.filter (fun o => !before o)) s.jobs }) f .busy)
        ∧ j.order = mget s.seq f.idx b.issued
        ∧ key = 4 * memberAt (homeOf f.ctx) (cell.toNat / 4) + cell.toNat % 4
        ∧ j.ctx = f.ctx ∧ j.tag = f.tag ∧ j.idx = f.idx ∧ j.mode = mode ∧ j.acc = acc.toNat ∧ j.a = na.toNat ∧ j.b = nb.toNat
        ∧ j.cell = cell.toNat ∧ j.zc = zc ∧ j.t1 = t1 ∧ j.t0 = t0 ∧ j.replays = 0 ∧ j.ends = none ∧ j.start = j.rung
        ∧ j.ppr = ppr ∧ (j.adaptive = true ↔ adaptive) ∧ (j.sticky = true ↔ sticky)
        ∧ (adaptive → j.top = top ∧ ∀ r, r = (if ppr.extractLsb' 29 2 = 2 then top else rung.toNat + 1) →
            (sticky → j.rung = min (max r (accSeen s f.ctx x b cell.toNat acc.toNat).sr) top) ∧ (¬sticky → j.rung = min r top))
        ∧ ((mode = .fp ∨ mode = .ip) → j.top = top ∧ j.rung = min (rung.toNat + 1) top)
        ∧ (mode = .t → j.rung = 1) ∧ ((mode = .maxp ∨ mode = .minp) → j.rung = 0))

/-- TOP's operations on the tile state as their block sees it (R286), each at its latency (R285). -/
def Obligations.TileOperationsWriteTheirDestinations : Prop :=
  ∀ (s : State) (f : Issue) (b : Block) (p : Pr) (cell : BitVec 5) (d r : BitVec 4) (t1 t0 : Target) (t : Token) (l : Lanes) (m : Mask),
    Ready s f b p → f.left = some t → t ≠ .n →
    let x := ctxOf s f.ctx
    let c := cell.toNat
    let ts := [t0, t1]
    let acc : BitVec 4 → TAcc := fun n => accSeen s f.ctx x b c n.toNat
    let buf : BitVec 4 → TBuf := fun n => bufSeen s f.ctx x b c n.toNat
    let more : Nat := if (mfind (16 * c + d.toNat) b.staging).isSome then 0 else 8
    let code : TBuf → Nat → Nat → Nat := fun u y k => bits (bits u.data.toNat (4096 * y) 4096) (u.fmt.width * k) u.fmt.width
    let i : TopOp → Instr := fun o => .top p o cell t1 t0
    let writes : TopOp → Nat → Nat → (Nat → Nat → Nat) → Prop := fun o lat sr g => ∃ u : TAcc,
      EmitsWith (i o) s f lat ts (.s 0) (fun s => shade s f.ctx f.tag c d.toNat u) ∧ u.sr = sr
        ∧ ∀ y z, y < 16 → z < 16 → accElem u y z = g y z % 2 ^ 32
    (TileReady (i (.zeroBuf d)) s f b → ∃ u : TBuf, EmitsWith (i (.zeroBuf d)) s f (2 + more) ts (.s 0) (fun s => stage s f.ctx f.tag c d.toNat u)
        ∧ u.data = 0 ∧ u.fmt = .bf16x2 ∧ u.sc = false ∧ ∀ k, k < 128 → u.scales.extractLsb' (8 * k) 8 = 0x7F)
    ∧ (∀ v, TileReady (i (.zeroAcc d v)) s f b → writes (.zeroAcc d v) 2 1 (fun _ _ => match v with | .zero => 0 | .ninf => 0xFF800000 | .pinf => 0x7F800000))
    ∧ (TileReady (i (.trans d r)) s f b → writes (.trans d r) 4 (acc r).sr (fun y z => accElem (acc r) z y))
    ∧ (TileReady (i (.rmax r)) s f b → ∃ v, Emits (i (.rmax r)) s f 6 ts (.v v 0xFFFF) ∧ ∀ y, y < 16 →
        let e : Nat → Word := fun z => BitVec.ofNat 32 (accElem (acc r) y z)
        lane v y = (List.range 15).foldl (fun u z => laneOp2 .f32 .max u (e (z + 1))) (laneOp2 .f32 .max (e 0) (e 0)))
    ∧ (TileReady (i (.rsum r)) s f b → ∃ v, Emits (i (.rsum r)) s f 12 ts (.v v 0xFFFF) ∧ ∀ y, y < 16 →
        let up : (Nat → Word) → Nat → Word := fun e z => laneOp2 .f32 .add (e (2 * z)) (e (2 * z + 1))
        lane v y = up (up (up (up (fun z => BitVec.ofNat 32 (accElem (acc r) y z))))) 0)
    ∧ (f.right = some (.v l m) → TileReady (i (.rscale d r)) s f b → writes (.rscale d r) 6 (acc d).sr
        (fun y z => if m.getLsbD y then laneOp .f32 .mul (accElem (acc r) y z) (lane l y).toNat else accElem (acc r) y z))
    ∧ (f.right = some (.v l m) → TileReady (i (.rsub d r)) s f b → writes (.rsub d r) 6 (acc d).sr
        (fun y z => if m.getLsbD y then laneOp .f32 .sub (accElem (acc r) y z) (lane l y).toNat else accElem (acc r) y z))
    ∧ (TileReady (i (.exp2 d r)) s f b → writes (.exp2 d r) 8 (acc d).sr (fun y z => (sfuLane .exp2 (BitVec.ofNat 32 (accElem (acc r) y z))).toNat))
    ∧ (∀ (dty : ElemTy) sat ns, dty.isStored = true → (ns = true → dty = .e4m3x4 ∨ dty = .e2m1x8) → TileReady (i (.conv d r dty sat ns)) s f b → ∃ u : TBuf,
        EmitsWith (i (.conv d r dty sat ns)) s f (16 + more) ts (.s 0) (fun s => stage s f.ctx f.tag c d.toNat u)
        ∧ u.fmt = dty ∧ u.sc = ns
        ∧ (ns = false → ∀ y k, y < 16 → k < 256 → code u y k =
            encodeElem dty .ne sat (scaled (buf r).fmt (code (buf r) y k) (bufScale (buf r) y (k / 32))) % 2 ^ dty.width)
        ∧ (ns = true → ∀ y g, y < 16 → g < 8 →
            let n := narrowBlock (rungOf true (storedRank dty)) (bufScale (buf r) y g)
              ((List.range 32).map (fun k => scaled (buf r).fmt (code (buf r) y (32 * g + k)) (bufScale (buf r) y g)))
            u.scales.extractLsb' (8 * (8 * y + g)) 8 = (match n.scale with | none => 0xFF | some e => BitVec.ofNat 8 (e + 127).toNat)
            ∧ ∀ k x, k < 32 → n.codes[k]? = some x → code u y (32 * g + k) = if n.scale = none then 0 else encodeElem dty .ne true x % 2 ^ dty.width))
    ∧ (∀ (dty : ElemTy) sat si koff, dty.isStored = true → TileReady (i (.a2b d r dty sat si koff)) s f b → ∃ u : TBuf,
        EmitsWith (i (.a2b d r dty sat si koff)) s f (4 + more) ts (.s 0) (fun s => stage s f.ctx f.tag c d.toNat u)
        ∧ u.fmt = dty ∧ u.sc = false
        ∧ ∀ y k, y < 16 → k < 256 → code u y k =
            if 16 * koff.toNat ≤ k ∧ k < 16 * koff.toNat + 16 then
              let e := accElem (acc r) y (k - 16 * koff.toNat)
              encodeElem dty .ne sat (if si then ofInt (BitVec.ofNat 32 e).toInt else ofF32 e) % 2 ^ dty.width
            else if (buf d).fmt = dty ∧ (buf d).sc = false then code (buf d) y k else 0)

/-- TROW moves 64 bytes between a row of tile state and a V token; a write changes the bytes of valid lanes only and leaves the
tag and SR (R287). -/
def Obligations.TileRowsMoveSixtyFourBytes : Prop :=
  ∀ (s : State) (f : Issue) (b : Block) (p : Pr) (cell : BitVec 5) (n row : BitVec 4) (ch : BitVec 3) (t1 t0 : Target) (t : Token) (l : Lanes) (m : Mask),
    Ready s f b p → f.left = some t →
    let x := ctxOf s f.ctx
    let c := cell.toNat
    let a := accSeen s f.ctx x b c n.toNat
    let u := bufSeen s f.ctx x b c n.toNat
    let i : TrowOp → Instr := fun o => .trow p o cell n row ch t1 t0
    let at_ := 4096 * row.toNat + 512 * ch.toNat
    let more : Nat := if (mfind (16 * c + n.toNat) b.staging).isSome then 0 else 8
    let reads : TrowOp → Nat → Prop := fun o d => ∃ r, Emits (i o) s f 2 [t0, t1] (.v r 0xFFFF) ∧ ∀ j, j < 16 → lane r j = BitVec.ofNat 32 (d >>> (32 * j))
    let merged : Nat → Nat → Nat → Prop := fun old new pos => ∀ k,
      new.testBit k = if pos ≤ k ∧ k < pos + 512 ∧ m.getLsbD ((k - pos) / 32) = true then l.getLsbD (k - pos) else old.testBit k
    (t ≠ .n → TileReady (i .rb) s f b → reads .rb (u.data.toNat >>> at_))
    ∧ (t ≠ .n → TileReady (i .ra) s f b → reads .ra (a.data.toNat >>> (512 * row.toNat)))
    ∧ (t = .v l m → TileReady (i .wb) s f b → ∃ v : TBuf,
        EmitsWith (i .wb) s f (2 + more) [t0, t1] (.s 0) (fun s => stage s f.ctx f.tag c n.toNat v)
        ∧ v.fmt = u.fmt ∧ v.sc = u.sc ∧ v.scales = u.scales ∧ merged u.data.toNat v.data.toNat at_)
    ∧ (t = .v l m → TileReady (i .wa) s f b → ∃ v : TAcc,
        EmitsWith (i .wa) s f 2 [t0, t1] (.s 0) (fun s => shade s f.ctx f.tag c n.toNat v)
        ∧ v.sr = a.sr ∧ merged a.data.toNat v.data.toNat (512 * row.toNat))

/-- Every well-formed instruction word decodes to the instruction it encodes (R93 to R99, and the encodings of the instructions). -/
def Obligations.EveryWordDecodesToItsInstruction : Prop :=
  ∀ i : Instr, i.isWord = true → i.wf = true → decode (encode i).1 (encode i).2 = .ok i

/-- Every word that decodes is the encoding of a well-formed instruction, so no word has two meanings and a reserved field is
never ignored (R97, R113). -/
def Obligations.DecodedWordsEncodeBack : Prop :=
  ∀ (w x : Word) (i : Instr), decode w x = .ok i → i.isWord = true ∧ i.wf = true ∧ encode i = (w, if isPairedWord w then x else 0)

/-- The words that the worked programs of the spec write out decode to the instructions they stand for, and the reserved opcodes,
PR 0b01 and opcode 0 in a nonzero word are refused (R91, R97). -/
def Obligations.WordsOfTheSpecDecodeAsTheyAreListed : Prop :=
  let l : BitVec 7 → Target := fun n => .slot .left n
  let r : BitVec 7 → Target := fun n => .slot .right n
  let p : BitVec 7 → Target := fun n => .slot .third n
  decode 0x180D0682 0 = .ok (.rd 3 (l 3) (l 2)) ∧ decode 0x10001502 0 = .ok (.genc 10 (r 2)) ∧ decode 0x28010903 0 = .ok (.tlt .always (l 4) (r 3))
  ∧ decode 0x40000085 0 = .ok (.add .always .none (l 5)) ∧ decode 0x1C030F86 0 = .ok (.mov .always (p 7) (p 6)) ∧ decode 0x1A0C0000 0 = .ok (.wr 3)
  ∧ decode 0x03800000 0 = .ok (.exit .ifNonzero 0 0) ∧ decode 0x03100005 0 = .ok (.exit .ifZero 1 5) ∧ decode 0x7A030A86 0 = .ok (.addc .always (p 5) (l 6))
  ∧ decode 0x1E032F96 0x00031B88 = .ok (.mov4 .always (p 13) (p 8) (p 23) (p 22)) ∧ decode 0xAA081489 0 = .ok (.vcvt .always .f32 .i32 true .tz (l 9))
  ∧ decode 0xD0102109 0 = .ok (.amo .always 4 .add .d 0 (.reg 9)) ∧ decode 0x3A00C885 0 = .ok (.tgei .always 100 (l 5))
  ∧ decode 0x00000000 0 = .ok .nop ∧ decode 0x00000001 0 = .error .zeroOpcode ∧ decode 0x40800085 0 = .error .predicate
  ∧ ∀ op ∈ [0x0B, 0x3F, 0x5C, 0x5D, 0x5E, 0x5F, 0x7E, 0x7F], decode (BitVec.ofNat 32 (op * 2 ^ 25)) 0 = .error .reservedOpcode

/-- A step runs the word in the latch as its block's words decode; with none there, what the outside has planned after the time
before it; else the first of the events due that changes anything; else time passes. A word that decodes to nothing is recorded
as an illegal encoding. A word placed by withFetchWord is the next step's (the issue latch, the agenda and the order of events are
the model's own). -/
def Obligations.EachStepIsOneInstructionOrEvent : Prop :=
  (∀ (s : State) (f : Issue) (b : Block) (i : Instr), Issued s f b → decodeAt b f.idx = .ok i → step s = exec i s)
  ∧ (∀ (s : State) (f : Issue) (b : Block) (e : Reject), Issued s f b → decodeAt b f.idx = .error e →
      step s = .next (recordFault (taken s) f 0x01 ((b.words.getD f.idx 0).zeroExtend 64)))
  ∧ (∀ (s : State) (p : Planned) (r : List Planned), s.issue = none → s.agenda = p :: r → p.op.isWord = false →
      step s = exec p.op (advance { s with agenda := r } p.cc))
  ∧ (∀ (s : State) (i : Instr), s.issue = none → s.agenda = [] → auto s = some i → step s = exec i s)
  ∧ (∀ s : State, s.issue = none → s.agenda = [] → auto s = none → step s = .next (advance s (quietCc s)))
  ∧ ∀ (s : State) (w x : Word) (i : Instr), decode w x = .ok i →
      step (s.withFetchWord 64 (2 ^ 32 * x.toNat + w.toNat)) = exec i (s.withFetchWord 64 (2 ^ 32 * x.toNat + w.toNat))

/-- The machine never stops: every step answers a next state. -/
def Obligations.EveryStepAnswersANextState : Prop := ∀ s : State, ∃ t, step s = .next t

/-- Every step keeps the memory's canonical form. -/
def Obligations.EveryStepKeepsMemoryCanonical : Prop := ∀ s t : State, MemoryCanonical s → step s = .next t → MemoryCanonical t

/-- The machine after reset: nothing runs and nothing is listed in memory, every context is free, every partition disabled and
every frame unowned; the core clock runs at 850 MHz; and the registers whose reset value the spec gives hold it (R22, R321, R324, R344,
R347, R366). The registers whose value the model chose are named in log entry 1. -/
def Obligations.ResetLeavesTheMachineIdle : Prop :=
  let s := State.reset
  MemoryCanonical s ∧ s.ms.mem = [] ∧ s.issue = none ∧ s.agenda = [] ∧ s.md.power = .running ∧ s.md.clk = 850
  ∧ (∀ c, (ctxOf s c).phase = .free ∧ (ctxOf s c).blocks = [] ∧ (ctxOf s c).trap.hm = false)
  ∧ (∀ k, (mget {} k s.frames).owner = none)
  ∧ ∀ p, (partOf s p).en = false ∧ (partOf s p).starve = 10000 ∧ (partOf s p).tgang = 1000 ∧ (partOf s p).tcomp = 5000 ∧ (partOf s p).lease = 10
      ∧ (partOf s p).fqen = false ∧ (partOf s p).tvec = 0 ∧ (partOf s p).inst = false ∧ (partOf s p).pool = false
      ∧ ∀ q, (queueOf s p q).en = false ∧ (queueOf s p q).wr = 0 ∧ (queueOf s p q).rd = 0

/-- What a word leaves unchanged as it fires: every word but the acquires leaves every register, system register, trap register and
accumulator of every context, every byte of memory and every cache as they were; a word that only moves tokens also leaves
SQC and the outstanding accesses. No word but JOIN changes a register as it fires; its block's commit does (R105, R108). A fault word that a
WAITB had taken comes back with the discard of its block (R110, R246). -/
def Obligations.WordsChangeOnlyTheirBlockAndMessages : Prop :=
  ∀ (i : Instr) (s t : State) (f : Issue) (b : Block), i.isWord = true → Issued s f b → exec i s = .next t →
    (acquireWord i = false → WordFrame f.ctx s t ∧ ∀ a n, memRead t.ms.mem a n = memRead s.ms.mem a n)
    ∧ (tokenWord i = true → TokenFrame f.ctx s t)
    ∧ (∀ p n t0, i ≠ .join p n t0 → ∀ d, ctxFrame (ctxOf t d) = ctxFrame (ctxOf s d))

/-- An instruction whose predicate does not match is resolved and emits nothing (R91), and a predicate token of kind V faults with
cause 0x04 and TVAL 0. -/
def Obligations.UnmatchedPredicatesResolve : Prop :=
  ∀ (i : Instr) (s : State) (f : Issue) (b : Block), i.isWord = true → isThree i = false → predOf i ≠ .always → Issued s f b →
    (∀ t, f.third = some t → Mismatches (predOf i) t → exec i s = .next (setSt (taken s) f .resolved))
    ∧ (∀ l m, f.third = some (.v l m) → FaultsWith i s f 0x04 0)

/-- An N data operand: a store-class instruction is nullified, an exit does not fire, a write of a system register or save hint does
nothing, and every other instruction but WR, MOV, MOV4 and SEL emits N to every target after 1 cc (R92). An operand of a kind
that the instruction does not accept faults with cause 0x04 and TVAL 0, unless another is N (R90, R92, R168). -/
def Obligations.NullAndWrongOperandsDoNotPerform : Prop :=
  ∀ (i : Instr) (s : State) (f : Issue) (b : Block), i.isWord = true → Issued s f b → (isThree i = false → Fires (predOf i) f.third) → SlotsFilled i f →
    (NullIn i f →
      (∀ ls, storeLsid i = some ls → exec i s =
        .next (setSt (modBlock (taken s) f.ctx f.tag (fun k => { k with stores := mput ls ⟨f.idx, none, 0⟩ k.stores })) f .done))
      ∧ (∀ e, exitNum i = some e → exec i s = .next (setSt (taken s) f .done))
      ∧ (∀ p r, i = .sets p r → exec i s = .next (setSt (taken s) f .done))
      ∧ (∀ p m, i = .pset p m → exec i s = .next (setSt (taken s) f .done))
      ∧ (∀ p, i = .phint p .reg → exec i s = .next (setSt (taken s) f .done))
      ∧ (storeLsid i = none → exitNum i = none → (∀ p r, i ≠ .sets p r) → (∀ p m, i ≠ .pset p m) → (∀ p, i ≠ .phint p .reg) →
          (∀ n, i ≠ .wr n) → (∀ p t1 t0, i ≠ .mov p t1 t0) → (∀ p t3 t2 t1 t0, i ≠ .mov4 p t3 t2 t1 t0) → (∀ t1 t0, i ≠ .sel t1 t0) →
          Emits i s f 1 (targetsOf i) .n))
    ∧ (¬NullIn i f → WrongKind i f → FaultsWith i s f 0x04 0)

/-- A trap (R110, R325): the context stops fetching with every block discarded, TCAUSE, TVAL, TEPC and TIDX are written with INH := HM,
unless the trap is a double fault, when they stay and TCAUSE2 and TVAL2 take it (R328); a fault decision is requested and
the watchdog does not count; its copy requests continue. A handler is entered with HM 1, TRD 0 at VEC and left by TRET
at TEPC (R174, R326, R327). -/
def Obligations.TrapsFreezeTheContextForItsFaultDecision : Prop :=
  (∀ (s : State) (c : Nat) (cause : BitVec 8) (tval tepc : W64) (tidx : Nat),
    let x := ctxOf s c
    let t := takeTrap s c cause tval tepc tidx
    let y := ctxOf t c
    let dbl := x.trap.hm && !x.trap.trd
    (∀ a, mayFetch t y a = false) ∧ y.phase = .deciding ∧ y.blocks = [] ∧ y.sqc = x.sqc + BitVec.ofNat 64 x.blocks.length
    ∧ (dbl = false → y.trap = { x.trap with inh := x.trap.hm, cause := cause, tval := tval, tepc := tepc, tidx := BitVec.ofNat 10 tidx })
    ∧ (dbl = true → y.trap = { x.trap with cause2 := cause, tval2 := tval, df := true })
    ∧ .fault c dbl ∈ (partOf t x.part).decisions ∧ heldStill t c y = true
    ∧ y.regs = x.regs ∧ y.h = x.h ∧ y.ppr = x.ppr ∧ y.rpc = x.rpc ∧ y.k = x.k ∧ y.task = x.task ∧ y.next = x.next
    ∧ t.tbufs = s.tbufs ∧ t.taccs = s.taccs ∧ t.ms.mem = s.ms.mem ∧ t.ms.copies = s.ms.copies)
  ∧ (∀ (x : Ctx) (v : W64), enterHandler x v = { x with trap := { x.trap with hm := true, trd := false }, next := v, phase := .running })
  ∧ ∀ x : Ctx, trapReturn x = { x with trap := { x.trap with hm := false }, next := x.trap.tepc }

/-- Discarding blocks of a context keeps the older ones, counts every one discarded in SQC, cancels their messages, and leaves the
context's registers, its tile state and memory as they were (R105, R112); a fetch under way is given up, and a fault word that a WAITB of
theirs has taken is given back (R110, R246). A fired exit that names another
block than the next one fetched discards every younger block (R105). -/
def Obligations.DiscardsCountAndLeaveNoEffect : Prop :=
  ∀ (s : State) (c n : Nat),
    let x := ctxOf s c
    let t := discardFrom s c n
    ctxOf t c = { x with blocks := x.blocks.take n, sqc := x.sqc + BitVec.ofNat 64 (x.blocks.drop n).length, fetch := none,
                         xlat := if n = 0 then none else x.xlat
                         batFault := match (x.blocks.drop n).find? (fun b => b.taken != 0) with | some b => b.taken | none => x.batFault }
    ∧ (∀ d, d ≠ c → ctxOf t d = ctxOf s d)
    ∧ (∀ b ∈ x.blocks.drop n, (∀ p ∈ t.net, ¬(p.2.ctx = c ∧ p.2.tag = b.tag)) ∧ (∀ p ∈ t.ms.loads, ¬(p.2.ctx = c ∧ p.2.tag = b.tag))
        ∧ ∀ p ∈ t.jobs, ∀ j ∈ p.2, ¬(j.ctx = c ∧ j.tag = b.tag))
    ∧ { t with net := [], jobs := [], ctxs := [], ms := { t.ms with loads := [], watches := [] } }
        = { s with net := [], jobs := [], ctxs := [], ms := { s.ms with loads := [], watches := [] } }
    ∧ ∀ (tag : Nat) (e : ExitTo) (y : Block), (youngerThan x tag).head? = some y →
        (exitAddr e = some y.addr → checkPath s c tag e = s) ∧ (exitAddr e ≠ some y.addr → checkPath s c tag e = discardYounger s c tag)

/-- A cell issues a held instruction whose wait is over, else one of the ready ones it holds, at most one a cc, the earliest when one has
been ready for 192 cc (R52), with the operands its node holds (R89); every 1,024 cc a slot's weight follows from its occupancy (R53). A
token fills its slot: a second one faults with TVAL 1, and nothing of an instruction that executes stays under way (R90, R110); a predicate
that does not match resolves the instruction, one of kind V faults with TVAL 0 as it arrives (R91), and every slot filled makes it ready
(R89). -/
def Obligations.ReadyInstructionsIssueAndTokensFillSlots : Prop :=
  (∀ (s : State) (comb cell : Nat),
    let ready := heldReady (readyList s comb cell)
    let key := 16 * comb + cell
    let k : Cell := mget {} key s.cells
    (∀ a, wakeOf s comb cell = some a → Becomes (.cellIssue comb cell) s (latch s a))
    ∧ (wakeOf s comb cell = none → ready = [] ∨ k.issuedAt = some s.cycles → Becomes (.cellIssue comb cell) s s)
    ∧ (wakeOf s comb cell = none → ready ≠ [] → k.issuedAt ≠ some s.cycles → ∃ a ∈ ready, ∃ u,
        Becomes (.cellIssue comb cell) s (latch { s with cells := mput key u s.cells } a) ∧ u.issuedAt = some s.cycles
        ∧ ∀ o ∈ ready, o.since + 192 ≤ s.cycles → a.since ≤ o.since)
    ∧ ((∀ o ∈ ready, o ∈ readyList s comb cell) ∧ ((readyList s comb cell).length ≤ 64 → ready = readyList s comb cell))
    ∧ (s.cycles < k.weightAt + 1024 → Becomes (.weightRecompute comb cell) s s)
    ∧ (k.weightAt + 1024 ≤ s.cycles → (k.sums.map (·.1)).Nodup → ∃ u,
        Becomes (.weightRecompute comb cell) s { s with cells := mput key u s.cells }
        ∧ u.sums = [] ∧ u.weightAt = k.weightAt + 1024 ∧ ∀ v, mget 1 v u.weight = min 8 (1 + mget 0 v k.sums / 1024)))
  ∧ (∀ (s : State) (a : Cand) (b : Block), blockOf (ctxOf s a.ctx) a.tag = some b →
      let n := nodeOf b a.idx
      (latch s a).issue = some ⟨a.ctx, a.tag, a.idx, n.left, n.right, n.third⟩)
  ∧ ∀ (s : State) (n : Nat) (p : NetTok) (b : Block), mfind n s.net = some p → p.due ≤ s.cycles → blockOf (ctxOf s p.ctx) p.tag = some b →
      let s' : State := { s with net := mdel n s.net }
      let m := nodeOf b p.idx
      let q := putTok m p.slot p.tok
      (slotTok m p.slot ≠ none → ∃ u, Becomes (.tokenDelivery n) s (recordFault u ⟨p.ctx, p.tag, p.idx, none, none, none⟩ 0x04 1)
          ∧ (∀ l ∈ u.ms.loads, ¬(l.2.ctx = p.ctx ∧ l.2.tag = p.tag ∧ l.2.idx = p.idx))
          ∧ (∀ q ∈ u.jobs, ∀ j ∈ q.2, ¬(j.ctx = p.ctx ∧ j.tag = p.tag ∧ j.idx = p.idx)) ∧ u.ms.mem = s.ms.mem)
      ∧ (slotTok m p.slot = none → m.st = .waiting → ∀ i, instrAt b.words p.idx = some i → badPred i q = true →
          Becomes (.tokenDelivery n) s (recordFault (modBlock s' p.ctx p.tag (fun b => modNode b p.idx (fun _ => q))) ⟨p.ctx, p.tag, p.idx, none, none, none⟩ 0x04 0))
      ∧ (∀ i, badPred i q = true ↔ isThree i = false ∧ predOf i ≠ .always ∧ ∃ l v, q.third = some (.v l v))
      ∧ (slotTok m p.slot = none → (m.st = .waiting → ∀ i, instrAt b.words p.idx = some i → badPred i q = false) → ∃ st,
          Becomes (.tokenDelivery n) s (modBlock s' p.ctx p.tag (fun b => modNode b p.idx (fun _ => { q with st := st })))
          ∧ (m.st ≠ .waiting → st = m.st)
          ∧ (m.st = .waiting → ∀ i, instrAt b.words p.idx = some i →
              let mismatch := isThree i = false ∧ ∃ t, q.third = some t ∧ Mismatches (predOf i) t
              let full := ∀ k, usesSlot i k = true → slotTok q k ≠ none
              (mismatch → st = .resolved) ∧ (¬mismatch → full → st = .ready s.cycles) ∧ (¬mismatch → ¬full → st = .waiting)))

/-- A block is fetched where its context may fetch it, behind a RET only where the return stack's top says (R172): mapped with its header and
words as the fetch reads them, from the block cache where that holds them, and run as OM = 1 after an ordering violation; or kept as a block
that traps (R85, R102, R105, R113, R114, R153, R333). The oldest block, settled, traps at its address (R107, R108, R110, R333), is held (R108 step 2),
or commits: its store-class instructions perform in LSID order; a block without any writes its registers and system registers, in index
order, counts its MMAs in RPC0 to RPC3, sets TRD where it read TCAUSE, its staging buffers and shadows become the tile state, and the
next block is where its exit goes, at the block boundary whose SQC, TOUCHED and TVEC that block's GETS reads (R92, R104, R108, R171, R172, R174, R178, R179, R263, R279, R283, R288, R322). HALT discards what is younger and
begins the task's retirement; the task retires once its releases and batches have ended (R45, R46, R173, R248, R254). -/
def Obligations.BlocksAreFetchedAndCommitInOrder : Prop :=
  (∀ (s : State) (c : Nat) (a : W64),
    let x := ctxOf s c
    let fetched : Prop := mayFetch s x a = true ∧ blockAddrOk a = true
    let adds : Block → Prop := fun n => ∃ t, Becomes (.blockFetch c a) s t ∧ (ctxOf t c).regs = x.regs ∧ (ctxOf t c).blocks = x.blocks ++ [n]
    let image : List Word → Option (W64 × Word × List Word) := fun hdr => (mget {} (homeOf c) s.combs).images.find? (fun i => i.1 == a && i.2.1 == hdr.getD 6 0)
    (mayFetch s x a = false → Becomes (.blockFetch c a) s s)
    ∧ (mayFetch s x a = true → ∀ l, predictedRet x = some l → a = l)
    ∧ (mayFetch s x a = true → blockAddrOk a = false → Becomes (.blockFetch c a) s (addBlock s c (faultBlock x a (0x0D, a))))
    ∧ (fetched → ∀ e, fetchWords s c x a.toNat 4 = .error e → Becomes (.blockFetch c a) s (addBlock s c (faultBlock x a e)))
    ∧ (fetched → fetchWords s c x a.toNat 4 = .ok none → ∃ t, Becomes (.blockFetch c a) s t ∧ (ctxOf t c).regs = x.regs
        ∧ ((ctxOf t c).blocks = x.blocks ∨ ∃ w, (ctxOf t c).blocks = x.blocks ++ [faultBlock x a (0x14, w)]))
    ∧ (fetched → ∀ h, fetchWords s c x a.toNat 4 = .ok (some h) →
        let hdr := halves (h.map (·.data))
        (∀ i, image hdr = some i → adds (mapBlock (mapEnv s x) x a (i.2.2.take 8) (i.2.2.drop 8) s.cycles 8))
        ∧ (image hdr = none → ∀ l, fetchWords s c x (a.toNat + 32) (8 * tiersOf hdr) = .ok (some l) →
            adds (mapBlock (mapEnv s x) x a hdr (halves (l.map (·.data))) s.cycles 40)))
    ∧ (a ∈ x.strictAt → ∀ hdr ws now lat, (mapBlock (mapEnv s x) x a hdr ws now lat).om = true)
    ∧ ∀ va t pa, translate s (homeOf c) x.part va .fetch = .ok t → t.place = .home pa → t.mode = 3 → va < 0x007FFF0000000000 →
        writeAhead s c { va := va, pa := t.pa, n := 8, pos := 0, scratch := false, mode := t.mode, sver := t.sver } = false → readBusy s (pa / 8) = false →
        ((coherentWord s.ms (pa / 8)).2 = false → ∃ w, fetchWord s c x va = .ok (some w) ∧ w.data = (coherentWord s.ms (pa / 8)).1)
        ∧ ((coherentWord s.ms (pa / 8)).2 = true → fetchWord s c x va = .error (0x0F, BitVec.ofNat 64 va)))
  ∧ (∀ (s : State) (c : Nat) (b : Block) (rest : List Block),
    let x := ctxOf s c
    x.phase = .running → x.blocks = b :: rest → settled s c b = true →
      (∀ q, blockTrap b = some q → Becomes (.blockCommit c) s (takeTrap s c q.1 q.2.1 b.addr q.2.2))
      ∧ ∀ i e, blockTrap b = none → b.exits = [(i, e)] →
        (∀ l ls, x.xlat = none → x.lateFaults = l :: ls → Becomes (.blockCommit c) s (takeTrap (setCtx s c { x with lateFaults := ls }) c 0x14 l b.addr 0x3FF))
        ∧ (∀ q, x.xlat = none → x.lateFaults = [] → checkStores s s c x b b.stores = some q →
            Becomes (.blockCommit c) s (takeTrap (spillRecord s x q) c q.1 q.2.1 b.addr q.2.2))
        ∧ (∀ q, x.xlat = none → x.lateFaults = [] → checkStores s s c x b b.stores = none → checkComposition s x b = some q →
            Becomes (.blockCommit c) s (takeTrap s c q.1 q.2.1 b.addr q.2.2))
        ∧ (x.xlat ≠ none ∨ (x.lateFaults = [] ∧ checkStores s s c x b b.stores = none ∧ checkComposition s x b = none) →
            let pins := (x.xlat.map (·.2)).getD []
            let u := modCtx (pinXlat s pins) c (fun x => applyCtx x b)
            (stallsFirst x b = true ∨ performStores u c b b.stores = none → ∃ t n, Becomes (.blockCommit c) s t
              ∧ ctxOf t c = { x with stalled := true, xlat := some n } ∧ (∀ d, d ≠ c → ctxOf t d = ctxOf s d) ∧ t.ms = s.ms ∧ t.tbufs = s.tbufs ∧ t.taccs = s.taccs)
            ∧ ∀ v, stallsFirst x b = false → performStores u c b b.stores = some v → Becomes (.blockCommit c) s (markBound (endCommit
                (modCtx (applyTiles (unpinXlat v pins) c b) c (fun x => { applyExit x b i e with blocks := x.blocks.drop 1, stalled := false, xlat := none })) c b) c)))
  ∧ (∀ (s : State) (c : Nat) (b : Block) (r : Nat × StoreRec) (l : List (Nat × StoreRec)),
      performStores s c b [] = some s ∧ performStores s c b (r :: l) = (performStore s c b r.1 r.2).bind (fun t => performStores t c b l)
      ∧ (r.2.op = none → performStore s c b r.1 r.2 = some s))
  ∧ (∀ (s : State) (c : Nat) (b : Block) (rest : List Block) (i : Nat) (e : ExitTo),
    let x := ctxOf s c
    x.phase = .running → x.blocks = b :: rest → settled s c b = true → blockTrap b = none → b.exits = [(i, e)] → b.stores = [] → x.lateFaults = [] → x.preempt = none →
      stallsFirst x b = false →
      (e ≠ .halt → swreqOf b.hdr = 0 → x.barWait = [] → x.releases = [] → x.batches = [] → ∃ t, Becomes (.blockCommit c) s t ∧
        let y := ctxOf t c
        let bufs := b.staging.map (fun p => ctxBufKey x c (p.1 / 16) (p.1 % 16))
        let accs := b.shadow.map (fun p => ctxAccKey x c (p.1 / 8) (p.1 % 8))
        y.blocks = rest ∧ y.phase = .running ∧ y.bound = some ⟨y.sqc, y.touched, (partOf s x.part).tvec⟩ ∧ t.ms.mem = s.ms.mem ∧ (∀ d, d ≠ c → ctxOf t d = ctxOf s d)
        ∧ (∀ d, e = .goto d → y.next = d) ∧ (∀ d l, e = .call d l → y.next = d ∧ mget (.s 0) 62 y.regs = .s l)
        ∧ (e = .tret → y.trap.hm = false ∧ y.next = y.trap.tepc) ∧ (e ≠ .tret → y.trap.hm = x.trap.hm)
        ∧ ((b.wr.map (·.1)).Nodup → ∀ n, ((∀ d l, e ≠ .call d l) ∨ n ≠ 62) → mget (.s 0) n y.regs =
            match mfind n b.wr with
            | some (.s v) => .s v
            | some (.v l m) => .v l m
            | _ => mget (.s 0) n x.regs)
        ∧ (∀ pre k r v post, b.sys = pre ++ (k, .sets r v) :: post → (∀ w ∈ post, writesSys w.2 r = false) →
            (∀ n, r = .rpc n → b.ranks = [] ∧ n.toNat < x.rpc.length) → SysHolds y r v)
        ∧ (∀ pre k m v post, b.sys = pre ++ (k, .pset m v) :: post → (∀ w ∈ post, writesSys w.2 .ppr = false) → ∀ g ∈ pprFields,
            (m.getLsbD g.1 = true → (g.1 = 5 → v.extractLsb' 29 2 ≠ 3) → y.ppr.extractLsb' g.2.1 g.2.2 = v.extractLsb' g.2.1 g.2.2)
            ∧ (m.getLsbD g.1 = false → (∀ w ∈ pre, writesSys w.2 .ppr = false) → y.ppr.extractLsb' g.2.1 g.2.2 = x.ppr.extractLsb' g.2.1 g.2.2))
        ∧ (b.sys = [] → y.ppr = x.ppr ∧ y.h = x.h ∧ y.sqc = x.sqc ∧ (e ≠ .tret → y.trap = { x.trap with trd := y.trap.trd })
            ∧ (x.rpc.length = 4 → (∀ p ∈ b.ranks, p.2.1 < 4) →
                (∀ j, j < 3 → y.rpc.getD j 0 = x.rpc.getD j 0 + BitVec.ofNat 64 (b.ranks.filter (fun p => p.2.1 == j + 1)).length)
                ∧ y.rpc.getD 3 0 = x.rpc.getD 3 0 + BitVec.ofNat 64 (b.ranks.map (fun p => if p.2.1 = 0 then 0 else p.2.2)).sum))
        ∧ (y.trap.trd = true ↔ x.trap.trd = true ∨ b.got ≠ [])
        ∧ (bufs.Nodup → ∀ p ∈ b.staging, mget {} (ctxBufKey x c (p.1 / 16) (p.1 % 16)) t.tbufs = p.2) ∧ (∀ k, k ∉ bufs → mget {} k t.tbufs = mget {} k s.tbufs)
        ∧ (accs.Nodup → ∀ p ∈ b.shadow, mget {} (ctxAccKey x c (p.1 / 8) (p.1 % 8)) t.taccs = p.2) ∧ (∀ k, k ∉ accs → mget {} k t.taccs = mget {} k s.taccs))
      ∧ (∀ k, e = .halt → x.task = some k → ∃ u, Becomes (.blockCommit c) s (markBound (pumpCtx u c) c) ∧
          let y := ctxOf u c
          y.phase = .retiring ∧ y.blocks = [] ∧ y.task = some k ∧ y.unsealed = [] ∧ y.batches = x.batches ++ [{ num := x.batch + 1, reqs := x.unsealed, fault := x.unsealFault }]
          ∧ (∃ n, y.releases = x.releases ++ [{ id := n, fence := false }])
          ∧ (∀ g, k.rank = some g → g ∈ (launchOf u k.launch).departed)))
  ∧ ∀ (s : State) (c : Nat) (k : Task),
    let x := ctxOf s c
    x.phase = .retiring → x.task = some k →
      (x.releases ≠ [] ∨ x.batches ≠ [] ∨ copiesDrained s c = false → tryRetire s c = s)
      ∧ (x.releases = [] → x.batches = [] → copiesDrained s c = true → x.batFault = 0 → ∃ u,
          tryRetire s c = afterHalt (modCtx (retireTask u k) c (fun x => { x with retired := true })) c ∧ u.ctxs = s.ctxs ∧ u.launches = s.launches
          ∧ ∀ p ∈ u.ms.copies, p.2.who ≠ .ctx c)
      ∧ (let l := launchOf (retireTask s k) k.launch
         l.live = (launchOf s k.launch).live - 1 ∧ (∀ j, k.parent = some j → mget 0 j l.kids = mget 0 j (launchOf s k.launch).kids - 1))
      ∧ (let size := kSwarm (kernelOf s x)
         (x.k < size → mustLeave s c x = false → afterHalt s c = setCtx s c { x with phase := .growing, growth := some { k := size, since := s.gtime, halting := true } })
         ∧ (x.k = size → afterHalt s c = takeNext s c) ∧ (size < x.k → afterHalt s c = takeNext (shrinkTo s c size) c))

/-- A composition that grows takes effect once the added combs have room, after T_compact the contexts in its way are
pre-empted, and after 2 × T_compact it is refused with trap 0x15, except after a HALT (R39 to R42); a task to be resumed is then resumed
at the composition its context has (R48; the model's reading: log entry 76). A pass of the matrix unit ends with its accumulator
written and its status token sent, or is squashed and runs again one rank higher (R279 to R281). -/
def Obligations.GrowthsAndMatrixPassesEnd : Prop :=
  (∀ (s : State) (c : Nat) (g : Growth), (ctxOf s c).phase = .growing → (ctxOf s c).growth = some g →
    let wait := 1000 * (partOf s (ctxOf s c).part).tcomp
    (∀ r, growthRoom s c g.k = some r → Becomes (.growthComplete c) s (if g.halting ∨ g.resume then takeNext (growNow s c g r) c else growNow s c g r)
        ∧ (ctxOf (growNow s c g r) c).k = g.k ∧ (ctxOf (growNow s c g r) c).phase = .running ∧ (ctxOf (growNow s c g r) c).regs = (ctxOf s c).regs)
    ∧ (growthRoom s c g.k = none → Becomes (.growthComplete c) s s)
    ∧ (g.since + (g.rounds + 1) * wait ≤ s.gtime → Becomes (.compactTimeout c) s
        (modCtx ((inTheWay s c g.k).foldl (fun s o => requestPreempt s o false) s) c (fun x => { x with growth := some { g with rounds := g.rounds + 1 } })))
    ∧ (s.gtime < g.since + (g.rounds + 1) * wait → Becomes (.compactTimeout c) s s)
    ∧ (g.halting = false → g.resume = false → g.since + 2 * wait ≤ s.gtime →
        Becomes (.compositionRefused c) s (takeTrap s c 0x15 (BitVec.ofNat 64 g.k) (ctxOf s c).next 0x3FF))
    ∧ (g.halting = false → g.resume = true → g.since + 2 * wait ≤ s.gtime → Becomes (.compositionRefused c) s
        (takeTrap (resumeSmall s c) c 0x15 (BitVec.ofNat 64 g.k) (ctxOf (resumeSmall s c) c).next 0x3FF))
    ∧ (g.halting = true ∨ s.gtime < g.since + 2 * wait → Becomes (.compositionRefused c) s s))
  ∧ (∀ (s : State) (comb cell : Nat) (j : MmaJob) (rest : List MmaJob) (b : Block) (e : Nat),
    mget [] (4 * comb + cell) s.jobs = j :: rest → blockOf (ctxOf s j.ctx) j.tag = some b → j.ends = some e → e ≤ s.cycles →
    let r := passOf s (ctxOf s j.ctx) b j
    let jobs : List MmaJob → State := fun l => { s with jobs := mput (4 * comb + cell) l s.jobs }
    (replays j r = true → ∃ k, Becomes (.mmaPass comb cell) s (jobs (k :: rest)) ∧ k.rung = j.rung + 1 ∧ k.replays = j.replays + 1 ∧ k.ctx = j.ctx ∧ k.tag = j.tag ∧ k.idx = j.idx)
    ∧ (replays j r = false → ∃ u : TAcc, u.data = r.data ∧ (j.sticky = true → u.sr = j.rung)
        ∧ (j.sticky = false → u.sr = (accSeen s j.ctx (ctxOf s j.ctx) b j.cell j.acc).sr)
        ∧ Becomes (.mmaPass comb cell) s (finish
            (modBlock (shade (jobs rest) j.ctx j.tag j.cell j.acc u) j.ctx j.tag (fun b => { b with ranks := mput j.idx (j.rung, j.replays) b.ranks }))
            ⟨j.ctx, j.tag, j.idx, none, none, none⟩ 0 [j.t0, j.t1] (.s (mmaStatus r j.replays j.start j.rung)))))
  ∧ ∀ (r : PassResult) (n start rank : Nat), r.canc < 2 ^ 9 → n < 2 ^ 4 → start < 4 → rank < 4 →
      let v := mmaStatus r n start rank
      (v.extractLsb' 0 2).toNat = rank ∧ (v.extractLsb' 2 2).toNat = start ∧ (v.extractLsb' 4 4).toNat = n ∧ (v.extractLsb' 8 16).toNat = min r.satc 0xFFFF
      ∧ (v.extractLsb' 24 16).toNat = min r.undc 0xFFFF ∧ (v.extractLsb' 40 9).toNat = r.canc ∧ v.extractLsb' 49 15 = 0

/-- A load's word is read at its home with its owner's data (R140, R143), in an on-chip window (R132), or after a lease has been
granted for 2 µs to 1 ms, to be used under the epoch in force when it was asked for (R161, R162). Each byte a load takes is that of the last earlier
store in flight that writes it, else of its word: in the comb store, its comb's cache, or as the load has obtained it (R101, R140, R142); with OM = 1 it
waits until every earlier store-class instruction has resolved (R103). A load whose words are all there is filled and delivers their bytes, sign- or
zero-extended, with poison faulting 0x0F at the lowest poisoned byte (R140, R219 to R223, R268, R339); one performed again after an
acquire that reads another value discards its block (R145), and one that faults does so unless it had faulted before (R110). A lease is held by its
region's home until it ends (R161). -/
def Obligations.LoadsReadTheirWordsAndDeliverThem : Prop :=
  (∀ (s : State) (n : Nat) (r : LoadReq), mfind n s.ms.loads = some r → r.armed = none → loadWaits s r = false →
    let part := (ctxOf s r.ctx).part
    (∀ lo hi, ∃ t q, Becomes (.homeRead n lo hi) s t ∧ mfind n t.ms.loads = some q ∧ q.kind = r.kind ∧ q.pieces = r.pieces ∧ t.ctxs = s.ctxs
        ∧ ∀ v g, mfind v r.got = some g → mfind v q.got ≠ none)
    ∧ (∀ w lp pa, regionPiece r (w / 64) = some lp → w ∈ missingWords s r → placeOfPa s part (8 * w) = some (.home pa) → readBusy s w = false →
      ∃ t q, Becomes (.homeRead n w w) s t ∧ mfind n t.ms.loads = some q ∧ mfind w q.got = some (coherentWord s.ms w) ∧ q.kind = r.kind ∧ q.pieces = r.pieces)
    ∧ (∀ w comb off, w ∈ missingWords s r → isWindow (8 * w) = true → placeOfPa s part (8 * w) = some (.window comb off) → windowWaits s comb off none = false →
      ∃ t q, Becomes (.onchipWindowAccess n) s t ∧ mfind n t.ms.loads = some q ∧ mfind w q.got = some (windowGet s comb off))
    ∧ (let asks : LPiece → Prop := fun p => wantsLease s r p = true ∧ p.pa / 8 ∈ missingWords s r ∧ proxyFor s r p (p.pa / 8) = none
       let free : Prop := ∀ k ∈ leaseKeys s r, delayedAt s (remoteTag k) = false
       ((∃ p ∈ r.pieces, asks p) → s.md.ports ≠ 0 → free → ∃ len, 2000 ≤ len ∧ len ≤ 1000000 ∧ ∃ u, Becomes (.leaseRequest n) s u
          ∧ mfind n u.ms.loads = some { r with lease := s.gtime + len, epoch := s.md.epoch.toNat, asked := r.asked.or (some s.gtime) }
          ∧ (∀ k ∈ leaseKeys s r, s.gtime + len + 2000 ≤ leaseEnd u (remoteTag k) ∧ leased u (remoteTag k) = true)
          ∧ (∀ w, leaseEnd s w ≤ leaseEnd u w) ∧ u.ctxs = s.ctxs ∧ u.ms.mem = s.ms.mem ∧ u.ms.caches = s.ms.caches)
       ∧ ((∀ p ∈ r.pieces, ¬asks p) ∨ s.md.ports = 0 ∨ ¬free → Becomes (.leaseRequest n) s s))
    ∧ (r.due ≤ s.cycles → (∀ c z v, r.kind ≠ .watch c z v) → (∀ h, r.kind ≠ .span h) →
      (loadData s r = none → Becomes (.loadReply n) s s)
      ∧ (∀ d a, loadData s r = some (d, some a) → Becomes (.loadReply n) s (failLoad s n r 0x0F a))
      ∧ (∀ d, loadData s r = some (d, none) → fillAll s r = none → Becomes (.loadReply n) s s)
      ∧ ∀ d u, loadData s r = some (d, none) → fillAll s r = some u →
        let resident : Nat → Bool := fun region => (mget [] (combSet r.comb region) s.ms.caches).any (fun sp => sp.region == region)
        let v := modComb (usedWords u r) r.comb (fun k => learnSpan k (((blockOf (ctxOf u r.ctx) r.tag).map (·.addr)).getD 0) r resident)
        (∀ z sg, r.kind = .scalar z sg false → z = 1 ∨ z = 2 ∨ z = 4 ∨ z = 8 → Becomes (.loadReply n) s (endLoad v n r (.s
            (if sg then (BitVec.ofNat (8 * z) d).signExtend 64 else (BitVec.ofNat (8 * z) d).zeroExtend 64))))
        ∧ (∀ z sg, r.kind = .scalar z sg true → z = 1 ∨ z = 2 ∨ z = 4 ∨ z = 8 → r.recheck = none → Becomes (.loadReply n) s (acquire (endLoad v n r (.s
            (if sg then (BitVec.ofNat (8 * z) d).signExtend 64 else (BitVec.ofNat (8 * z) d).zeroExtend 64))) r.ctx (some r.tag) (r.lsid + 1)))
        ∧ (∀ m, r.kind = .vec m → ∃ l, Becomes (.loadReply n) s (endLoad v n r (.v l m)) ∧ ∀ j, j < 16 → lane l j = BitVec.ofNat 32 (d >>> (32 * j)))
        ∧ (∀ z sg m, r.kind = .gather z sg m → z = 1 ∨ z = 2 ∨ z = 4 → ∃ l, Becomes (.loadReply n) s (endLoad v n r (.v l m)) ∧ ∀ j, j < 16 → lane l j =
            if m.getLsbD j then (if sg then (BitVec.ofNat (8 * z) (d >>> (64 * j))).signExtend 32 else (BitVec.ofNat (8 * z) (d >>> (64 * j))).zeroExtend 32) else 0)
        ∧ (∀ ty sc tr bc cell buf scales, r.kind = .tile ty sc tr bc cell buf scales → r.recheck = none →
            Becomes (.loadReply n) s (endLoad ((if bc then upTo (4 * (ctxOf u r.ctx).k) else [cell]).foldl
              (fun s t => stage s r.ctx r.tag t buf (tileOfBytes ty sc tr d scales)) v) n r (.s 0))))
    ∧ (∀ tok old, r.recheck = some old → (old ≠ tok → ∃ q, endLoad s n r tok = discardAt q r.ctx r.tag) ∧ (old = tok → (endLoad s n r tok).net = s.net))
    ∧ ∀ e a,
      (r.recheck = none → ∃ q, failLoad s n r e a = recordFault q (reqIssue r) e a ∧ q.net = s.net ∧ q.ms.mem = s.ms.mem)
      ∧ (∀ old, r.recheck = some old → old ≠ .n → ∃ q, failLoad s n r e a = discardAt q r.ctx r.tag)
      ∧ (r.recheck = some .n → (failLoad s n r e a).net = s.net ∧ (blockOf (ctxOf (failLoad s n r e a) r.ctx) r.tag).map (·.faults) = (blockOf (ctxOf s r.ctx) r.tag).map (·.faults)))
  ∧ (∀ (s : State) (r : LoadReq),
    let x := ctxOf s r.ctx
    let given : LPiece → Nat → Option Byte := fun lp j => forwardedByte s r.ctx x (earlierStores x r.tag r.lsid) (lp.pa + j)
    let poisoned : LPiece → Nat → Prop := fun lp j => given lp j = none ∧ ∃ w, loadWord s r x lp = .have_ w true
    (∀ lp ∈ r.pieces, lp.pa % 8 + lp.n ≤ 8 ∧ lp.va + lp.n ≤ 2 ^ 64) → r.pieces.Pairwise (fun p q => p.pos + p.n ≤ q.pos ∨ q.pos + q.n ≤ p.pos) →
      ((∃ d, loadData s r = some d) ↔ ∀ lp ∈ r.pieces, ∀ j, j < lp.n → given lp j = none → ∃ w p, loadWord s r x lp = .have_ w p)
      ∧ ∀ d bad, loadData s r = some (d, bad) →
        (∀ lp ∈ r.pieces, ∀ j, j < lp.n →
          (∀ v, given lp j = some v → d / 2 ^ (8 * (lp.pos + j)) % 256 = v.toNat)
          ∧ (∀ w p, given lp j = none → loadWord s r x lp = .have_ w p → d / 2 ^ (8 * (lp.pos + j)) % 256 = w.toNat / 2 ^ (8 * (lp.pa % 8 + j)) % 256))
        ∧ (bad = none ↔ ∀ lp ∈ r.pieces, ∀ j, j < lp.n → ¬poisoned lp j)
        ∧ (∀ a, bad = some a → (∃ lp ∈ r.pieces, ∃ j, j < lp.n ∧ poisoned lp j ∧ a.toNat = lp.va + j)
            ∧ ∀ lp ∈ r.pieces, ∀ j, j < lp.n → poisoned lp j → a.toNat ≤ lp.va + j))
  ∧ (∀ (s : State) (r : LoadReq) (lp : LPiece),
    let x := ctxOf s r.ctx
    let w := lp.pa / 8
    (lp.scratch = true → ∃ p, loadWord s r x lp = .have_ (BitVec.ofNat 64 (memRead s.ms.mem (8 * w) 8)) p ∧ (p = true ↔ w ∈ s.ms.poison))
    ∧ (lp.scratch = false → lp.mode = 3 → loadWord s r x lp = match mfind w r.got with | some g => .have_ g.1 g.2 | none => .missing)
    ∧ (∀ c, lp.scratch = false → lp.mode ≠ 3 → lp.pa % 8 + lp.n ≤ 8 → combWord s.ms r.comb w = some c → c.owned = true →
        (c.pend = none → c.valid = 0xFF → loadWord s r x lp = .have_ c.data c.poison)
        ∧ (∀ k, c.pend = some k → (∀ q ∈ x.releases, q.id ≠ k) → loadWord s r x lp = .wait))
    ∧ (lp.scratch = false → lp.mode ≠ 3 → (∀ m ∈ membersOf r.ctx x.k, combWord s.ms m w = none) → combWord s.ms r.comb w = none →
        loadWord s r x lp = match mfind w r.got with | some g => .have_ g.1 g.2 | none => .missing))
  ∧ ∀ (s : State) (r : LoadReq) (b : Block),
    let x := ctxOf s r.ctx
    let resolved : Block → Nat → Prop := fun o lim => ∀ k i l, instrAt o.words k = some i → storeLsid i = some l → l < lim →
      (mfind l o.stores).isSome = true ∨ (nodeOf o k).st = .resolved ∨ (nodeOf o k).st = .done
    blockOf x r.tag = some b →
      (b.om = true → ¬((∀ o ∈ olderThan x r.tag, resolved o 32) ∧ resolved b r.lsid) → loadWaits s r = true)
      ∧ ((∃ p ∈ r.pieces, p.mode = 3) → ¬(isOldest x r.tag = true ∧ resolved b r.lsid) → loadWaits s r = true)
      ∧ (b.om = false → (∀ p ∈ r.pieces, p.mode ≠ 3) → acquirePending x b r.lsid = false →
          (∀ p ∈ r.pieces, atomicAhead s r.ctx x (earlierStores x r.tag r.lsid) p = false ∧ writeAhead s r.ctx p = false ∧ earlierLoad s x r p = false) → loadWaits s r = false)
      ∧ (loadWaits s r = true → ∀ n, mfind n s.ms.loads = some r → r.due ≤ s.cycles → Becomes (.loadReply n) s s)

/-- A registration records its comb as the word's owner once the host holds no copy and no lease is in force; a leased region's waits
for the latest expiry and 2 µs (R143, R161, R346). A slice echoes when it has processed a context's earlier registrations and atomics (R146);
a write to another module reaches it in order, after the leases this module holds of its region (R146, R161, R353); an atomic is performed at its
home after its context's earlier writes of the word, its owner revoked, and gives its register the value of its table, .fadd the old word
zero-extended, its new one the sum rounded to nearest even (R60, R61, R73, R101, R227 to R229). -/
def Obligations.WritesAndAtomicsReachTheirHomes : Prop :=
  (∀ (s : State) (n : Nat) (r : Reg), mfind n s.ms.regs = some r →
    let late : Prop := ∃ d ∈ s.ms.delayed, d.2.region = r.word / 64 ∧ d.2.msg = n
    (regBehind s n r = true → Becomes (.registration n) s s)
    ∧ (regBehind s n r = false →
        (hostHas s.ms (lineOf r.word) = true → leased s r.word = false → Becomes (.registration n) s (snoopWords s [r.word]))
        ∧ (hostHas s.ms (lineOf r.word) = false → leased s r.word = true → late → Becomes (.registration n) s s)
        ∧ (hostHas s.ms (lineOf r.word) = false → leased s r.word = true → ¬late → Becomes (.registration n) s (bumpSeq { s with ms := { s.ms with
            delayed := mput s.seq { region := r.word / 64, until_ := mget 0 (r.word / 64) s.ms.leases + 2000, msg := n } s.ms.delayed } }))
        ∧ (hostHas s.ms (lineOf r.word) = false → leased s r.word = false → Becomes (.registration n) s (registerAt s n r)))
    ∧ (∀ k d, mfind k s.ms.delayed = some d → d.msg = n → n < 2 ^ 95 → d.until_ < s.gtime → regBehind s n r = false → hostHas s.ms (lineOf r.word) = false →
        leased s r.word = false → Becomes (.leasedWriteApply k) s (registerAt s n r))
    ∧ (∀ k d, mfind k s.ms.delayed = some d → s.gtime ≤ d.until_ → Becomes (.leasedWriteApply k) s s)
    ∧ (∀ c, r.data = none → combWord s.ms r.comb r.word = some c → c.owned = true → c.pend = none → mfind r.word (registerAt s n r).ms.owners = some (.comb r.comb)))
  ∧ (∀ (s : State) (c slice : Nat),
      (probed s c slice = none → Becomes (.sliceEcho c slice) s s)
      ∧ ∀ r, probed s c slice = some r → (sliceBusy s c slice r.at_ r.id = true → Becomes (.sliceEcho c slice) s s)
        ∧ (sliceBusy s c slice r.at_ r.id = false → ∃ u, Becomes (.sliceEcho c slice) s (pumpCtx u c)
          ∧ (ctxOf u c).releases = (ctxOf s c).releases.map (fun q => if q.started then { q with probes := serase slice q.probes } else q)
          ∧ (sliceBusy s c slice s.seq s.seq = false → (ctxOf u c).touched = serase slice (ctxOf s c).touched)
          ∧ (sliceBusy s c slice s.seq s.seq = true → (ctxOf u c).touched = (ctxOf s c).touched)
          ∧ (∀ d, d ≠ c → ctxOf u d = ctxOf s d) ∧ u.ms = s.ms))
  ∧ (∀ (s : State) (n : Nat) (u : UWrite) (m a : Nat), mfind n s.ms.uwrites = some u → u.sent = true → writeBehind s n u = false →
      placeOfPa s (ctxOf s u.ctx).part u.pa = some (.remote m a) →
      (s.md.ports = 0 → leased s (remoteTag (remoteKey m a)) = false → Becomes (.writeAck n) s s)
      ∧ (leased s (remoteTag (remoteKey m a)) = true → Becomes (.writeAck n) s (delayFor s n [remoteTag (remoteKey m a)]))
      ∧ (s.md.ports ≠ 0 → leased s (remoteTag (remoteKey m a)) = false → ∃ v, Becomes (.writeAck n) s (pumpCtx v u.ctx)
        ∧ v.ms.uwrites = mdel n s.ms.uwrites ∧ ∀ j, j < u.n → mget (Config.remoteByte (remoteKey m a + j)) (remoteKey m a + j) v.ms.remote = BitVec.ofNat 8 (u.data >>> (8 * j))))
  ∧ (∀ (s : State) (n : Nat) (a : AmoReq) (pa : Nat), mfind n s.ms.amos = some a → a.sent = true →
      placeOfPa s (ctxOf s a.ctx).part a.pa = some (.home pa) → amoBehind s n a pa = false →
      let z := (atomicShape a.op).1
      let r := atomicApply a.op (bits (coherentWord s.ms (pa / 8)).1.toNat (8 * (pa % 8)) (8 * z))
      Becomes (.amoAtHome n) s (endAmo (amoHome s (a.mode == 3) pa z r.1) n a (.s r.2)))
  ∧ (∀ (s : State) (raw : Bool) (pa z v : Nat), MemoryCanonical s → pa % 8 + z ≤ 8 → v < 2 ^ (8 * z) →
      (homeWord (amoHome s raw pa z v).ms (pa / 8)).1.toNat / 2 ^ (8 * (pa % 8)) % 2 ^ (8 * z) = v)
  ∧ (∀ (s : State) (c id n : Nat) (v : RegVal) (a : W64), mget (.s 0) n (ctxOf s c).regs = .reply id a → mget (.s 0) n (ctxOf (giveReply s c id v) c).regs = v)
  ∧ ∀ (k : AmoWid) (a : W64) (d : RegDest) (old : Nat) (v cmp : W64),
      let n := match k with | .w | .wu => 32 | .d | .du => 64
      let sg := k = .w ∨ k = .d
      let new : AmoOp → Nat := fun op => (atomicApply (.amo op k a v d) old).1
      let less : Nat → Nat → Prop := fun x y => if sg then (BitVec.ofNat n x).toInt < (BitVec.ofNat n y).toInt else x % 2 ^ n < y % 2 ^ n
      old < 2 ^ n →
      new .add = (old + v.toNat) % 2 ^ n ∧ new .and = (old &&& v.toNat) % 2 ^ n ∧ new .or = (old ||| v.toNat) % 2 ^ n ∧ new .xor = (old ^^^ v.toNat) % 2 ^ n
      ∧ new .swap = v.toNat % 2 ^ n
      ∧ (less old v.toNat → new .min = old ∧ new .max = v.toNat % 2 ^ n) ∧ (¬less old v.toNat → new .min = v.toNat % 2 ^ n ∧ new .max = old)
      ∧ (k = .w → let f : Nat → FVal := decodeFloat fmtF32
          new .fadd = encodeFloat fmtF32 .ne false (fadd (f old) (f (v.toNat % 2 ^ 32))) % 2 ^ 32
          ∧ (atomicApply (.amo .fadd k a v d) old).2 = (BitVec.ofNat 32 old).zeroExtend 64)
      ∧ (∀ op, op ≠ .fadd → (atomicApply (.amo op k a v d) old).2 = if sg then (BitVec.ofNat n old).signExtend 64 else (BitVec.ofNat n old).zeroExtend 64)
      ∧ (∀ wid : Wid2, let m := match wid with | .w => 32 | .d => 64
          old < 2 ^ m → atomicApply (.cas wid a cmp v d) old = (if old = cmp.toNat % 2 ^ m then v.toNat % 2 ^ m else old, BitVec.ofNat 64 old))

/-- A WATCH at its home completes as MET on the condition of R230, once on a sealed page, as NOSLOT where its table is full, and else
arms; armed for 1 ms it completes as EXPIRED (R230, R231). A range walk visits one set at a time (R156); a copy request moves a chunk at
a time, a fault ending it with its word (R244, R247), and across the scale-out network it sends its writes, then the atomic to RSIG, and ends with the
last acknowledgement (R358); a barrier phase releases when every member has arrived or departed, and a timed BAR
runs out (R252 to R254); a far request without a reply for 2 ms completes as poisoned (R228, R333), a request whose network retries are exhausted
with 0x14 (R358); a dropped port leaves the set (R353). A late registration's trap reporting its word's physical address is log entry 18, all waiting
BARs of a block being waited for log entry 36, DEPARTED set by every release once a member has departed log entry 39, the acknowledgements of a
network request log entry 31 (the model's readings), the ports in turn log entry 106, and a FIFO entry's freeing log entry 107 (its choices). -/
def Obligations.WatchesWalksCopiesAndBarriersGoOn : Prop :=
  (∀ (c : WatchCond) (wid : Wid2) (v cmp : W64),
    let n := match wid with | .w => 32 | .d => 64
    let x : BitVec n := v.truncate n
    let y : BitVec n := cmp.truncate n
    watchHolds c wid v cmp = match c with
      | .eq => decide (x = y) | .ne => decide (x ≠ y) | .lt => decide (x.toInt < y.toInt) | .ge => decide (y.toInt ≤ x.toInt)
      | .ltu => decide (x.toNat < y.toNat) | .geu => decide (y.toNat ≤ x.toNat) | .any => decide (x &&& y ≠ 0) | .none => decide (x &&& y = 0))
  ∧ (∀ (wid : Wid2) (v : W64) (st : Nat), LanesAre (watchTok wid v st) 7 (fun j =>
      if j = 0 then v.extractLsb' 0 32 else if j = 1 then (if wid = .d then v.extractLsb' 32 32 else 0) else BitVec.ofNat 32 st))
  ∧ (∀ (s : State) (n : Nat) (r : LoadReq) (c : WatchCond) (wid : Wid2) (cmp : W64) (p : LPiece) (rest : List LPiece),
      mfind n s.ms.loads = some r → r.kind = .watch c wid cmp → r.pieces = p :: rest →
      let v := watchValue s r p
      (r.due ≤ s.cycles → 0 < p.n → r.armed = none → loadWaits s r = false → ownWord s r p = none → isLocal p.pa = true → readBusy s (p.pa / 8) = false →
        (overlay s r.ctx (ctxOf s r.ctx) (earlierStores (ctxOf s r.ctx) r.tag r.lsid) p 0).2 = 0 →
        let u : State := { s with ms := (takeHome s.ms (p.pa / 8)).2 }
        let full := 256 ≤ (u.ms.watches.filter (fun w => w.2.slice == watchTable u r p)).length
        (v.2 = true → Becomes (.loadReply n) s (failLoad u n r 0x0F (BitVec.ofNat 64 p.va)))
        ∧ (v.2 = false → watchHolds c wid v.1 cmp = true → Becomes (.loadReply n) s (endLoad u n r (watchTok wid v.1 0)))
        ∧ (v.2 = false → watchHolds c wid v.1 cmp = false → p.mode = 1 → Becomes (.loadReply n) s (endLoad u n r (watchTok wid v.1 2)))
        ∧ (v.2 = false → watchHolds c wid v.1 cmp = false → p.mode ≠ 1 → full → Becomes (.loadReply n) s (endLoad u n r (watchTok wid v.1 1)))
        ∧ (v.2 = false → watchHolds c wid v.1 cmp = false → p.mode ≠ 1 → ¬full → ∃ t e, Becomes (.loadReply n) s t
            ∧ mfind s.seq t.ms.watches = some e ∧ e.req = n ∧ e.since = s.gtime ∧ mfind n t.ms.loads = some { r with armed := some s.seq }))
      ∧ ∀ k e, mfind k s.ms.watches = some e → e.req = n →
          (s.gtime < e.since + 1000000 → Becomes (.watchExpired k) s s)
          ∧ (e.since + 1000000 ≤ s.gtime → v.2 = false → Becomes (.watchExpired k) s
              (endLoad { s with ms := { s.ms with watches := mdel k s.ms.watches } } n r (watchTok wid v.1 2))))
  ∧ (∀ (s : State) (n : Nat) (k : Walk), mfind n s.ms.walks = some k →
      (walkReady s n k = false → Becomes (.flushrWalk n) s s)
      ∧ (walkReady s n k = true → k.at_ + 1 < 256 → ∃ t, Becomes (.flushrWalk n) s t ∧ mfind n t.ms.walks = some { k with at_ := k.at_ + 1 } ∧ t.ctxs = s.ctxs)
      ∧ (walkReady s n k = true → 256 ≤ k.at_ + 1 → ∃ u, Becomes (.flushrWalk n) s (endWalk u n { k with at_ := k.at_ + 1 }) ∧ u.ctxs = s.ctxs))
  ∧ (∀ (s : State) (n : Nat) (q : CopyReq), mfind n s.ms.copies = some q → q.sent = true → q.finished = false → copyBehind s n q = false →
      let d := descOf q
      let p := partOf s q.part
      let plan := chunkPlan s q d q.chunk
      let good := (q.started = true ∨ badDesc p q.mode d = false) ∧ emptyCopy q.mode d = false ∧ q.netPhase = 0
      let rsig := (q.entry.getD 7 0).toNat
      let s' : State := { s with ms := undelay s.ms n }
      (q.started = false → badDesc p q.mode d = true → Becomes (.copyChunk n) s (endCopy s n q (0x01 <<< 56)))
      ∧ (badDesc p q.mode d = false → emptyCopy q.mode d = true → q.netPhase = 0 → Becomes (.copyChunk n) s (lastChunk s n q))
      ∧ (q.net = none → lastChunk s n q = endCopy s n q 0)
      ∧ (q.net ≠ none → q.netPhase = 0 → lastChunk s n q = { s with ms := { s.ms with copies := mput n { q with netPhase := 1 } s.ms.copies } })
      ∧ (q.started = true → q.netPhase = 1 → rsig ≠ 0 → ∃ t o, Becomes (.copyChunk n) s t ∧ t.rdmaOut = s.rdmaOut ++ [o]
          ∧ o.part = q.part ∧ o.peer = q.net.getD 0 ∧ o.entry = q.entry ∧ o.va = rsig ∧ o.bytes = [] ∧ o.add = some (.allOnes 64)
          ∧ t.ms = { s.ms with copies := mput n { q with netPhase := 2 } s.ms.copies } ∧ t.ctxs = s.ctxs)
      ∧ (q.started = true → (q.netPhase = 1 ∧ rsig = 0) ∨ 2 ≤ q.netPhase → Becomes (.copyChunk n) s (endCopy s n q 0))
      ∧ (q.net = none → plan.sends = [])
      ∧ (q.net ≠ none → plan.puts = [] ∧ plan.sends = (chunkParts (cutBits p q d) q.mode d q.chunk).map (fun c =>
          ((partRead s q p d c).dst, (partRead s q p d c).read.bytes)))
      ∧ (∀ t msgs, ∃ port, (netPorts q ≠ [] → port ∈ netPorts q) ∧ (sendNet t q msgs).rdmaOut = t.rdmaOut ++ msgs.map (fun m =>
          { part := q.part, peer := q.net.getD 0, entry := q.entry, port := port, va := m.1, bytes := m.2.1, add := m.2.2 }))
      ∧ (good → plan.wait = true → ∃ t, Becomes (.copyChunk n) s t ∧ mfind n t.ms.copies = some { q with asked := q.asked.or (some s.gtime) } ∧ t.ctxs = s.ctxs
          ∧ t.ms.mem = s.ms.mem ∧ t.ms.hives = s.ms.hives ∧ t.ms.caches = s.ms.caches)
      ∧ (∀ e, good → plan.wait = false → plan.err = some e → ∃ f : W64, f.extractLsb' 56 8 = e.1 ∧ f.extractLsb' 55 1 = 0 ∧ f.extractLsb' 0 55 = e.2.extractLsb' 0 55
          ∧ Becomes (.copyChunk n) s (endCopy (putFaulting (recallAll s' plan.reads) plan.puts) n q f))
      ∧ (good → plan.wait = false → plan.err = none →
          let cut := cutBits p q d
          let moved := sendNet (plan.puts.foldl (fun s p => engPut s p.1 p.2) (recallAll s' plan.reads)) q
            (plan.sends.map (fun m => (m.1, m.2.map (·.getD (0, false)), none)))
          let k := { q with chunk := q.chunk + 1, started := true, asked := none, cut := cut.1 }
          let t : State := { moved with ms := { moved.ms with copies := mput n k moved.ms.copies } }
          let total := chunkCount cut q.mode d
          (total ≤ q.chunk + 1 → Becomes (.copyChunk n) s (lastChunk t n k))
          ∧ (total = q.chunk + 2 → Becomes (.copyChunk n) s (freeEntry t k n))
          ∧ (q.chunk + 2 < total → Becomes (.copyChunk n) s t))
      ∧ (∀ c row j, q.mode = .fill → j < c.n → (partSource s q p d c row).bytes[j]? = some (some (d.aux / 2 ^ (8 * ((c.e + j) % 8)) % 256, false))))
  ∧ (∀ (s : State) (n : Nat) (a : Arrival) (l : Launch), mfind n s.arrivals = some a → a.due ≤ s.cycles → mfind a.launch s.launches = some l →
      let s' : State := { s with arrivals := mdel n s.arrivals }
      let k : Channel := mget {} a.ch l.channels
      let here := sinsert a.rank k.arrived
      let all := ∀ r, r < l.x * l.y * l.z → r ∈ here ∨ r ∈ l.departed
      (¬all → Becomes (.barrierArrival n) s (modLaunch s' a.launch (fun l => { l with channels := mput a.ch { k with arrived := here } l.channels })))
      ∧ (all → ∃ t, Becomes (.barrierArrival n) s t ∧ mget {} a.ch (launchOf t a.launch).channels = { phase := k.phase + 1, arrived := [] }
          ∧ ∀ c u, (ctxOf s c).task = some u → u.launch = a.launch → u.rank ≠ none → (ctxOf s c).phase ≠ .free →
              let ws := waitsBut (ctxOf s c).barWait a.ch k.phase
              (ctxOf t c).barWait = ws ∧ ((ctxOf s c).phase = .barrier → ws = [] → (ctxOf t c).phase = .running)
              ∧ ((ctxOf s c).phase ≠ .barrier ∨ ws ≠ [] → (ctxOf t c).phase = (ctxOf s c).phase)
              ∧ ((ctxOf s c).bar.ch = a.ch → (ctxOf s c).bar.phase.toNat = k.phase % 2 ^ 32 → (ctxOf s c).bar.outcome ≠ 3 →
                  (ctxOf t c).bar.done = true ∧ ((ctxOf t c).bar.departed = true ↔ l.departed ≠ []))))
  ∧ (∀ (s : State) (c : Nat) (w : BarWait), (ctxOf s c).phase = .barrier → timedOut s (ctxOf s c) = some w →
      let x := ctxOf s c
      let ws := waitsBut x.barWait w.ch w.phase
      ∃ t, Becomes (.barTimeout c) s t ∧ (ctxOf t c).barWait = ws ∧ (ctxOf t c).phase = (if ws = [] then .running else .barrier)
        ∧ (x.bar.ch = w.ch → x.bar.phase.toNat = w.phase % 2 ^ 32 → (ctxOf t c).bar = { x.bar with outcome := 1 }) ∧ t.launches = s.launches)
  ∧ (∀ (s : State) (n : Nat),
      (∀ r p g, mfind n s.ms.loads = some r → farWord s r = some p → r.asked = some g → g + 2000000 ≤ s.gtime → loadWaits s r = false →
        Becomes (.remoteTimeout n) s (failLoad s n r 0x14 (BitVec.ofNat 64 p.va)))
      ∧ (∀ a, mfind n s.ms.loads = none → mfind n s.ms.amos = some a → a.sent = true → a.since + 2000000 ≤ s.gtime → isFar (homeOf a.ctx) a.pa = true →
        let z := atomicShape a.op
        ∃ u : State, (u = s ∨ ∃ pl, placeOfPa s (ctxOf s a.ctx).part a.pa = some pl
            ∧ putPlace s (some pl) z.1 (atomicApply a.op (amoOld s pl z.1)).1 (a.mode == 3) (some n) = some u)
          ∧ Becomes (.remoteTimeout n) s (pumpCtx (freshen (giveReply { bumpFresh u with ms := undelay { u.ms with amos := mdel n u.ms.amos } n } a.ctx n (.poisoned z.2.1))
              a.ctx (a.pa / 8)) a.ctx))
      ∧ (∀ u, mfind n s.ms.loads = none → mfind n s.ms.amos = none → mfind n s.ms.uwrites = some u → u.sent = true → u.since + 2000000 ≤ s.gtime →
        isFar (homeOf u.ctx) u.pa = true → ∃ v, v.ms.uwrites = mdel n s.ms.uwrites ∧ Becomes (.remoteTimeout n) s
          (pumpCtx (modCtx v u.ctx (fun x => { x with lateFaults := x.lateFaults ++ [BitVec.ofNat 64 (u.va / 8 * 8)] })) u.ctx))
      ∧ (∀ r, mfind n s.ms.loads = none → mfind n s.ms.amos = none → mfind n s.ms.uwrites = none → mfind n s.ms.regs = some r → r.since + 2000000 ≤ s.gtime →
        isFar r.comb (8 * r.word) = true → ∃ v, v.ms.regs = mdel n s.ms.regs ∧ Becomes (.remoteTimeout n) s
          (pumpCtx (modCtx v r.ctx (fun x => { x with lateFaults := x.lateFaults ++ [BitVec.ofNat 64 (8 * r.word)] })) r.ctx))
      ∧ (∀ q a g, mfind n s.ms.loads = none → mfind n s.ms.amos = none → mfind n s.ms.uwrites = none → mfind n s.ms.regs = none → mfind n s.ms.copies = some q →
        q.sent = true → q.finished = false → copyBehind s n q = false → copyFar s q = some a → q.asked = some g → g + 2000000 ≤ s.gtime →
        ∃ (puts : List (EngDst × EngPiece)) (f : W64), f.extractLsb' 56 8 = 0x14 ∧ f.extractLsb' 0 55 = BitVec.ofNat 55 a
          ∧ (∀ p, p ∈ puts ↔ p ∈ (chunkPlan s q (descOf q) q.chunk).puts ∧ (dstBusy s p.1 = true → farAddr s q p.2.va = true))
          ∧ Becomes (.remoteTimeout n) s (endCopy (putFaulting s puts) n q f))
      ∧ (∀ q, mfind n s.ms.loads = none → mfind n s.ms.amos = none → mfind n s.ms.uwrites = none → mfind n s.ms.regs = none → mfind n s.ms.copies = some q →
        q.sent = true → q.finished = false → copyBehind s n q = false → copyFar s q = none →
        (q.net = none → Becomes (.remoteTimeout n) s s)
        ∧ (q.net ≠ none → ∃ f : W64, f.extractLsb' 56 8 = 0x14 ∧ f.extractLsb' 0 55 = BitVec.ofNat 55 (descOf q).daddr
            ∧ Becomes (.remoteTimeout n) s (endCopy s n q f))))
  ∧ ∀ (s : State) (port : Nat), ∃ q : BitVec 16, Becomes (.portDrop port) s { s with md := { s.md with ports := q } }
      ∧ ∀ j, j < 16 → q.getLsbD j = (s.md.ports.getLsbD j && decide (j ≠ port))

/-- A queue may start a packet while the module runs, its partition and it are enabled, it is bound and not stopped, every DEPWAIT started
before has completed, and QWR has admitted the packet (R291, R297, R301, R336). The packet lies at BASE + 64 × (i mod 2^LOG2SZ) (R291), starts
in its order (R297), completes DENIED without privilege, MALFORMED where it breaks the rules of R294, and otherwise has its effect; a read or a
store of its own that finds a home word withheld, held by the host, leased or delayed waits, and one that a far home has not let go on for 2 ms fails
with 0x14 (R333, R336). It completes with STATUS and DONE written into its header word, its
record, if it has one, and its signals decremented (R298, R299, R370); queues bind to free threads in the order of their doorbells and unbind when
idle (R301); starts, completions and decrements are recorded in the journal; where a queue has been able to start a packet for 10 ms, its die's queues have their start indices and bindings rebuilt
from the checkpoint and the journal, and no effect is performed again (R302). The order of waits, key and journal are the model's (logs 27, 67). -/
def Obligations.PacketsStartAndCompleteInOrder : Prop :=
  (∀ (s : State) (p q : Nat), let x := queueOf s p q
    x.wr < 2 ^ 32 → x.start < 2 ^ 32 →
    (mayStart s p q = true ↔ isUp s = true ∧ (partOf s p).en = true ∧ x.en = true ∧ x.thread ≠ none ∧ x.qflt = false
      ∧ (∀ k ∈ x.pkts, k.2.written = false → pkType k.2.words ≠ 2)
      ∧ 1 ≤ (x.wr + 2 ^ 32 - x.start) % 2 ^ 32 ∧ (x.wr + 2 ^ 32 - x.start) % 2 ^ 32 ≤ 2 ^ x.log2sz))
  ∧ (∀ (s : State) (p q : Nat) (ws : List W64),
      startNow s p q ws = true ↔ ((ws.getD 0 0).getLsbD 16 = true → ∀ k ∈ (queueOf s p q).pkts, k.2.written = true)
        ∧ ((ws.getD 0 0).extractLsb' 0 8 = 1 → ∀ l ∈ s.launches, l.2.part = p → l.2.queue = q →
            l.2.ending = true ∨ l.2.killing = true ∨ l.2.x * l.2.y * l.2.z ≤ l.2.nextTile))
  ∧ (∀ ws : List W64, let h := ws.getD 0 0
      let sig : W64 → Prop := fun a => a.extractLsb' 0 3 = 0 ∧ a.extractLsb' 55 9 = 0
      pkHeadOk ws = true ↔ h.extractLsb' 17 15 = 0 ∧ h.extractLsb' 8 7 = 0 ∧ (h.extractLsb' 0 8 = 1 ∨ h.extractLsb' 32 8 = 0)
        ∧ sig (ws.getD 6 0) ∧ sig (ws.getD 7 0))
  ∧ (∀ (s : State) (p q ty : Nat), 1 ≤ ty → ty ≤ 11 →
      let x := queueOf s p q
      let a := x.base.toNat + 64 * (x.start % 2 ^ x.log2sz)
      let i := startOp p q ty
      let n := nextMsg s p q
      let free := readWaits s p n [(a, 64)] = none
      let asks : State → State := fun u => modQueue u p q (fun x => { x with asked := some u.gtime })
      let stops : BitVec 8 × Nat → State := fun e => modQueue (stopQueue (deviceFault s p e x.start q) p q) p q (fun x => { x with asked := none })
      let ends : State → Nat → BitVec 8 → State := fun u st cause => modPkt u p q (pktKey x)
        (fun k => { k with status := some st, effect := true, wait := none, fail := some (5, cause, a) })
      (mayStart s p q = false → Becomes i s s)
      ∧ (∀ u, mayStart s p q = true → readWaits s p n [(a, 64)] = some u →
          TimedWait i s u (asks u) (readFar s p n [(a, 64)]) x.asked (fun b => stops (0x14, b)))
      ∧ (∀ e, mayStart s p q = true → free → devWords s p a 8 = .error e → Becomes i s (stops e))
      ∧ (∀ t c, (queueOf (stopQueue t p c) p c).qflt = true)
      ∧ (∀ ws, mayStart s p q = true → free → devWords s p a 8 = .ok ws → startNow s p q ws = false → Becomes i s s)
      ∧ (∀ ws, NextPacket s p q ws → typeOf ws ≠ ty → Becomes i s s)
      ∧ (∀ ws, NextPacket s p q ws → typeOf ws = ty → pkHeadOk ws = true → pkBodyOk ws = true → ¬Denied s p q ws →
          let r := packetRead s p q
          let reads := packetReads r p ws
          let o := opened s { r with ms := undelay r.ms n } p q ws
          ∀ u, (readWaits r p n reads).or (waitHomes r p n (storeAddrs ws)) = some u →
            TimedWait i s u (asks u) ((readFar r p n reads).or (writeFar r p (storeAddrs ws))) x.asked (fun b =>
              if ty = 2 then stopQueue (endDepwait (deviceFault o p (0x14, b) (pktKey x) q) p q (pktKey x) 5) p q
              else faultStatus o p q (pktKey x) (0x14, b)))
      ∧ (∀ ws, NextPacket s p q ws → typeOf ws = ty → PacketFree s p q ws → Denied s p q ws → Becomes i s (ends (started s p q ws) 3 0x11))
      ∧ (∀ ws, NextPacket s p q ws → typeOf ws = ty → ¬Denied s p q ws → pkHeadOk ws = false ∨ pkBodyOk ws = false →
          Becomes i s (ends (started s p q ws) 2 0x01))
      ∧ (∀ ws, PacketStarts s p q ty ws → Becomes i s (packetEffect (started s p q ws) p q (pktKey x) ws)))
  ∧ (∀ (s : State) (p q : Nat) (k : Packet), completing s p q = some k →
      let a := k.slot
      let homes := [a, dw k.words 6, dw k.words 7].filter (· != 0)
      let n := devMsg p q k.idx
      let s' : State := { s with ms := undelay s.ms n }
      let asks : Option Nat → State → State := fun g u => modPkt u p q k.idx (fun k => { k with asked := g })
      (k.effect = false → Becomes (.packetComplete p q) s (packetWait s p q k))
      ∧ (k.effect = true → ∀ u, waitHomes s p n homes = some u →
          TimedWait (.packetComplete p q) s u (asks (some s.gtime) u) (writeFar s p homes) k.asked (fun b =>
            let v := asks none s'
            if b = a then modPkt (stopQueue (deviceFault v p (0x14, b) k.idx q) p q) p q k.idx (fun k => { k with effect := false })
            else modPkt (deviceFault v p (0x14, b) k.idx q) p q k.idx (fun k => { k with
              words := k.words.zipIdx.map (fun w => if 6 ≤ w.2 && w.1.toNat == b then 0 else w.1) })))
      ∧ (k.effect = true → waitHomes s p n homes = none →
          let done : Nat := 128 + ((k.words.getD 0 0).extractLsb' 8 7).toNat
          let stopped : BitVec 8 × Nat → State := fun e =>
            modPkt (stopQueue (deviceFault s' p e k.idx q) p q) p q k.idx (fun k => { k with effect := false })
          (∀ e, devPut s' p (a + 5) 1 (k.status.getD 1) = .error e → Becomes (.packetComplete p q) s (stopped e))
          ∧ (∀ u, devPut s' p (a + 5) 1 (k.status.getD 1) = .ok u →
              (∀ e, devPut u p (a + 1) 1 done = .error e → Becomes (.packetComplete p q) s (stopped e))
              ∧ ∀ v, devPut u p (a + 1) 1 done = .ok v →
                  let r := match k.fail with
                    | some (kind, cause, tval) =>
                      faultRecord v p { kind := kind, cause := cause.toNat, action := some 0xFF, tval := tval, index := k.idx, queue := q }
                    | none => v
                  let d := decrement (decrement (journalAdd r 2 p q k.idx) p q k.idx (dw k.words 6)) p q k.idx (dw k.words 7)
                  let l := d.launches.filter (fun l => !(l.2.part == p && l.2.queue == q && l.2.idx == k.idx && l.2.ending))
                  Becomes (.packetComplete p q) s (modQueue { d with launches := l } p q (fun x => { pktDone x k with ready := d.gtime })))))
  ∧ (∀ (s : State) (p q idx c v : Nat), c ≠ 0 → devReadIn s p c 8 = .ok v →
      (∀ e, devAddr s p c .rw = .error e → decrement s p q idx c = deviceFault s p (e, c) idx q)
      ∧ (∀ pl, devAddr s p c .rw = .ok pl → v = 0 → decrement s p q idx c = faultRecord s p { kind := 7, tval := c, index := idx, queue := q })
      ∧ (∀ pl u key, devAddr s p c .rw = .ok pl → v ≠ 0 → devPut s p c 8 (v - 1) = .ok u → counterKey s p c = some key →
          let j := journalAdd u 4 p q idx
          decrement s p q idx c = if v = 1 then (waiters j key).foldl (fun s w => endDepwait s w.1 w.2.1 w.2.2 1) j else j))
  ∧ (∀ (s : State) (p q : Nat) (k : Packet), blockedWait s p q = some k →
      let a := dw k.words 1
      let t := seenAll s p [(a, 8)]
      let n := devMsg p q k.idx
      (s.gtime < k.note → Becomes (.depwaitReread p q) s s)
      ∧ (∀ u, k.note ≤ s.gtime → readWaits s p n [(a, 8)] = some u →
          TimedWait (.depwaitReread p q) s u (modPkt u p q k.idx (fun k => { k with asked := some u.gtime })) (readFar s p n [(a, 8)]) k.asked (fun b =>
            stopQueue (endDepwait (deviceFault s p (0x14, b) k.idx q) p q k.idx 5) p q))
      ∧ (k.note ≤ s.gtime → readWaits s p n [(a, 8)] = none →
          (∀ e, devReadIn t p a 8 = .error e → Becomes (.depwaitReread p q) s (stopQueue (endDepwait (deviceFault t p e k.idx q) p q k.idx 5) p q))
          ∧ (devReadIn t p a 8 = .ok 0 → Becomes (.depwaitReread p q) s
              (modQueue (endEffect t p q k.idx 1) p q (fun x => { x with blocked := false, idle := s.gtime, ready := s.gtime, waited := true })))
          ∧ (∀ v, devReadIn t p a 8 = .ok v → v ≠ 0 → Becomes (.depwaitReread p q) s
              (modQueue (modPkt t p q k.idx (fun y => { y with wait := counterKey t p a, note := s.gtime + 100000 })) p q (fun x => { x with blocked := true })))))
  ∧ (∀ (s : State) (die p q t : Nat), (nextToBind s die = some (p, q) → freeThread s die = some t →
        ∃ u, Becomes (.queueBind die) s u ∧ (queueOf u p q).thread = some (32 * die + t) ∧ mfind t (mget {} die u.dies).threads = some (p, q) ∧ u.ms = s.ms ∧ t < 32)
      ∧ (nextToBind s die = none ∨ freeThread s die = none → Becomes (.queueBind die) s s)
      ∧ (mfind t (mget {} die s.dies).threads = some (p, q) → (queueOf s p q).thread = some (32 * die + t) → t < 32 →
          let idle := (unstarted (queueOf s p q) = false ∧ (queueOf s p q).blocked = false ∧ (queueOf s p q).idle + 100000 ≤ s.gtime)
          (idle → ∃ u, Becomes (.queueUnbind die t) s u ∧ (queueOf u p q).thread = none ∧ u.ms = s.ms ∧ u.launches = s.launches)
          ∧ (¬idle → Becomes (.queueUnbind die t) s s)))
  ∧ (∀ (s : State) (die p q : Nat), (p, q) ∈ stuckQueues s die → let x := queueOf s p q
      mayStart s p q = true ∧ x.idle + 10000000 ≤ s.gtime ∧ x.ready + 10000000 ≤ s.gtime
      ∧ ∀ ws, devWords s p (slotAddr x x.start) 8 = .ok ws → startNow s p q ws = true)
  ∧ (∀ (s : State) (kind p q idx : Nat), let x := queueOf s p q
      let j := (mget {} x.die (journalAdd s kind p q idx).dies).journal
      j.length ≤ 4096 ∧ j.getLast? = some { kind := kind, part := p, queue := q, idx := idx, thread := x.thread })
  ∧ ∀ (s : State) (die : Nat), (stuckQueues s die = [] → Becomes (.qpWatchdog die) s s)
      ∧ (stuckQueues s die ≠ [] → ∃ t, Becomes (.qpWatchdog die) s t ∧ t.ms = s.ms ∧ t.launches = s.launches ∧ t.ctxs = s.ctxs
        ∧ ∀ p q y x, mfind p s.parts = some y → mfind q y.queues = some x →
            let z := queueOf t p q
            let d := mget {} die s.dies
            let starts := (sinceCheckpoint d).filter (fun r => r.part == p && r.queue == q && r.kind == 0 && r.idx / 2 ^ 32 == x.gen)
            z.pkts = x.pkts ∧ z.wr = x.wr ∧ z.rd = x.rd ∧ z.base = x.base ∧ z.en = x.en ∧ z.qflt = x.qflt
            ∧ (x.die ≠ die → z.start = x.start ∧ z.blocked = x.blocked)
            ∧ (x.die = die →
                (∀ r, starts.getLast? = some r → z.start = (r.idx % 2 ^ 32 + 1) % 2 ^ 32)
                ∧ (starts = [] → z.start = ((d.marks.find? (fun m => m.part == p && m.queue == q && m.gen == x.gen)).map (·.start)).getD 0)
                ∧ (z.blocked = true ↔ ∃ k ∈ x.pkts, pkType k.2.words = 2 ∧ k.2.wait ≠ none ∧ k.2.effect = false ∧ k.2.written = false)
                ∧ ∀ n, z.thread = some n → n / 32 = die → mfind (n % 32) (mget {} die t.dies).threads = some (p, q)))

/-- The packets any queue may carry, and POLICY, started and well-formed. A LAUNCH reads its header and its arguments and is made ready, or
is MALFORMED (R25, R295); a DEPWAIT completes at a counter of 0 and otherwise blocks its queue (R300); a SIGNAL stores, then raises the
completion vector (R293, R298, R351); a COPYB becomes one linear request, or one to an endpoint whose entry admits it (R296, R358); a
POLICY installs its program, its state words and its random seed (R309, R312, R313); a MARKER writes the global time (R293). A failed access
of the device's own ends a packet as FAULT (R294, R336). A LAUNCH with a dimension of 0 being read and judged before it completes is log entry 28,
and what makes an endpoint's entry usable log entry 51 (the model's readings). -/
def Obligations.PacketsOfAnyQueueHaveTheirEffects : Prop :=
  ∀ (s : State) (p q : Nat) (ws : List W64),
    let idx := pktKey (queueOf s p q)
    let t0 := started s p q ws
    let a := dw ws 1
    (PacketStarts s p q 1 ws →
      (∀ e, devWords t0 p a 8 = .error e → Becomes (.launch p q) s (faultStatus t0 p q idx e))
      ∧ (∀ h e, devWords t0 p a 8 = .ok h → devWords t0 p (dw ws 4) ((ws.getD 3 0).extractLsb' 32 6).toNat = .error e → Becomes (.launch p q) s (faultStatus t0 p q idx e))
      ∧ (∀ h args, devWords t0 p a 8 = .ok h → devWords t0 p (dw ws 4) ((ws.getD 3 0).extractLsb' 32 6).toNat = .ok args →
          (headerOk h = false → Becomes (.launch p q) s (malformed t0 p q idx 5 a))
          ∧ (headerOk h = true → ∃ l : Launch, l.hdr = h ∧ l.args = args ∧ l.part = p ∧ l.queue = q ∧ l.idx = idx ∧ l.start = s.gtime ∧ l.lastPlaced = s.gtime
              ∧ l.x = ((ws.getD 2 0).extractLsb' 0 32).toNat ∧ l.y = ((ws.getD 2 0).extractLsb' 32 32).toNat ∧ l.z = ((ws.getD 3 0).extractLsb' 0 32).toNat
              ∧ l.prio = ((ws.getD 0 0).extractLsb' 32 8).toNat ∧ l.pin = (ws.getD 3 0).getLsbD 47
              ∧ l.spill = dw ws 5 ∧ l.spillu = ((ws.getD 3 0).extractLsb' 48 16).toNat ∧ l.nextTile = 0 ∧ l.live = 0 ∧ l.depends = (queueOf s p q).waited ∧
              let fits := kGang h = true → gangFits (bumpSeq { t0 with launches := mput s.seq l s.launches }) s.seq = true
              (¬fits → Becomes (.launch p q) s (malformed t0 p q idx 5 a))
              ∧ (fits → ∃ t, Becomes (.launch p q) s t ∧ mfind s.seq t.launches = some { l with ending := decide (l.x * l.y * l.z = 0) }))))
    ∧ (PacketStarts s p q 2 ws →
      (∀ e, devReadIn t0 p a 8 = .error e → Becomes (.depwait p q) s (stopQueue (endDepwait (deviceFault t0 p e idx q) p q idx 5) p q))
      ∧ (devReadIn t0 p a 8 = .ok 0 → Becomes (.depwait p q) s (endDepwait t0 p q idx 1))
      ∧ (∀ v, devReadIn t0 p a 8 = .ok v → v ≠ 0 → ∃ t k, Becomes (.depwait p q) s t ∧ (queueOf t p q).blocked = true
          ∧ mfind idx (queueOf t p q).pkts = some k ∧ k.words = ws ∧ k.status = none ∧ k.wait = counterKey t0 p a ∧ k.note = s.gtime + 100000))
    ∧ (PacketStarts s p q 3 ws →
      let irq : State → State := fun u => if dw ws 3 = 1 then raiseIrq u p (partOf u p).compv else u
      (a = 0 → Becomes (.signal p q) s (endEffect (irq t0) p q idx 1))
      ∧ (∀ e, a ≠ 0 → devPut t0 p a 8 (dw ws 2) = .error e → Becomes (.signal p q) s (faultStatus t0 p q idx e))
      ∧ (∀ u, a ≠ 0 → devPut t0 p a 8 (dw ws 2) = .ok u → Becomes (.signal p q) s (endEffect (irq u) p q idx 1)))
    ∧ (PacketStarts s p q 4 ws →
      let len := dw ws 3
      let peer := ((ws.getD 4 0).extractLsb' 8 16).toNat
      let tbl := devWords t0 p ((partOf s p).epbase.toNat + 64 * peer) 8
      let copies : Option Nat → List W64 → Prop := fun net entry => ∃ c : CopyReq, c.who = .packet p q idx ∧ c.mode = .lin ∧ c.net = net ∧ c.entry = entry
        ∧ c.sent = true ∧ c.part = p ∧ c.chunk = 0 ∧ c.netPhase = 0 ∧ c.comb = 128 * (queueOf s p q).die
        ∧ (descOf c).saddr = a ∧ (descOf c).daddr = dw ws 2 ∧ (descOf c).dim0 = len ∧ dCvt (descOf c) = false
        ∧ Becomes (.copyb p q) s (bumpSeq { t0 with ms := { t0.ms with copies := mput s.seq c s.ms.copies } })
      ((ws.getD 4 0).getLsbD 0 = false → copies none [])
      ∧ ((ws.getD 4 0).getLsbD 0 = true →
          ((partOf s p).epcnt ≤ peer → Becomes (.copyb p q) s (malformed t0 p q idx 5 (nextSlot s p q)))
          ∧ (peer < (partOf s p).epcnt →
              (∀ e, tbl = .error e → Becomes (.copyb p q) s (faultStatus t0 p q idx e))
              ∧ (∀ e, tbl = .ok e → endpointOk e (dw ws 2) len = false → Becomes (.copyb p q) s (malformed t0 p q idx 5 (nextSlot s p q)))
              ∧ (∀ e, tbl = .ok e → endpointOk e (dw ws 2) len = true → copies (some peer) e)))
      ∧ ∀ e : List W64, endpointOk e (dw ws 2) len = true ↔ (e.getD 2 0).extractLsb' 48 16 = 0 ∧ (e.getD 3 0).extractLsb' 40 24 = 0 ∧ (e.getD 3 0).extractLsb' 0 16 = 0
          ∧ (e.getD 4 0).extractLsb' 0 32 ≠ 0 ∧ (len = 0 ∨ (dw e 5 ≤ dw ws 2 ∧ dw ws 2 + len ≤ dw e 5 + dw e 6)))
    ∧ (PacketStarts s p q 5 ws →
      let n := ((ws.getD 2 0).extractLsb' 0 9).toNat
      let tag : BitVec 32 := (ws.getD 3 0).extractLsb' 0 32
      (n = 0 ∨ 256 < n → Becomes (.policy p q) s (malformed t0 p q idx 8 a))
      ∧ (∀ e, 1 ≤ n → n ≤ 256 → devWords t0 p a ((n + 3) / 4) = .error e → Becomes (.policy p q) s (faultStatus t0 p q idx e))
      ∧ (∀ (d : List W64) (prog : List (BitVec 16)), 1 ≤ n → n ≤ 256 → devWords t0 p a ((n + 3) / 4) = .ok d → prog.length = n →
          (∀ k, k < n → prog[k]? = some ((d.getD (k / 4) 0).extractLsb' (16 * (k % 4)) 16)) →
          (wagOk prog = false → Becomes (.policy p q) s (malformed t0 p q idx 8 a))
          ∧ (wagOk prog = true → ∃ t, Becomes (.policy p q) s (endEffect t p q idx 1) ∧ t.ms = t0.ms ∧
              let x := partOf t p
              x.policy = prog ∧ x.inst = true ∧ x.vertag = tag ∧ x.installs = (partOf s p).installs + 1
              ∧ x.sw = (if (ws.getD 2 0).getLsbD 16 then (partOf s p).sw else [0, 0, 0, 0, 0, 0, 0, 0]) ∧ x.rand = (if tag = 0 then 1 else tag))))
    ∧ (PacketStarts s p q 11 ws →
      (∀ e, devPut t0 p a 8 (s.gtime % 2 ^ 64) = .error e → Becomes (.marker p q) s (faultStatus t0 p q idx e))
      ∧ ∀ u, devPut t0 p a 8 (s.gtime % 2 ^ 64) = .ok u → Becomes (.marker p q) s (endEffect u p q idx 1))

/-- The privileged packets, started and well-formed. FWIN installs its window at once (R264, R266). TLBINV leaves no TLB a translation of its
range, and ends when no access made before it is in flight (R163). SEAL and UNSEAL are judged over their range, rewrite the mode and version of
every leaf's entries, and invalidate the range; SEAL then walks it, and UNSEAL advances PSEALV.NEXT where a page carried it (R160, R360). RESUME
acts on a parked context of its partition, or on the task that was parked there and has been saved (R329; found by the slot it was parked in: the
model's choice, log entry 100), action 0 leaving RETRIES and LASTACT (its choice, log entry 113). -/
def Obligations.PrivilegedPacketsHaveTheirEffects : Prop :=
  (∀ (s : State) (p q : Nat) (ws : List W64),
    let idx := pktKey (queueOf s p q)
    let t0 := started s p q ws
    let bad := malformed t0 p q idx 5 (nextSlot s p q)
    let va := dw ws 1
    let len := dw ws 2
    let apart : TlbEntry → Prop := fun e => e.part = p → len ≠ 0 ∧ (va + len ≤ e.base ∨ e.base + e.size ≤ va)
    let purged : State → Prop := fun t => (∀ k, ∀ e ∈ (mget {} k t.combs).tlb, apart e) ∧ ∀ k, ∀ e ∈ (mget {} k t.dies).tlb, apart e
    (PacketStarts s p q 6 ws →
      (windowOk (dw ws 1) (dw ws 2) (dw ws 3) (dw ws 4) = false → Becomes (.fwin p q) s bad)
      ∧ (windowOk (dw ws 1) (dw ws 2) (dw ws 3) (dw ws 4) = true → ∃ t k, Becomes (.fwin p q) s t ∧ t.ms = t0.ms
          ∧ mget {} (dw ws 5) (partOf t p).fwin = { base := ws.getD 1 0, fin := ws.getD 2 0, sbase := ws.getD 3 0, ctl := ws.getD 4 0 }
          ∧ (∀ j, j ≠ dw ws 5 → mget {} j (partOf t p).fwin = mget {} j (partOf s p).fwin)
          ∧ mfind idx (queueOf t p q).pkts = some k ∧ k.words = ws ∧ k.status = none ∧ k.wait = some s.seq))
    ∧ (PacketStarts s p q 7 ws → ∃ t, Becomes (.tlbinv p q) s (modPkt t p q idx (fun k => { k with wait := some s.seq })) ∧ purged t ∧ t.ms.mem = t0.ms.mem)
    ∧ (∀ undo ty i, (undo = false ∧ ty = 8 ∧ i = .sealRange p q) ∨ (undo = true ∧ ty = 9 ∧ i = .unsealRange p q) → PacketStarts s p q ty ws →
        let scan := sealScan t0 p va (va + len) (if undo then 1 else 0) (len / 65536 + 1) va
        (scan = .bad → Becomes i s bad)
        ∧ (∀ c a, scan = .fail c a → Becomes i s (faultStatus t0 p q idx (c, a)))
        ∧ (∀ ls, scan = .ok ls →
            let words := leafWords t0 p ls
            let n := nextMsg s p q
            let t1 : State := { t0 with ms := undelay t0.ms n }
            (words.any (homeBusy t0) = true → Becomes i s (modPkt (delayFor (snoopWords t0 words) n words) p q idx (fun k => { k with wait := none, note := 2 })))
            ∧ (words.any (homeBusy t0) = false → len = 0 → Becomes i s (modPkt t1 p q idx (fun k => { k with wait := some s.seq, note := 0 })))
            ∧ (words.any (homeBusy t0) = false → len ≠ 0 →
                let u := rewriteLeaves t1 p ls (if undo then 0 else 1) (if undo then 0 else (partOf s p).sealv)
                let note := if undo ∧ ∃ l ∈ ls, pteSver l.pte = (partOf s p).sealv then 1 else 0
                ∃ t, Becomes i s (modPkt t p q idx (fun k => { k with wait := some t.seq, note := note })) ∧ t = invalidate u p va len ∧ purged t)))
    ∧ (PacketStarts s p q 10 ws →
        let c := ((ws.getD 1 0).extractLsb' 0 12).toNat
        let act := ((ws.getD 1 0).extractLsb' 16 3).toNat
        let x := ctxOf s c
        let vec := (partOf s x.part).tvec
        let ends : State → State := fun u => requestDispatch (endEffect u p q idx 1) p
        let saved := savedParked t0 p c
        let parked : Prop := (x.phase = .parked ∨ ∃ full, x.phase = .saving full true) ∧ x.part = p
        let on : Phase := match x.phase with | .saving full _ => .saving full false | _ => .running
        (¬parked → saved = none → Becomes (.resume p q) s bad)
        ∧ (∀ (r : Nat) (v : Saved), ¬parked → saved = some (r, v) →
            let runs : TrapRegs → W64 → State := fun t next =>
              ends (modLaunch { t0 with saves := mput r { v with trap := t, next := next, parked := false, parkedAt := none } t0.saves }
                v.task.launch (fun l => { l with preempted := l.preempted ++ [r] }))
            let vec := (partOf s p).tvec
            (act = 0 → v.trap.df = false → Becomes (.resume p q) s (runs v.trap v.trap.tepc))
            ∧ (act = 1 → v.trap.df = false → vec ≠ 0 → Becomes (.resume p q) s (runs { v.trap with lastact := 2, hm := true, trd := false } vec))
            ∧ (act = 0 ∨ act = 1 → v.trap.df = true → vec ≠ 0 → Becomes (.resume p q) s (runs { v.trap with df := false, hm := true, trd := false } vec))
            ∧ (vec = 0 → (act = 0 ∧ v.trap.df = true) ∨ act = 1 → ∃ t, Becomes (.resume p q) s (ends t)
                ∧ mfind r t.saves = some { v with trap := { v.trap with lastact := 3 } } ∧ t.launches = t0.launches)
            ∧ (act = 2 → Becomes (.resume p q) s (ends (pumpAll (killSaved t0 r))))
            ∧ (act = 3 → Becomes (.resume p q) s (ends (pumpAll (killLaunch t0 v.task.launch)))))
        ∧ (parked →
            let goes : Ctx → Prop := fun y => Becomes (.resume p q) s (ends (markBound (setCtx t0 c { y with phase := on }) c))
            (act = 0 → x.trap.df = false → goes { x with next := x.trap.tepc })
            ∧ (act = 1 → x.trap.df = false → vec ≠ 0 → goes { x with next := vec, trap := { x.trap with lastact := 2, hm := true, trd := false } })
            ∧ (act = 0 ∨ act = 1 → x.trap.df = true → vec ≠ 0 → goes { x with next := vec, trap := { x.trap with df := false, hm := true, trd := false } })
            ∧ (vec = 0 → (act = 0 ∧ x.trap.df = true) ∨ act = 1 → Becomes (.resume p q) s
                (ends (taskRecord (setCtx t0 c { x with trap := { x.trap with lastact := 3 } }) c 1 (some 3))))
            ∧ (act = 2 → Becomes (.resume p q) s (ends (pumpAll (killTask t0 c))))
            ∧ ∀ k, act = 3 → x.task = some k → Becomes (.resume p q) s (ends (pumpAll (killLaunch t0 k.launch))))))
  ∧ (∀ (e : W64) (mode sver : Nat), mode < 4 → sver < 2 ^ 16 → let y := withMode e mode sver
      (y.extractLsb' 6 2).toNat = mode ∧ (y.extractLsb' 48 16).toNat = sver ∧ y.extractLsb' 0 6 = e.extractLsb' 0 6 ∧ y.extractLsb' 8 40 = e.extractLsb' 8 40)
  ∧ ∀ (s : State) (p q n : Nat) (k : Packet), k.wait = some n →
      (pkType k.words = 6 → packetWait s p q k = if tldBefore s p n then s else endEffect s p q k.idx 1)
      ∧ (pkType k.words = 7 → packetWait s p q k = if inFlightBefore s p n then s else endEffect s p q k.idx 1)
      ∧ (pkType k.words = 8 → inFlightBefore s p n = false → ∃ w, mfind s.seq (packetWait s p q k).ms.walks = some w ∧ w.kind = .clean ∧ w.at_ = 0
          ∧ w.pkt = some (p, q, k.idx) ∧ w.ranges = (physRanges s p (dw k.words 1) (dw k.words 2)).filter (fun r => isLocal (8 * r.1)))
      ∧ (pkType k.words = 9 → inFlightBefore s p n = false → ∃ t, packetWait s p q k = endEffect t p q k.idx 1
          ∧ (partOf t p).sealv = (if k.note = 1 then (if (partOf s p).sealv = 0xFFFF then 1 else (partOf s p).sealv + 1) else (partOf s p).sealv)
          ∧ t.ms = if k.note = 1 ∧ (partOf s p).sealv = 0xFFFF then (purgeSealed s (physRanges s p (dw k.words 1) (dw k.words 2))).ms else s.ms)
      ∧ ∀ j : Packet, j.wait = none → j.note = 2 → (pkType j.words = 8 → packetWait s p q j = startSeal s p q j.idx j.words false)
          ∧ (pkType j.words = 9 → packetWait s p q j = startSeal s p q j.idx j.words true)

/-- A Waggle program is charged its cycles (R309): the one of R313 picks the oldest ready queue and the owned frame with the most free slots in 13
cycles, and takes 5 elsewhere. Every decision counts; an overrun discards the program's writes (R311). Dispatch places what the policy picks,
else the default: the head of highest priority, then greatest age, then lowest queue, in the lowest open frame with room; a decision that places
nothing is retried after 10 µs (R303, R306, R307). A pre-emption decision requests its victim or sets INV (R311). A fault decision kills,
delivers to the handler, parks or retries; a double fault's delivery or retry parks (R326 to R329). -/
def Obligations.DecisionsFollowThePolicyOrTheDefault : Prop :=
  (∀ (view : Nat → Nat → Nat) (elig : Nat → Nat → Bool) (sw : List (BitVec 32)) (rand : BitVec 32),
    let r := wagRun view elig [0x1800, 0x8000, 0x9804, 0xC912, 0xCA21, 0xD102, 0x0000] 257 { sw := sw, rand := rand }
    (view 0 0 = 0 → r.1 = .pick (wagArg view elig 18 true).toNat (wagArg view elig 33 true).toNat ∧ r.2.cycles = 13)
    ∧ (view 0 0 = 1 ∨ view 0 0 = 2 → r.1 = .none ∧ r.2.cycles = 5))
  ∧ (∀ (view : Nat → Nat → Nat) (elig : Nat → Nat → Bool) (f : Nat) (most : Bool),
      ((∀ k, k < viewEntries f → elig f k = false) → wagArg view elig f most = 0xFFFFFFFF)
      ∧ ∀ k, k < viewEntries f → elig f k = true → ∃ b, b < viewEntries f ∧ elig f b = true ∧ wagArg view elig f most = BitVec.ofNat 32 b
          ∧ (most = true → view f k ≤ view f b ∧ (k < b → view f k < view f b)) ∧ (most = false → view f b ≤ view f k ∧ (k < b → view f b < view f k)))
  ∧ (∀ (s : State) (p kind : Nat) (waitq : Option Nat) (fv : Option FaultView),
      let x := partOf s p
      let r := runPolicy s p kind waitq fv
      let y := partOf r.2 p
      let u : State := { s with fresh := s.fresh + 64 }
      let g := wagRun (viewOf u p kind waitq fv) (viewElig u p) x.policy 257 { sw := x.sw, rand := x.rand }
      y.decn = x.decn + 1 ∧ (x.inst = false → r.1 = .none ∧ y.sw = x.sw ∧ y.rand = x.rand ∧ y.lastovr = false)
      ∧ (x.inst = true → r.1 = g.1 ∧ y.rand = g.2.rand
          ∧ (g.1 = .overrun → y.sw = x.sw ∧ y.ovr = true ∧ y.povrn = x.povrn + 1 ∧ y.lastovr = true)
          ∧ (g.1 ≠ .overrun → y.sw = g.2.sw ∧ y.ovr = x.ovr ∧ y.povrn = x.povrn ∧ y.lastovr = false)))
  ∧ (∀ (s : State) (p : Nat) (h : Nat × Nat), defaultHead s p = some h → h ∈ headLaunches s p ∧ ∀ g ∈ headLaunches s p,
      let a := launchOf s h.2
      let b := launchOf s g.2
      b.prio < a.prio ∨ b.prio = a.prio ∧ (a.lastPlaced < b.lastPlaced ∨ a.lastPlaced = b.lastPlaced ∧ h.1 ≤ g.1))
  ∧ (∀ (s t : State) (p l : Nat), placeDefault s p l = some t → ∃ f ∈ openFrames s p, placeLaunch s l f (openFrames s p) = some t
      ∧ ∀ g ∈ openFrames s p, g < f → placeLaunch s l g (openFrames s p) = none)
  ∧ (∀ (s : State) (p : Nat), nextDecision s p = some .dispatch →
      let r := runPolicy (popDecision s p) p 0 none none
      let u := r.2
      let placed : State → Prop := fun t => Becomes (.dispatchDecision p) s t
      let deferred : State → Prop := fun v => Becomes (.dispatchDecision p) s
        (modPart v p (fun x => { x with retryAt := x.retryAt ++ [s.gtime + 10000] }))
      let default_ : State → Prop := fun v =>
        (∀ h t, defaultHead v p = some h → placeDefault v p h.2 = some t → placed t)
        ∧ (defaultHead v p = none → deferred v) ∧ (∀ h, defaultHead v p = some h → placeDefault v p h.2 = none → deferred v)
      (r.1 = .defer → deferred u)
      ∧ (∀ q f l t, r.1 = .pick q f → f ∈ openFrames u p → headOf u p q = some l → placeLaunch u l f (openFrames u p) = some t → placed t)
      ∧ (∀ q f, r.1 = .pick q f → f ∉ openFrames u p ∨ headOf u p q = none ∨ (∃ l, headOf u p q = some l ∧ placeLaunch u l f (openFrames u p) = none) →
          default_ (modPart u p (fun x => { x with inv := true })))
      ∧ (r.1 ≠ .defer → (∀ q f, r.1 ≠ .pick q f) → default_ u))
  ∧ (∀ (s : State) (p : Nat),
      ((∀ t ∈ (partOf s p).retryAt, s.gtime < t) → Becomes (.dispatchRetry p) s s)
      ∧ ∀ t ∈ (partOf s p).retryAt, t ≤ s.gtime → Becomes (.dispatchRetry p) s
          (requestDispatch (modPart s p (fun x => { x with retryAt := x.retryAt.filter (fun t => decide (s.gtime < t)) })) p))
  ∧ (∀ (s : State) (p q : Nat), nextDecision s p = some (.preempt q) →
      let r := runPolicy (popDecision s p) p 1 (some q) none
      let u := r.2
      (∀ c, r.1 = .vict c → c ≠ 0xFFFFFFFF →
        let x := ctxOf u c
        (c < 4096 → x.phase = .running ∨ x.phase = .growing ∨ x.phase = .barrier ∨ x.phase = .deciding → x.part = p → pinnedCtx u x = false → x.preempt = none →
          Becomes (.preemptionDecision p q) s (requestPreempt u c false))
        ∧ (4096 ≤ c ∨ x.phase = .free ∨ x.phase = .parked ∨ x.part ≠ p ∨ pinnedCtx u x = true ∨ x.preempt ≠ none →
          Becomes (.preemptionDecision p q) s (modPart u p (fun x => { x with inv := true }))))
      ∧ (r.1 = .vict 0xFFFFFFFF ∨ (∀ c, r.1 ≠ .vict c) → Becomes (.preemptionDecision p q) s u))
  ∧ ∀ (s : State) (c : Nat),
      (faultNext s c = none → Becomes (.faultDecision c) s s)
      ∧ ∀ dbl, faultNext s c = some dbl →
        let p := (ctxOf s c).part
        let r := runPolicy (popDecision s p) p 2 none (some (faultView (popDecision s p) c dbl))
        ((ctxOf s c).phase ≠ .deciding → Becomes (.faultDecision c) s (popDecision s p))
        ∧ ((ctxOf s c).phase = .deciding → ∃ act,
            (∀ k, r.1 = .act k → act = if dbl = true ∧ (k = 2 ∨ k = 4) then 3 else k) ∧ ((∀ k, r.1 ≠ .act k) → act = 3) ∧
            let v := if dbl then taskRecord r.2 c 3 (some act) else r.2
            let x := ctxOf v c
            let vec := (partOf v x.part).tvec
            let killed : Nat → State := fun k => taskRecord (setCtx v c { x with trap := { x.trap with lastact := BitVec.ofNat 4 k } }) c 2 (some k)
            let n : BitVec 8 := if x.trap.retries = 255 then 255 else x.trap.retries + 1
            let parks : BitVec 8 → Prop := fun n => x.preempt = none → Becomes (.faultDecision c) s
              (taskRecord (setCtx v c { x with phase := .parked, trap := { x.trap with retries := n, lastact := 3 } }) c 1 (some 3))
            (act = 0 → Becomes (.faultDecision c) s (pumpAll (killTask (killed 0) c)))
            ∧ (∀ t, act = 1 → x.task = some t → Becomes (.faultDecision c) s (pumpAll (killLaunch (killed 1) t.launch)))
            ∧ (act = 2 → vec ≠ 0 → Becomes (.faultDecision c) s
                (markBound (setCtx v c { x with phase := .running, next := vec, trap := { x.trap with lastact := 2, hm := true, trd := false } }) c))
            ∧ (act = 3 ∨ (act = 2 ∧ vec = 0) → parks x.trap.retries)
            ∧ (act = 4 → x.trap.retries.toNat < 16 → Becomes (.faultDecision c) s
                (markBound (setCtx v c { x with phase := .running, next := x.trap.tepc, trap := { x.trap with retries := n, lastact := 4 } }) c))
            ∧ (act = 4 → 16 ≤ x.trap.retries.toNat → parks n))

/-- At each check the oldest ready launch past the starvation floor is placed by default or begins a reservation, PPRE's pre-emption decisions
are requested, and of the gangs past PTGANG and the launches past the floor the oldest begins a reservation of as many frames as it needs,
least used first, or, past the floor, is placed where it fits at once (R303, R314, R315); where pinned contexts leave no such frames it takes
those that would do without them, and waits (the model's reading, log 80). A reserving launch is placed once it fits; after PTCOMP the frames are
compacted (R315). A context that commits no block for 1 ms after a pre-emption request stops with full state, or sets POOL when the pool lacks
room (R317, R319); its record holds the state of R318 with the CRC of its run, and its slot is freed; a pre-emption waits for pool room and is
made again, where room has freed (log 25), and a record that cannot be read or fails its CRC kills its task (R319, R336). The watchdog traps at 2^20 cc, and counts anew (R332; log 77). -/
def Obligations.TimersReserveSaveAndWatch : Prop :=
  (∀ (s : State) (p : Nat),
    let x := partOf s p
    let heads := (headLaunches s p).map (·.2)
    let old : Nat → Nat → Prop := fun us l => 1000 * us < s.gtime - (launchOf s l).lastPlaced
    let oldest : (Nat → Prop) → Nat → Prop := fun ok l => l ∈ heads ∧ ok l ∧ ∀ g ∈ heads, ok g → (launchOf s l).lastPlaced ≤ (launchOf s g).lastPlaced
    let turn : Nat → Prop := fun l => old x.starve l ∨ kGang (launchOf s l).hdr = true ∧ old x.tgang l
    (¬(isUp s = true ∧ x.en = true ∧ x.checkAt ≤ s.gtime) → Becomes (.starvationCheck p) s s)
    ∧ (isUp s = true → x.en = true → x.checkAt ≤ s.gtime → Becomes (.starvationCheck p) s
        (modPart (gangCheck (preemptCheck (floorCheck s p) p) p) p (fun x => { x with checkAt := s.gtime + 100000 })))
    ∧ (isUp s = true → x.en = true → ownedFrames s p ≠ [] → (∃ l ∈ heads, old x.starve l) →
        ∃ l, oldest (old x.starve) l ∧ floorCheck s p = (placeDefault s p l).getD (beginReservation s p l))
    ∧ (isUp s = false ∨ (∀ l ∈ heads, ¬old x.starve l) → floorCheck s p = s)
    ∧ (isUp s = false → Becomes (.reservation p) s s ∧ Becomes (.compaction p) s s)
    ∧ (x.ppre = 0 → preemptCheck s p = s)
    ∧ ((∃ l ∈ heads, turn l) → ∃ l, oldest turn l
        ∧ (old x.starve l → x.reserve = none → gangCheck s p = (placeDefault s p l).getD (beginReservation s p l))
        ∧ (¬old x.starve l ∨ x.reserve ≠ none → gangCheck s p = beginReservation s p l))
    ∧ ((∀ l ∈ heads, ¬turn l) → gangCheck s p = s)
    ∧ (∀ r, isUp s = true → x.reserve = some r →
        let mine := r.frames.filter (frameUsable s p)
        (launchReady (launchOf s r.launch) = false → Becomes (.reservation p) s (modPart s p (fun x => { x with reserve := none })))
        ∧ (∀ f t, launchReady (launchOf s r.launch) = true → mine.head? = some f → placeLaunch s r.launch f mine = some t → Becomes (.reservation p) s t)
        ∧ (launchReady (launchOf s r.launch) = true → (∀ f ∈ mine, placeLaunch s r.launch f mine = none) → Becomes (.reservation p) s s)
        ∧ (r.compacted = false → r.since + 1000 * x.tcomp ≤ s.gtime → Becomes (.compaction p) s (compactFrames s p r))
        ∧ (r.compacted = true ∨ s.gtime < r.since + 1000 * x.tcomp → Becomes (.compaction p) s s))
    ∧ (x.reserve = none → Becomes (.compaction p) s s ∧ (gangDue s p = true → Becomes (.reservation p) s (gangCheck s p)) ∧ (gangDue s p = false → Becomes (.reservation p) s s))
    ∧ (∀ l fs, x.reserve = none → reserveFrames s p l = some fs →
        beginReservation s p l = modPart s p (fun x => { x with reserve := some { launch := l, frames := fs, since := s.gtime } })
        ∧ let fits : (State → List Nat → State) → Nat → Bool := fun clear m => fitsIn (clear s ((framesByUse s p).take m)) l ((framesByUse s p).take m)
          let all := (framesByUse s p).length
          ∃ n, 1 ≤ n ∧ n ≤ all ∧ fs = (framesByUse s p).take n
            ∧ (fits withoutResidents n = true ∧ (∀ m, 1 ≤ m → m < n → fits withoutResidents m = false)
              ∨ (∀ m, 1 ≤ m → m ≤ all → fits withoutResidents m = false) ∧ fits withoutAny n = true ∧ ∀ m, 1 ≤ m → m < n → fits withoutAny m = false))
    ∧ (∀ l, x.reserve ≠ none ∨ reserveFrames s p l = none → beginReservation s p l = s)
    ∧ (framesByUse s p).Pairwise (fun a b => (frameCtxs s a).length < (frameCtxs s b).length ∨ (frameCtxs s a).length = (frameCtxs s b).length ∧ a < b))
  ∧ (∀ (s : State) (c : Nat),
      let x := ctxOf s c
      (preemptOverdue s c = false → Becomes (.preemptTimeout c) s s)
      ∧ (∀ r, x.phase = .running ∨ x.phase = .growing ∨ x.phase = .barrier → x.retired = false → x.preempt = some r → r.blocks = 0 → r.since + 1000000 ≤ s.gtime →
          c ∉ (partOf s x.part).poolRetry → c ∉ (partOf s x.part).writeRetry →
          (∀ run, poolRun s c true = some run → ∃ t, Becomes (.preemptTimeout c) s t ∧
            let y := ctxOf t c
            y.phase = .saving true false ∧ y.saveAt = some run ∧ y.blocks = [] ∧ y.sqc = x.sqc + BitVec.ofNat 64 x.blocks.length ∧ y.regs = x.regs ∧ y.next = x.next
            ∧ y.releases = x.releases ++ [{ id := s.seq, fence := false }])
          ∧ (poolRun s c true = none → ∃ t, Becomes (.preemptTimeout c) s t ∧ ctxOf t c = x ∧ (partOf t x.part).pool = true ∧ c ∈ (partOf t x.part).poolRetry
              ∧ ((partOf s x.part).poolRetry = [] → retryReady t x.part = [])))
      ∧ (x.saveAt = none → Becomes (.saveComplete c) s s)
      ∧ (x.saveAt ≠ none →
          let u := pumpCtx s c
          let y := ctxOf u c
          (saveReady u c y = false → Becomes (.saveComplete c) s u)
          ∧ ∀ full pk t run, y.phase = .saving full pk → y.task = some t → y.saveAt = some run → saveReady u c y = true →
              devRange u y.part ((partOf u y.part).saveb.toNat + 65536 * run.1) (65536 * run.2) .wr = none →
              ∃ w v crc, Becomes (.saveComplete c) s w ∧ saveRecord u c full run.2 (2 * run.1) = some v ∧ mfind u.seq w.saves = some { v with crc := crc }
                ∧ (ctxOf w c).phase = .free
                ∧ (launchOf w t.launch).preempted = if pk then (launchOf u t.launch).preempted else (launchOf u t.launch).preempted ++ [u.seq])
      ∧ (∀ full units place v, saveRecord s c full units place = some v →
          v.saveSet = x.saveSet ∧ v.live = x.live ∧ v.ranges = savedRanges x full ∧ v.below = x.asides ∧ v.unsealFault = unsealedFault s x ∧
          x.task = some v.task ∧ v.ppr = x.ppr ∧ v.rpc = x.rpc ∧ v.sqc = x.sqc ∧ v.h = x.h ∧ v.trap = x.trap ∧ v.next = x.next ∧ v.batch = x.batch ∧ v.batFault = x.batFault
          ∧ v.bar = x.bar ∧ v.arrived = x.arrived ∧ (full = true → v.regs = x.regs)
          ∧ (∀ m n, full = false → x.live = some m → mget (.s 0) n v.regs = if m.testBit n then mget (.s 0) n x.regs else .s 0))
      ∧ (stuckCtx s c = false → Becomes (.noProgress c) s s)
      ∧ (∀ b rest, x.phase = .running → x.blocks = b :: rest → heldStill s c x = false → 2 ^ 20 ≤ x.idle →
          Becomes (.noProgress c) s (modCtx (takeTrap s c 0x13 0 b.addr 0x3FF) c (fun y => { y with idle := 0 }))))
  ∧ (∀ (s : State) (launch r : Nat) (room : Nat × SMap (Nat × Nat) × Nat) (v : Saved), mfind r s.saves = some v →
      (∀ u, recordFails s v = some u → placeSaved s launch r room = killSaved u r)
      ∧ (recordFails s v = none → let t := placeSaved s launch r room
          let y := ctxOf t room.1
          y.task = some v.task ∧ y.ppr = v.ppr ∧ y.rpc = v.rpc ∧ y.sqc = v.sqc ∧ y.h = v.h ∧ y.trap = v.trap ∧ y.next = v.next ∧ y.regs = v.regs
          ∧ y.batch = v.batch ∧ y.batFault = v.batFault ∧ y.bar = v.bar ∧ y.arrived = v.arrived ∧ y.saveSet = v.saveSet ∧ y.live = v.live
          ∧ t.saves = mdel r s.saves
          ∧ (v.place % 2 = 0 → retryReady t (launchOf s v.task.launch).part = (partOf s (launchOf s v.task.launch).part).poolRetry)))
  ∧ ∀ (s : State) (p : Nat),
      (retryReady s p = [] → Becomes (.preemptRetry p) s s)
      ∧ ∀ c, retryReady s p = [c] → (ctxOf s c).phase ≠ .parked → ∃ t, Becomes (.preemptRetry p) s t ∧ (partOf t p).poolRetry = serase c (partOf s p).poolRetry
        ∧ ctxOf t c = { ctxOf s c with preempt := (ctxOf s c).preempt.map (fun r => { r with since := s.gtime, blocks := 0 }) } ∧ t.ms = s.ms
        ∧ retryReady t p = []

/-- A request from outside is performed once no earlier one that keeps its order is outstanding and its words need not wait; one that waits for
leases holds its regions' readers back (R161, R359); a fault record that waited is written once they have ended. A host read returns its 64-byte line, owned words fetched first, and the slice tracks the line,
where it has room, else another is back-invalidated and the read waits (log 17); a host write is registered with the host as owner, after any lease on its region has ended; the
response to a back-invalidate clears the presence bit, dirty data written first, and fault records that waited go on (R150, R161, R346; log 17). The host also reads and writes registers in its
reach and its own memory (R343). A fabric request is performed only in an enabled inbound window, a write only with WR; any other is refused (log 50), and a
remote lease is recorded for the length of an owner of the die's frames, or 10 µs (R161, R354; log 12). An inbound RDMA operation is served by the first table
entry that names its key (R359), refused where reserved bits are set (log 51). The order of the host's, other modules' and the network's requests is the model's own (log entries 6 and 101). -/
def Obligations.OutsideRequestsReachTheirHomes : Prop :=
  (∀ (s : State) (n : Nat) (o : Outside), mfind n s.ms.outside = some o →
    let behind : Prop := ∃ k ∈ s.ms.outside, k.1 < n ∧ sameOrder k.2 o = true
    (behind → tryOutside s n = s)
    ∧ (∀ t, ¬behind → outsidePerform s o = some t → tryOutside s n = { t with ms := undelay { t.ms with outside := mdel n t.ms.outside } n })
    ∧ (¬behind → outsidePerform s o = none → tryOutside s n = outsideWait s n o)
    ∧ (mfind n s.ms.delayed = none → Becomes (.leasedWriteApply n) s (tryOutside s n))
    ∧ (∀ k d, mfind k s.ms.delayed = some d → d.msg = n → d.until_ < s.gtime →
        mfind n s.ms.regs = none → mfind n s.ms.uwrites = none → mfind n s.ms.amos = none → mfind n s.ms.copies = none →
        (n < 2 ^ 95 → Becomes (.leasedWriteApply k) s (tryOutside s n))
        ∧ (2 ^ 95 ≤ n → let t := tryOutside s n
            Becomes (.leasedWriteApply k) s { t with ms := { t.ms with delayed := mdel k t.ms.delayed } }))
    ∧ ∀ w ∈ outsideWrites s o, leased s w = true → (∀ d ∈ s.ms.delayed, d.1 < s.seq) → delayedAt (outsideWait s n o) w = true)
  ∧ (∀ (s : State) (k p : Nat) (d : Delayed), mfind k s.ms.delayed = some d → d.msg = recordMsg p → p < 2 ^ 95 → d.until_ < s.gtime →
      mfind d.msg s.ms.regs = none → mfind d.msg s.ms.uwrites = none → mfind d.msg s.ms.amos = none → mfind d.msg s.ms.copies = none → mfind d.msg s.ms.outside = none →
      let t := drainRecords s p (partOf s p).records.length
      Becomes (.leasedWriteApply k) s { t with ms := { t.ms with delayed := mdel k t.ms.delayed } })
  ∧ (∀ (s : State) (pa : Nat),
    let o := Outside.hostRead pa
    let u := arrived s o
    let w := pa / 64 * 8
    let held : Prop := ∃ k, k < 8 ∧ (withheld s.ms (w + k) = true ∨ delayedAt s (w + k) = true)
    let full := trackRoom s.ms (pa / 64) = false
    (¬(s.md.power = .running ∧ isLocal pa = true) → Becomes (.hostRead (.device pa)) s s)
    ∧ (s.md.power = .running → isLocal pa = true →
        (Behind s o → Becomes (.hostRead (.device pa)) s u)
        ∧ (¬Behind s o → held ∨ full → ∃ t, Becomes (.hostRead (.device pa)) s t ∧ t.ms.lastHostRead = s.ms.lastHostRead ∧ mfind s.seq t.ms.outside = some o
            ∧ t.ms.caches = s.ms.caches ∧ t.ms.hives = s.ms.hives ∧ t.ms.mem = s.ms.mem
            ∧ ∀ l, lineToSnoop s.ms (pa / 64) = some l → full →
                ((∀ k ∈ s.ms.snoops, homeSlice (64 * k) ≠ homeSlice (64 * l)) → t.ms.snoops = sinsert l s.ms.snoops)
                ∧ ((∃ k ∈ s.ms.snoops, homeSlice (64 * k) = homeSlice (64 * l)) → t.ms.snoops = s.ms.snoops))
        ∧ (¬Behind s o → ¬held → ¬full → ∃ t d poison, Becomes (.hostRead (.device pa)) s t ∧ t.ms.lastHostRead = some (d, poison)
            ∧ hostHas t.ms (pa / 64) = true ∧ t.ctxs = s.ctxs ∧ d.extractLsb' 0 64 = (coherentWord s.ms w).1
            ∧ ((∀ k c, k < 8 → mfind (w + k) s.ms.owners ≠ some (.comb c)) →
                (poison = true ↔ ∃ k, k < 8 ∧ (homeWord s.ms (w + k)).2 = true) ∧ ∀ k, k < 8 → d.extractLsb' (64 * k) 64 = (homeWord s.ms (w + k)).1))))
  ∧ (∀ (s : State) (fn off a : Nat),
      let seen : Option (BitVec 512 × Bool) → State := fun v => { s with ms := { s.ms with lastHostRead := v } }
      (off < Config.cfgBytes → cfgReach s (.hostFn fn) off = true → Becomes (.hostRead (.cfg fn off)) s (seen (some ((cfgRead s (off / 8 * 8)).zeroExtend 512, false))))
      ∧ (Config.cfgBytes ≤ off ∨ cfgReach s (.hostFn fn) off = false → Becomes (.hostRead (.cfg fn off)) s (seen none))
      ∧ ∃ p, Becomes (.hostRead (.hostMem a)) s (seen (some (BitVec.ofNat 512 (remoteRead s.ms (remoteKey 4096 (a / 64 * 64)) 64), p))))
  ∧ (∀ (s : State) (pa n : Nat) (data : BitVec 512),
      let o := Outside.hostWrite pa n data
      let open_ : Prop := s.md.power = .running ∧ isLocal pa = true ∧ 1 ≤ n ∧ pa % 64 + n ≤ 64
      (¬open_ → Becomes (.hostWrite (.device pa) n data) s s)
      ∧ (open_ → Behind s o → Becomes (.hostWrite (.device pa) n data) s (arrived s o))
      ∧ (open_ → ¬Behind s o → (∃ w ∈ wordsOf pa n, withheld s.ms w = true ∨ leased s w = true) →
          ∃ t, Becomes (.hostWrite (.device pa) n data) s t ∧ mfind s.seq t.ms.outside = some o
            ∧ t.ms.caches = s.ms.caches ∧ t.ms.hives = s.ms.hives ∧ t.ms.mem = s.ms.mem ∧ t.ms.owners = s.ms.owners)
      ∧ (open_ → ¬Behind s o → MemoryCanonical s → pa % 8 + n ≤ 8 → withheld s.ms (pa / 8) = false → leased s (pa / 8) = false →
          ∃ t, Becomes (.hostWrite (.device pa) n data) s t ∧ mfind (pa / 8) t.ms.owners = some .host
              ∧ ∀ j, j < n → (homeWord t.ms (pa / 8)).1.extractLsb' (8 * (pa % 8 + j)) 8 = data.extractLsb' (8 * j) 8))
  ∧ (∀ (s : State) (fn off a n : Nat) (data : BitVec 512),
      let reaches := cfgShape off n = true ∧ off + n ≤ Config.cfgBytes ∧ cfgReach s (.hostFn fn) off = true
      (reaches → Becomes (.hostWrite (.cfg fn off) n data) s (cfgWrite s off n data.toNat))
      ∧ (¬reaches → Becomes (.hostWrite (.cfg fn off) n data) s s)
      ∧ ∃ t, Becomes (.hostWrite (.hostMem a) n data) s t ∧ ∀ j, j < min n 64 →
          mget (Config.remoteByte (remoteKey 4096 a + j)) (remoteKey 4096 a + j) t.ms.remote = BitVec.ofNat 8 (data.toNat >>> (8 * j)))
  ∧ (∀ (s : State) (line : Nat) (d : BitVec 512),
      (line ∉ s.ms.snoops → Becomes (.bisnpResponse line none) s s ∧ Becomes (.bisnpResponse line (some d)) s s)
      ∧ (line ∈ s.ms.snoops →
          let ends : Option (BitVec 512) → State → Prop := fun r v => Becomes (.bisnpResponse line r) s (drainAll v) ∧ hostHas (drainAll v).ms line = false
            ∧ ((∀ p ∈ s.parts, p.2.records = []) → drainAll v = v)
          (∃ v, ends none v ∧ v.ms.mem = s.ms.mem ∧ v.ms.owners = s.ms.owners ∧ v.ms.snoops = serase line s.ms.snoops)
          ∧ ∃ v, ends (some d) v ∧ v.ms.mem = (putRange s (64 * line) 64 d.toNat true).ms.mem ∧ v.ms.owners = (putRange s (64 * line) 64 d.toNat true).ms.owners
              ∧ v.ms.snoops = serase line (putRange s (64 * line) 64 d.toNat true).ms.snoops))
  ∧ (∀ (s : State) (pa : Nat) (write : Bool), inboundOk s pa write = true ↔ ∃ w, w < 16 ∧
      let a := mget 0 (2 * w) s.inbound
      let l := mget 0 (2 * w + 1) s.inbound
      a.getLsbD 63 = true ∧ (write = true → a.getLsbD 62 = true) ∧ 4096 * (a.extractLsb' 12 40).toNat ≤ pa ∧ pa < 4096 * (l.extractLsb' 12 40).toNat)
  ∧ (∀ (s : State) (module pa : Nat) (op : FabricOp), s.md.power = .running → module ≠ s.md.modid →
      let o := Outside.fabric module pa op
      let u := arrived s o
      let i := Instr.fabricRequest module pa op
      let accepted : Prop := isLocal pa = true ∧ inboundOk s pa (fabricWrites op) = true
      let goes : Prop := accepted ∧ ¬Behind s o
      let waits := Becomes i s (outsideWait u s.seq o)
      let ws := rangeFrom (pa / 64 * 8) 8
      let atom : StoreOp → Nat → Prop := fun a n =>
        let r := atomicApply a (bits (coherentWord s.ms (pa / 8)).1.toNat (8 * (pa % 8)) (8 * n))
        (homeBusy s (pa / 8) = true → waits)
        ∧ (homeBusy s (pa / 8) = false → Becomes i s (answered s (answer (amoHome u false pa n r.1) (some r.2.toNat))))
      (¬accepted → Becomes i s (answer s none))
      ∧ (accepted → Behind s o → Becomes i s u)
      ∧ (goes → op = .read ∨ op = .lease → ws.any (readBusy s) = true → waits)
      ∧ (goes → op = .read → ws.any (readBusy s) = false → ∃ v d, Becomes i s (answered s (answer v (some d)))
          ∧ d % 2 ^ 64 = (coherentWord s.ms (pa / 64 * 8)).1.toNat ∧ v.ctxs = s.ctxs)
      ∧ (goes → op = .lease → ws.any (readBusy s) = false → ∃ t us, Becomes i s t
          ∧ (us = 10 ∧ (∀ f, f / 16 = homeDie pa → (mget {} f s.frames).owner = none)
            ∨ ∃ f p, f / 16 = homeDie pa ∧ (mget {} f s.frames).owner = some p ∧ us = (partOf s p).lease)
          ∧ s.gtime + 1000 * us ≤ mget 0 (pa / 512) t.ms.leases)
      ∧ (∀ n data, goes → op = .write n data → (wordsOf pa n).any (homeBusy s) = true → waits)
      ∧ (∀ n data, goes → op = .write n data → (wordsOf pa n).any (homeBusy s) = false →
          Becomes i s (answered s (answer (putRange u pa n data.toNat false) (some 0))))
      ∧ (∀ a k v, goes → op = .amo a k v → atom (.amo a k (BitVec.ofNat 64 pa) v .none) (match k with | .w | .wu => 4 | .d | .du => 8))
      ∧ (∀ k c v, goes → op = .cas k c v → atom (.cas k (BitVec.ofNat 64 pa) c v .none) (match k with | .w => 4 | .d => 8)))
  ∧ (∀ (s : State) (p rkey n : Nat) (e : List W64), remoteEntry s p rkey n 0 = .ok (some e) →
      let at_ : Nat → Except (BitVec 8 × Nat) (List W64) := fun k => devWords s p ((partOf s p).mrbase.toNat + 32 * k) 4
      ∃ k, k < n ∧ at_ k = .ok e ∧ ((e.getD 0 0).extractLsb' 32 32).toNat = rkey
        ∧ ∀ j, j < k → ∃ x, at_ j = .ok x ∧ ((x.getD 0 0).extractLsb' 32 32).toNat ≠ rkey)
  ∧ ∀ (s : State) (p qp : Nat) (rkey : BitVec 32) (va : W64) (op : RdmaOp), s.md.power = .running → p < 16 → qp < 2 ^ 24 →
      let o := Outside.rdma p qp rkey va op
      let u := arrived s o
      let i := Instr.inboundRdma p qp rkey va op
      let waits := Becomes i s (outsideWait u s.seq o)
      let refused := Becomes i s (answered s (answer u none))
      let entry := remoteEntry u p rkey.toNat (partOf s p).mrcnt 0
      let z := match op with | .write n _ => n | .read n => n | .fetchAdd _ => 8
      let covers_ : List W64 → Prop := fun e => (e.getD 0 0).extractLsb' 1 31 = 0 ∧ e.getD 3 0 = 0 ∧ ((∀ n, op ≠ .read n) → (e.getD 0 0).getLsbD 0 = true)
        ∧ dw e 1 ≤ va.toNat ∧ va.toNat + z ≤ dw e 1 + dw e 2
      let table := readWaits u p 0 [((partOf s p).mrbase.toNat, 32 * (partOf s p).mrcnt)]
      let goes : Prop := ¬Behind s o ∧ table = none
      (Behind s o → Becomes i s u)
      ∧ (∀ t, ¬Behind s o → table = some t → waits)
      ∧ (∀ e, goes → entry = .error e → Becomes i s (answered s (answer (deviceFault u p e 0 0) none)))
      ∧ (goes → entry = .ok none → refused)
      ∧ (∀ e, goes → entry = .ok (some e) → ¬covers_ e → refused)
      ∧ (∀ e, goes → entry = .ok (some e) → covers_ e →
          (∀ n data, op = .write n data → (rdmaWrite u p va.toNat n data.toNat = none → waits)
            ∧ ∀ t, rdmaWrite u p va.toNat n data.toNat = some t → Becomes i s (answered s t))
          ∧ (∀ n, op = .read n → (rdmaRead u p va.toNat n = none → waits) ∧ ∀ t, rdmaRead u p va.toNat n = some t → Becomes i s (answered s t))
          ∧ (∀ v, op = .fetchAdd v → va.toNat % 8 ≠ 0 → refused)
          ∧ (∀ v c, op = .fetchAdd v → va.toNat % 8 = 0 → devAddr u p va.toNat .rw = .error c → refused)
          ∧ (∀ v pa, op = .fetchAdd v → va.toNat % 8 = 0 → devAddr u p va.toNat .rw = .ok (.home pa) →
              let old := (coherentWord s.ms (pa / 8)).1
              (homeBusy s (pa / 8) = true → waits)
              ∧ (homeBusy s (pa / 8) = false → pa % 8 = 0 →
                  Becomes i s (answered s (answer (amoHome u (devRaw u p va.toNat .rw) pa 8 (old + v).toNat) (some old.toNat)))))
          ∧ ∀ v m a, op = .fetchAdd v → va.toNat % 8 = 0 → devAddr u p va.toNat .rw = .ok (.remote m a) → homeBusy s (remoteTag (remoteKey m a)) = true → waits)

/-- A time exchange sets OFFS and HEALTHY, EPOCH advancing when HEALTHY rises; 1 ms without one clears HEALTHY; a resumed time base advances EPOCH, so
that no lease holds (R162, R356). That an exchange within the bound sets the time forward is the model's reading (log entry 9). A corrected error is counted;
an uncorrectable one poisons its word, at its home or in the one cache that holds the copy, or seals its comb, on which nothing is placed, its pending
words going home as their releases complete (R341; log 42); one that is not seen leaves the sector's code as it was, in memory; elsewhere, where the
code tells it, the sector's words are poisoned at once (R337, R338, R340, R369; an unseen error is the model's event: log entry 102). Power or temperature over its limit lowers the clock by 25 MHz every 100 µs, down to 425
MHz, and 1 ms without raises it again (R367); at 110 °C, however it is read, the module trips (log 52): each partition gets a record of kind 4 and every context is killed (R368). -/
def Obligations.TimeErrorsAndClocksActAsStated : Prop :=
  (∀ (s : State) (ok : Bool) (offs : BitVec 24) (master : Nat),
    let m := s.md
    let runs : Prop := m.power = .running ∧ m.master = false ∧ m.ports ≠ 0 ∧ ok = true
    let fine : Prop := -2000 ≤ offs.toInt ∧ offs.toInt ≤ 2000
    (¬runs → Becomes (.timeExchange ok offs master) s s)
    ∧ (runs → ∃ t, Becomes (.timeExchange ok offs master) s t ∧ (fine → t.gtime = max s.gtime master) ∧ (¬fine → t.gtime = s.gtime) ∧ t.md.offs = offs ∧ t.md.lastSync = t.gtime
        ∧ (t.md.healthy = true ↔ fine) ∧ (fine → m.healthy = false → t.md.epoch = m.epoch + 1) ∧ (¬fine ∨ m.healthy = true → t.md.epoch = m.epoch)
        ∧ t.ms = s.ms ∧ t.ctxs = s.ctxs))
  ∧ (∀ s : State,
      (s.md.healthy = true → s.md.lastSync + 1000000 < s.gtime → Becomes .syncLoss s { s with md := { s.md with healthy := false } })
      ∧ (s.md.healthy = false ∨ s.gtime ≤ s.md.lastSync + 1000000 → Becomes .syncLoss s s)
      ∧ (s.md.stopClock = false → Becomes .timeBaseResume s s)
      ∧ (s.md.stopClock = true → ∃ t, Becomes .timeBaseResume s t ∧ t.md.stopClock = false ∧ t.md.epoch = s.md.epoch + 1 ∧ t.ctxs = s.ctxs
          ∧ ∀ sp : Span, sp.epoch = s.md.epoch.toNat → leaseLive t sp = false))
  ∧ (∀ (s : State) (site : ErrorSite),
      let counted : State → Nat → Nat → State := fun u kind loc =>
        { u with md := { u.md with uecnt := if u.md.uecnt = BitVec.allOnes 64 then u.md.uecnt else u.md.uecnt + 1, events := (u.md.events ++ [(kind, loc)]).drop (u.md.events.length + 1 - 256) } }
      let carried : Nat → State → State := fun pa u => (List.range 4).foldl (fun s k => poisonWord s (pa / 32 * 4 + k))
        { u with ms := { u.ms with ccfail := if u.ms.ccfail = BitVec.allOnes 64 then u.ms.ccfail else u.ms.ccfail + 1 } }
      ((∀ pa, site ≠ .carry pa) → (∀ a f, site ≠ .unseen a f) → Becomes (.sramError site false) s
        { s with md := { s.md with cecnt := if s.md.cecnt = BitVec.allOnes 64 then s.md.cecnt else s.md.cecnt + 1 } })
      ∧ (∀ pa, site = .data pa → isLocal (8 * (pa / 8)) = true → MemoryCanonical s → ∃ t, Becomes (.sramError site true) s t
          ∧ homeWord t.ms (pa / 8) = ((homeWord s.ms (pa / 8)).1, true) ∧ t.md = (counted s 2 pa).md ∧ t.ctxs = s.ctxs
          ∧ t.ms.caches = s.ms.caches)
      ∧ (∀ pa die x, site = .data pa → isLocal (8 * (pa / 8)) = false → isFabric (8 * (pa / 8)) = true → die < 4 →
          setWord (mget [] (sliceKey die (pa / 8)) s.ms.hives) (pa / 512) (pa / 8 % 64) = some x → ∃ t, Becomes (.sramError site true) s t
            ∧ setWord (mget [] (sliceKey die (pa / 8)) t.ms.hives) (pa / 512) (pa / 8 % 64) = some { x with poison := true } ∧ t.ms.caches = s.ms.caches)
      ∧ (∀ comb pa x, site = .cached comb pa → combWord s.ms comb (pa / 8) = some x → ∃ t, Becomes (.sramError site true) s t
          ∧ combWord t.ms comb (pa / 8) = some { x with poison := true } ∧ t.md = (counted s 2 pa).md ∧ t.ms.hives = s.ms.hives ∧ t.ms.mem = s.ms.mem
          ∧ t.ms.poison = s.ms.poison ∧ t.ms.owners = s.ms.owners ∧ t.ctxs = s.ctxs)
      ∧ (∀ pa flips b, site = .unseen (.byte pa) flips →
          (isLocal pa = false → ¬(isWindow pa = true ∧ (windowOf pa).2 < 0x18C000) → Becomes (.sramError site b) s s)
          ∧ (isLocal pa = false → isWindow pa = true → (windowOf pa).2 < 0x18C000 → let u := flipWindow pa flips s
              Becomes (.sramError site b) s (if codeTells pa flips = true then carried pa u else u))
          ∧ (isLocal pa = true → MemoryCanonical s → ∃ t, Becomes (.sramError site b) s t ∧ t.md = s.md ∧ t.ctxs = s.ctxs
              ∧ memGet t.ms.mem pa = memGet s.ms.mem pa ^^^ flips ∧ (∀ a, a ≠ pa → memGet t.ms.mem a = memGet s.ms.mem a)
              ∧ mfind (pa / 32) t.ms.codes = some (mget (carryCode (sectorBytes s.ms (pa / 32))) (pa / 32) s.ms.codes)))
      ∧ (∀ comb pa flips b, site = .unseen (.copy comb pa) flips →
          (combWord s.ms comb (pa / 8) = none → Becomes (.sramError site b) s s)
          ∧ ∀ x, combWord s.ms comb (pa / 8) = some x → ∃ t, Becomes (.sramError site b) s t ∧ t.ms.mem = s.ms.mem ∧ t.ms.hives = s.ms.hives
              ∧ combWord t.ms comb (pa / 8) = some { x with data := x.data ^^^ flipBits pa flips, poison := x.poison || codeTells pa flips })
      ∧ (∀ die pa flips b, site = .unseen (.slice die pa) flips → let set : State → Option CWord := (fun u =>
            setWord (mget [] (sliceKey die (pa / 8)) u.ms.hives) (pa / 512) (pa / 8 % 64))
          (set s = none → Becomes (.sramError site b) s s)
          ∧ ∀ x, set s = some x → ∃ t, Becomes (.sramError site b) s t ∧ t.ms.mem = s.ms.mem ∧ t.ms.caches = s.ms.caches
              ∧ set t = some { x with data := x.data ^^^ flipBits pa flips, poison := x.poison || codeTells pa flips })
      ∧ (∀ n pa flips b, site = .unseen (.reply n pa) flips →
          ((∀ r, mfind n s.ms.loads = some r → mfind (pa / 8) r.got = none) → Becomes (.sramError site b) s s)
          ∧ ∀ r v, mfind n s.ms.loads = some r → mfind (pa / 8) r.got = some v → ∃ t q, Becomes (.sramError site b) s t ∧ t.ms.mem = s.ms.mem
              ∧ t.ms.caches = s.ms.caches ∧ mfind n t.ms.loads = some q ∧ mfind (pa / 8) q.got = some (v.1 ^^^ flipBits pa flips, v.2 || codeTells pa flips))
      ∧ (∀ comb cell buf word, site = .tile comb cell buf word false → ∃ t, Becomes (.sramError site true) s t
          ∧ word ∈ (mget {} (bufKey comb cell buf) t.tbufs).poison ∧ t.md = (counted s 3 comb).md ∧ t.ms = s.ms ∧ t.taccs = s.taccs)
      ∧ (∀ comb cell buf word, site = .tile comb cell buf word true → ∃ t, Becomes (.sramError site true) s t
          ∧ word ∈ (mget {} (accKey comb cell buf) t.taccs).poison ∧ t.md = (counted s 3 comb).md ∧ t.ms = s.ms ∧ t.tbufs = s.tbufs)
      ∧ (∀ comb, site = .control comb → (mget {} comb s.combs).isSealed = true → Becomes (.sramError site true) s (counted s 4 comb))
      ∧ (∀ comb, site = .control comb → (mget {} comb s.combs).isSealed = false →
          let v := modComb (counted s 4 comb) comb (fun k => { k with isSealed := true })
          let killed := (ctxsOn v comb).foldl machineCheck v
          let u := (pendingOn killed.ms comb).foldl (deferWord comb) killed
          Becomes (.sramError site true) s (pumpAll (logEvent { u with ms := flushComb u.ms comb, md := { u.md with sealcnt := satInc u.md.sealcnt } } 1 comb)))
      ∧ (∀ slice, site = .records slice → Becomes (.sramError site true) s (loseRecords (counted s 5 slice) slice))
      ∧ (∀ pa b, site = .carry pa → Becomes (.sramError site b) s (carried pa s)))
  ∧ (∀ (s : State) (comb slot but : Nat), (mget {} comb s.combs).isSealed = true → slotFree s comb slot but = false)
  ∧ (∀ (s : State) (watts celsius : Nat), celsius < 110 ∨ s.md.power ≠ .running →
      let m : Mod := { s.md with pwrnow := watts % 4096, temp := celsius % 256 }
      let hot : Prop := m.pwrcap < m.pwrnow ∨ 100 ≤ m.temp
      let clear := m.clearSince.getD s.gtime
      let due : Prop := m.lastStepAt = 0 ∨ m.lastStepAt + 100000 ≤ s.gtime
      let stepped : State → Nat → Prop := fun t mhz => t.md.clk = mhz ∧ t.md.lastStepAt = s.gtime ∧ t.md.pwrnow = m.pwrnow ∧ t.md.temp = m.temp ∧ t.gtime = s.gtime ∧ t.cycles = s.cycles
      (¬hot → Becomes (.clockStepDown watts celsius) s { s with md := { m with clearSince := some clear } })
      ∧ (hot → ¬due → Becomes (.clockStepDown watts celsius) s { s with md := { m with clearSince := none } })
      ∧ (hot → due → ∃ t, Becomes (.clockStepDown watts celsius) s t ∧ stepped t (max 425 (s.md.clk - 25)))
      ∧ (hot → Becomes (.clockStepUp watts celsius) s { s with md := { m with clearSince := none } })
      ∧ (¬hot → clear + 1000000 ≤ s.gtime → due → s.md.clk < 850 → ∃ t, Becomes (.clockStepUp watts celsius) s t ∧ stepped t (min 850 (s.md.clk + 25)))
      ∧ (¬hot → s.gtime < clear + 1000000 ∨ ¬due ∨ 850 ≤ s.md.clk →
          Becomes (.clockStepUp watts celsius) s { s with md := { m with clearSince := some clear } }))
  ∧ ∀ (s : State) (watts celsius : Nat),
      (celsius < 110 ∨ s.md.power ≠ .running → Becomes (.thermalTrip celsius) s
        { s with md := noteClear s { s.md with pwrnow := s.md.pwrnow % 4096, temp := celsius % 256 } })
      ∧ ∀ i, i = .thermalTrip celsius ∨ i = .clockStepDown watts celsius ∨ i = .clockStepUp watts celsius →
        (110 ≤ celsius → s.md.power = .running → ∃ t, Becomes i s t ∧ t.md.power = .tripped ∧ t.md.trip = true ∧ t.md.ports = 0
          ∧ (∀ c, (ctxOf s c).phase ≠ .free → (ctxOf s c).task ≠ none → (ctxOf s c).retired = false → (ctxOf t c).phase = .retiring)
          ∧ ∀ p, p < 16 → (partOf s p).fqen = false → (partOf t p).lost = true ∧ (partOf t p).plost = (partOf s p).plost + 1)

/-- Power on is a cold start; a start's stages take the image that a warm start kept and whose hash holds, or verify the flash's, zero memory on a cold start, scrub every SRAM, and run the module; a stage other than the
first that fails is counted and recorded and a cold start follows, recovery mode holding at three (R363, R364). Power loss keeps the always-on
store and the flash, and stops the time base (R364, R365; log 44); a start puts every partition's registers back at their reset values (log 43). A frame joins its new partition once scrubbed; PFRAMES is refused whole or moves its frames, a reservation that
has lost one being made anew (log 104); PACTL.EN = 0 stops a partition,
EN = 1 starts it once it is stopped (R347 to R349). -/
def Obligations.StartsStopsAndFramesMoveAsStated : Prop :=
  (∀ s : State,
    let m := s.md
    let begins : Instr → Always → BitVec 8 → Prop := fun i a code => ∃ t, Becomes i s t ∧ t.md.always = a ∧ t.md.code = code ∧ t.md.stage = 1 ∧ t.md.epoch = m.epoch + 1
      ∧ t.md.power = (if 3 ≤ a.fails then .recovery else .starting) ∧ t.md.modid = 0 ∧ t.parts = [] ∧ t.frames = [] ∧ t.ctxs = [] ∧ t.md.flash = m.flash ∧ t.ms.mem = s.ms.mem
    let up : State → Prop := fun t => Becomes (.startStage true) s t ∧ Becomes (.startStage false) s t
    (m.power = .off → begins .powerOn m.always m.code) ∧ (m.power ≠ .off → Becomes .powerOn s s)
    ∧ (m.power ≠ .starting → up s)
    ∧ (m.power = .starting → m.stage = 1 →
        (m.running ≠ none → Becomes (.startStage true) s { s with md := { m with stage := 2 } })
        ∧ ∀ ok, ok = false ∨ m.running = none →
            (∀ i, m.flash = some i → imageOk m i = true → Becomes (.startStage ok) s { s with md := { m with stage := 2, running := some i, fwver := imageVersion i } })
            ∧ (∀ i, m.flash = some i → imageOk m i = false → Becomes (.startStage ok) s { s with md := { m with power := .recovery } })
            ∧ (m.flash = none → Becomes (.startStage ok) s { s with md := { m with power := .recovery } }))
    ∧ (m.power = .starting → m.stage = 2 ∨ m.stage = 4 → up { s with md := { m with stage := m.stage + 1 } })
    ∧ (m.power = .starting → m.stage = 3 → ∃ t, up t ∧ t.md = { m with stage := 4 } ∧ t.ctxs = s.ctxs
        ∧ (m.warm = true → t.ms = s.ms)
        ∧ (m.warm = false → ∀ a, (isLocal a = true → memGet t.ms.mem a = 0) ∧ (isLocal a = false → memGet t.ms.mem a = memGet s.ms.mem a)))
    ∧ (m.power = .starting → m.stage = 5 → ∃ t, up t ∧ t.md = { m with stage := 6 } ∧ t.tbufs = [] ∧ t.taccs = [] ∧ t.cells = [] ∧ t.combs = [] ∧ t.ms.caches = [] ∧ t.ms.hives = []
        ∧ ∀ a, (isLocal a = false → memGet t.ms.mem a = 0) ∧ (isLocal a = true → memGet t.ms.mem a = memGet s.ms.mem a))
    ∧ (m.power = .starting → m.stage = 6 → up { s with md := { m with stage := 7, power := .running, ports := 0xFFFF, always := { m.always with fails := 0 } } })
    ∧ (∀ code, m.power = .starting → m.stage ≠ 1 → begins (.startFailure code) { m.always with fails := m.always.fails + 1, lastStage := m.stage } code)
    ∧ (∀ code, m.power ≠ .starting ∨ m.stage = 1 → Becomes (.startFailure code) s s)
    ∧ ∃ t, Becomes .powerLoss s t ∧ t.md.power = .off ∧ t.md.always = m.always ∧ t.md.epoch = m.epoch ∧ t.md.stopClock = true ∧ t.parts = [] ∧ t.ctxs = []
        ∧ (m.busy = false ∨ m.pending ≠ 2 → t.md.flash = m.flash) ∧ (m.busy = true → m.pending = 2 → cmdRefused s = false → imageOk m (.staged m.staging) = true → t.md.flash = none))
  ∧ (∀ (s : State) (f : Nat),
      let x := mget {} f s.frames
      let ready : Prop := s.md.power = .running ∧ x.scrub = true ∧ f < 64 ∧ frameCtxs s f = []
      (¬ready → Becomes (.frameScrubDone f) s s)
      ∧ (ready → ∃ t, Becomes (.frameScrubDone f) s t ∧ mget {} f t.frames = { owner := x.joins, scrub := false, joins := none } ∧ ∀ g, g ≠ f → mget {} g t.frames = mget {} g s.frames))
  ∧ (∀ (s : State) (by_ : CfgAgent) (p o : Nat), p < 16 → o < 0x100 →
      (cfgReach s by_ (0x1000 + 0x100 * p + o) = true ↔ by_ = .system ∨ (by_ = .hostFn 0 ∧ s.md.power = .running)))
  ∧ ∀ (s : State) (p : Nat),
      let x := partOf s p
      let readied := x.queues.map (fun q => (q.1, { q.2 with ready := s.gtime }))
      (stopEnded s p = false → Becomes (.stopComplete p) s s)
      ∧ (stopEnded s p = true → ∃ t, Becomes (.stopComplete p) s t ∧ t.ctxs = s.ctxs ∧ t.ms = s.ms
          ∧ (x.enWanted = false → partOf t p = { x with stopped := true })
          ∧ (x.enWanted = true → partOf t p = { x with en := true, stopped := false, enWanted := false, queues := readied })
          ∧ ∀ q, q ≠ p → partOf t q = partOf s q)
      ∧ (stopEnded s p = true ↔ x.en = false ∧ x.stopped = false ∧ (∀ q ∈ x.queues, ∀ k ∈ q.2.pkts, k.2.written = true)
          ∧ (∀ c ∈ s.ctxs, c.2.part = p → c.2.phase = .free) ∧ ∀ l ∈ s.launches, l.2.part ≠ p)
      ∧ ∀ by_, p < 16 →
          (¬(by_ = .system ∨ (by_ = .hostFn 0 ∧ s.md.power = .running)) →
            Becomes (.partitionStop by_ p) s s ∧ Becomes (.partitionStart by_ p) s s ∧ ∀ v, Becomes (.pframes by_ p v) s s)
          ∧ (by_ = .system ∨ (by_ = .hostFn 0 ∧ s.md.power = .running) →
              (x.en = false → Becomes (.partitionStop by_ p) s (modPart s p (fun x => { x with enWanted := false })))
              ∧ (x.en = true →
                  let u := modPart s p (fun x => { x with en := false, enWanted := false, stopped := false, decisions := [], reserve := none, retryAt := [], poolRetry := [], writeRetry := [] })
                  Becomes (.partitionStop by_ p) s (stopCopies (stopLaunches (stopQueues u p) p) p))
              ∧ (x.en = true → Becomes (.partitionStart by_ p) s s)
              ∧ (x.en = false → x.stopped = true → Becomes (.partitionStart by_ p) s (modPart s p (fun x => { x with en := true, stopped := false, queues := readied })))
              ∧ (x.en = false → x.stopped = false → Becomes (.partitionStart by_ p) s (modPart s p (fun x => { x with enWanted := true })))
              ∧ ∀ v : W64,
                  let taken_ : Prop := ∃ f, f < 64 ∧ v.getLsbD f = true ∧ ((∃ o, (mget {} f s.frames).owner = some o ∧ o ≠ p) ∨ ∃ o, (mget {} f s.frames).joins = some o ∧ o ≠ p)
                  let u := settleFrames ((List.range 64).foldl (fun s f => moveFrame s p f (v.getLsbD f)) (modPart s p (fun x => { x with frames := v, busy := true }))) p
                  (taken_ → Becomes (.pframes by_ p v) s (modPart s p (fun x => { x with err := true })))
                  ∧ (¬taken_ → ((∀ r, (partOf u p).reserve = some r → ∀ f ∈ r.frames, frameUsable u p f = true) → Becomes (.pframes by_ p v) s (requestDispatch u p))
                      ∧ ∀ r, (partOf u p).reserve = some r → (∃ f ∈ r.frames, frameUsable u p f = false) → Becomes (.pframes by_ p v) s (requestDispatch
                          (modPart u p (fun y => { y with reserve := (reserveFrames u p r.launch).map (fun fs => { r with frames := fs, compacted := false }) })) p)))

/-- A queue's registers, reached by the system controller, the host's function 0 or that of the partition, and agents of the partition (R290, R343): a
doorbell past the queue's size is refused, QBASE and LOG2SZ are kept while EN is 1, and QFLT restarts the queue and its failed completion (R290,
R291, R336). MODID is kept while a partition runs; PWRCAP clamps; apertures and inbound windows keep their assigned bits (R344, R353, R354, R366). A
mailbox command is ignored while one runs; IMGCHUNK, IMGCOMMIT, OWNER and RESET act as R362, R364 and R365 give, each ending with its RESULT; how OWNER's and ATTEST's
bytes lie is the model's choice (log entry 10), and that offset 0 starts a new image (log 115). A queue keeps the order of its first doorbell, and one
moved to another die leaves its thread (log 27). A warm RESET of a tripped module is left out (log 45). -/
def Obligations.RegistersAndMailboxCommandsActAsStated : Prop :=
  (∀ (s : State) (by_ : CfgAgent) (p q : Nat), p < 16 → q < 128 →
    let x := queueOf s p q
    let reach : Prop := by_ = .system ∨ (s.md.power = .running ∧ (by_ = .hostFn 0 ∨ by_ = .hostFn (p + 1))) ∨ (∃ c, by_ = .ctx c ∧ (ctxOf s c).part = p) ∨ by_ = .queueProc p
    (¬reach → (∀ v, Becomes (.qwr by_ p q v) s s) ∧ (∀ v, Becomes (.qbase by_ p q v) s s) ∧ (∀ v, Becomes (.qctl by_ p q v) s s) ∧ Becomes (.qflt by_ p q) s s)
    ∧ (reach →
        (∀ v : BitVec 32, x.rd < 2 ^ 32 →
          (2 ^ x.log2sz < (v.toNat + 2 ^ 32 - x.rd) % 2 ^ 32 → Becomes (.qwr by_ p q v) s (modQueue s p q (fun x => { x with err := true })))
          ∧ ((v.toNat + 2 ^ 32 - x.rd) % 2 ^ 32 ≤ 2 ^ x.log2sz → ∃ t, Becomes (.qwr by_ p q v) s t ∧ (queueOf t p q).wr = v.toNat ∧ (queueOf t p q).err = x.err
              ∧ (queueOf t p q).rung = (if unstarted x then x.rung else s.seq) ∧ (queueOf t p q).ready = (if unstarted x then x.ready else s.gtime)))
        ∧ (∀ v : W64, (x.en = true → Becomes (.qbase by_ p q v) s s)
            ∧ (x.en = false → ∃ t, Becomes (.qbase by_ p q v) s t ∧ (queueOf t p q).base = v &&& 0x007FFFFFFFFFF000 ∧ (queueOf t p q).rd = 0
                ∧ (queueOf t p q).wr = 0 ∧ (queueOf t p q).start = 0 ∧ (queueOf t p q).gen = x.gen + 1 ∧ (queueOf t p q).pkts = x.pkts))
        ∧ (∀ v : W64, ∃ t, Becomes (.qctl by_ p q v) s t ∧
            let y := queueOf t p q
            let z := (v.extractLsb' 16 5).toNat
            y.en = v.getLsbD 31 ∧ y.die = (v.extractLsb' 28 2).toNat ∧ y.tenant = (v.extractLsb' 8 4).toNat
            ∧ y.log2sz = (if x.en = false ∧ 4 ≤ z ∧ z ≤ 16 then z else x.log2sz) ∧ y.base = x.base ∧ y.wr = x.wr ∧ y.ready = (if x.en then x.ready else s.gtime) ∧ y.rd = x.rd ∧ (y.die = x.die → y.thread = x.thread) ∧ (y.die ≠ x.die → y.thread = none))
        ∧ ∃ t, Becomes (.qflt by_ p q) s t ∧ (queueOf t p q).qflt = false ∧ (queueOf t p q).err = x.err ∧ (queueOf t p q).ready = s.gtime
            ∧ ∀ k y, mfind k x.pkts = some y → mfind k (queueOf t p q).pkts = some (if y.status ≠ none ∧ y.written = false then { y with effect := true } else y)))
  ∧ (∀ (s : State) (by_ : CfgAgent) (off size : Nat) (v : W64),
      (cfgShape off size = false ∨ 2 ^ 32 < off + size ∨ cfgReach s by_ off = false → Becomes (.registerWrite by_ off size v) s s)
      ∧ (by_ = .system →
          (∀ a, a < 4096 → off = 0x10000 + 8 * a → size = 8 → Becomes (.registerWrite by_ off size v) s { s with apertures := mput a (v &&& 0xC000FFFFFFF01FFF) s.apertures }
            ∧ cfgRead { s with apertures := mput a (v &&& 0xC000FFFFFFF01FFF) s.apertures } off = v &&& 0xC000FFFFFFF01FFF)
          ∧ (∀ w, w < 16 → off = 0x18000 + 16 * w → size = 8 → Becomes (.registerWrite by_ off size v) s { s with inbound := mput (2 * w) (v &&& 0xC00FFFFFFFFFF000) s.inbound })
          ∧ (∀ w, w < 16 → off = 0x18008 + 16 * w → size = 8 → Becomes (.registerWrite by_ off size v) s { s with inbound := mput (2 * w + 1) (v &&& 0x000FFFFFFFFFF000) s.inbound })
          ∧ (off = 8 → size = 8 → (∀ p, p < 16 → (partOf s p).en = false) → Becomes (.registerWrite by_ off size v) s { s with md := { s.md with modid := (v.extractLsb' 0 12).toNat } })
          ∧ (∀ p, off = 8 → size = 8 → p < 16 → (partOf s p).en = true → Becomes (.registerWrite by_ off size v) s s)
          ∧ (off = 0x40000 → size = 8 → Becomes (.registerWrite by_ off size v) s
              { s with md := noteClear s { s.md with pwrcap := max 600 (min (v.extractLsb' 0 12).toNat 2800) } })
          ∧ (off = 0x30000 → size = 8 → s.md.busy = true → Becomes (.registerWrite by_ off size v) s s)
          ∧ (off = 0x30000 → size = 8 → s.md.busy = false → v.extractLsb' 0 8 ≠ 0 → ∃ t, Becomes (.registerWrite by_ off size v) s t ∧ t.md.busy = true
              ∧ t.md.cmd = v.extractLsb' 0 8 ∧ t.md.arg = v.extractLsb' 32 32
              ∧ t.md.pending = if 5 < (v.extractLsb' 0 8).toNat then 0x104 else if v.extractLsb' 0 8 = 5 ∧ 2 < (v.extractLsb' 32 32).toNat then 0x101 else (v.extractLsb' 0 8).toNat)))
  ∧ ∀ s : State,
      let m := s.md
      let runs : Nat → Prop := fun n => m.busy = true ∧ m.pending = n
      let ended : Nat → State := fun r => { s with md := { m with pending := 0x100 + r } }
      let refused : Prop := m.power ≠ .recovery ∧ ∃ p, p < 16 ∧ (partOf s p).en = true
      let off := 4096 * m.arg.toNat
      let chunk := (List.range m.mblen).map (fun k => mget 0 k m.buf)
      let rec_ := (List.range 144).map (fun k => mget (0 : Byte) k m.buf)
      let authority := match m.always.owner with | none => Config.vendorKey | some o => (o.1, o.2.1)
      let signed := ecdsaVerify authority (sha256 (rec_.take 80)) (beField rec_ 80 32) (beField rec_ 112 32)
      let cold : Instr → Always → Prop := fun i a => ∃ t, Becomes i s t ∧ t.md.always = a ∧ t.md.warm = false ∧ t.md.stage = 1 ∧ t.md.power = (if 3 ≤ a.fails then .recovery else .starting)
        ∧ t.md.running = none
      (¬runs 1 → Becomes .imgchunk s s)
      ∧ (runs 1 → refused ∨ 4096 < m.mblen ∨ (off ≠ 0 ∧ off ≠ m.staging.length) → Becomes .imgchunk s (ended 1))
      ∧ (runs 1 → ¬refused → m.mblen ≤ 4096 → off = 0 ∨ off = m.staging.length → Becomes .imgchunk s
          { s with md := { m with pending := 0x100, staging := if off = 0 then chunk else m.staging ++ chunk } })
      ∧ (∀ b, ¬runs 2 → Becomes (.imgcommit b) s s)
      ∧ (∀ b, runs 2 → refused → Becomes (.imgcommit b) s (ended 1))
      ∧ (∀ b, runs 2 → ¬refused → imageOk m (.staged m.staging) = false → Becomes (.imgcommit b) s (ended 2))
      ∧ (runs 2 → ¬refused → imageOk m (.staged m.staging) = true → Becomes (.imgcommit true) s
          { s with md := { m with pending := 0x100, flash := some (.staged m.staging), always := { m.always with fails := 0, lastStage := 0 } } })
      ∧ (runs 2 → ¬refused → imageOk m (.staged m.staging) = true → Becomes (.imgcommit false) s { s with md := { m with pending := 0x103, flash := none } })
      ∧ (¬runs 3 → Becomes .attest s s)
      ∧ (runs 3 → ∃ t, Becomes .attest s t ∧ t.md.pending = 0x100 ∧ t.md.mblen = 170 ∧ mget 0 0 t.md.buf = m.fwver.extractLsb' 0 8 ∧ mget 0 1 t.md.buf = m.fwver.extractLsb' 8 8
          ∧ (∀ k, k < 32 → mget 0 (74 + k) t.md.buf = mget 0 k m.buf) ∧ t.md.flash = m.flash ∧ t.ms = s.ms)
      ∧ (¬runs 4 → Becomes .owner s s)
      ∧ (runs 4 → refused → Becomes .owner s (ended 1))
      ∧ (runs 4 → ¬refused → signed = false → Becomes .owner s (ended 2))
      ∧ (runs 4 → ¬refused → signed = true → leField rec_ 0 8 ≤ m.always.seqNo → Becomes .owner s (ended 1))
      ∧ (runs 4 → ¬refused → signed = true → m.always.seqNo < leField rec_ 0 8 → Becomes .owner s { s with md := { m with pending := 0x100, always := { m.always with
          owner := some (beField rec_ 8 32, beField rec_ 40 32, leField rec_ 72 1 % 2 == 1), seqNo := leField rec_ 0 8 } } })
      ∧ (¬(runs 5 ∧ m.arg = 0) → Becomes .resetWarm s s)
      ∧ (runs 5 → m.arg = 0 → m.power = .recovery → cold .resetWarm m.always)
      ∧ (runs 5 → m.arg = 0 → m.power ≠ .recovery → m.power ≠ .tripped → ∃ t, Becomes .resetWarm s t ∧ t.md.warm = true ∧ t.md.power = .starting ∧ t.md.stage = 1
          ∧ t.md.running = m.running ∧ t.parts = [] ∧ t.frames = [] ∧ t.ctxs = [] ∧ t.md.modid = 0 ∧ t.md.epoch = m.epoch + 1 ∧ t.ms.mem = s.ms.mem ∧ t.ms.poison = s.ms.poison)
      ∧ (¬(runs 5 ∧ m.arg = 1) → Becomes .resetCold s s) ∧ (runs 5 → m.arg = 1 → cold .resetCold m.always)
      ∧ (¬(runs 5 ∧ m.arg = 2) → Becomes .resetClear s s) ∧ (runs 5 → m.arg = 2 → cold .resetClear { m.always with fails := 0, lastStage := 0 })
      ∧ (m.busy = true → 0x100 ≤ m.pending → Becomes .mailboxCommandComplete s { s with md := { m with busy := false, pending := 0, result := BitVec.ofNat 8 (m.pending - 0x100) } })
      ∧ (m.busy = false ∨ m.pending < 0x100 → Becomes .mailboxCommandComplete s s)
end

