-- ==== Sys2Proof/Laws/Encoding.lean ====
section
/-! SUPPORT. What the decoder reads back from each field the encoder writes: a lemma `lay_...` per field of a word's
layout (R93 to R98), a lemma per enumerated field, and `decode_<Family>`, which sends an opcode to its family's
decoder. -/

namespace Sys2Proof

theorem ext_hi {n m : Nat} (a : BitVec n) (b : BitVec m) (s l k : Nat) (h : s = m + k) :
    BitVec.extractLsb' s l (a ++ b) = BitVec.extractLsb' k l a := by
  subst h
  rw [BitVec.extractLsb'_append_eq_of_le (by omega)]
  congr 1
  omega

theorem ext_lo {n m : Nat} (a : BitVec n) (b : BitVec m) (s l : Nat) (h : s + l ≤ m) :
    BitVec.extractLsb' s l (a ++ b) = BitVec.extractLsb' s l b :=
  BitVec.extractLsb'_append_eq_of_add_le h

theorem ext_cons {n : Nat} (x : BitVec n) (s a b : Nat) :
    BitVec.extractLsb' s (a + b) x = BitVec.extractLsb' (s + b) a x ++ BitVec.extractLsb' s b x := by
  apply BitVec.eq_of_getLsbD_eq
  intro i hi
  rw [BitVec.getLsbD_append, BitVec.getLsbD_extractLsb', BitVec.getLsbD_extractLsb', BitVec.getLsbD_extractLsb']
  by_cases h : i < b
  · simp [h, hi]
  · have h1 : i - b < a := by omega
    have h2 : s + b + (i - b) = s + i := by omega
    simp [h, hi, h1, h2]

theorem lay_imm_tt_8_24 (i : BitVec 24) (tt : BitVec 8) : @BitVec.extractLsb' 32 8 24 (i ++ tt) = i := by
  rw [ext_hi _ _ 8 24 0 rfl, BitVec.extractLsb'_eq_self]

theorem lay_imm_tt_0_8 (i : BitVec 24) (tt : BitVec 8) : @BitVec.extractLsb' 32 0 8 (i ++ tt) = tt := by
  rw [ext_lo _ _ 0 8 (by decide), BitVec.extractLsb'_eq_self]

theorem lay_mov4_18_14 (a : BitVec 9) (b : BitVec 9) : @BitVec.extractLsb' 32 18 14 (0#14 ++ a ++ b) = 0#14 := by
  rw [ext_hi _ _ 18 14 9 rfl, ext_hi _ _ 9 14 0 rfl, BitVec.extractLsb'_eq_self]

theorem lay_mov4_9_9 (a : BitVec 9) (b : BitVec 9) : @BitVec.extractLsb' 32 9 9 (0#14 ++ a ++ b) = a := by
  rw [ext_hi _ _ 9 9 0 rfl, ext_lo _ _ 0 9 (by decide), BitVec.extractLsb'_eq_self]

theorem lay_mov4_0_9 (a : BitVec 9) (b : BitVec 9) : @BitVec.extractLsb' 32 0 9 (0#14 ++ a ++ b) = b := by
  rw [ext_lo _ _ 0 9 (by decide), BitVec.extractLsb'_eq_self]

theorem lay_phint_24_8 (a : BitVec 8) (b : BitVec 8) (c : BitVec 8) (d : BitVec 8) : @BitVec.extractLsb' 32 24 8 (a ++ b ++ c ++ d) = a := by
  rw [ext_hi _ _ 24 8 16 rfl, ext_hi _ _ 16 8 8 rfl, ext_hi _ _ 8 8 0 rfl, BitVec.extractLsb'_eq_self]

theorem lay_phint_16_8 (a : BitVec 8) (b : BitVec 8) (c : BitVec 8) (d : BitVec 8) : @BitVec.extractLsb' 32 16 8 (a ++ b ++ c ++ d) = b := by
  rw [ext_hi _ _ 16 8 8 rfl, ext_hi _ _ 8 8 0 rfl, ext_lo _ _ 0 8 (by decide), BitVec.extractLsb'_eq_self]

theorem lay_phint_8_8 (a : BitVec 8) (b : BitVec 8) (c : BitVec 8) (d : BitVec 8) : @BitVec.extractLsb' 32 8 8 (a ++ b ++ c ++ d) = c := by
  rw [ext_hi _ _ 8 8 0 rfl, ext_lo _ _ 0 8 (by decide), BitVec.extractLsb'_eq_self]

theorem lay_phint_0_8 (a : BitVec 8) (b : BitVec 8) (c : BitVec 8) (d : BitVec 8) : @BitVec.extractLsb' 32 0 8 (a ++ b ++ c ++ d) = d := by
  rw [ext_lo _ _ 0 8 (by decide), BitVec.extractLsb'_eq_self]

theorem lay_tile_27_5 (c : BitVec 5) (l : BitVec 5) (b : BitVec 4) : @BitVec.extractLsb' 32 27 5 (c ++ l ++ b ++ 0#18) = c := by
  rw [ext_hi _ _ 27 5 9 rfl, ext_hi _ _ 9 5 5 rfl, ext_hi _ _ 5 5 0 rfl, BitVec.extractLsb'_eq_self]

theorem lay_tile_22_5 (c : BitVec 5) (l : BitVec 5) (b : BitVec 4) : @BitVec.extractLsb' 32 22 5 (c ++ l ++ b ++ 0#18) = l := by
  rw [ext_hi _ _ 22 5 4 rfl, ext_hi _ _ 4 5 0 rfl, ext_lo _ _ 0 5 (by decide), BitVec.extractLsb'_eq_self]

theorem lay_tile_18_4 (c : BitVec 5) (l : BitVec 5) (b : BitVec 4) : @BitVec.extractLsb' 32 18 4 (c ++ l ++ b ++ 0#18) = b := by
  rw [ext_hi _ _ 18 4 0 rfl, ext_lo _ _ 0 4 (by decide), BitVec.extractLsb'_eq_self]

theorem lay_tile_13_5 (c : BitVec 5) (l : BitVec 5) (b : BitVec 4) : @BitVec.extractLsb' 32 13 5 (c ++ l ++ b ++ 0#18) = 0#5 := by
  rw [ext_lo _ _ 13 5 (by decide)]; rfl

theorem lay_tile_0_13 (c : BitVec 5) (l : BitVec 5) (b : BitVec 4) : @BitVec.extractLsb' 32 0 13 (c ++ l ++ b ++ 0#18) = 0#13 := by
  rw [ext_lo _ _ 0 13 (by decide)]; rfl

theorem lay_tile_0_18 (c : BitVec 5) (l : BitVec 5) (b : BitVec 4) : @BitVec.extractLsb' 32 0 18 (c ++ l ++ b ++ 0#18) = 0#18 := by
  rw [ext_lo _ _ 0 18 (by decide), BitVec.extractLsb'_eq_self]

theorem lay_tld_27_5 (c : BitVec 5) (l : BitVec 5) (b : BitVec 4) (f : BitVec 5) : @BitVec.extractLsb' 32 27 5 (c ++ l ++ b ++ f ++ 0#13) = c := by
  rw [ext_hi _ _ 27 5 14 rfl, ext_hi _ _ 14 5 9 rfl, ext_hi _ _ 9 5 5 rfl, ext_hi _ _ 5 5 0 rfl, BitVec.extractLsb'_eq_self]

theorem lay_tld_22_5 (c : BitVec 5) (l : BitVec 5) (b : BitVec 4) (f : BitVec 5) : @BitVec.extractLsb' 32 22 5 (c ++ l ++ b ++ f ++ 0#13) = l := by
  rw [ext_hi _ _ 22 5 9 rfl, ext_hi _ _ 9 5 4 rfl, ext_hi _ _ 4 5 0 rfl, ext_lo _ _ 0 5 (by decide), BitVec.extractLsb'_eq_self]

theorem lay_tld_18_4 (c : BitVec 5) (l : BitVec 5) (b : BitVec 4) (f : BitVec 5) : @BitVec.extractLsb' 32 18 4 (c ++ l ++ b ++ f ++ 0#13) = b := by
  rw [ext_hi _ _ 18 4 5 rfl, ext_hi _ _ 5 4 0 rfl, ext_lo _ _ 0 4 (by decide), BitVec.extractLsb'_eq_self]

theorem lay_tld_13_5 (c : BitVec 5) (l : BitVec 5) (b : BitVec 4) (f : BitVec 5) : @BitVec.extractLsb' 32 13 5 (c ++ l ++ b ++ f ++ 0#13) = f := by
  rw [ext_hi _ _ 13 5 0 rfl, ext_lo _ _ 0 5 (by decide), BitVec.extractLsb'_eq_self]

theorem lay_tld_0_13 (c : BitVec 5) (l : BitVec 5) (b : BitVec 4) (f : BitVec 5) : @BitVec.extractLsb' 32 0 13 (c ++ l ++ b ++ f ++ 0#13) = 0#13 := by
  rw [ext_lo _ _ 0 13 (by decide), BitVec.extractLsb'_eq_self]

theorem lay_mma_27_5 (c : BitVec 5) (acc : BitVec 3) (a : BitVec 4) (b : BitVec 4) (r : BitVec 2) (s : BitVec 1) (z : BitVec 1) : @BitVec.extractLsb' 32 27 5 (c ++ 0#5 ++ acc ++ a ++ b ++ r ++ s ++ z ++ 0#7) = c := by
  rw [ext_hi _ _ 27 5 20 rfl, ext_hi _ _ 20 5 19 rfl, ext_hi _ _ 19 5 18 rfl, ext_hi _ _ 18 5 16 rfl, ext_hi _ _ 16 5 12 rfl, ext_hi _ _ 12 5 8 rfl, ext_hi _ _ 8 5 5 rfl, ext_hi _ _ 5 5 0 rfl, BitVec.extractLsb'_eq_self]

theorem lay_mma_22_5 (c : BitVec 5) (acc : BitVec 3) (a : BitVec 4) (b : BitVec 4) (r : BitVec 2) (s : BitVec 1) (z : BitVec 1) : @BitVec.extractLsb' 32 22 5 (c ++ 0#5 ++ acc ++ a ++ b ++ r ++ s ++ z ++ 0#7) = 0#5 := by
  rw [ext_hi _ _ 22 5 15 rfl, ext_hi _ _ 15 5 14 rfl, ext_hi _ _ 14 5 13 rfl, ext_hi _ _ 13 5 11 rfl, ext_hi _ _ 11 5 7 rfl, ext_hi _ _ 7 5 3 rfl, ext_hi _ _ 3 5 0 rfl, ext_lo _ _ 0 5 (by decide), BitVec.extractLsb'_eq_self]

theorem lay_mma_19_3 (c : BitVec 5) (acc : BitVec 3) (a : BitVec 4) (b : BitVec 4) (r : BitVec 2) (s : BitVec 1) (z : BitVec 1) : @BitVec.extractLsb' 32 19 3 (c ++ 0#5 ++ acc ++ a ++ b ++ r ++ s ++ z ++ 0#7) = acc := by
  rw [ext_hi _ _ 19 3 12 rfl, ext_hi _ _ 12 3 11 rfl, ext_hi _ _ 11 3 10 rfl, ext_hi _ _ 10 3 8 rfl, ext_hi _ _ 8 3 4 rfl, ext_hi _ _ 4 3 0 rfl, ext_lo _ _ 0 3 (by decide), BitVec.extractLsb'_eq_self]

theorem lay_mma_15_4 (c : BitVec 5) (acc : BitVec 3) (a : BitVec 4) (b : BitVec 4) (r : BitVec 2) (s : BitVec 1) (z : BitVec 1) : @BitVec.extractLsb' 32 15 4 (c ++ 0#5 ++ acc ++ a ++ b ++ r ++ s ++ z ++ 0#7) = a := by
  rw [ext_hi _ _ 15 4 8 rfl, ext_hi _ _ 8 4 7 rfl, ext_hi _ _ 7 4 6 rfl, ext_hi _ _ 6 4 4 rfl, ext_hi _ _ 4 4 0 rfl, ext_lo _ _ 0 4 (by decide), BitVec.extractLsb'_eq_self]

theorem lay_mma_11_4 (c : BitVec 5) (acc : BitVec 3) (a : BitVec 4) (b : BitVec 4) (r : BitVec 2) (s : BitVec 1) (z : BitVec 1) : @BitVec.extractLsb' 32 11 4 (c ++ 0#5 ++ acc ++ a ++ b ++ r ++ s ++ z ++ 0#7) = b := by
  rw [ext_hi _ _ 11 4 4 rfl, ext_hi _ _ 4 4 3 rfl, ext_hi _ _ 3 4 2 rfl, ext_hi _ _ 2 4 0 rfl, ext_lo _ _ 0 4 (by decide), BitVec.extractLsb'_eq_self]

theorem lay_mma_9_2 (c : BitVec 5) (acc : BitVec 3) (a : BitVec 4) (b : BitVec 4) (r : BitVec 2) (s : BitVec 1) (z : BitVec 1) : @BitVec.extractLsb' 32 9 2 (c ++ 0#5 ++ acc ++ a ++ b ++ r ++ s ++ z ++ 0#7) = r := by
  rw [ext_hi _ _ 9 2 2 rfl, ext_hi _ _ 2 2 1 rfl, ext_hi _ _ 1 2 0 rfl, ext_lo _ _ 0 2 (by decide), BitVec.extractLsb'_eq_self]

theorem lay_mma_8_1 (c : BitVec 5) (acc : BitVec 3) (a : BitVec 4) (b : BitVec 4) (r : BitVec 2) (s : BitVec 1) (z : BitVec 1) : @BitVec.extractLsb' 32 8 1 (c ++ 0#5 ++ acc ++ a ++ b ++ r ++ s ++ z ++ 0#7) = s := by
  rw [ext_hi _ _ 8 1 1 rfl, ext_hi _ _ 1 1 0 rfl, ext_lo _ _ 0 1 (by decide), BitVec.extractLsb'_eq_self]

theorem lay_mma_7_1 (c : BitVec 5) (acc : BitVec 3) (a : BitVec 4) (b : BitVec 4) (r : BitVec 2) (s : BitVec 1) (z : BitVec 1) : @BitVec.extractLsb' 32 7 1 (c ++ 0#5 ++ acc ++ a ++ b ++ r ++ s ++ z ++ 0#7) = z := by
  rw [ext_hi _ _ 7 1 0 rfl, ext_lo _ _ 0 1 (by decide), BitVec.extractLsb'_eq_self]

theorem lay_mma_0_7 (c : BitVec 5) (acc : BitVec 3) (a : BitVec 4) (b : BitVec 4) (r : BitVec 2) (s : BitVec 1) (z : BitVec 1) : @BitVec.extractLsb' 32 0 7 (c ++ 0#5 ++ acc ++ a ++ b ++ r ++ s ++ z ++ 0#7) = 0#7 := by
  rw [ext_lo _ _ 0 7 (by decide), BitVec.extractLsb'_eq_self]

theorem lay_trow_27_5 (c : BitVec 5) (i : BitVec 4) (r : BitVec 4) (k : BitVec 3) : @BitVec.extractLsb' 32 27 5 (c ++ 0#5 ++ i ++ r ++ k ++ 0#11) = c := by
  rw [ext_hi _ _ 27 5 16 rfl, ext_hi _ _ 16 5 13 rfl, ext_hi _ _ 13 5 9 rfl, ext_hi _ _ 9 5 5 rfl, ext_hi _ _ 5 5 0 rfl, BitVec.extractLsb'_eq_self]

theorem lay_trow_22_5 (c : BitVec 5) (i : BitVec 4) (r : BitVec 4) (k : BitVec 3) : @BitVec.extractLsb' 32 22 5 (c ++ 0#5 ++ i ++ r ++ k ++ 0#11) = 0#5 := by
  rw [ext_hi _ _ 22 5 11 rfl, ext_hi _ _ 11 5 8 rfl, ext_hi _ _ 8 5 4 rfl, ext_hi _ _ 4 5 0 rfl, ext_lo _ _ 0 5 (by decide), BitVec.extractLsb'_eq_self]

theorem lay_trow_18_4 (c : BitVec 5) (i : BitVec 4) (r : BitVec 4) (k : BitVec 3) : @BitVec.extractLsb' 32 18 4 (c ++ 0#5 ++ i ++ r ++ k ++ 0#11) = i := by
  rw [ext_hi _ _ 18 4 7 rfl, ext_hi _ _ 7 4 4 rfl, ext_hi _ _ 4 4 0 rfl, ext_lo _ _ 0 4 (by decide), BitVec.extractLsb'_eq_self]

theorem lay_trow_14_4 (c : BitVec 5) (i : BitVec 4) (r : BitVec 4) (k : BitVec 3) : @BitVec.extractLsb' 32 14 4 (c ++ 0#5 ++ i ++ r ++ k ++ 0#11) = r := by
  rw [ext_hi _ _ 14 4 3 rfl, ext_hi _ _ 3 4 0 rfl, ext_lo _ _ 0 4 (by decide), BitVec.extractLsb'_eq_self]

theorem lay_trow_11_3 (c : BitVec 5) (i : BitVec 4) (r : BitVec 4) (k : BitVec 3) : @BitVec.extractLsb' 32 11 3 (c ++ 0#5 ++ i ++ r ++ k ++ 0#11) = k := by
  rw [ext_hi _ _ 11 3 0 rfl, ext_lo _ _ 0 3 (by decide), BitVec.extractLsb'_eq_self]

theorem lay_trow_0_11 (c : BitVec 5) (i : BitVec 4) (r : BitVec 4) (k : BitVec 3) : @BitVec.extractLsb' 32 0 11 (c ++ 0#5 ++ i ++ r ++ k ++ 0#11) = 0#11 := by
  rw [ext_lo _ _ 0 11 (by decide), BitVec.extractLsb'_eq_self]

theorem lay_top_27_5 (c : BitVec 5) (r : BitVec 22) : @BitVec.extractLsb' 32 27 5 (c ++ 0#5 ++ r) = c := by
  rw [ext_hi _ _ 27 5 5 rfl, ext_hi _ _ 5 5 0 rfl, BitVec.extractLsb'_eq_self]

theorem lay_top_22_5 (c : BitVec 5) (r : BitVec 22) : @BitVec.extractLsb' 32 22 5 (c ++ 0#5 ++ r) = 0#5 := by
  rw [ext_hi _ _ 22 5 0 rfl, ext_lo _ _ 0 5 (by decide), BitVec.extractLsb'_eq_self]

theorem lay_top_21_1 (c : BitVec 5) (r : BitVec 22) : @BitVec.extractLsb' 32 21 1 (c ++ 0#5 ++ r) = BitVec.extractLsb' 21 1 r := by
  rw [ext_lo _ _ 21 1 (by decide)]

theorem lay_top_17_4 (c : BitVec 5) (r : BitVec 22) : @BitVec.extractLsb' 32 17 4 (c ++ 0#5 ++ r) = BitVec.extractLsb' 17 4 r := by
  rw [ext_lo _ _ 17 4 (by decide)]

theorem lay_top_13_4 (c : BitVec 5) (r : BitVec 22) : @BitVec.extractLsb' 32 13 4 (c ++ 0#5 ++ r) = BitVec.extractLsb' 13 4 r := by
  rw [ext_lo _ _ 13 4 (by decide)]

theorem lay_top_8_5 (c : BitVec 5) (r : BitVec 22) : @BitVec.extractLsb' 32 8 5 (c ++ 0#5 ++ r) = BitVec.extractLsb' 8 5 r := by
  rw [ext_lo _ _ 8 5 (by decide)]

theorem lay_top_7_1 (c : BitVec 5) (r : BitVec 22) : @BitVec.extractLsb' 32 7 1 (c ++ 0#5 ++ r) = BitVec.extractLsb' 7 1 r := by
  rw [ext_lo _ _ 7 1 (by decide)]

theorem lay_top_5_2 (c : BitVec 5) (r : BitVec 22) : @BitVec.extractLsb' 32 5 2 (c ++ 0#5 ++ r) = BitVec.extractLsb' 5 2 r := by
  rw [ext_lo _ _ 5 2 (by decide)]

theorem lay_top_4_1 (c : BitVec 5) (r : BitVec 22) : @BitVec.extractLsb' 32 4 1 (c ++ 0#5 ++ r) = BitVec.extractLsb' 4 1 r := by
  rw [ext_lo _ _ 4 1 (by decide)]

theorem lay_top_0_4 (c : BitVec 5) (r : BitVec 22) : @BitVec.extractLsb' 32 0 4 (c ++ 0#5 ++ r) = BitVec.extractLsb' 0 4 r := by
  rw [ext_lo _ _ 0 4 (by decide)]

theorem lay_top_7_10 (c : BitVec 5) (r : BitVec 22) : @BitVec.extractLsb' 32 7 10 (c ++ 0#5 ++ r) = BitVec.extractLsb' 7 10 r := by
  rw [ext_lo _ _ 7 10 (by decide)]

theorem lay_top_0_5 (c : BitVec 5) (r : BitVec 22) : @BitVec.extractLsb' 32 0 5 (c ++ 0#5 ++ r) = BitVec.extractLsb' 0 5 r := by
  rw [ext_lo _ _ 0 5 (by decide)]

theorem lay_top_0_13 (c : BitVec 5) (r : BitVec 22) : @BitVec.extractLsb' 32 0 13 (c ++ 0#5 ++ r) = BitVec.extractLsb' 0 13 r := by
  rw [ext_lo _ _ 0 13 (by decide)]

theorem lay_top_0_6 (c : BitVec 5) (r : BitVec 22) : @BitVec.extractLsb' 32 0 6 (c ++ 0#5 ++ r) = BitVec.extractLsb' 0 6 r := by
  rw [ext_lo _ _ 0 6 (by decide)]

theorem lay_top_17_5 (c : BitVec 5) (r : BitVec 22) : @BitVec.extractLsb' 32 17 5 (c ++ 0#5 ++ r) = BitVec.extractLsb' 17 5 r := by
  rw [ext_lo _ _ 17 5 (by decide)]

theorem lay_zb_21_1 (d : BitVec 4) : @BitVec.extractLsb' 22 21 1 (0#1 ++ d ++ 0#17) = 0#1 := by
  rw [ext_hi _ _ 21 1 4 rfl, ext_hi _ _ 4 1 0 rfl, BitVec.extractLsb'_eq_self]

theorem lay_zb_17_4 (d : BitVec 4) : @BitVec.extractLsb' 22 17 4 (0#1 ++ d ++ 0#17) = d := by
  rw [ext_hi _ _ 17 4 0 rfl, ext_lo _ _ 0 4 (by decide), BitVec.extractLsb'_eq_self]

theorem lay_zb_5_2 (d : BitVec 4) : @BitVec.extractLsb' 22 5 2 (0#1 ++ d ++ 0#17) = 0#2 := by
  rw [ext_lo _ _ 5 2 (by decide)]; rfl

theorem lay_zb_7_10 (d : BitVec 4) : @BitVec.extractLsb' 22 7 10 (0#1 ++ d ++ 0#17) = 0#10 := by
  rw [ext_lo _ _ 7 10 (by decide)]; rfl

theorem lay_zb_0_5 (d : BitVec 4) : @BitVec.extractLsb' 22 0 5 (0#1 ++ d ++ 0#17) = 0#5 := by
  rw [ext_lo _ _ 0 5 (by decide)]; rfl

theorem lay_za_21_1 (d : BitVec 4) (v : BitVec 2) : @BitVec.extractLsb' 22 21 1 (1#1 ++ d ++ 0#10 ++ v ++ 0#5) = 1#1 := by
  rw [ext_hi _ _ 21 1 16 rfl, ext_hi _ _ 16 1 14 rfl, ext_hi _ _ 14 1 4 rfl, ext_hi _ _ 4 1 0 rfl, BitVec.extractLsb'_eq_self]

theorem lay_za_17_4 (d : BitVec 4) (v : BitVec 2) : @BitVec.extractLsb' 22 17 4 (1#1 ++ d ++ 0#10 ++ v ++ 0#5) = d := by
  rw [ext_hi _ _ 17 4 12 rfl, ext_hi _ _ 12 4 10 rfl, ext_hi _ _ 10 4 0 rfl, ext_lo _ _ 0 4 (by decide), BitVec.extractLsb'_eq_self]

theorem lay_za_5_2 (d : BitVec 4) (v : BitVec 2) : @BitVec.extractLsb' 22 5 2 (1#1 ++ d ++ 0#10 ++ v ++ 0#5) = v := by
  rw [ext_hi _ _ 5 2 0 rfl, ext_lo _ _ 0 2 (by decide), BitVec.extractLsb'_eq_self]

theorem lay_za_7_10 (d : BitVec 4) (v : BitVec 2) : @BitVec.extractLsb' 22 7 10 (1#1 ++ d ++ 0#10 ++ v ++ 0#5) = 0#10 := by
  rw [ext_hi _ _ 7 10 2 rfl, ext_hi _ _ 2 10 0 rfl, ext_lo _ _ 0 10 (by decide), BitVec.extractLsb'_eq_self]

theorem lay_za_0_5 (d : BitVec 4) (v : BitVec 2) : @BitVec.extractLsb' 22 0 5 (1#1 ++ d ++ 0#10 ++ v ++ 0#5) = 0#5 := by
  rw [ext_lo _ _ 0 5 (by decide), BitVec.extractLsb'_eq_self]

theorem lay_t1_21_1 (d : BitVec 4) (s : BitVec 4) : @BitVec.extractLsb' 22 21 1 (1#1 ++ d ++ s ++ 0#13) = 1#1 := by
  rw [ext_hi _ _ 21 1 8 rfl, ext_hi _ _ 8 1 4 rfl, ext_hi _ _ 4 1 0 rfl, BitVec.extractLsb'_eq_self]

theorem lay_t1_17_4 (d : BitVec 4) (s : BitVec 4) : @BitVec.extractLsb' 22 17 4 (1#1 ++ d ++ s ++ 0#13) = d := by
  rw [ext_hi _ _ 17 4 4 rfl, ext_hi _ _ 4 4 0 rfl, ext_lo _ _ 0 4 (by decide), BitVec.extractLsb'_eq_self]

theorem lay_t1_13_4 (d : BitVec 4) (s : BitVec 4) : @BitVec.extractLsb' 22 13 4 (1#1 ++ d ++ s ++ 0#13) = s := by
  rw [ext_hi _ _ 13 4 0 rfl, ext_lo _ _ 0 4 (by decide), BitVec.extractLsb'_eq_self]

theorem lay_t1_0_13 (d : BitVec 4) (s : BitVec 4) : @BitVec.extractLsb' 22 0 13 (1#1 ++ d ++ s ++ 0#13) = 0#13 := by
  rw [ext_lo _ _ 0 13 (by decide), BitVec.extractLsb'_eq_self]

theorem lay_conv_21_1 (d : BitVec 4) (s : BitVec 4) (y : BitVec 5) (sat : BitVec 1) (ns : BitVec 1) : @BitVec.extractLsb' 22 21 1 (0#1 ++ d ++ s ++ y ++ sat ++ ns ++ 0#6) = 0#1 := by
  rw [ext_hi _ _ 21 1 15 rfl, ext_hi _ _ 15 1 14 rfl, ext_hi _ _ 14 1 13 rfl, ext_hi _ _ 13 1 8 rfl, ext_hi _ _ 8 1 4 rfl, ext_hi _ _ 4 1 0 rfl, BitVec.extractLsb'_eq_self]

theorem lay_conv_17_4 (d : BitVec 4) (s : BitVec 4) (y : BitVec 5) (sat : BitVec 1) (ns : BitVec 1) : @BitVec.extractLsb' 22 17 4 (0#1 ++ d ++ s ++ y ++ sat ++ ns ++ 0#6) = d := by
  rw [ext_hi _ _ 17 4 11 rfl, ext_hi _ _ 11 4 10 rfl, ext_hi _ _ 10 4 9 rfl, ext_hi _ _ 9 4 4 rfl, ext_hi _ _ 4 4 0 rfl, ext_lo _ _ 0 4 (by decide), BitVec.extractLsb'_eq_self]

theorem lay_conv_13_4 (d : BitVec 4) (s : BitVec 4) (y : BitVec 5) (sat : BitVec 1) (ns : BitVec 1) : @BitVec.extractLsb' 22 13 4 (0#1 ++ d ++ s ++ y ++ sat ++ ns ++ 0#6) = s := by
  rw [ext_hi _ _ 13 4 7 rfl, ext_hi _ _ 7 4 6 rfl, ext_hi _ _ 6 4 5 rfl, ext_hi _ _ 5 4 0 rfl, ext_lo _ _ 0 4 (by decide), BitVec.extractLsb'_eq_self]

theorem lay_conv_8_5 (d : BitVec 4) (s : BitVec 4) (y : BitVec 5) (sat : BitVec 1) (ns : BitVec 1) : @BitVec.extractLsb' 22 8 5 (0#1 ++ d ++ s ++ y ++ sat ++ ns ++ 0#6) = y := by
  rw [ext_hi _ _ 8 5 2 rfl, ext_hi _ _ 2 5 1 rfl, ext_hi _ _ 1 5 0 rfl, ext_lo _ _ 0 5 (by decide), BitVec.extractLsb'_eq_self]

theorem lay_conv_7_1 (d : BitVec 4) (s : BitVec 4) (y : BitVec 5) (sat : BitVec 1) (ns : BitVec 1) : @BitVec.extractLsb' 22 7 1 (0#1 ++ d ++ s ++ y ++ sat ++ ns ++ 0#6) = sat := by
  rw [ext_hi _ _ 7 1 1 rfl, ext_hi _ _ 1 1 0 rfl, ext_lo _ _ 0 1 (by decide), BitVec.extractLsb'_eq_self]

theorem lay_conv_0_6 (d : BitVec 4) (s : BitVec 4) (y : BitVec 5) (sat : BitVec 1) (ns : BitVec 1) : @BitVec.extractLsb' 22 0 6 (0#1 ++ d ++ s ++ y ++ sat ++ ns ++ 0#6) = 0#6 := by
  rw [ext_lo _ _ 0 6 (by decide), BitVec.extractLsb'_eq_self]

theorem lay_conv_5_2 (d s : BitVec 4) (y : BitVec 5) (sat ns : BitVec 1) : @BitVec.extractLsb' 22 5 2 (0#1 ++ d ++ s ++ y ++ sat ++ ns ++ 0#6) = ns ++ 0#1 := by
  rw [ext_cons _ 5 1 1, ext_hi _ _ 6 1 0 rfl, ext_lo _ _ 0 1 (by decide), BitVec.extractLsb'_eq_self, ext_lo _ _ 5 1 (by decide)]
  rfl

theorem lay_rm_17_5 (s : BitVec 4) : @BitVec.extractLsb' 22 17 5 (0#5 ++ s ++ 0#13) = 0#5 := by
  rw [ext_hi _ _ 17 5 4 rfl, ext_hi _ _ 4 5 0 rfl, BitVec.extractLsb'_eq_self]

theorem lay_rm_13_4 (s : BitVec 4) : @BitVec.extractLsb' 22 13 4 (0#5 ++ s ++ 0#13) = s := by
  rw [ext_hi _ _ 13 4 0 rfl, ext_lo _ _ 0 4 (by decide), BitVec.extractLsb'_eq_self]

theorem lay_rm_0_13 (s : BitVec 4) : @BitVec.extractLsb' 22 0 13 (0#5 ++ s ++ 0#13) = 0#13 := by
  rw [ext_lo _ _ 0 13 (by decide), BitVec.extractLsb'_eq_self]

theorem lay_a2b_21_1 (d : BitVec 4) (s : BitVec 4) (y : BitVec 5) (sat : BitVec 1) (si : BitVec 1) (koff : BitVec 4) : @BitVec.extractLsb' 22 21 1 (0#1 ++ d ++ s ++ y ++ sat ++ 0#2 ++ si ++ koff) = 0#1 := by
  rw [ext_hi _ _ 21 1 17 rfl, ext_hi _ _ 17 1 16 rfl, ext_hi _ _ 16 1 14 rfl, ext_hi _ _ 14 1 13 rfl, ext_hi _ _ 13 1 8 rfl, ext_hi _ _ 8 1 4 rfl, ext_hi _ _ 4 1 0 rfl, BitVec.extractLsb'_eq_self]

theorem lay_a2b_17_4 (d : BitVec 4) (s : BitVec 4) (y : BitVec 5) (sat : BitVec 1) (si : BitVec 1) (koff : BitVec 4) : @BitVec.extractLsb' 22 17 4 (0#1 ++ d ++ s ++ y ++ sat ++ 0#2 ++ si ++ koff) = d := by
  rw [ext_hi _ _ 17 4 13 rfl, ext_hi _ _ 13 4 12 rfl, ext_hi _ _ 12 4 10 rfl, ext_hi _ _ 10 4 9 rfl, ext_hi _ _ 9 4 4 rfl, ext_hi _ _ 4 4 0 rfl, ext_lo _ _ 0 4 (by decide), BitVec.extractLsb'_eq_self]

theorem lay_a2b_13_4 (d : BitVec 4) (s : BitVec 4) (y : BitVec 5) (sat : BitVec 1) (si : BitVec 1) (koff : BitVec 4) : @BitVec.extractLsb' 22 13 4 (0#1 ++ d ++ s ++ y ++ sat ++ 0#2 ++ si ++ koff) = s := by
  rw [ext_hi _ _ 13 4 9 rfl, ext_hi _ _ 9 4 8 rfl, ext_hi _ _ 8 4 6 rfl, ext_hi _ _ 6 4 5 rfl, ext_hi _ _ 5 4 0 rfl, ext_lo _ _ 0 4 (by decide), BitVec.extractLsb'_eq_self]

theorem lay_a2b_8_5 (d : BitVec 4) (s : BitVec 4) (y : BitVec 5) (sat : BitVec 1) (si : BitVec 1) (koff : BitVec 4) : @BitVec.extractLsb' 22 8 5 (0#1 ++ d ++ s ++ y ++ sat ++ 0#2 ++ si ++ koff) = y := by
  rw [ext_hi _ _ 8 5 4 rfl, ext_hi _ _ 4 5 3 rfl, ext_hi _ _ 3 5 1 rfl, ext_hi _ _ 1 5 0 rfl, ext_lo _ _ 0 5 (by decide), BitVec.extractLsb'_eq_self]

theorem lay_a2b_7_1 (d : BitVec 4) (s : BitVec 4) (y : BitVec 5) (sat : BitVec 1) (si : BitVec 1) (koff : BitVec 4) : @BitVec.extractLsb' 22 7 1 (0#1 ++ d ++ s ++ y ++ sat ++ 0#2 ++ si ++ koff) = sat := by
  rw [ext_hi _ _ 7 1 3 rfl, ext_hi _ _ 3 1 2 rfl, ext_hi _ _ 2 1 0 rfl, ext_lo _ _ 0 1 (by decide), BitVec.extractLsb'_eq_self]

theorem lay_a2b_5_2 (d : BitVec 4) (s : BitVec 4) (y : BitVec 5) (sat : BitVec 1) (si : BitVec 1) (koff : BitVec 4) : @BitVec.extractLsb' 22 5 2 (0#1 ++ d ++ s ++ y ++ sat ++ 0#2 ++ si ++ koff) = 0#2 := by
  rw [ext_hi _ _ 5 2 1 rfl, ext_hi _ _ 1 2 0 rfl, ext_lo _ _ 0 2 (by decide), BitVec.extractLsb'_eq_self]

theorem lay_a2b_4_1 (d : BitVec 4) (s : BitVec 4) (y : BitVec 5) (sat : BitVec 1) (si : BitVec 1) (koff : BitVec 4) : @BitVec.extractLsb' 22 4 1 (0#1 ++ d ++ s ++ y ++ sat ++ 0#2 ++ si ++ koff) = si := by
  rw [ext_hi _ _ 4 1 0 rfl, ext_lo _ _ 0 1 (by decide), BitVec.extractLsb'_eq_self]

theorem lay_a2b_0_4 (d : BitVec 4) (s : BitVec 4) (y : BitVec 5) (sat : BitVec 1) (si : BitVec 1) (koff : BitVec 4) : @BitVec.extractLsb' 22 0 4 (0#1 ++ d ++ s ++ y ++ sat ++ 0#2 ++ si ++ koff) = koff := by
  rw [ext_lo _ _ 0 4 (by decide), BitVec.extractLsb'_eq_self]

theorem lay_g1_6_3 (c : BitVec 3) : @BitVec.extractLsb' 9 6 3 (c ++ 0#6) = c := by
  rw [ext_hi _ _ 6 3 0 rfl, BitVec.extractLsb'_eq_self]

theorem lay_g1_0_6 (c : BitVec 3) : @BitVec.extractLsb' 9 0 6 (c ++ 0#6) = 0#6 := by
  rw [ext_lo _ _ 0 6 (by decide), BitVec.extractLsb'_eq_self]

theorem lay_cvt_4_5 (y : BitVec 5) (s : BitVec 1) (m : BitVec 2) : @BitVec.extractLsb' 9 4 5 (y ++ s ++ m ++ 0#1) = y := by
  rw [ext_hi _ _ 4 5 3 rfl, ext_hi _ _ 3 5 1 rfl, ext_hi _ _ 1 5 0 rfl, BitVec.extractLsb'_eq_self]

theorem lay_cvt_3_1 (y : BitVec 5) (s : BitVec 1) (m : BitVec 2) : @BitVec.extractLsb' 9 3 1 (y ++ s ++ m ++ 0#1) = s := by
  rw [ext_hi _ _ 3 1 2 rfl, ext_hi _ _ 2 1 0 rfl, ext_lo _ _ 0 1 (by decide), BitVec.extractLsb'_eq_self]

theorem lay_cvt_1_2 (y : BitVec 5) (s : BitVec 1) (m : BitVec 2) : @BitVec.extractLsb' 9 1 2 (y ++ s ++ m ++ 0#1) = m := by
  rw [ext_hi _ _ 1 2 0 rfl, ext_lo _ _ 0 2 (by decide), BitVec.extractLsb'_eq_self]

theorem lay_cvt_0_1 (y : BitVec 5) (s : BitVec 1) (m : BitVec 2) : @BitVec.extractLsb' 9 0 1 (y ++ s ++ m ++ 0#1) = 0#1 := by
  rw [ext_lo _ _ 0 1 (by decide), BitVec.extractLsb'_eq_self]

theorem lay_ls_4_5 (l : BitVec 5) : @BitVec.extractLsb' 9 4 5 (l ++ 0#4) = l := by
  rw [ext_hi _ _ 4 5 0 rfl, BitVec.extractLsb'_eq_self]

theorem lay_ls_0_4 (l : BitVec 5) : @BitVec.extractLsb' 9 0 4 (l ++ 0#4) = 0#4 := by
  rw [ext_lo _ _ 0 4 (by decide), BitVec.extractLsb'_eq_self]

theorem lay_bar_4_5 (l : BitVec 5) (m : BitVec 2) : @BitVec.extractLsb' 9 4 5 (l ++ m ++ 0#2) = l := by
  rw [ext_hi _ _ 4 5 2 rfl, ext_hi _ _ 2 5 0 rfl, BitVec.extractLsb'_eq_self]

theorem lay_bar_low (l : BitVec 5) (m : BitVec 2) : @BitVec.extractLsb' 9 0 4 (l ++ m ++ 0#2) = m ++ 0#2 := by
  rw [ext_cons _ 0 2 2, ext_hi _ _ 2 2 0 rfl, ext_lo _ _ 0 2 (by decide), BitVec.extractLsb'_eq_self, ext_lo _ _ 0 2 (by decide)]
  rfl

theorem lay_m2_2_2 (m : BitVec 2) : @BitVec.extractLsb' 4 2 2 (m ++ 0#2) = m := by
  rw [ext_hi _ _ 2 2 0 rfl, BitVec.extractLsb'_eq_self]

theorem lay_m2_0_2 (m : BitVec 2) : @BitVec.extractLsb' 4 0 2 (m ++ 0#2) = 0#2 := by
  rw [ext_lo _ _ 0 2 (by decide), BitVec.extractLsb'_eq_self]

theorem lay_copy_4_1 (t : BitVec 1) (m : BitVec 4) : @BitVec.extractLsb' 5 4 1 (t ++ m) = t := by
  rw [ext_hi _ _ 4 1 0 rfl, BitVec.extractLsb'_eq_self]

theorem lay_copy_0_4 (t : BitVec 1) (m : BitVec 4) : @BitVec.extractLsb' 5 0 4 (t ++ m) = m := by
  rw [ext_lo _ _ 0 4 (by decide), BitVec.extractLsb'_eq_self]

theorem lay_lea_3_2 (s : BitVec 3) : @BitVec.extractLsb' 5 3 2 (0#2 ++ s) = 0#2 := by
  rw [ext_hi _ _ 3 2 0 rfl, BitVec.extractLsb'_eq_self]

theorem lay_lea_0_3 (s : BitVec 3) : @BitVec.extractLsb' 5 0 3 (0#2 ++ s) = s := by
  rw [ext_lo _ _ 0 3 (by decide), BitVec.extractLsb'_eq_self]

theorem lay_bfx_1_4 (s : BitVec 1) : @BitVec.extractLsb' 5 1 4 (0#4 ++ s) = 0#4 := by
  rw [ext_hi _ _ 1 4 0 rfl, BitVec.extractLsb'_eq_self]

theorem lay_tldx_4_1 (bc : BitVec 1) (tr : BitVec 1) (k : BitVec 1) : @BitVec.extractLsb' 5 4 1 (bc ++ tr ++ k ++ 0#2) = bc := by
  rw [ext_hi _ _ 4 1 2 rfl, ext_hi _ _ 2 1 1 rfl, ext_hi _ _ 1 1 0 rfl, BitVec.extractLsb'_eq_self]

theorem lay_tldx_3_1 (bc : BitVec 1) (tr : BitVec 1) (k : BitVec 1) : @BitVec.extractLsb' 5 3 1 (bc ++ tr ++ k ++ 0#2) = tr := by
  rw [ext_hi _ _ 3 1 1 rfl, ext_hi _ _ 1 1 0 rfl, ext_lo _ _ 0 1 (by decide), BitVec.extractLsb'_eq_self]

theorem lay_tldx_2_1 (bc : BitVec 1) (tr : BitVec 1) (k : BitVec 1) : @BitVec.extractLsb' 5 2 1 (bc ++ tr ++ k ++ 0#2) = k := by
  rw [ext_hi _ _ 2 1 0 rfl, ext_lo _ _ 0 1 (by decide), BitVec.extractLsb'_eq_self]

theorem lay_tldx_0_2 (bc : BitVec 1) (tr : BitVec 1) (k : BitVec 1) : @BitVec.extractLsb' 5 0 2 (bc ++ tr ++ k ++ 0#2) = 0#2 := by
  rw [ext_lo _ _ 0 2 (by decide), BitVec.extractLsb'_eq_self]

theorem lay_tldf_4_1 (bc : BitVec 1) (tr : BitVec 1) : @BitVec.extractLsb' 5 4 1 (bc ++ tr ++ 0#3) = bc := by
  rw [ext_hi _ _ 4 1 1 rfl, ext_hi _ _ 1 1 0 rfl, BitVec.extractLsb'_eq_self]

theorem lay_tldf_3_1 (bc : BitVec 1) (tr : BitVec 1) : @BitVec.extractLsb' 5 3 1 (bc ++ tr ++ 0#3) = tr := by
  rw [ext_hi _ _ 3 1 0 rfl, ext_lo _ _ 0 1 (by decide), BitVec.extractLsb'_eq_self]

theorem lay_tldf_2_1 (bc : BitVec 1) (tr : BitVec 1) : @BitVec.extractLsb' 5 2 1 (bc ++ tr ++ 0#3) = 0#1 := by
  rw [ext_lo _ _ 2 1 (by decide)]; rfl

theorem lay_tldf_0_2 (bc : BitVec 1) (tr : BitVec 1) : @BitVec.extractLsb' 5 0 2 (bc ++ tr ++ 0#3) = 0#2 := by
  rw [ext_lo _ _ 0 2 (by decide)]; rfl

theorem lay_tldf_0_3 (bc : BitVec 1) (tr : BitVec 1) : @BitVec.extractLsb' 5 0 3 (bc ++ tr ++ 0#3) = 0#3 := by
  rw [ext_lo _ _ 0 3 (by decide), BitVec.extractLsb'_eq_self]

theorem lay_pset_6_3 (m : BitVec 6) : @BitVec.extractLsb' 9 6 3 (0#3 ++ m) = 0#3 := by
  rw [ext_hi _ _ 6 3 0 rfl, BitVec.extractLsb'_eq_self]

theorem lay_pset_0_6 (m : BitVec 6) : @BitVec.extractLsb' 9 0 6 (0#3 ++ m) = m := by
  rw [ext_lo _ _ 0 6 (by decide), BitVec.extractLsb'_eq_self]

theorem lay_ldv_1_2 (m : BitVec 1) : @BitVec.extractLsb' 3 1 2 (0#2 ++ m) = 0#2 := by
  rw [ext_hi _ _ 1 2 0 rfl, BitVec.extractLsb'_eq_self]

theorem decSgn_encSgn (k : Sgn) : decSgn (encSgn k) = .ok k := by cases k <;> rfl

theorem decMulh_encMulh (k : MulhKind) : decMulh (encMulh k) = .ok k := by cases k <;> rfl

theorem decCmp_encCmp (k : CmpCond) : decCmp (encCmp k) = .ok k := by cases k <;> rfl

theorem decRed_encRed (k : RedOp) : decRed (encRed k) = .ok k := by cases k <;> rfl

theorem decRnd_encRnd (k : Rnd) : decRnd (encRnd k) = .ok k := by cases k <;> rfl

theorem decSwz_encSwz (k : SwzPat) : decSwz (encSwz k) = .ok k := by cases k <;> rfl

theorem decSfu_encSfu (k : SfuFn) : decSfu (encSfu k) = .ok k := by cases k <;> rfl

theorem decMaskFn_encMaskFn (k : MaskFn) : decMaskFn (encMaskFn k) = .ok k := by cases k <;> rfl

theorem decLdSize_encLdSize (k : LdSize) : decLdSize (encLdSize k) = .ok k := by cases k <;> rfl

theorem decStSize_encStSize (k : StSize) : decStSize (encStSize k) = .ok k := by cases k <;> rfl

theorem decHint_encHint (k : Hint) : decHint (encHint k) = .ok k := by cases k <;> rfl

theorem decAmoOp_encAmoOp (k : AmoOp) : decAmoOp (encAmoOp k) = .ok k := by cases k <;> rfl

theorem decAmoWid_encAmoWid (k : AmoWid) : decAmoWid (encAmoWid k) = .ok k := by cases k <;> rfl

theorem decWid2_encWid2 (k : Wid2) : decWid2 (encWid2 k) = .ok k := by cases k <;> rfl

theorem decWatchCond_encWatchCond (k : WatchCond) : decWatchCond (encWatchCond k) = .ok k := by cases k <;> rfl

theorem decFence_encFence (k : FenceKind) : decFence (encFence k) = .ok k := by cases k <;> rfl

theorem decFlush_encFlush (k : FlushKind) : decFlush (encFlush k) = .ok k := by cases k <;> rfl

theorem decCopyMode_encCopyMode (k : CopyMode) : decCopyMode (encCopyMode k) = .ok k := by cases k <;> rfl

theorem decBarMode_encBarMode (k : BarMode) : decBarMode (encBarMode k) = .ok k := by cases k <;> rfl

theorem decMmaMode_encMmaMode (k : MmaMode) : decMmaMode (encMmaMode k) = .ok k := by cases k <;> rfl

theorem decTrow_encTrow (k : TrowOp) : decTrow (encTrow k) = .ok k := by cases k <;> rfl

theorem decZeroVal_encZeroVal (k : ZeroVal) : decZeroVal (encZeroVal k) = .ok k := by cases k <;> rfl

theorem decTy_encTy (k : ElemTy) : decTy (encTy k) = .ok k := by cases k <;> rfl

theorem decPr_encPr (k : Pr) : decPr (encPr k) = .ok k := by cases k <;> rfl

theorem decTarget_encTarget (t : Target) : decTarget (encTarget t) = .ok t := by
  cases t with
  | none => rfl
  | slot k i =>
    cases k <;> unfold decTarget encTarget <;> dsimp only <;>
      rw [ext_hi _ i 7 2 0 rfl, ext_lo _ i 0 7 (by decide), BitVec.extractLsb'_eq_self, BitVec.extractLsb'_eq_self] <;> rfl

theorem decRegDest_encRegDest (d : RegDest) : decRegDest (encRegDest d) = .ok d := by
  cases d with
  | none => rfl
  | reg n =>
    have h : (4#3 ++ n : BitVec 9) ≠ 0 := by
      intro h
      have h1 := congrArg (BitVec.extractLsb' 6 3) h
      rw [ext_hi _ n 6 3 0 rfl, BitVec.extractLsb'_eq_self] at h1
      exact absurd h1 (by decide)
    unfold decRegDest encRegDest
    dsimp only
    rw [if_neg h, ext_hi _ n 6 3 0 rfl, ext_lo _ n 0 6 (by decide), BitVec.extractLsb'_eq_self, BitVec.extractLsb'_eq_self]
    rfl

theorem decSysReg_num (r : SysReg) : decSysReg r.num = .ok r := by
  cases r with
  | h n =>
    obtain ⟨⟨k, hk⟩⟩ := n
    have h8 : k = 0 ∨ k = 1 ∨ k = 2 ∨ k = 3 ∨ k = 4 ∨ k = 5 ∨ k = 6 ∨ k = 7 := by omega
    rcases h8 with rfl | rfl | rfl | rfl | rfl | rfl | rfl | rfl <;> simp [decSysReg, SysReg.num] <;> rfl
  | rpc n =>
    obtain ⟨⟨k, hk⟩⟩ := n
    have h4 : k = 0 ∨ k = 1 ∨ k = 2 ∨ k = 3 := by omega
    rcases h4 with rfl | rfl | rfl | rfl <;> simp [decSysReg, SysReg.num] <;> rfl
  | _ => rfl

theorem encBit_eq_one (b : Bool) : (encBit b == (1 : BitVec 1)) = b := by cases b <;> rfl

theorem decZero_zero (n : Nat) : decZero (0#n) = .ok () := if_pos rfl

theorem decZero_zero' (n : Nat) : decZero (0 : BitVec n) = .ok () := if_pos rfl

theorem decXop0_zero : decXop0 0 = .ok () := rfl

theorem decCheck_zero (n : Nat) (r : Reject) : decCheck (0#n == 0) r = .ok () := by
  rw [show (0#n == 0) = true from beq_self_eq_true _]
  rfl

theorem decCheck_zero' (n : Nat) (r : Reject) : decCheck ((0 : BitVec n) == 0) r = .ok () := by
  rw [beq_self_eq_true]
  rfl

theorem decCheck_one (r : Reject) : decCheck (1#1 == 1) r = .ok () := rfl

theorem decNoPr_encPr : decNoPr (encPr .always) = .ok () := rfl


theorem opcodeOf_encG (op : BitVec 7) (p : Pr) (x : BitVec 5) (a b : BitVec 9) : opcodeOf (encG op p x a b) = op := by
  unfold opcodeOf encG
  rw [ext_hi _ _ 25 7 16 rfl, ext_hi _ _ 16 7 7 rfl, ext_hi _ _ 7 7 2 rfl, ext_hi _ _ 2 7 0 rfl, BitVec.extractLsb'_eq_self]

theorem gFields_encG (op : BitVec 7) (p : Pr) (x : BitVec 5) (a b : BitVec 9) : gFields (encG op p x a b) = ⟨encPr p, x, a, b⟩ := by
  unfold gFields encG
  congr 1
  · rw [ext_hi _ _ 23 2 14 rfl, ext_hi _ _ 14 2 5 rfl, ext_hi _ _ 5 2 0 rfl, ext_lo _ _ 0 2 (by decide), BitVec.extractLsb'_eq_self]
  · rw [ext_hi _ _ 18 5 9 rfl, ext_hi _ _ 9 5 0 rfl, ext_lo _ _ 0 5 (by decide), BitVec.extractLsb'_eq_self]
  · rw [ext_hi _ _ 9 9 0 rfl, ext_lo _ _ 0 9 (by decide), BitVec.extractLsb'_eq_self]
  · rw [ext_lo _ _ 0 9 (by decide), BitVec.extractLsb'_eq_self]

theorem opcodeOf_encM (op : BitVec 7) (p : Pr) (l : BitVec 5) (ty : BitVec 3) (h : BitVec 2) (o : BitVec 4) (t : BitVec 9) : opcodeOf (encM op p l ty h o t) = op := by
  unfold opcodeOf encM
  rw [ext_hi _ _ 25 7 16 rfl, ext_hi _ _ 16 7 12 rfl, ext_hi _ _ 12 7 10 rfl, ext_hi _ _ 10 7 7 rfl, ext_hi _ _ 7 7 2 rfl, ext_hi _ _ 2 7 0 rfl, BitVec.extractLsb'_eq_self]

theorem mFields_encM (op : BitVec 7) (p : Pr) (l : BitVec 5) (ty : BitVec 3) (h : BitVec 2) (o : BitVec 4) (t : BitVec 9) : mFields (encM op p l ty h o t) = ⟨encPr p, l, ty, h, o, t⟩ := by
  unfold mFields encM
  congr 1
  · rw [ext_hi _ _ 23 2 14 rfl, ext_hi _ _ 14 2 10 rfl, ext_hi _ _ 10 2 8 rfl, ext_hi _ _ 8 2 5 rfl, ext_hi _ _ 5 2 0 rfl, ext_lo _ _ 0 2 (by decide), BitVec.extractLsb'_eq_self]
  · rw [ext_hi _ _ 18 5 9 rfl, ext_hi _ _ 9 5 5 rfl, ext_hi _ _ 5 5 3 rfl, ext_hi _ _ 3 5 0 rfl, ext_lo _ _ 0 5 (by decide), BitVec.extractLsb'_eq_self]
  · rw [ext_hi _ _ 15 3 6 rfl, ext_hi _ _ 6 3 2 rfl, ext_hi _ _ 2 3 0 rfl, ext_lo _ _ 0 3 (by decide), BitVec.extractLsb'_eq_self]
  · rw [ext_hi _ _ 13 2 4 rfl, ext_hi _ _ 4 2 0 rfl, ext_lo _ _ 0 2 (by decide), BitVec.extractLsb'_eq_self]
  · rw [ext_hi _ _ 9 4 0 rfl, ext_lo _ _ 0 4 (by decide), BitVec.extractLsb'_eq_self]
  · rw [ext_lo _ _ 0 9 (by decide), BitVec.extractLsb'_eq_self]

theorem opcodeOf_encE (op : BitVec 7) (p : Pr) (e : BitVec 3) (off : BitVec 20) : opcodeOf (encE op p e off) = op := by
  unfold opcodeOf encE
  rw [ext_hi _ _ 25 7 5 rfl, ext_hi _ _ 5 7 2 rfl, ext_hi _ _ 2 7 0 rfl, BitVec.extractLsb'_eq_self]

theorem ext_encE_23 (op : BitVec 7) (p : Pr) (e : BitVec 3) (off : BitVec 20) : BitVec.extractLsb' 23 2 (encE op p e off) = encPr p := by
  unfold encE
  rw [ext_hi _ _ 23 2 3 rfl, ext_hi _ _ 3 2 0 rfl, ext_lo _ _ 0 2 (by decide), BitVec.extractLsb'_eq_self]

theorem ext_encE_20 (op : BitVec 7) (p : Pr) (e : BitVec 3) (off : BitVec 20) : BitVec.extractLsb' 20 3 (encE op p e off) = e := by
  unfold encE
  rw [ext_hi _ _ 20 3 0 rfl, ext_lo _ _ 0 3 (by decide), BitVec.extractLsb'_eq_self]

theorem ext_encE_0 (op : BitVec 7) (p : Pr) (e : BitVec 3) (off : BitVec 20) : BitVec.extractLsb' 0 20 (encE op p e off) = off := by
  unfold encE
  rw [ext_lo _ _ 0 20 (by decide), BitVec.extractLsb'_eq_self]

theorem opcodeOf_encK (op : BitVec 7) (i : BitVec 16) (t : Target) : opcodeOf (encK op i t) = op := by
  unfold opcodeOf encK
  rw [ext_hi _ _ 25 7 16 rfl, ext_hi _ _ 16 7 0 rfl, BitVec.extractLsb'_eq_self]

theorem ext_encK_9 (op : BitVec 7) (i : BitVec 16) (t : Target) : BitVec.extractLsb' 9 16 (encK op i t) = i := by
  unfold encK
  rw [ext_hi _ _ 9 16 0 rfl, ext_lo _ _ 0 16 (by decide), BitVec.extractLsb'_eq_self]

theorem ext_encK_0 (op : BitVec 7) (i : BitVec 16) (t : Target) : BitVec.extractLsb' 0 9 (encK op i t) = encTarget t := by
  unfold encK
  rw [ext_lo _ _ 0 9 (by decide), BitVec.extractLsb'_eq_self]

theorem opcodeOf_encW (op : BitVec 7) (n : BitVec 6) (a b : BitVec 9) : opcodeOf (encW op n a b) = op := by
  unfold opcodeOf encW
  rw [ext_hi _ _ 25 7 16 rfl, ext_hi _ _ 16 7 7 rfl, ext_hi _ _ 7 7 1 rfl, ext_hi _ _ 1 7 0 rfl, BitVec.extractLsb'_eq_self]

theorem ext_encW_24 (op : BitVec 7) (n : BitVec 6) (a b : BitVec 9) : BitVec.extractLsb' 24 1 (encW op n a b) = 0#1 := by
  unfold encW
  rw [ext_hi _ _ 24 1 15 rfl, ext_hi _ _ 15 1 6 rfl, ext_hi _ _ 6 1 0 rfl, ext_lo _ _ 0 1 (by decide), BitVec.extractLsb'_eq_self]

theorem ext_encW_18 (op : BitVec 7) (n : BitVec 6) (a b : BitVec 9) : BitVec.extractLsb' 18 6 (encW op n a b) = n := by
  unfold encW
  rw [ext_hi _ _ 18 6 9 rfl, ext_hi _ _ 9 6 0 rfl, ext_lo _ _ 0 6 (by decide), BitVec.extractLsb'_eq_self]

theorem ext_encW_9 (op : BitVec 7) (n : BitVec 6) (a b : BitVec 9) : BitVec.extractLsb' 9 9 (encW op n a b) = a := by
  unfold encW
  rw [ext_hi _ _ 9 9 0 rfl, ext_lo _ _ 0 9 (by decide), BitVec.extractLsb'_eq_self]

theorem ext_encW_0 (op : BitVec 7) (n : BitVec 6) (a b : BitVec 9) : BitVec.extractLsb' 0 9 (encW op n a b) = b := by
  unfold encW
  rw [ext_lo _ _ 0 9 (by decide), BitVec.extractLsb'_eq_self]

theorem ext_encW_low (op : BitVec 7) (n : BitVec 6) : BitVec.extractLsb' 0 18 (encW op n 0 0) = 0#18 := by
  unfold encW
  rw [ext_cons _ 0 9 9, ext_lo _ _ 0 9 (by decide), ext_hi _ _ 9 9 0 rfl, ext_lo _ _ 0 9 (by decide)]
  rfl

theorem decode_Control {w x : Word} {op : BitVec 7} (h : opcodeOf w = op) (_lo : 0 ≤ op.toNat) (_hi : op.toNat < 16) :
    decode w x = decodeControl op.toNat w x := by
  unfold decode
  rw [h]
  simp only
  repeat rw [if_neg (by omega)]
  rw [if_pos (by omega)]

theorem decode_Tests {w x : Word} {op : BitVec 7} (h : opcodeOf w = op) (_lo : 16 ≤ op.toNat) (_hi : op.toNat < 32) :
    decode w x = decodeTests op.toNat w := by
  unfold decode
  rw [h]
  simp only
  repeat rw [if_neg (by omega)]
  rw [if_pos (by omega)]

theorem decode_Scalar {w x : Word} {op : BitVec 7} (h : opcodeOf w = op) (_lo : 32 ≤ op.toNat) (_hi : op.toNat < 64) :
    decode w x = decodeScalar op.toNat w x := by
  unfold decode
  rw [h]
  simp only
  repeat rw [if_neg (by omega)]
  rw [if_pos (by omega)]

theorem decode_Vector {w x : Word} {op : BitVec 7} (h : opcodeOf w = op) (_lo : 64 ≤ op.toNat) (_hi : op.toNat < 96) :
    decode w x = decodeVector op.toNat w x := by
  unfold decode
  rw [h]
  simp only
  repeat rw [if_neg (by omega)]
  rw [if_pos (by omega)]

theorem decode_Memory {w x : Word} {op : BitVec 7} (h : opcodeOf w = op) (_lo : 96 ≤ op.toNat) (_hi : op.toNat < 112) :
    decode w x = decodeMemory op.toNat w := by
  unfold decode
  rw [h]
  simp only
  repeat rw [if_neg (by omega)]
  rw [if_pos (by omega)]

theorem decode_Sync {w x : Word} {op : BitVec 7} (h : opcodeOf w = op) (_lo : 112 ≤ op.toNat) (_hi : op.toNat < 120) :
    decode w x = decodeSync op.toNat w x := by
  unfold decode
  rw [h]
  simp only
  repeat rw [if_neg (by omega)]
  rw [if_pos (by omega)]

theorem decode_Tensor {w x : Word} {op : BitVec 7} (h : opcodeOf w = op) (_lo : 120 ≤ op.toNat) (_hi : op.toNat < 128) :
    decode w x = decodeTensor op.toNat w x := by
  unfold decode
  rw [h]
  simp only
  repeat rw [if_neg (by omega)]

end Sys2Proof
end

