-- ==== Sys2Proof/Laws/Memory.lean ====
section
/-! SUPPORT. Sparse maps and the byte memory: a read after a write, what a write leaves alone, and the canonical form, which
every memory operation keeps. -/

namespace Sys2Proof.Machine

/-! ## Sparse maps -/

@[simp] theorem mfind_mput_same {α : Type} (k : Nat) (v : α) (m : SMap α) : mfind k (mput k v m) = some v := by
  induction m with
  | nil => simp [mput, mfind]
  | cons p m ih =>
    obtain ⟨j, w⟩ := p
    simp only [mput]
    split
    · simp [mfind]
    · split
      · simp [mfind]
      · rename_i h
        simp [mfind, Ne.symm h, ih]

theorem mfind_mput_other {α : Type} {k j : Nat} (h : j ≠ k) (v : α) (m : SMap α) : mfind j (mput k v m) = mfind j m := by
  induction m with
  | nil => simp [mput, mfind, Ne.symm h]
  | cons p m ih =>
    obtain ⟨i, w⟩ := p
    simp only [mput]
    split
    · simp [mfind, Ne.symm h]
    · split
      · rename_i hki
        subst hki
        simp [mfind, Ne.symm h]
      · simp only [mfind]
        split
        · rfl
        · exact ih

@[simp] theorem mget_mput_same {α : Type} (d : α) (k : Nat) (v : α) (m : SMap α) : mget d k (mput k v m) = v := by
  simp [mget]

theorem mget_mput_other {α : Type} {k j : Nat} (h : j ≠ k) (d v : α) (m : SMap α) : mget d j (mput k v m) = mget d j m := by
  simp [mget, mfind_mput_other h]

/-! ## Rising keys -/

theorem risingFrom_of_le {α : Type} {a b : Nat} (h : a ≤ b) {m : SMap α} (hm : risingFrom b m = true) : risingFrom a m = true := by
  cases m with
  | nil => rfl
  | cons p m =>
    obtain ⟨k, v⟩ := p
    simp only [risingFrom, Bool.and_eq_true, decide_eq_true_eq] at *
    exact ⟨by omega, hm.2⟩

theorem mfind_below {α : Type} {lo k : Nat} (h : k < lo) {m : SMap α} (hm : risingFrom lo m = true) : mfind k m = none := by
  induction m generalizing lo with
  | nil => rfl
  | cons p m ih =>
    obtain ⟨j, v⟩ := p
    simp only [risingFrom, Bool.and_eq_true, decide_eq_true_eq] at hm
    have : ¬ j = k := by omega
    simp only [mfind, this, if_false]
    exact ih (by omega) hm.2

theorem risingFrom_mput {α : Type} {lo k : Nat} (h : lo ≤ k) (v : α) {m : SMap α} (hm : risingFrom lo m = true) :
    risingFrom lo (mput k v m) = true := by
  induction m generalizing lo with
  | nil => simp [mput, risingFrom, h]
  | cons p m ih =>
    obtain ⟨j, w⟩ := p
    simp only [risingFrom, Bool.and_eq_true, decide_eq_true_eq] at hm
    simp only [mput]
    split
    · rename_i hkj
      simp only [risingFrom, Bool.and_eq_true, decide_eq_true_eq]
      exact ⟨h, by omega, hm.2⟩
    · split
      · rename_i hkj
        subst hkj
        simp only [risingFrom, Bool.and_eq_true, decide_eq_true_eq]
        exact ⟨h, hm.2⟩
      · simp only [risingFrom, Bool.and_eq_true, decide_eq_true_eq]
        exact ⟨hm.1, ih (by omega) hm.2⟩

theorem risingFrom_mdel {α : Type} {lo : Nat} (k : Nat) {m : SMap α} (hm : risingFrom lo m = true) :
    risingFrom lo (mdel k m) = true := by
  induction m generalizing lo with
  | nil => rfl
  | cons p m ih =>
    obtain ⟨j, w⟩ := p
    simp only [mdel]
    have hm' := hm
    simp only [risingFrom, Bool.and_eq_true, decide_eq_true_eq] at hm
    split
    · exact risingFrom_of_le (by omega) hm.2
    · split
      · exact hm'
      · simp only [risingFrom, Bool.and_eq_true, decide_eq_true_eq]
        exact ⟨hm.1, ih hm.2⟩

theorem risingFrom_filter {α : Type} {lo : Nat} (p : Nat × α → Bool) {m : SMap α} (hm : risingFrom lo m = true) :
    risingFrom lo (m.filter p) = true := by
  induction m generalizing lo with
  | nil => rfl
  | cons q m ih =>
    obtain ⟨j, w⟩ := q
    simp only [risingFrom, Bool.and_eq_true, decide_eq_true_eq] at hm
    simp only [List.filter]
    split
    · simp only [risingFrom, Bool.and_eq_true, decide_eq_true_eq]
      exact ⟨hm.1, ih hm.2⟩
    · exact risingFrom_of_le (by omega) (ih hm.2)

theorem mfind_mdel_same {α : Type} {lo : Nat} (k : Nat) {m : SMap α} (hm : risingFrom lo m = true) : mfind k (mdel k m) = none := by
  induction m generalizing lo with
  | nil => rfl
  | cons p m ih =>
    obtain ⟨j, w⟩ := p
    simp only [risingFrom, Bool.and_eq_true, decide_eq_true_eq] at hm
    simp only [mdel]
    split
    · exact mfind_below (by omega) hm.2
    · rename_i hne
      split
      · have : ¬ j = k := fun h => hne h.symm
        simp only [mfind, this, if_false]
        exact mfind_below (by omega) hm.2
      · have : ¬ j = k := fun h => hne h.symm
        simp only [mfind, this, if_false]
        exact ih hm.2

theorem mfind_mdel_other {α : Type} {k j : Nat} (h : j ≠ k) (m : SMap α) : mfind j (mdel k m) = mfind j m := by
  induction m with
  | nil => rfl
  | cons p m ih =>
    obtain ⟨i, w⟩ := p
    simp only [mdel]
    split
    · rename_i hk
      subst hk
      simp [mfind, Ne.symm h]
    · split
      · rfl
      · simp only [mfind]
        split
        · rfl
        · exact ih

/-! ## Bytes of memory -/

theorem mem_mput {α : Type} {k : Nat} {v : α} {m : SMap α} {c : Nat × α} (h : c ∈ mput k v m) : c = (k, v) ∨ c ∈ m := by
  induction m with
  | nil => simpa [mput] using h
  | cons p m ih =>
    obtain ⟨j, w⟩ := p
    simp only [mput] at h
    split at h
    · simpa using h
    · split at h
      · rcases List.mem_cons.mp h with h | h
        · exact .inl h
        · exact .inr (List.mem_cons_of_mem _ h)
      · rcases List.mem_cons.mp h with h | h
        · exact .inr (by simp [h])
        · rcases ih h with h | h
          · exact .inl h
          · exact .inr (List.mem_cons_of_mem _ h)

theorem mem_mdel {α : Type} {k : Nat} {m : SMap α} {c : Nat × α} (h : c ∈ mdel k m) : c ∈ m := by
  induction m with
  | nil => exact h
  | cons p m ih =>
    obtain ⟨j, w⟩ := p
    simp only [mdel] at h
    split at h
    · exact List.mem_cons_of_mem _ h
    · split at h
      · exact h
      · rcases List.mem_cons.mp h with h | h
        · simp [h]
        · exact List.mem_cons_of_mem _ (ih h)

theorem wf_iff (m : List Host.Cell) : Memory.wf m = true ↔ risingFrom 0 m = true ∧ ∀ c ∈ m, c.2 ≠ unlistedByte := by
  simp [Memory.wf]

/-- A byte stored keeps the canonical form. -/
@[simp] theorem wf_memSet {m : List Host.Cell} (h : Memory.wf m = true) (a : Nat) (b : Byte) : Memory.wf (memSet m a b) = true := by
  rw [wf_iff] at *
  unfold memSet
  split
  · exact ⟨risingFrom_mdel a h.1, fun c hc => h.2 c (mem_mdel hc)⟩
  · rename_i hb
    refine ⟨risingFrom_mput (Nat.zero_le a) b h.1, fun c hc => ?_⟩
    rcases mem_mput hc with rfl | hc
    · exact hb
    · exact h.2 c hc

/-- Bytes stored keep the canonical form. -/
@[simp] theorem wf_memWrite {m : List Host.Cell} (h : Memory.wf m = true) (a n d : Nat) : Memory.wf (memWrite m a n d) = true := by
  induction n generalizing m a d with
  | zero => exact h
  | succ n ih => exact ih (wf_memSet h a _) (a + 1) (d / 256)

/-- Entries left out keep the canonical form. -/
@[simp] theorem wf_filter {m : List Host.Cell} (h : Memory.wf m = true) (p : Host.Cell → Bool) : Memory.wf (m.filter p) = true := by
  rw [wf_iff] at *
  exact ⟨risingFrom_filter p h.1, fun c hc => h.2 c (List.mem_filter.mp hc).1⟩

/-- A range cleared keeps the canonical form. -/
@[simp] theorem wf_memClear {m : List Host.Cell} (h : Memory.wf m = true) (lo hi : Nat) : Memory.wf (memClear m lo hi) = true :=
  wf_filter h _

/-- A byte reads back as it was stored. -/
theorem memGet_memSet_same {m : List Host.Cell} (h : Memory.wf m = true) (a : Nat) (b : Byte) : memGet (memSet m a b) a = b := by
  unfold memSet memGet mget
  split
  · rename_i hb
    simp [mfind_mdel_same a ((wf_iff m).mp h).1, hb]
  · simp

/-- A byte stored leaves every other byte alone. -/
theorem memGet_memSet_other (m : List Host.Cell) {a x : Nat} (h : x ≠ a) (b : Byte) : memGet (memSet m a b) x = memGet m x := by
  unfold memSet memGet mget
  split
  · rw [mfind_mdel_other h]
  · rw [mfind_mput_other h]

/-- Bytes stored leave every byte outside them alone. -/
theorem memGet_memWrite_other (m : List Host.Cell) (a n d : Nat) {x : Nat} (h : x < a ∨ a + n ≤ x) :
    memGet (memWrite m a n d) x = memGet m x := by
  induction n generalizing m a d with
  | zero => rfl
  | succ n ih =>
    rw [memWrite, ih _ _ _ (by omega), memGet_memSet_other _ (by omega)]

/-- A byte stored among others reads back. -/
theorem memGet_memWrite {m : List Host.Cell} (h : Memory.wf m = true) (a n d j : Nat) (hj : j < n) :
    memGet (memWrite m a n d) (a + j) = BitVec.ofNat 8 (d / 256 ^ j) := by
  induction n generalizing m a d j with
  | zero => omega
  | succ n ih =>
    rw [memWrite]
    cases j with
    | zero =>
      rw [memGet_memWrite_other _ _ _ _ (by omega), Nat.add_zero, memGet_memSet_same h]
      simp
    | succ j =>
      have := ih (wf_memSet h a (BitVec.ofNat 8 d)) (a + 1) (d / 256) j (by omega)
      rw [show a + (j + 1) = a + 1 + j by omega, this, Nat.div_div_eq_div_mul, Nat.pow_succ, Nat.mul_comm (256 ^ j)]

/-- The bytes read depend on those bytes alone. -/
theorem memRead_congr {m m' : List Host.Cell} (a n : Nat) (h : ∀ j, j < n → memGet m' (a + j) = memGet m (a + j)) :
    memRead m' a n = memRead m a n := by
  induction n generalizing a with
  | zero => rfl
  | succ n ih =>
    have h0 := h 0 (by omega)
    simp only [Nat.add_zero] at h0
    rw [memRead, memRead, h0, ih (a + 1) (fun j hj => by rw [show a + 1 + j = a + (j + 1) by omega]; exact h (j + 1) (by omega))]

end Sys2Proof.Machine
end

