-- ==== Sys2Proof/Laws/KeepOps.lean ====
section
/-! SUPPORT. Every state that comes out of a function keeps the canonical form of memory: the caches, translation, the shared operations, windows and task operations. Each lemma
`wf_f` says so of the function `f`. -/

namespace Sys2Proof.Machine

set_option linter.all false

theorem wf_foldl {α : Type} {g : State → α → State} (hg : ∀ s a, Memory.wf s.ms.mem = true → Memory.wf (g s a).ms.mem = true)
    (l : List α) {s : State} (h : Memory.wf s.ms.mem = true) : Memory.wf (l.foldl g s).ms.mem = true := by
  induction l generalizing s with
  | nil => exact h
  | cons a l ih => exact ih (hg s a h)

theorem wf_next {s : State} (h : Memory.wf s.ms.mem = true) : ∀ t, (Host.Outcome.next s : Host.Outcome State Fault Refusal) = .next t → Memory.wf t.ms.mem = true := by
  intro t ht
  injection ht with ht
  exact ht ▸ h

theorem wf_fault (r : Fault) : ∀ t, (Host.Outcome.fault r : Host.Outcome State Fault Refusal) = .next t → Memory.wf t.ms.mem = true := by
  intro t ht
  cases ht

theorem wf_some {s : State} (h : Memory.wf s.ms.mem = true) : ∀ t, some s = some t → Memory.wf t.ms.mem = true := by
  intro t ht
  injection ht with ht
  exact ht ▸ h

theorem wf_getD {o : Option State} {s : State} (ho : ∀ t, o = some t → Memory.wf t.ms.mem = true) (h : Memory.wf s.ms.mem = true) :
    Memory.wf (o.getD s).ms.mem = true := by
  cases o with
  | none => exact h
  | some t => exact ho t rfl

theorem wf_choose (b : Bool) {s t : State} (hs : Memory.wf s.ms.mem = true) (ht : Memory.wf t.ms.mem = true) : Memory.wf (if b then s else t).ms.mem = true := by
  cases b with
  | true => exact hs
  | false => exact ht

theorem wf_or {o r : Option State} (ho : ∀ t, o = some t → Memory.wf t.ms.mem = true) (hr : ∀ t, r = some t → Memory.wf t.ms.mem = true) :
    ∀ t, o.or r = some t → Memory.wf t.ms.mem = true := by
  intro t ht
  cases o with
  | none => exact hr t ht
  | some u => exact ho t ht

theorem wf_getDM {o : Option MemSys} {m : MemSys} (ho : ∀ t, o = some t → Memory.wf t.mem = true) (h : Memory.wf m.mem = true) :
    Memory.wf (o.getD m).mem = true := by
  cases o with
  | none => exact h
  | some t => exact ho t rfl

theorem wf_someM {m : MemSys} (h : Memory.wf m.mem = true) : ∀ t, some m = some t → Memory.wf t.mem = true := by
  intro t ht
  injection ht with ht
  exact ht ▸ h

theorem wf_foldlM {α : Type} {g : MemSys → α → MemSys} (hg : ∀ m a, Memory.wf m.mem = true → Memory.wf (g m a).mem = true)
    (l : List α) {m : MemSys} (h : Memory.wf m.mem = true) : Memory.wf (l.foldl g m).mem = true := by
  induction l generalizing m with
  | nil => exact h
  | cons a l ih => exact ih (hg m a h)

theorem wf_foldl_cells {α : Type} {g : List Host.Cell → α → List Host.Cell} (hg : ∀ m a, Memory.wf m = true → Memory.wf (g m a) = true)
    (l : List α) {m : List Host.Cell} (h : Memory.wf m = true) : Memory.wf (l.foldl g m) = true := by
  induction l generalizing m with
  | nil => exact h
  | cons a l ih => exact ih (hg m a h)

theorem wf_foldl_opt {α : Type} {g : Option State → α → Option State}
    (hg : ∀ o a, (∀ t, o = some t → Memory.wf t.ms.mem = true) → ∀ t, g o a = some t → Memory.wf t.ms.mem = true)
    (l : List α) {o : Option State} (h : ∀ t, o = some t → Memory.wf t.ms.mem = true) :
    ∀ t, l.foldl g o = some t → Memory.wf t.ms.mem = true := by
  induction l generalizing o with
  | nil => exact h
  | cons a l ih => exact ih (hg o a h)

theorem wf_foldl_optM {α : Type} {g : Option MemSys → α → Option MemSys}
    (hg : ∀ o a, (∀ t, o = some t → Memory.wf t.mem = true) → ∀ t, g o a = some t → Memory.wf t.mem = true)
    (l : List α) {o : Option MemSys} (h : ∀ t, o = some t → Memory.wf t.mem = true) :
    ∀ t, l.foldl g o = some t → Memory.wf t.mem = true := by
  induction l generalizing o with
  | nil => exact h
  | cons a l ih => exact ih (hg o a h)

/-! ## Cache -/

theorem wf_checkSector (m : MemSys) (k : Nat) (h_m : Memory.wf m.mem = true) :
    Memory.wf (checkSector m k).mem = true := by
  unfold checkSector
  (repeat' (first | (with_reducible assumption) | (with_reducible refine wf_foldl (fun s a h => ?_) _ ?_) | (with_reducible refine wf_foldlM (fun s a h => ?_) _ ?_) | (dsimp only) | split | (intro _)))

theorem wf_checkWords (m : MemSys) (a b : Nat) (h_m : Memory.wf m.mem = true) :
    Memory.wf (checkWords m a b).mem = true := by
  unfold checkWords
  (repeat' (first | (with_reducible assumption) | (with_reducible refine wf_checkSector _ _ ?_) | (with_reducible refine wf_foldl (fun s a h => ?_) _ ?_) | (with_reducible refine wf_foldlM (fun s a h => ?_) _ ?_) | (dsimp only) | split | (intro _)))

theorem wf_memPutWord (m : MemSys) (w : Nat) (d : W64) (poison : Bool) (h_m : Memory.wf m.mem = true) :
    Memory.wf (memPutWord m w d poison).mem = true := by
  unfold memPutWord
  (repeat' (first | (with_reducible assumption) | (with_reducible refine wf_checkSector _ _ ?_) | (with_reducible refine wf_memWrite ?_ _ _ _) | (dsimp only) | split | (intro _)))

theorem wf_hiveEvict (m : MemSys) (out : List Span) (h_m : Memory.wf m.mem = true) :
    Memory.wf (hiveEvict m out).mem = true := by
  unfold hiveEvict
  (repeat' (first | (with_reducible assumption) | (with_reducible refine wf_memPutWord _ _ _ _ ?_) | (with_reducible refine wf_foldl (fun s a h => ?_) _ ?_) | (with_reducible refine wf_foldlM (fun s a h => ?_) _ ?_) | (dsimp only) | split | (intro _)))

theorem wf_rawPut (m : MemSys) (w : Nat) (d : W64) (poison : Bool) (h_m : Memory.wf m.mem = true) :
    Memory.wf (rawPut m w d poison).mem = true := by
  unfold rawPut
  (repeat' (first | (with_reducible assumption) | (with_reducible refine wf_memPutWord _ _ _ _ ?_) | (dsimp only) | split | (intro _)))

theorem wf_homePut (m : MemSys) (w : Nat) (d : W64) (poison : Bool) (h_m : Memory.wf m.mem = true) :
    Memory.wf (homePut m w d poison).mem = true := by
  unfold homePut
  (repeat' (first | (with_reducible assumption) | (with_reducible refine wf_hiveEvict _ _ ?_) | (with_reducible refine wf_memPutWord _ _ _ _ ?_) | (dsimp only) | split | (intro _)))

theorem wf_hiveFill (m : MemSys) (region a b : Nat) (h_m : Memory.wf m.mem = true) :
    Memory.wf (hiveFill m region a b).mem = true := by
  unfold hiveFill
  (repeat' (first | (with_reducible assumption) | (with_reducible refine wf_checkWords _ _ _ ?_) | (with_reducible refine wf_hiveEvict _ _ ?_) | (dsimp only) | split | (intro _)))

theorem wf_hiveUsed (m : MemSys) (w : Nat) (h_m : Memory.wf m.mem = true) :
    Memory.wf (hiveUsed m w).mem = true := by
  unfold hiveUsed
  (repeat' (first | (with_reducible assumption) | (dsimp only) | split | (intro _)))

theorem wf_hiveDropIn (m : MemSys) (key w : Nat) (h_m : Memory.wf m.mem = true) :
    Memory.wf (hiveDropIn m key w).mem = true := by
  unfold hiveDropIn
  (repeat' (first | (with_reducible assumption) | (with_reducible refine wf_hiveEvict _ _ ?_) | (dsimp only) | split | (intro _)))

theorem wf_hiveDrop (m : MemSys) (w : Nat) (h_m : Memory.wf m.mem = true) :
    Memory.wf (hiveDrop m w).mem = true := by
  unfold hiveDrop
  (repeat' (first | (with_reducible assumption) | (with_reducible refine wf_hiveDropIn _ _ _ ?_) | (dsimp only) | split | (intro _)))

theorem wf_updComb (m : MemSys) (comb w : Nat) (f : CWord → CWord) (h_m : Memory.wf m.mem = true) :
    Memory.wf (updComb m comb w f).mem = true := by
  unfold updComb
  (repeat' (first | (with_reducible assumption) | (dsimp only) | split | (intro _)))

theorem wf_writeBack (m : MemSys) (w : Nat) (c : CWord) (h_m : Memory.wf m.mem = true) :
    Memory.wf (writeBack m w c).mem = true := by
  unfold writeBack
  (repeat' (first | (with_reducible assumption) | (with_reducible refine wf_homePut _ _ _ _ ?_) | (dsimp only) | split | (intro _)))

theorem wf_combEvict (m : MemSys) (out : List Span) (h_m : Memory.wf m.mem = true) :
    Memory.wf (combEvict m out).mem = true := by
  unfold combEvict
  (repeat' (first | (with_reducible assumption) | (with_reducible refine wf_writeBack _ _ _ ?_) | (with_reducible refine wf_foldl (fun s a h => ?_) _ ?_) | (with_reducible refine wf_foldlM (fun s a h => ?_) _ ?_) | (dsimp only) | split | (intro _)))

theorem wf_combFill (m : MemSys) (comb region alo ahi a b : Nat) (new : Nat → CWord) (sver : Nat) (h_m : Memory.wf m.mem = true) :
    ∀ t, (combFill m comb region alo ahi a b new sver) = some t → Memory.wf t.mem = true := by
  intro t ht
  unfold combFill at ht
  (try dsimp only at ht)
  (repeat' (first | split at ht)) <;> (try contradiction) <;> (try (injection ht with ht; first | subst ht | (injection ht with ha ht; subst ht))) <;> (repeat' (first | (with_reducible assumption) | (with_reducible refine wf_combEvict _ _ ?_) | (dsimp only) | split | (intro _)))

theorem wf_combDropIn (m : MemSys) (comb region : Nat) (drop : Span → Nat → CWord → Bool) (h_m : Memory.wf m.mem = true) :
    Memory.wf (combDropIn m comb region drop).mem = true := by
  unfold combDropIn
  (repeat' (first | (with_reducible assumption) | (with_reducible refine wf_combEvict _ _ ?_) | (dsimp only) | split | (intro _)))

theorem wf_splitSet (m : MemSys) (key : Nat) (inside : Nat → Bool) (h_m : Memory.wf m.mem = true) :
    ∀ t, (splitSet m key inside) = some t → Memory.wf t.mem = true := by
  intro t ht
  unfold splitSet at ht
  (try dsimp only at ht)
  (repeat' (first | split at ht | (rw [Option.map_eq_some_iff] at ht; obtain ⟨_, _, rfl⟩ := ht))) <;> (try contradiction) <;> (try (injection ht with ht; first | subst ht | (injection ht with ha ht; subst ht))) <;> (repeat' (first | (with_reducible assumption) | (with_reducible refine wf_combEvict _ _ ?_) | (dsimp only) | split | (intro _)))

theorem wf_combUsed (m : MemSys) (comb w : Nat) (h_m : Memory.wf m.mem = true) :
    Memory.wf (combUsed m comb w).mem = true := by
  unfold combUsed
  (repeat' (first | (with_reducible assumption) | (dsimp only) | split | (intro _)))

theorem wf_combDrop (m : MemSys) (comb : Nat) (drop : Span → Nat → CWord → Bool) (h_m : Memory.wf m.mem = true) :
    Memory.wf (combDrop m comb drop).mem = true := by
  unfold combDrop
  (repeat' (first | (with_reducible assumption) | (with_reducible refine wf_combDropIn _ _ _ _ ?_) | (with_reducible refine wf_foldl (fun s a h => ?_) _ ?_) | (with_reducible refine wf_foldlM (fun s a h => ?_) _ ?_) | (dsimp only) | split | (intro _)))

theorem wf_dropCopies (m : MemSys) (combs : List Nat) (w : Nat) (h_m : Memory.wf m.mem = true) :
    Memory.wf (dropCopies m combs w).mem = true := by
  unfold dropCopies
  (repeat' (first | (with_reducible assumption) | (with_reducible refine wf_combDropIn _ _ _ _ ?_) | (with_reducible refine wf_foldl (fun s a h => ?_) _ ?_) | (with_reducible refine wf_foldlM (fun s a h => ?_) _ ?_) | (dsimp only) | split | (intro _)))

theorem wf_recallWord (m : MemSys) (w : Nat) (h_m : Memory.wf m.mem = true) :
    Memory.wf (recallWord m w).mem = true := by
  unfold recallWord
  (repeat' (first | (with_reducible assumption) | (with_reducible refine wf_writeBack _ _ _ ?_) | (with_reducible refine wf_updComb _ _ _ _ ?_) | (dsimp only) | split | (intro _)))

theorem wf_revokeWord (m : MemSys) (w : Nat) (h_m : Memory.wf m.mem = true) :
    Memory.wf (revokeWord m w).mem = true := by
  unfold revokeWord
  (repeat' (first | (with_reducible assumption) | (with_reducible refine wf_homePut _ _ _ _ ?_) | (with_reducible refine wf_updComb _ _ _ _ ?_) | (with_reducible refine wf_combDropIn _ _ _ _ ?_) | (with_reducible refine wf_recallWord _ _ ?_) | (dsimp only) | split | (intro _)))

theorem wf_flushWord (comb : Nat) (m : MemSys) (w : Nat) (c : CWord) (h_m : Memory.wf m.mem = true) :
    Memory.wf (flushWord comb m w c).mem = true := by
  unfold flushWord
  (repeat' (first | (with_reducible assumption) | (with_reducible refine wf_writeBack _ _ _ ?_) | (with_reducible refine wf_revokeWord _ _ ?_) | (dsimp only) | split | (intro _)))

theorem wf_flushComb (m : MemSys) (comb : Nat) (h_m : Memory.wf m.mem = true) :
    Memory.wf (flushComb m comb).mem = true := by
  unfold flushComb
  (repeat' (first | (with_reducible assumption) | (with_reducible refine wf_flushWord _ _ _ _ ?_) | (with_reducible refine wf_foldl (fun s a h => ?_) _ ?_) | (with_reducible refine wf_foldlM (fun s a h => ?_) _ ?_) | (dsimp only) | split | (intro _)))

theorem wf_homeWrite (m : MemSys) (w : Nat) (d : W64) (mask : Byte) (poison : Bool) (h_m : Memory.wf m.mem = true) :
    Memory.wf (homeWrite m w d mask poison).mem = true := by
  unfold homeWrite
  (repeat' (first | (with_reducible assumption) | (with_reducible refine wf_revokeWord _ _ ?_) | (with_reducible refine wf_homePut _ _ _ _ ?_) | (dsimp only) | split | (intro _)))

theorem wf_uncachedWrite (m : MemSys) (w : Nat) (d : W64) (mask : Byte) (poison : Bool) (h_m : Memory.wf m.mem = true) :
    Memory.wf (uncachedWrite m w d mask poison).mem = true := by
  unfold uncachedWrite
  (repeat' (first | (with_reducible assumption) | (with_reducible refine wf_revokeWord _ _ ?_) | (with_reducible refine wf_rawPut _ _ _ _ ?_) | (dsimp only) | split | (intro _)))

/-! ## Translate -/

theorem wf_walkRecall (s : State) (comb part va : Nat) (h_s : Memory.wf s.ms.mem = true) :
    Memory.wf (walkRecall s comb part va).ms.mem = true := by
  unfold walkRecall
  (repeat' (first | (with_reducible assumption) | (with_reducible refine wf_recallWord _ _ ?_) | (with_reducible refine wf_foldl (fun s a h => ?_) _ ?_) | (with_reducible refine wf_foldlM (fun s a h => ?_) _ ?_) | (dsimp only) | split | (intro _)))

theorem wf_tlbUse (s : State) (comb part va : Nat) (h_s : Memory.wf s.ms.mem = true) :
    Memory.wf (tlbUse s comb part va).ms.mem = true := by
  unfold tlbUse
  (repeat' (first | (with_reducible assumption) | (with_reducible refine wf_walkRecall _ _ _ _ ?_) | (dsimp only) | split | (intro _)))

theorem wf_devSeen (s : State) (part va n : Nat) (h_s : Memory.wf s.ms.mem = true) :
    Memory.wf (devSeen s part va n).ms.mem = true := by
  unfold devSeen
  (repeat' (first | (with_reducible assumption) | (with_reducible refine wf_walkRecall _ _ _ _ ?_) | (with_reducible refine wf_recallWord _ _ ?_) | (with_reducible refine wf_foldl (fun s a h => ?_) _ ?_) | (with_reducible refine wf_foldlM (fun s a h => ?_) _ ?_) | (dsimp only) | split | (intro _)))

theorem wf_remoteWrite (m : MemSys) (k n d : Nat) (h_m : Memory.wf m.mem = true) :
    Memory.wf (remoteWrite m k n d).mem = true := by
  unfold remoteWrite
  (repeat' (first | (with_reducible assumption) | (with_reducible refine wf_foldl (fun s a h => ?_) _ ?_) | (with_reducible refine wf_foldlM (fun s a h => ?_) _ ?_) | (dsimp only) | split | (intro _)))

theorem wf_devWrite (s : State) (part va n d : Nat) (h_s : Memory.wf s.ms.mem = true) :
    ∀ t, (devWrite s part va n d) = .ok t → Memory.wf t.ms.mem = true := by
  intro t ht
  unfold devWrite at ht
  (try dsimp only at ht)
  (repeat' (first | split at ht)) <;> (try contradiction) <;> (try (injection ht with ht; first | subst ht | (injection ht with ha ht; subst ht))) <;> (repeat' (first | (with_reducible assumption) | (with_reducible refine wf_uncachedWrite _ _ _ _ _ ?_) | (with_reducible refine wf_homeWrite _ _ _ _ _ ?_) | (with_reducible refine wf_remoteWrite _ _ _ _ ?_) | (dsimp only) | split | (intro _)))

theorem wf_devWriteWords (s : State) (part va : Nat) (e0 : List W64) (h_s : Memory.wf s.ms.mem = true) :
    ∀ t, (devWriteWords s part va e0) = .ok t → Memory.wf t.ms.mem = true := by
  induction e0 generalizing s part va with
  | nil =>
    intro t ht
    unfold devWriteWords at ht
    (try dsimp only at ht)
    (repeat' (first | split at ht)) <;> (try contradiction) <;> (try (injection ht with ht; first | subst ht | (injection ht with ha ht; subst ht))) <;> (repeat' (first | (with_reducible assumption) | (with_reducible refine wf_devWrite _ _ _ _ _ ?_ _ (by assumption)) | (dsimp only) | split | (intro _)))
  | cons a l ih =>
    intro t ht
    unfold devWriteWords at ht
    (try dsimp only at ht)
    (repeat' (first | split at ht)) <;> (try contradiction) <;> (try (injection ht with ht; first | subst ht | (injection ht with ha ht; subst ht))) <;> (repeat' (first | (with_reducible refine ih _ _ _ ?_ _ (by assumption)) | (with_reducible assumption) | (with_reducible refine wf_devWrite _ _ _ _ _ ?_ _ (by assumption)) | (dsimp only) | split | (intro _)))

theorem wf_snoopLine (m : MemSys) (line : Nat) (h_m : Memory.wf m.mem = true) :
    Memory.wf (snoopLine m line).mem = true := by
  unfold snoopLine
  (repeat' (first | (with_reducible assumption) | (dsimp only) | split | (intro _)))

theorem wf_trackLine (m : MemSys) (line : Nat) (h_m : Memory.wf m.mem = true) :
    Memory.wf (trackLine m line).mem = true := by
  unfold trackLine
  (repeat' (first | (with_reducible assumption) | (dsimp only) | split | (intro _)))

theorem wf_untrackLine (m : MemSys) (line : Nat) (h_m : Memory.wf m.mem = true) :
    Memory.wf (untrackLine m line).mem = true := by
  unfold untrackLine
  (repeat' (first | (with_reducible assumption) | (dsimp only) | split | (intro _)))

theorem wf_holdLease (m : MemSys) (key expiry : Nat) (h_m : Memory.wf m.mem = true) :
    Memory.wf (holdLease m key expiry).mem = true := by
  unfold holdLease
  (repeat' (first | (with_reducible assumption) | (dsimp only) | split | (intro _)))

theorem wf_snoopWords (s : State) (ws : List Nat) (h_s : Memory.wf s.ms.mem = true) :
    Memory.wf (snoopWords s ws).ms.mem = true := by
  unfold snoopWords
  (repeat' (first | (with_reducible assumption) | (with_reducible refine wf_snoopLine _ _ ?_) | (with_reducible refine wf_foldl (fun s a h => ?_) _ ?_) | (with_reducible refine wf_foldlM (fun s a h => ?_) _ ?_) | (dsimp only) | split | (intro _)))

/-! ## Ops -/

theorem wf_setCtx (s : State) (c : Nat) (x : Ctx) (h_s : Memory.wf s.ms.mem = true) :
    Memory.wf (setCtx s c x).ms.mem = true := by
  unfold setCtx
  (repeat' (first | (with_reducible assumption) | (dsimp only) | split | (intro _)))

theorem wf_modCtx (s : State) (c : Nat) (f : Ctx → Ctx) (h_s : Memory.wf s.ms.mem = true) :
    Memory.wf (modCtx s c f).ms.mem = true := by
  unfold modCtx
  (repeat' (first | (with_reducible assumption) | (with_reducible refine wf_setCtx _ _ _ ?_) | (dsimp only) | split | (intro _)))

theorem wf_modBlock (s : State) (c tag : Nat) (f : Block → Block) (h_s : Memory.wf s.ms.mem = true) :
    Memory.wf (modBlock s c tag f).ms.mem = true := by
  unfold modBlock
  (repeat' (first | (with_reducible assumption) | (with_reducible refine wf_modCtx _ _ _ ?_) | (dsimp only) | split | (intro _)))

theorem wf_setSt (s : State) (i : Issue) (st : NodeSt) (h_s : Memory.wf s.ms.mem = true) :
    Memory.wf (setSt s i st).ms.mem = true := by
  unfold setSt
  (repeat' (first | (with_reducible assumption) | (with_reducible refine wf_modBlock _ _ _ _ ?_) | (dsimp only) | split | (intro _)))

theorem wf_modLaunch (s : State) (l : Nat) (f : Launch → Launch) (h_s : Memory.wf s.ms.mem = true) :
    Memory.wf (modLaunch s l f).ms.mem = true := by
  unfold modLaunch
  (repeat' (first | (with_reducible assumption) | (dsimp only) | split | (intro _)))

theorem wf_modPart (s : State) (p : Nat) (f : Partition → Partition) (h_s : Memory.wf s.ms.mem = true) :
    Memory.wf (modPart s p f).ms.mem = true := by
  unfold modPart
  (repeat' (first | (with_reducible assumption) | (dsimp only) | split | (intro _)))

theorem wf_modQueue (s : State) (p q : Nat) (f : Queue → Queue) (h_s : Memory.wf s.ms.mem = true) :
    Memory.wf (modQueue s p q f).ms.mem = true := by
  unfold modQueue
  (repeat' (first | (with_reducible assumption) | (with_reducible refine wf_modPart _ _ _ ?_) | (dsimp only) | split | (intro _)))

theorem wf_markBound (s : State) (c : Nat) (h_s : Memory.wf s.ms.mem = true) :
    Memory.wf (markBound s c).ms.mem = true := by
  unfold markBound
  (repeat' (first | (with_reducible assumption) | (with_reducible refine wf_modCtx _ _ _ ?_) | (dsimp only) | split | (intro _)))

theorem wf_bumpSeq (s : State) (h_s : Memory.wf s.ms.mem = true) :
    Memory.wf (bumpSeq s).ms.mem = true := by
  unfold bumpSeq
  (repeat' (first | (with_reducible assumption) | (dsimp only) | split | (intro _)))

theorem wf_bumpFresh (s : State) (h_s : Memory.wf s.ms.mem = true) :
    Memory.wf (bumpFresh s).ms.mem = true := by
  unfold bumpFresh
  (repeat' (first | (with_reducible assumption) | (dsimp only) | split | (intro _)))

theorem wf_deliver (s : State) (i : Issue) (lat : Nat) (t : Target) (tok : Token) (h_s : Memory.wf s.ms.mem = true) :
    Memory.wf (deliver s i lat t tok).ms.mem = true := by
  unfold deliver
  (repeat' (first | (with_reducible assumption) | (with_reducible refine wf_bumpSeq _ ?_) | (dsimp only) | split | (intro _)))

theorem wf_emitTo (s : State) (i : Issue) (lat : Nat) (ts : List Target) (tok : Token) (h_s : Memory.wf s.ms.mem = true) :
    Memory.wf (emitTo s i lat ts tok).ms.mem = true := by
  unfold emitTo
  (repeat' (first | (with_reducible assumption) | (with_reducible refine wf_deliver _ _ _ _ _ ?_) | (with_reducible refine wf_foldl (fun s a h => ?_) _ ?_) | (with_reducible refine wf_foldlM (fun s a h => ?_) _ ?_) | (dsimp only) | split | (intro _)))

theorem wf_finish (s : State) (i : Issue) (lat : Nat) (ts : List Target) (tok : Token) (h_s : Memory.wf s.ms.mem = true) :
    Memory.wf (finish s i lat ts tok).ms.mem = true := by
  unfold finish
  (repeat' (first | (with_reducible assumption) | (with_reducible refine wf_setSt _ _ _ ?_) | (with_reducible refine wf_emitTo _ _ _ _ _ ?_) | (dsimp only) | split | (intro _)))

theorem wf_recordFault (s : State) (i : Issue) (cause : BitVec 8) (v : W64) (h_s : Memory.wf s.ms.mem = true) :
    Memory.wf (recordFault s i cause v).ms.mem = true := by
  unfold recordFault
  (repeat' (first | (with_reducible assumption) | (with_reducible refine wf_setSt _ _ _ ?_) | (with_reducible refine wf_modBlock _ _ _ _ ?_) | (dsimp only) | split | (intro _)))

theorem wf_kindFault (s : State) (i : Issue) (h_s : Memory.wf s.ms.mem = true) :
    Memory.wf (kindFault s i).ms.mem = true := by
  unfold kindFault
  (repeat' (first | (with_reducible assumption) | (with_reducible refine wf_recordFault _ _ _ _ ?_) | (dsimp only) | split | (intro _)))

theorem wf_withIssue (s : State) (k : Issue → Ctx → Block → State → State) (h_s : Memory.wf s.ms.mem = true) (h_k : ∀ y0 y1 y2 y3, Memory.wf y3.ms.mem = true → Memory.wf (k y0 y1 y2 y3).ms.mem = true) :
    ∀ t, (withIssue s k) = .next t → Memory.wf t.ms.mem = true := by
  unfold withIssue
  (repeat' (first | (with_reducible assumption) | (with_reducible refine h_k _ _ _ _ ?_) | (with_reducible refine wf_next ?_) | (exact wf_fault _) | (dsimp only) | split | (intro _)))

theorem wf_fire0 (p : Pr) (s : State) (k : Issue → Ctx → Block → State → State) (h_s : Memory.wf s.ms.mem = true) (h_k : ∀ y0 y1 y2 y3, Memory.wf y3.ms.mem = true → Memory.wf (k y0 y1 y2 y3).ms.mem = true) :
    ∀ t, (fire0 p s k) = .next t → Memory.wf t.ms.mem = true := by
  unfold fire0
  (repeat' (first | (with_reducible assumption) | (with_reducible refine wf_withIssue _ _ ?_ ?_) | (with_reducible refine wf_kindFault _ _ ?_) | (with_reducible refine wf_setSt _ _ _ ?_) | (with_reducible refine h_k _ _ _ _ ?_) | (with_reducible refine wf_next ?_) | (exact wf_fault _) | (dsimp only) | split | (intro _)))

theorem wf_emitNull (s : State) (i : Issue) (ts : List Target) (h_s : Memory.wf s.ms.mem = true) :
    Memory.wf (emitNull s i ts).ms.mem = true := by
  unfold emitNull
  (repeat' (first | (with_reducible assumption) | (with_reducible refine wf_finish _ _ _ _ _ ?_) | (dsimp only) | split | (intro _)))

theorem wf_fire1 (p : Pr) (s : State) (nul : Issue → State → State) (k : Issue → Ctx → Block → Token → State → State) (h_s : Memory.wf s.ms.mem = true) (h_nul : ∀ y0 y1, Memory.wf y1.ms.mem = true → Memory.wf (nul y0 y1).ms.mem = true) (h_k : ∀ y0 y1 y2 y3 y4, Memory.wf y4.ms.mem = true → Memory.wf (k y0 y1 y2 y3 y4).ms.mem = true) :
    ∀ t, (fire1 p s nul k) = .next t → Memory.wf t.ms.mem = true := by
  unfold fire1
  (repeat' (first | (with_reducible assumption) | (with_reducible refine wf_fire0 _ _ _ ?_ ?_) | (with_reducible refine wf_setSt _ _ _ ?_) | (with_reducible refine h_nul _ _ ?_) | (with_reducible refine h_k _ _ _ _ _ ?_) | (with_reducible refine wf_next ?_) | (exact wf_fault _) | (dsimp only) | split | (intro _)))

theorem wf_fire2 (p : Pr) (s : State) (nul : Issue → State → State) (k : Issue → Ctx → Block → Token → Token → State → State) (h_s : Memory.wf s.ms.mem = true) (h_nul : ∀ y0 y1, Memory.wf y1.ms.mem = true → Memory.wf (nul y0 y1).ms.mem = true) (h_k : ∀ y0 y1 y2 y3 y4 y5, Memory.wf y5.ms.mem = true → Memory.wf (k y0 y1 y2 y3 y4 y5).ms.mem = true) :
    ∀ t, (fire2 p s nul k) = .next t → Memory.wf t.ms.mem = true := by
  unfold fire2
  (repeat' (first | (with_reducible assumption) | (with_reducible refine wf_fire0 _ _ _ ?_ ?_) | (with_reducible refine wf_setSt _ _ _ ?_) | (with_reducible refine h_nul _ _ ?_) | (with_reducible refine h_k _ _ _ _ _ _ ?_) | (with_reducible refine wf_next ?_) | (exact wf_fault _) | (dsimp only) | split | (intro _)))

theorem wf_fire3 (s : State) (nul : Issue → State → State) (k : Issue → Ctx → Block → Token → Token → Token → State → State) (h_s : Memory.wf s.ms.mem = true) (h_nul : ∀ y0 y1, Memory.wf y1.ms.mem = true → Memory.wf (nul y0 y1).ms.mem = true) (h_k : ∀ y0 y1 y2 y3 y4 y5 y6, Memory.wf y6.ms.mem = true → Memory.wf (k y0 y1 y2 y3 y4 y5 y6).ms.mem = true) :
    ∀ t, (fire3 s nul k) = .next t → Memory.wf t.ms.mem = true := by
  unfold fire3
  (repeat' (first | (with_reducible assumption) | (with_reducible refine wf_withIssue _ _ ?_ ?_) | (with_reducible refine wf_setSt _ _ _ ?_) | (with_reducible refine h_nul _ _ ?_) | (with_reducible refine h_k _ _ _ _ _ _ _ ?_) | (with_reducible refine wf_next ?_) | (exact wf_fault _) | (dsimp only) | split | (intro _)))

theorem wf_nullTo (ts : List Target) (e0 : Issue) (e1 : State) (h_e1 : Memory.wf e1.ms.mem = true) :
    Memory.wf (nullTo ts e0 e1).ms.mem = true := by
  unfold nullTo
  (repeat' (first | (with_reducible assumption) | (with_reducible refine wf_emitNull _ _ _ ?_) | (dsimp only) | split | (intro _)))

theorem wf_scalar1 (p : Pr) (lat : Nat) (ts : List Target) (f : W64 → W64) (s : State) (h_s : Memory.wf s.ms.mem = true) :
    ∀ t, (scalar1 p lat ts f s) = .next t → Memory.wf t.ms.mem = true := by
  unfold scalar1
  (repeat' (first | (with_reducible assumption) | (with_reducible refine wf_fire1 _ _ _ _ ?_ ?_ ?_) | (with_reducible refine wf_nullTo _ _ _ ?_) | (with_reducible refine wf_finish _ _ _ _ _ ?_) | (with_reducible refine wf_kindFault _ _ ?_) | (with_reducible refine wf_next ?_) | (exact wf_fault _) | (dsimp only) | split | (intro _)))

theorem wf_scalar2l (p : Pr) (lat : W64 → W64 → Nat) (ts : List Target) (f : W64 → W64 → W64) (s : State) (h_s : Memory.wf s.ms.mem = true) :
    ∀ t, (scalar2l p lat ts f s) = .next t → Memory.wf t.ms.mem = true := by
  unfold scalar2l
  (repeat' (first | (with_reducible assumption) | (with_reducible refine wf_fire2 _ _ _ _ ?_ ?_ ?_) | (with_reducible refine wf_nullTo _ _ _ ?_) | (with_reducible refine wf_finish _ _ _ _ _ ?_) | (with_reducible refine wf_kindFault _ _ ?_) | (with_reducible refine wf_next ?_) | (exact wf_fault _) | (dsimp only) | split | (intro _)))

theorem wf_scalar2 (p : Pr) (lat : Nat) (ts : List Target) (f : W64 → W64 → W64) (s : State) (h_s : Memory.wf s.ms.mem = true) :
    ∀ t, (scalar2 p lat ts f s) = .next t → Memory.wf t.ms.mem = true := by
  unfold scalar2
  (repeat' (first | (with_reducible assumption) | (with_reducible refine wf_scalar2l _ _ _ _ _ ?_) | (with_reducible refine wf_next ?_) | (exact wf_fault _) | (dsimp only) | split | (intro _)))

theorem wf_vector1 (p : Pr) (lat : Nat) (ts : List Target) (f : Lanes → Mask → Token) (s : State) (h_s : Memory.wf s.ms.mem = true) :
    ∀ t, (vector1 p lat ts f s) = .next t → Memory.wf t.ms.mem = true := by
  unfold vector1
  (repeat' (first | (with_reducible assumption) | (with_reducible refine wf_fire1 _ _ _ _ ?_ ?_ ?_) | (with_reducible refine wf_nullTo _ _ _ ?_) | (with_reducible refine wf_finish _ _ _ _ _ ?_) | (with_reducible refine wf_kindFault _ _ ?_) | (with_reducible refine wf_next ?_) | (exact wf_fault _) | (dsimp only) | split | (intro _)))

theorem wf_vector2 (p : Pr) (lat : Nat) (ts : List Target) (f : Lanes → Mask → Lanes → Mask → Token) (s : State) (h_s : Memory.wf s.ms.mem = true) :
    ∀ t, (vector2 p lat ts f s) = .next t → Memory.wf t.ms.mem = true := by
  unfold vector2
  (repeat' (first | (with_reducible assumption) | (with_reducible refine wf_fire2 _ _ _ _ ?_ ?_ ?_) | (with_reducible refine wf_nullTo _ _ _ ?_) | (with_reducible refine wf_finish _ _ _ _ _ ?_) | (with_reducible refine wf_kindFault _ _ ?_) | (with_reducible refine wf_next ?_) | (exact wf_fault _) | (dsimp only) | split | (intro _)))

theorem wf_vector3 (lat : Nat) (ts : List Target) (f : Lanes → Mask → Lanes → Mask → Lanes → Mask → Token) (s : State) (h_s : Memory.wf s.ms.mem = true) :
    ∀ t, (vector3 lat ts f s) = .next t → Memory.wf t.ms.mem = true := by
  unfold vector3
  (repeat' (first | (with_reducible assumption) | (with_reducible refine wf_fire3 _ _ _ ?_ ?_ ?_) | (with_reducible refine wf_nullTo _ _ _ ?_) | (with_reducible refine wf_finish _ _ _ _ _ ?_) | (with_reducible refine wf_kindFault _ _ ?_) | (with_reducible refine wf_next ?_) | (exact wf_fault _) | (dsimp only) | split | (intro _)))

theorem wf_cancelBlocks (s : State) (c : Nat) (tags : List Nat) (h_s : Memory.wf s.ms.mem = true) :
    Memory.wf (cancelBlocks s c tags).ms.mem = true := by
  unfold cancelBlocks
  (repeat' (first | (with_reducible assumption) | (dsimp only) | split | (intro _)))

theorem wf_discardFrom (s : State) (c n : Nat) (h_s : Memory.wf s.ms.mem = true) :
    Memory.wf (discardFrom s c n).ms.mem = true := by
  unfold discardFrom
  (repeat' (first | (with_reducible assumption) | (with_reducible refine wf_cancelBlocks _ _ _ ?_) | (with_reducible refine wf_modCtx _ _ _ ?_) | (dsimp only) | split | (intro _)))

theorem wf_discardAt (s : State) (c tag : Nat) (h_s : Memory.wf s.ms.mem = true) :
    Memory.wf (discardAt s c tag).ms.mem = true := by
  unfold discardAt
  (repeat' (first | (with_reducible assumption) | (with_reducible refine wf_discardFrom _ _ _ ?_) | (dsimp only) | split | (intro _)))

theorem wf_discardYounger (s : State) (c tag : Nat) (h_s : Memory.wf s.ms.mem = true) :
    Memory.wf (discardYounger s c tag).ms.mem = true := by
  unfold discardYounger
  (repeat' (first | (with_reducible assumption) | (with_reducible refine wf_discardFrom _ _ _ ?_) | (dsimp only) | split | (intro _)))

theorem wf_requestDecision (s : State) (p : Nat) (d : Decision) (h_s : Memory.wf s.ms.mem = true) :
    Memory.wf (requestDecision s p d).ms.mem = true := by
  unfold requestDecision
  (repeat' (first | (with_reducible assumption) | (with_reducible refine wf_modPart _ _ _ ?_) | (dsimp only) | split | (intro _)))

theorem wf_raiseIrq (s : State) (p vec : Nat) (h_s : Memory.wf s.ms.mem = true) :
    Memory.wf (raiseIrq s p vec).ms.mem = true := by
  unfold raiseIrq
  (repeat' (first | (with_reducible assumption) | (dsimp only) | split | (intro _)))

theorem wf_delayFor (s : State) (msg : Nat) (ws : List Nat) (h_s : Memory.wf s.ms.mem = true) :
    Memory.wf (delayFor s msg ws).ms.mem = true := by
  unfold delayFor
  (repeat' (first | (with_reducible assumption) | (with_reducible refine wf_bumpSeq _ ?_) | (with_reducible refine wf_foldl (fun s a h => ?_) _ ?_) | (with_reducible refine wf_foldlM (fun s a h => ?_) _ ?_) | (dsimp only) | split | (intro _)))

theorem wf_undelay (m : MemSys) (n : Nat) (h_m : Memory.wf m.mem = true) :
    Memory.wf (undelay m n).mem = true := by
  unfold undelay
  (repeat' (first | (with_reducible assumption) | (dsimp only) | split | (intro _)))

theorem wf_loseRecord (s : State) (p : Nat) (h_s : Memory.wf s.ms.mem = true) :
    Memory.wf (loseRecord s p).ms.mem = true := by
  unfold loseRecord
  (repeat' (first | (with_reducible assumption) | (with_reducible refine wf_modPart _ _ _ ?_) | (dsimp only) | split | (intro _)))

theorem wf_writeRecord (s : State) (p : Nat) (ws : List W64) (h_s : Memory.wf s.ms.mem = true) :
    Memory.wf (writeRecord s p ws).ms.mem = true := by
  unfold writeRecord
  (repeat' (first | (with_reducible assumption) | (with_reducible refine wf_loseRecord _ _ ?_) | (with_reducible refine wf_devWriteWords _ _ _ _ ?_ _ (by assumption)) | (with_reducible refine wf_raiseIrq _ _ _ ?_) | (with_reducible refine wf_modPart _ _ _ ?_) | (dsimp only) | split | (intro _)))

theorem wf_drainRecords (s : State) (p e0 : Nat) (h_s : Memory.wf s.ms.mem = true) :
    Memory.wf (drainRecords s p e0).ms.mem = true := by
  induction e0 generalizing s p with
  | zero =>
    unfold drainRecords
    (repeat' (first | (with_reducible assumption) | (with_reducible refine wf_undelay _ _ ?_) | (with_reducible refine wf_writeRecord _ _ _ ?_) | (with_reducible refine wf_modPart _ _ _ ?_) | (with_reducible refine wf_delayFor _ _ _ ?_) | (with_reducible refine wf_snoopWords _ _ ?_) | (dsimp only) | split | (intro _)))
  | succ n ih =>
    unfold drainRecords
    (repeat' (first | (with_reducible refine ih _ _ ?_) | (with_reducible assumption) | (with_reducible refine wf_undelay _ _ ?_) | (with_reducible refine wf_writeRecord _ _ _ ?_) | (with_reducible refine wf_modPart _ _ _ ?_) | (with_reducible refine wf_delayFor _ _ _ ?_) | (with_reducible refine wf_snoopWords _ _ ?_) | (dsimp only) | split | (intro _)))

theorem wf_faultRecord (s : State) (p : Nat) (r : FaultRec) (h_s : Memory.wf s.ms.mem = true) :
    Memory.wf (faultRecord s p r).ms.mem = true := by
  unfold faultRecord
  (repeat' (first | (with_reducible assumption) | (with_reducible refine wf_loseRecord _ _ ?_) | (with_reducible refine wf_modPart _ _ _ ?_) | (with_reducible refine wf_bumpFresh _ ?_) | (with_reducible refine wf_drainRecords _ _ _ ?_) | (dsimp only) | split | (intro _)))

theorem wf_drainAll (s : State) (h_s : Memory.wf s.ms.mem = true) :
    Memory.wf (drainAll s).ms.mem = true := by
  unfold drainAll
  (repeat' (first | (with_reducible assumption) | (with_reducible refine wf_drainRecords _ _ _ ?_) | (with_reducible refine wf_foldl (fun s a h => ?_) _ ?_) | (with_reducible refine wf_foldlM (fun s a h => ?_) _ ?_) | (dsimp only) | split | (intro _)))

theorem wf_deviceFault (s : State) (p : Nat) (e : BitVec 8 × Nat) (index queue : Nat) (h_s : Memory.wf s.ms.mem = true) :
    Memory.wf (deviceFault s p e index queue).ms.mem = true := by
  unfold deviceFault
  (repeat' (first | (with_reducible assumption) | (with_reducible refine wf_faultRecord _ _ _ ?_) | (dsimp only) | split | (intro _)))

theorem wf_taskRecord (s : State) (c kind : Nat) (action : Option Nat) (h_s : Memory.wf s.ms.mem = true) :
    Memory.wf (taskRecord s c kind action).ms.mem = true := by
  unfold taskRecord
  (repeat' (first | (with_reducible assumption) | (with_reducible refine wf_faultRecord _ _ _ ?_) | (with_reducible refine wf_getD ?_ ?_) | (with_reducible refine wf_getDM ?_ ?_) | (dsimp only) | split | (intro _)))

theorem wf_takeTrap (s : State) (c : Nat) (cause : BitVec 8) (tval tepc : W64) (tidx : Nat) (h_s : Memory.wf s.ms.mem = true) :
    Memory.wf (takeTrap s c cause tval tepc tidx).ms.mem = true := by
  unfold takeTrap
  (repeat' (first | (with_reducible assumption) | (with_reducible refine wf_discardFrom _ _ _ ?_) | (with_reducible refine wf_setCtx _ _ _ ?_) | (with_reducible refine wf_requestDecision _ _ _ ?_) | (dsimp only) | split | (intro _)))

theorem wf_selfInval (s : State) (c : Nat) (h_s : Memory.wf s.ms.mem = true) :
    Memory.wf (selfInval s c).ms.mem = true := by
  unfold selfInval
  (repeat' (first | (with_reducible assumption) | (with_reducible refine wf_combDrop _ _ _ ?_) | (with_reducible refine wf_foldl (fun s a h => ?_) _ ?_) | (with_reducible refine wf_foldlM (fun s a h => ?_) _ ?_) | (dsimp only) | split | (intro _)))

theorem wf_again (s : State) (c tag lsid : Nat) (l : LoadRec) (r : LoadReq) (h_s : Memory.wf s.ms.mem = true) :
    Memory.wf (again s c tag lsid l r).ms.mem = true := by
  unfold again
  (repeat' (first | (with_reducible assumption) | (with_reducible refine wf_discardAt _ _ _ ?_) | (with_reducible refine wf_modBlock _ _ _ _ ?_) | (with_reducible refine wf_bumpSeq _ ?_) | (dsimp only) | split | (intro _)))

theorem wf_acquire (s : State) (c : Nat) (tag : Option Nat) (lo : Nat) (h_s : Memory.wf s.ms.mem = true) :
    Memory.wf (acquire s c tag lo).ms.mem = true := by
  unfold acquire
  (repeat' (first | (with_reducible assumption) | (with_reducible refine wf_selfInval _ _ ?_) | (with_reducible refine wf_again _ _ _ _ _ _ ?_) | (with_reducible refine wf_foldl (fun s a h => ?_) _ ?_) | (with_reducible refine wf_foldlM (fun s a h => ?_) _ ?_) | (dsimp only) | split | (intro _)))

theorem wf_advance (s : State) (cc : Nat) (h_s : Memory.wf s.ms.mem = true) :
    Memory.wf (advance s cc).ms.mem = true := by
  unfold advance
  (repeat' (first | (with_reducible assumption) | (dsimp only) | split | (intro _)))

/-! ## Window -/

theorem wf_disturb (s : State) (c : Nat) (h_s : Memory.wf s.ms.mem = true) :
    Memory.wf (disturb s c).ms.mem = true := by
  unfold disturb
  (repeat' (first | (with_reducible assumption) | (with_reducible refine wf_discardFrom _ _ _ ?_) | (dsimp only) | split | (intro _)))

theorem wf_windowWrite (s : State) (comb off : Nat) (d : W64) (mask : Byte) (h_s : Memory.wf s.ms.mem = true) :
    Memory.wf (windowWrite s comb off d mask).ms.mem = true := by
  unfold windowWrite
  (repeat' (first | (with_reducible assumption) | (with_reducible refine wf_disturb _ _ ?_) | (with_reducible refine wf_modCtx _ _ _ ?_) | (with_reducible refine wf_memWrite ?_ _ _ _) | (dsimp only) | split | (intro _)))

/-! ## Tasks -/

theorem wf_clearTiles (s : State) (x : Ctx) (c : Nat) (h : List W64) (combs : List Nat) (h_s : Memory.wf s.ms.mem = true) :
    Memory.wf (clearTiles s x c h combs).ms.mem = true := by
  unfold clearTiles
  (repeat' (first | (with_reducible assumption) | (with_reducible refine wf_foldl (fun s a h => ?_) _ ?_) | (with_reducible refine wf_foldlM (fun s a h => ?_) _ ?_) | (dsimp only) | split | (intro _)))

theorem wf_checkpoint (s : State) (die : Nat) (h_s : Memory.wf s.ms.mem = true) :
    Memory.wf (checkpoint s die).ms.mem = true := by
  unfold checkpoint
  (repeat' (first | (with_reducible assumption) | (dsimp only) | split | (intro _)))

theorem wf_journalAdd (s : State) (kind part queue idx : Nat) (h_s : Memory.wf s.ms.mem = true) :
    Memory.wf (journalAdd s kind part queue idx).ms.mem = true := by
  unfold journalAdd
  (repeat' (first | (with_reducible assumption) | (with_reducible refine wf_checkpoint _ _ ?_) | (dsimp only) | split | (intro _)))

theorem wf_markReady (s : State) (p q : Nat) (h_s : Memory.wf s.ms.mem = true) :
    Memory.wf (markReady s p q).ms.mem = true := by
  unfold markReady
  (repeat' (first | (with_reducible assumption) | (with_reducible refine wf_modQueue _ _ _ _ ?_) | (dsimp only) | split | (intro _)))

theorem wf_journalPlaced (s : State) (launch : Nat) (h_s : Memory.wf s.ms.mem = true) :
    Memory.wf (journalPlaced s launch).ms.mem = true := by
  unfold journalPlaced
  (repeat' (first | (with_reducible assumption) | (with_reducible refine wf_journalAdd _ _ _ _ _ ?_) | (dsimp only) | split | (intro _)))

theorem wf_storeBytes (s : State) (pa n d : Nat) (h_s : Memory.wf s.ms.mem = true) :
    Memory.wf (storeBytes s pa n d).ms.mem = true := by
  unfold storeBytes
  (repeat' (first | (with_reducible assumption) | (with_reducible refine wf_memWrite ?_ _ _ _) | (dsimp only) | split | (intro _)))

theorem wf_storeRaw (s : State) (pa n d : Nat) (h_s : Memory.wf s.ms.mem = true) :
    Memory.wf (storeRaw s pa n d).ms.mem = true := by
  unfold storeRaw
  (repeat' (first | (with_reducible assumption) | (with_reducible refine wf_storeBytes _ _ _ _ ?_) | (dsimp only) | split | (intro _)))

theorem wf_storeArgs (s : State) (pa : Nat) (e0 : List W64) (h_s : Memory.wf s.ms.mem = true) :
    Memory.wf (storeArgs s pa e0).ms.mem = true := by
  induction e0 generalizing s pa with
  | nil =>
    unfold storeArgs
    (repeat' (first | (with_reducible assumption) | (with_reducible refine wf_storeRaw _ _ _ _ ?_) | (dsimp only) | split | (intro _)))
  | cons a l ih =>
    unfold storeArgs
    (repeat' (first | (with_reducible refine ih _ _ ?_) | (with_reducible assumption) | (with_reducible refine wf_storeRaw _ _ _ _ ?_) | (dsimp only) | split | (intro _)))

theorem wf_zeroStore (m : MemSys) (pa n : Nat) (h_m : Memory.wf m.mem = true) :
    Memory.wf (zeroStore m pa n).mem = true := by
  unfold zeroStore
  (repeat' (first | (with_reducible assumption) | (with_reducible refine wf_memClear ?_ _ _) | (with_reducible refine wf_filter ?_ _) | (dsimp only) | split | (intro _)))

theorem wf_startTask (s : State) (c : Nat) (t : Task) (g0 : RegVal) (entry : W64) (h_s : Memory.wf s.ms.mem = true) :
    Memory.wf (startTask s c t g0 entry).ms.mem = true := by
  unfold startTask
  (repeat' (first | (with_reducible assumption) | (with_reducible refine wf_clearTiles _ _ _ _ _ ?_) | (with_reducible refine wf_setCtx _ _ _ ?_) | (with_reducible refine wf_storeArgs _ _ _ ?_) | (with_reducible refine wf_selfInval _ _ ?_) | (dsimp only) | split | (intro _)))

theorem wf_beginPlacement (s : State) (c part k : Nat) (h : List W64) (bases : SMap (Nat × Nat)) (off : Nat) (h_s : Memory.wf s.ms.mem = true) :
    Memory.wf (beginPlacement s c part k h bases off).ms.mem = true := by
  unfold beginPlacement
  (repeat' (first | (with_reducible assumption) | (with_reducible refine wf_zeroStore _ _ _ ?_) | (with_reducible refine wf_setCtx _ _ _ ?_) | (dsimp only) | split | (intro _)))

theorem wf_placeTile (s : State) (launch n : Nat) (room : Nat × SMap (Nat × Nat) × Nat) (h_s : Memory.wf s.ms.mem = true) :
    Memory.wf (placeTile s launch n room).ms.mem = true := by
  unfold placeTile
  (repeat' (first | (with_reducible assumption) | (with_reducible refine wf_beginPlacement _ _ _ _ _ _ _ ?_) | (with_reducible refine wf_modLaunch _ _ _ ?_) | (with_reducible refine wf_markReady _ _ _ ?_) | (with_reducible refine wf_startTask _ _ _ _ _ ?_) | (with_reducible refine wf_getD ?_ ?_) | (with_reducible refine wf_getDM ?_ ?_) | (dsimp only) | split | (intro _)))

theorem wf_startChild (s : State) (c : Nat) (ch : Child) (h_s : Memory.wf s.ms.mem = true) :
    Memory.wf (startChild s c ch).ms.mem = true := by
  unfold startChild
  (repeat' (first | (with_reducible assumption) | (with_reducible refine wf_selfInval _ _ ?_) | (with_reducible refine wf_startTask _ _ _ _ _ ?_) | (dsimp only) | split | (intro _)))

theorem wf_modPkt (s : State) (p q idx : Nat) (f : Packet → Packet) (h_s : Memory.wf s.ms.mem = true) :
    Memory.wf (modPkt s p q idx f).ms.mem = true := by
  unfold modPkt
  (repeat' (first | (with_reducible assumption) | (with_reducible refine wf_modQueue _ _ _ _ ?_) | (dsimp only) | split | (intro _)))

theorem wf_launchCheck (s : State) (launch : Nat) (h_s : Memory.wf s.ms.mem = true) :
    Memory.wf (launchCheck s launch).ms.mem = true := by
  unfold launchCheck
  (repeat' (first | (with_reducible assumption) | (with_reducible refine wf_modLaunch _ _ _ ?_) | (with_reducible refine wf_modPkt _ _ _ _ _ ?_) | (dsimp only) | split | (intro _)))

theorem wf_retireTask (s : State) (t : Task) (h_s : Memory.wf s.ms.mem = true) :
    Memory.wf (retireTask s t).ms.mem = true := by
  unfold retireTask
  (repeat' (first | (with_reducible assumption) | (with_reducible refine wf_modLaunch _ _ _ ?_) | (with_reducible refine wf_launchCheck _ _ ?_) | (dsimp only) | split | (intro _)))

theorem wf_modComb (s : State) (comb : Nat) (f : Comb → Comb) (h_s : Memory.wf s.ms.mem = true) :
    Memory.wf (modComb s comb f).ms.mem = true := by
  unfold modComb
  (repeat' (first | (with_reducible assumption) | (dsimp only) | split | (intro _)))

theorem wf_spillEntry (s : State) (comb : Nat) (e : Child) (p : Nat × Nat) (waits : Bool) (h_s : Memory.wf s.ms.mem = true) :
    Memory.wf (spillEntry s comb e p waits).ms.mem = true := by
  unfold spillEntry
  (repeat' (first | (with_reducible assumption) | (with_reducible refine wf_bumpSeq _ ?_) | (with_reducible refine wf_modLaunch _ _ _ ?_) | (dsimp only) | split | (intro _)))

theorem wf_dropChild (s : State) (ch : Child) (h_s : Memory.wf s.ms.mem = true) :
    Memory.wf (dropChild s ch).ms.mem = true := by
  unfold dropChild
  (repeat' (first | (with_reducible assumption) | (with_reducible refine wf_launchCheck _ _ ?_) | (with_reducible refine wf_modLaunch _ _ _ ?_) | (dsimp only) | split | (intro _)))

theorem wf_takeSpilled (s : State) (launch : Nat) (e : Spilled) (h_s : Memory.wf s.ms.mem = true) :
    Memory.wf (takeSpilled s launch e).2.ms.mem = true := by
  unfold takeSpilled
  (repeat' (first | (with_reducible assumption) | (with_reducible refine wf_modLaunch _ _ _ ?_) | (with_reducible refine wf_dropChild _ _ ?_) | (with_reducible refine wf_deviceFault _ _ _ _ _ ?_) | (dsimp only) | split | (intro _)))

theorem wf_dequeMove (s : State) (comb : Nat) (h_s : Memory.wf s.ms.mem = true) :
    ∀ t, (dequeMove s comb) = some t → Memory.wf t.ms.mem = true := by
  intro t ht
  unfold dequeMove at ht
  (try dsimp only at ht)
  (repeat' (first | split at ht | (rw [Option.map_eq_some_iff] at ht; obtain ⟨_, _, rfl⟩ := ht))) <;> (try contradiction) <;> (try (injection ht with ht; first | subst ht | (injection ht with ha ht; subst ht))) <;> (repeat' (first | (with_reducible assumption) | (with_reducible refine wf_modComb _ _ _ ?_) | (with_reducible refine wf_spillEntry _ _ _ _ _ ?_) | (with_reducible refine wf_takeSpilled _ _ _ ?_) | (dsimp only) | split | (intro _)))

theorem wf_settleDeque (comb e0 : Nat) (e1 : State) (h_e1 : Memory.wf e1.ms.mem = true) :
    Memory.wf (settleDeque comb e0 e1).ms.mem = true := by
  induction e0 generalizing comb e1 with
  | zero =>
    unfold settleDeque
    (repeat' (first | (with_reducible assumption) | (with_reducible refine wf_dequeMove _ _ ?_ _ (by assumption)) | (dsimp only) | split | (intro _)))
  | succ n ih =>
    unfold settleDeque
    (repeat' (first | (with_reducible refine ih _ _ ?_) | (with_reducible assumption) | (with_reducible refine wf_dequeMove _ _ ?_ _ (by assumption)) | (dsimp only) | split | (intro _)))

theorem wf_restDeque (s : State) (comb : Nat) (h_s : Memory.wf s.ms.mem = true) :
    Memory.wf (restDeque s comb).ms.mem = true := by
  unfold restDeque
  (repeat' (first | (with_reducible assumption) | (with_reducible refine wf_settleDeque _ _ _ ?_) | (dsimp only) | split | (intro _)))

theorem wf_pushChild (s : State) (comb : Nat) (ch : Child) (h_s : Memory.wf s.ms.mem = true) :
    Memory.wf (pushChild s comb ch).ms.mem = true := by
  unfold pushChild
  (repeat' (first | (with_reducible assumption) | (with_reducible refine wf_restDeque _ _ ?_) | (with_reducible refine wf_modComb _ _ _ ?_) | (dsimp only) | split | (intro _)))

theorem wf_takeBottom (comb : Nat) (ok : Child → Bool) (e0 : Nat) (e1 : State) (h_e1 : Memory.wf e1.ms.mem = true) :
    Memory.wf (takeBottom comb ok e0 e1).2.ms.mem = true := by
  induction e0 generalizing comb ok e1 with
  | zero =>
    unfold takeBottom
    (repeat' (first | (with_reducible assumption) | (with_reducible refine wf_restDeque _ _ ?_) | (with_reducible refine wf_modComb _ _ _ ?_) | (with_reducible refine wf_takeSpilled _ _ _ ?_) | (dsimp only) | split | (intro _)))
  | succ n ih =>
    unfold takeBottom
    (repeat' (first | (with_reducible refine ih _ _ _ ?_) | (with_reducible assumption) | (with_reducible refine wf_restDeque _ _ ?_) | (with_reducible refine wf_modComb _ _ _ ?_) | (with_reducible refine wf_takeSpilled _ _ _ ?_) | (dsimp only) | split | (intro _)))

theorem wf_takeTop (comb launch e0 : Nat) (e1 : State) (h_e1 : Memory.wf e1.ms.mem = true) :
    Memory.wf (takeTop comb launch e0 e1).2.ms.mem = true := by
  induction e0 generalizing comb launch e1 with
  | zero =>
    unfold takeTop
    (repeat' (first | (with_reducible assumption) | (with_reducible refine wf_takeSpilled _ _ _ ?_) | (with_reducible refine wf_restDeque _ _ ?_) | (with_reducible refine wf_modComb _ _ _ ?_) | (dsimp only) | split | (intro _)))
  | succ n ih =>
    unfold takeTop
    (repeat' (first | (with_reducible refine ih _ _ _ ?_) | (with_reducible assumption) | (with_reducible refine wf_takeSpilled _ _ _ ?_) | (with_reducible refine wf_restDeque _ _ ?_) | (with_reducible refine wf_modComb _ _ _ ?_) | (dsimp only) | split | (intro _)))

theorem wf_stealFrom (launch : Nat) (e0 : List Nat) (e1 : State) (h_e1 : Memory.wf e1.ms.mem = true) :
    Memory.wf (stealFrom launch e0 e1).2.ms.mem = true := by
  induction e0 generalizing launch e1 with
  | nil =>
    unfold stealFrom
    (repeat' (first | (with_reducible assumption) | (with_reducible refine wf_takeTop _ _ _ _ ?_) | (dsimp only) | split | (intro _)))
  | cons a l ih =>
    unfold stealFrom
    (repeat' (first | (with_reducible refine ih _ _ ?_) | (with_reducible assumption) | (with_reducible refine wf_takeTop _ _ _ _ ?_) | (dsimp only) | split | (intro _)))

theorem wf_restoreScratch (s : State) (pa size : Nat) (r : Saved) (h_s : Memory.wf s.ms.mem = true) :
    Memory.wf (restoreScratch s pa size r).ms.mem = true := by
  have base : Memory.wf (r.scratch.foldl (fun m p => memSet m (pa + p.1) p.2) (memClear s.ms.mem pa (pa + size))) = true :=
    wf_foldl_cells (fun m p h => wf_memSet h _ _) _ (wf_memClear h_s _ _)
  unfold restoreScratch
  dsimp only
  split
  · exact base
  · refine wf_foldl_cells (fun m a h => ?_) _ base
    split
    · exact h
    · exact wf_memSet h _ _

theorem wf_restoreTask (s : State) (c : Nat) (r : Saved) (h_s : Memory.wf s.ms.mem = true) :
    Memory.wf (restoreTask s c r).ms.mem = true := by
  unfold restoreTask
  (repeat' (first | (with_reducible assumption) | (with_reducible refine wf_clearTiles _ _ _ _ _ ?_) | (with_reducible refine wf_restoreScratch _ _ _ _ ?_) | (with_reducible refine wf_selfInval _ _ ?_) | (with_reducible refine wf_setCtx _ _ _ ?_) | (with_reducible refine wf_foldl (fun s a h => ?_) _ ?_) | (with_reducible refine wf_foldlM (fun s a h => ?_) _ ?_) | (dsimp only) | split | (intro _)))

theorem wf_requestDispatch (s : State) (p : Nat) (h_s : Memory.wf s.ms.mem = true) :
    Memory.wf (requestDispatch s p).ms.mem = true := by
  unfold requestDispatch
  (repeat' (first | (with_reducible assumption) | (with_reducible refine wf_requestDecision _ _ _ ?_) | (dsimp only) | split | (intro _)))

theorem wf_freeStranded (s : State) (launch : Nat) (h_s : Memory.wf s.ms.mem = true) :
    Memory.wf (freeStranded s launch).ms.mem = true := by
  unfold freeStranded
  (repeat' (first | (with_reducible assumption) | (with_reducible refine wf_modLaunch _ _ _ ?_) | (with_reducible refine wf_restDeque _ _ ?_) | (with_reducible refine wf_foldl (fun s a h => ?_) _ ?_) | (with_reducible refine wf_foldlM (fun s a h => ?_) _ ?_) | (dsimp only) | split | (intro _)))

theorem wf_freeCtx (s : State) (c : Nat) (h_s : Memory.wf s.ms.mem = true) :
    Memory.wf (freeCtx s c).ms.mem = true := by
  unfold freeCtx
  (repeat' (first | (with_reducible assumption) | (with_reducible refine wf_setCtx _ _ _ ?_) | (with_reducible refine wf_modPart _ _ _ ?_) | (with_reducible refine wf_freeStranded _ _ ?_) | (with_reducible refine wf_requestDispatch _ _ ?_) | (dsimp only) | split | (intro _)))

theorem wf_shrinkTo (s : State) (c k : Nat) (h_s : Memory.wf s.ms.mem = true) :
    Memory.wf (shrinkTo s c k).ms.mem = true := by
  unfold shrinkTo
  (repeat' (first | (with_reducible assumption) | (with_reducible refine wf_clearTiles _ _ _ _ _ ?_) | (with_reducible refine wf_setCtx _ _ _ ?_) | (dsimp only) | split | (intro _)))

theorem wf_growNow (s : State) (c : Nat) (g : Growth) (bs : SMap (Nat × Nat)) (h_s : Memory.wf s.ms.mem = true) :
    Memory.wf (growNow s c g bs).ms.mem = true := by
  unfold growNow
  (repeat' (first | (with_reducible assumption) | (with_reducible refine wf_setCtx _ _ _ ?_) | (with_reducible refine wf_clearTiles _ _ _ _ _ ?_) | (with_reducible refine wf_foldl (fun s a h => ?_) _ ?_) | (with_reducible refine wf_foldlM (fun s a h => ?_) _ ?_) | (dsimp only) | split | (intro _)))

theorem wf_recordFails (s : State) (v : Saved) (h_s : Memory.wf s.ms.mem = true) :
    ∀ t, (recordFails s v) = some t → Memory.wf t.ms.mem = true := by
  intro t ht
  unfold recordFails at ht
  (try dsimp only at ht)
  (repeat' (first | split at ht)) <;> (try contradiction) <;> (try (injection ht with ht; first | subst ht | (injection ht with ha ht; subst ht))) <;> (repeat' (first | (with_reducible assumption) | (with_reducible refine wf_deviceFault _ _ _ _ _ ?_) | (with_reducible refine wf_faultRecord _ _ _ ?_) | (dsimp only) | split | (intro _)))

theorem wf_handOver (s : State) (launch r : Nat) (below : List Nat) (h_s : Memory.wf s.ms.mem = true) :
    Memory.wf (handOver s launch r below).ms.mem = true := by
  unfold handOver
  (repeat' (first | (with_reducible assumption) | (with_reducible refine wf_modLaunch _ _ _ ?_) | (dsimp only) | split | (intro _)))

theorem wf_leaveBetween (s : State) (c : Nat) (h_s : Memory.wf s.ms.mem = true) :
    Memory.wf (leaveBetween s c).ms.mem = true := by
  unfold leaveBetween
  (repeat' (first | (with_reducible assumption) | (with_reducible refine wf_freeCtx _ _ ?_) | (with_reducible refine wf_handOver _ _ _ _ ?_) | (dsimp only) | split | (intro _)))

theorem wf_freePool (s : State) (part : Nat) (h_s : Memory.wf s.ms.mem = true) :
    Memory.wf (freePool s part).ms.mem = true := by
  unfold freePool
  (repeat' (first | (with_reducible assumption) | (with_reducible refine wf_modPart _ _ _ ?_) | (dsimp only) | split | (intro _)))

theorem wf_dropSave (s : State) (r : Nat) (h_s : Memory.wf s.ms.mem = true) :
    Memory.wf (dropSave s r).ms.mem = true := by
  unfold dropSave
  (repeat' (first | (with_reducible assumption) | (with_reducible refine wf_freePool _ _ ?_) | (dsimp only) | split | (intro _)))

theorem wf_retireSaved (s : State) (r : Nat) (v : Saved) (h_s : Memory.wf s.ms.mem = true) :
    Memory.wf (retireSaved s r v).ms.mem = true := by
  unfold retireSaved
  (repeat' (first | (with_reducible assumption) | (with_reducible refine wf_dropSave _ _ ?_) | (with_reducible refine wf_modLaunch _ _ _ ?_) | (with_reducible refine wf_handOver _ _ _ _ ?_) | (with_reducible refine wf_retireTask _ _ ?_) | (dsimp only) | split | (intro _)))

theorem wf_waitResume (s : State) (c k : Nat) (h_s : Memory.wf s.ms.mem = true) :
    Memory.wf (waitResume s c k).ms.mem = true := by
  unfold waitResume
  (repeat' (first | (with_reducible assumption) | (with_reducible refine wf_modCtx _ _ _ ?_) | (dsimp only) | split | (intro _)))

theorem wf_resumeAside (s : State) (c r : Nat) (below : List Nat) (v : Saved) (wait : Bool) (h_s : Memory.wf s.ms.mem = true) :
    Memory.wf (resumeAside s c r below v wait).ms.mem = true := by
  unfold resumeAside
  (repeat' (first | (with_reducible assumption) | (with_reducible refine wf_restoreTask _ _ _ ?_) | (with_reducible refine wf_modCtx _ _ _ ?_) | (with_reducible refine wf_dropSave _ _ ?_) | (with_reducible refine wf_shrinkTo _ _ _ ?_) | (with_reducible refine wf_waitResume _ _ _ ?_) | (dsimp only) | split | (intro _)))

theorem wf_newWork (s : State) (c : Nat) (t : Task) (h_s : Memory.wf s.ms.mem = true) :
    Memory.wf (newWork s c t).ms.mem = true := by
  unfold newWork
  (repeat' (first | (with_reducible assumption) | (with_reducible refine wf_freeCtx _ _ ?_) | (with_reducible refine wf_takeBottom _ _ _ _ ?_) | (with_reducible refine wf_startChild _ _ _ ?_) | (with_reducible refine wf_modLaunch _ _ _ ?_) | (with_reducible refine wf_markReady _ _ _ ?_) | (with_reducible refine wf_journalPlaced _ _ ?_) | (with_reducible refine wf_startTask _ _ _ _ _ ?_) | (with_reducible refine wf_stealFrom _ _ _ ?_) | (with_reducible refine wf_getD ?_ ?_) | (with_reducible refine wf_getDM ?_ ?_) | (with_reducible refine wf_foldl (fun s a h => ?_) _ ?_) | (with_reducible refine wf_foldlM (fun s a h => ?_) _ ?_) | (dsimp only) | split | (intro _)))

theorem wf_memberReleased (s : State) (c ch phase : Nat) (departed : Bool) (h_s : Memory.wf s.ms.mem = true) :
    Memory.wf (memberReleased s c ch phase departed).ms.mem = true := by
  unfold memberReleased
  (repeat' (first | (with_reducible assumption) | (with_reducible refine wf_acquire _ _ _ _ ?_) | (with_reducible refine wf_setCtx _ _ _ ?_) | (dsimp only) | split | (intro _)))

theorem wf_releaseChannel (s : State) (launch ch : Nat) (h_s : Memory.wf s.ms.mem = true) :
    Memory.wf (releaseChannel s launch ch).ms.mem = true := by
  unfold releaseChannel
  (repeat' (first | (with_reducible assumption) | (with_reducible refine wf_modLaunch _ _ _ ?_) | (with_reducible refine wf_memberReleased _ _ _ _ _ ?_) | (with_reducible refine wf_foldl (fun s a h => ?_) _ ?_) | (with_reducible refine wf_foldlM (fun s a h => ?_) _ ?_) | (dsimp only) | split | (intro _)))

theorem wf_departMember (s : State) (t : Task) (h_s : Memory.wf s.ms.mem = true) :
    Memory.wf (departMember s t).ms.mem = true := by
  unfold departMember
  (repeat' (first | (with_reducible assumption) | (with_reducible refine wf_modLaunch _ _ _ ?_) | (with_reducible refine wf_releaseChannel _ _ _ ?_) | (with_reducible refine wf_foldl (fun s a h => ?_) _ ?_) | (with_reducible refine wf_foldlM (fun s a h => ?_) _ ?_) | (dsimp only) | split | (intro _)))

theorem wf_nextWork (c : Nat) (e0 : List Nat) (e1 : State) (h_e1 : Memory.wf e1.ms.mem = true) :
    Memory.wf (nextWork c e0 e1).ms.mem = true := by
  induction e0 generalizing c e1 with
  | nil =>
    unfold nextWork
    (repeat' (first | (with_reducible assumption) | (with_reducible refine wf_newWork _ _ _ ?_) | (with_reducible refine wf_modCtx _ _ _ ?_) | (with_reducible refine wf_freeCtx _ _ ?_) | (with_reducible refine wf_leaveBetween _ _ ?_) | (with_reducible refine wf_recordFails _ _ ?_ _ (by assumption)) | (with_reducible refine wf_retireSaved _ _ _ ?_) | (with_reducible refine wf_departMember _ _ ?_) | (with_reducible refine wf_resumeAside _ _ _ _ _ _ ?_) | (dsimp only) | split | (intro _)))
  | cons a l ih =>
    unfold nextWork
    (repeat' (first | (with_reducible refine ih _ _ ?_) | (with_reducible assumption) | (with_reducible refine wf_newWork _ _ _ ?_) | (with_reducible refine wf_modCtx _ _ _ ?_) | (with_reducible refine wf_freeCtx _ _ ?_) | (with_reducible refine wf_leaveBetween _ _ ?_) | (with_reducible refine wf_recordFails _ _ ?_ _ (by assumption)) | (with_reducible refine wf_retireSaved _ _ _ ?_) | (with_reducible refine wf_departMember _ _ ?_) | (with_reducible refine wf_resumeAside _ _ _ _ _ _ ?_) | (dsimp only) | split | (intro _)))

theorem wf_takeNext (s : State) (c : Nat) (h_s : Memory.wf s.ms.mem = true) :
    Memory.wf (takeNext s c).ms.mem = true := by
  unfold takeNext
  (repeat' (first | (with_reducible assumption) | (with_reducible refine wf_nextWork _ _ _ ?_) | (dsimp only) | split | (intro _)))

theorem wf_afterHalt (s : State) (c : Nat) (h_s : Memory.wf s.ms.mem = true) :
    Memory.wf (afterHalt s c).ms.mem = true := by
  unfold afterHalt
  (repeat' (first | (with_reducible assumption) | (with_reducible refine wf_takeNext _ _ ?_) | (with_reducible refine wf_shrinkTo _ _ _ ?_) | (with_reducible refine wf_setCtx _ _ _ ?_) | (dsimp only) | split | (intro _)))

theorem wf_pushRelease (s : State) (c : Nat) (fence eng : Bool) (h_s : Memory.wf s.ms.mem = true) :
    Memory.wf (pushRelease s c fence eng).ms.mem = true := by
  unfold pushRelease
  (repeat' (first | (with_reducible assumption) | (with_reducible refine wf_bumpSeq _ ?_) | (with_reducible refine wf_modCtx _ _ _ ?_) | (dsimp only) | split | (intro _)))

theorem wf_beginRetire (s : State) (c : Nat) (h_s : Memory.wf s.ms.mem = true) :
    Memory.wf (beginRetire s c).ms.mem = true := by
  unfold beginRetire
  (repeat' (first | (with_reducible assumption) | (with_reducible refine wf_setCtx _ _ _ ?_) | (with_reducible refine wf_pushRelease _ _ _ _ ?_) | (dsimp only) | split | (intro _)))

theorem wf_killTask (s : State) (c : Nat) (h_s : Memory.wf s.ms.mem = true) :
    Memory.wf (killTask s c).ms.mem = true := by
  unfold killTask
  (repeat' (first | (with_reducible assumption) | (with_reducible refine wf_leaveBetween _ _ ?_) | (with_reducible refine wf_modLaunch _ _ _ ?_) | (with_reducible refine wf_discardFrom _ _ _ ?_) | (with_reducible refine wf_departMember _ _ ?_) | (with_reducible refine wf_freePool _ _ ?_) | (with_reducible refine wf_modPart _ _ _ ?_) | (with_reducible refine wf_beginRetire _ _ ?_) | (with_reducible refine wf_modCtx _ _ _ ?_) | (dsimp only) | split | (intro _)))

theorem wf_killSaved (s : State) (r : Nat) (h_s : Memory.wf s.ms.mem = true) :
    Memory.wf (killSaved s r).ms.mem = true := by
  unfold killSaved
  (repeat' (first | (with_reducible assumption) | (with_reducible refine wf_retireSaved _ _ _ ?_) | (with_reducible refine wf_departMember _ _ ?_) | (dsimp only) | split | (intro _)))

theorem wf_killLaunch (s : State) (launch : Nat) (h_s : Memory.wf s.ms.mem = true) :
    Memory.wf (killLaunch s launch).ms.mem = true := by
  unfold killLaunch
  (repeat' (first | (with_reducible assumption) | (with_reducible refine wf_modLaunch _ _ _ ?_) | (with_reducible refine wf_markReady _ _ _ ?_) | (with_reducible refine wf_restDeque _ _ ?_) | (with_reducible refine wf_killSaved _ _ ?_) | (with_reducible refine wf_killTask _ _ ?_) | (with_reducible refine wf_launchCheck _ _ ?_) | (with_reducible refine wf_foldl (fun s a h => ?_) _ ?_) | (with_reducible refine wf_foldlM (fun s a h => ?_) _ ?_) | (dsimp only) | split | (intro _)))

theorem wf_beginSave (s : State) (c : Nat) (ph : Phase) (run : Nat × Nat) (h_s : Memory.wf s.ms.mem = true) :
    Memory.wf (beginSave s c ph run).ms.mem = true := by
  unfold beginSave
  (repeat' (first | (with_reducible assumption) | (with_reducible refine wf_discardFrom _ _ _ ?_) | (with_reducible refine wf_pushRelease _ _ _ _ ?_) | (with_reducible refine wf_modCtx _ _ _ ?_) | (dsimp only) | split | (intro _)))

theorem wf_stopForSave (s : State) (c : Nat) (full : Bool) (h_s : Memory.wf s.ms.mem = true) :
    Memory.wf (stopForSave s c full).ms.mem = true := by
  unfold stopForSave
  generalize poolRun = R
  dsimp only
  split
  · exact h_s
  · split
    · exact wf_beginSave _ _ _ _ h_s
    · exact wf_taskRecord _ _ _ _ (wf_modPart _ _ _ h_s)

theorem wf_requestOne (s : State) (c : Nat) (required : Bool) (h_s : Memory.wf s.ms.mem = true) :
    Memory.wf (requestOne s c required).ms.mem = true := by
  unfold requestOne
  (repeat' (first | (with_reducible assumption) | (with_reducible refine wf_setCtx _ _ _ ?_) | (with_reducible refine wf_leaveBetween _ _ ?_) | (with_reducible refine wf_stopForSave _ _ _ ?_) | (dsimp only) | split | (intro _)))

theorem wf_requestPreempt (s : State) (c : Nat) (required : Bool) (h_s : Memory.wf s.ms.mem = true) :
    Memory.wf (requestPreempt s c required).ms.mem = true := by
  unfold requestPreempt
  (repeat' (first | (with_reducible assumption) | (with_reducible refine wf_requestOne _ _ _ ?_) | (with_reducible refine wf_foldl (fun s a h => ?_) _ ?_) | (with_reducible refine wf_foldlM (fun s a h => ?_) _ ?_) | (dsimp only) | split | (intro _)))

end Sys2Proof.Machine
end

