-- ==== Sys2Proof/Laws/KeepWords.lean ====
section
/-! SUPPORT. Every state that comes out of a function keeps the canonical form of memory: the instruction words and the memory operations under them. Each lemma
`wf_f` says so of the function `f`. -/

namespace Sys2Proof.Machine

set_option linter.all false

/-! ## Control -/

theorem wf_checkPath (s : State) (c tag : Nat) (e : ExitTo) (h_s : Memory.wf s.ms.mem = true) :
    Memory.wf (checkPath s c tag e).ms.mem = true := by
  unfold checkPath
  (repeat' (first | (with_reducible assumption) | (with_reducible refine wf_discardYounger _ _ _ ?_) | (dsimp only) | split | (intro _)))

theorem wf_fireExit (s : State) (i : Issue) (e : ExitTo) (h_s : Memory.wf s.ms.mem = true) :
    Memory.wf (fireExit s i e).ms.mem = true := by
  unfold fireExit
  (repeat' (first | (with_reducible assumption) | (with_reducible refine wf_setSt _ _ _ ?_) | (with_reducible refine wf_modBlock _ _ _ _ ?_) | (with_reducible refine wf_checkPath _ _ _ _ ?_) | (dsimp only) | split | (intro _)))

theorem wf_exitTo (s : State) (i : Issue) (b : Block) (call : Bool) (a : W64) (h_s : Memory.wf s.ms.mem = true) :
    Memory.wf (exitTo s i b call a).ms.mem = true := by
  unfold exitTo
  (repeat' (first | (with_reducible assumption) | (with_reducible refine wf_fireExit _ _ _ ?_) | (with_reducible refine wf_recordFault _ _ _ _ ?_) | (dsimp only) | split | (intro _)))

theorem wf_exitReg (p : Pr) (call : Bool) (s : State) (h_s : Memory.wf s.ms.mem = true) :
    ∀ t, (exitReg p call s) = .next t → Memory.wf t.ms.mem = true := by
  unfold exitReg
  (repeat' (first | (with_reducible assumption) | (with_reducible refine wf_fire1 _ _ _ _ ?_ ?_ ?_) | (with_reducible refine wf_setSt _ _ _ ?_) | (with_reducible refine wf_exitTo _ _ _ _ _ ?_) | (with_reducible refine wf_kindFault _ _ ?_) | (with_reducible refine wf_next ?_) | (exact wf_fault _) | (dsimp only) | split | (intro _)))

theorem wf_execNop (s : State) (h_s : Memory.wf s.ms.mem = true) :
    ∀ t, (execNop s) = .next t → Memory.wf t.ms.mem = true := by
  unfold execNop
  (repeat' (first | (with_reducible assumption) | (with_reducible refine wf_withIssue _ _ ?_ ?_) | (with_reducible refine wf_setSt _ _ _ ?_) | (with_reducible refine wf_next ?_) | (exact wf_fault _) | (dsimp only) | split | (intro _)))

theorem wf_execExit (p : Pr) (_e : BitVec 3) (off : BitVec 20) (s : State) (h_s : Memory.wf s.ms.mem = true) :
    ∀ t, (execExit p _e off s) = .next t → Memory.wf t.ms.mem = true := by
  unfold execExit
  (repeat' (first | (with_reducible assumption) | (with_reducible refine wf_fire0 _ _ _ ?_ ?_) | (with_reducible refine wf_exitTo _ _ _ _ _ ?_) | (with_reducible refine wf_next ?_) | (exact wf_fault _) | (dsimp only) | split | (intro _)))

theorem wf_execCall (p : Pr) (_e : BitVec 3) (off : BitVec 20) (s : State) (h_s : Memory.wf s.ms.mem = true) :
    ∀ t, (execCall p _e off s) = .next t → Memory.wf t.ms.mem = true := by
  unfold execCall
  (repeat' (first | (with_reducible assumption) | (with_reducible refine wf_fire0 _ _ _ ?_ ?_) | (with_reducible refine wf_exitTo _ _ _ _ _ ?_) | (with_reducible refine wf_next ?_) | (exact wf_fault _) | (dsimp only) | split | (intro _)))

theorem wf_execExitr (p : Pr) (_e : BitVec 3) (s : State) (h_s : Memory.wf s.ms.mem = true) :
    ∀ t, (execExitr p _e s) = .next t → Memory.wf t.ms.mem = true := by
  unfold execExitr
  (repeat' (first | (with_reducible assumption) | (with_reducible refine wf_exitReg _ _ _ ?_) | (with_reducible refine wf_next ?_) | (exact wf_fault _) | (dsimp only) | split | (intro _)))

theorem wf_execCallr (p : Pr) (_e : BitVec 3) (s : State) (h_s : Memory.wf s.ms.mem = true) :
    ∀ t, (execCallr p _e s) = .next t → Memory.wf t.ms.mem = true := by
  unfold execCallr
  (repeat' (first | (with_reducible assumption) | (with_reducible refine wf_exitReg _ _ _ ?_) | (with_reducible refine wf_next ?_) | (exact wf_fault _) | (dsimp only) | split | (intro _)))

theorem wf_execRet (p : Pr) (_e : BitVec 3) (s : State) (h_s : Memory.wf s.ms.mem = true) :
    ∀ t, (execRet p _e s) = .next t → Memory.wf t.ms.mem = true := by
  unfold execRet
  (repeat' (first | (with_reducible assumption) | (with_reducible refine wf_exitReg _ _ _ ?_) | (with_reducible refine wf_next ?_) | (exact wf_fault _) | (dsimp only) | split | (intro _)))

theorem wf_execHalt (p : Pr) (_e : BitVec 3) (s : State) (h_s : Memory.wf s.ms.mem = true) :
    ∀ t, (execHalt p _e s) = .next t → Memory.wf t.ms.mem = true := by
  unfold execHalt
  (repeat' (first | (with_reducible assumption) | (with_reducible refine wf_fire0 _ _ _ ?_ ?_) | (with_reducible refine wf_fireExit _ _ _ ?_) | (with_reducible refine wf_next ?_) | (exact wf_fault _) | (dsimp only) | split | (intro _)))

theorem wf_execTret (p : Pr) (_e : BitVec 3) (s : State) (h_s : Memory.wf s.ms.mem = true) :
    ∀ t, (execTret p _e s) = .next t → Memory.wf t.ms.mem = true := by
  unfold execTret
  (repeat' (first | (with_reducible assumption) | (with_reducible refine wf_fire0 _ _ _ ?_ ?_) | (with_reducible refine wf_fireExit _ _ _ ?_) | (with_reducible refine wf_recordFault _ _ _ _ ?_) | (with_reducible refine wf_next ?_) | (exact wf_fault _) | (dsimp only) | split | (intro _)))

theorem wf_execGenc (imm : BitVec 16) (t0 : Target) (s : State) (h_s : Memory.wf s.ms.mem = true) :
    ∀ t, (execGenc imm t0 s) = .next t → Memory.wf t.ms.mem = true := by
  unfold execGenc
  (repeat' (first | (with_reducible assumption) | (with_reducible refine wf_withIssue _ _ ?_ ?_) | (with_reducible refine wf_finish _ _ _ _ _ ?_) | (with_reducible refine wf_next ?_) | (exact wf_fault _) | (dsimp only) | split | (intro _)))

theorem wf_execAppc (imm : BitVec 16) (t0 : Target) (s : State) (h_s : Memory.wf s.ms.mem = true) :
    ∀ t, (execAppc imm t0 s) = .next t → Memory.wf t.ms.mem = true := by
  unfold execAppc
  (repeat' (first | (with_reducible assumption) | (with_reducible refine wf_scalar1 _ _ _ _ _ ?_) | (with_reducible refine wf_next ?_) | (exact wf_fault _) | (dsimp only) | split | (intro _)))

theorem wf_execBadr (imm : BitVec 16) (t0 : Target) (s : State) (h_s : Memory.wf s.ms.mem = true) :
    ∀ t, (execBadr imm t0 s) = .next t → Memory.wf t.ms.mem = true := by
  unfold execBadr
  (repeat' (first | (with_reducible assumption) | (with_reducible refine wf_withIssue _ _ ?_ ?_) | (with_reducible refine wf_finish _ _ _ _ _ ?_) | (with_reducible refine wf_next ?_) | (exact wf_fault _) | (dsimp only) | split | (intro _)))

theorem wf_execRd (n : BitVec 6) (t1 t0 : Target) (s : State) (h_s : Memory.wf s.ms.mem = true) :
    ∀ t, (execRd n t1 t0 s) = .next t → Memory.wf t.ms.mem = true := by
  unfold execRd
  (repeat' (first | (with_reducible assumption) | (with_reducible refine wf_withIssue _ _ ?_ ?_) | (with_reducible refine wf_setSt _ _ _ ?_) | (with_reducible refine wf_finish _ _ _ _ _ ?_) | (with_reducible refine wf_recordFault _ _ _ _ ?_) | (with_reducible refine wf_next ?_) | (exact wf_fault _) | (dsimp only) | split | (intro _)))

theorem wf_execWr (n : BitVec 6) (s : State) (h_s : Memory.wf s.ms.mem = true) :
    ∀ t, (execWr n s) = .next t → Memory.wf t.ms.mem = true := by
  unfold execWr
  (repeat' (first | (with_reducible assumption) | (with_reducible refine wf_withIssue _ _ ?_ ?_) | (with_reducible refine wf_setSt _ _ _ ?_) | (with_reducible refine wf_modBlock _ _ _ _ ?_) | (with_reducible refine wf_next ?_) | (exact wf_fault _) | (dsimp only) | split | (intro _)))

theorem wf_moveLeft (p : Pr) (ts : List Target) (s : State) (h_s : Memory.wf s.ms.mem = true) :
    ∀ t, (moveLeft p ts s) = .next t → Memory.wf t.ms.mem = true := by
  unfold moveLeft
  (repeat' (first | (with_reducible assumption) | (with_reducible refine wf_fire0 _ _ _ ?_ ?_) | (with_reducible refine wf_finish _ _ _ _ _ ?_) | (with_reducible refine wf_setSt _ _ _ ?_) | (with_reducible refine wf_next ?_) | (exact wf_fault _) | (dsimp only) | split | (intro _)))

theorem wf_execMov (p : Pr) (t1 t0 : Target) (s : State) (h_s : Memory.wf s.ms.mem = true) :
    ∀ t, (execMov p t1 t0 s) = .next t → Memory.wf t.ms.mem = true := by
  unfold execMov
  (repeat' (first | (with_reducible assumption) | (with_reducible refine wf_moveLeft _ _ _ ?_) | (with_reducible refine wf_next ?_) | (exact wf_fault _) | (dsimp only) | split | (intro _)))

theorem wf_execMov4 (p : Pr) (t3 t2 t1 t0 : Target) (s : State) (h_s : Memory.wf s.ms.mem = true) :
    ∀ t, (execMov4 p t3 t2 t1 t0 s) = .next t → Memory.wf t.ms.mem = true := by
  unfold execMov4
  (repeat' (first | (with_reducible assumption) | (with_reducible refine wf_moveLeft _ _ _ ?_) | (with_reducible refine wf_next ?_) | (exact wf_fault _) | (dsimp only) | split | (intro _)))

theorem wf_execNull (p : Pr) (t1 t0 : Target) (s : State) (h_s : Memory.wf s.ms.mem = true) :
    ∀ t, (execNull p t1 t0 s) = .next t → Memory.wf t.ms.mem = true := by
  unfold execNull
  (repeat' (first | (with_reducible assumption) | (with_reducible refine wf_fire0 _ _ _ ?_ ?_) | (with_reducible refine wf_finish _ _ _ _ _ ?_) | (with_reducible refine wf_next ?_) | (exact wf_fault _) | (dsimp only) | split | (intro _)))

theorem wf_execSel (t1 t0 : Target) (s : State) (h_s : Memory.wf s.ms.mem = true) :
    ∀ t, (execSel t1 t0 s) = .next t → Memory.wf t.ms.mem = true := by
  unfold execSel
  (repeat' (first | (with_reducible assumption) | (with_reducible refine wf_withIssue _ _ ?_ ?_) | (with_reducible refine wf_finish _ _ _ _ _ ?_) | (with_reducible refine wf_kindFault _ _ ?_) | (with_reducible refine wf_setSt _ _ _ ?_) | (with_reducible refine wf_next ?_) | (exact wf_fault _) | (dsimp only) | split | (intro _)))

theorem wf_test2 (p : Pr) (t1 t0 : Target) (r : W64 → W64 → Bool) (s : State) (h_s : Memory.wf s.ms.mem = true) :
    ∀ t, (test2 p t1 t0 r s) = .next t → Memory.wf t.ms.mem = true := by
  unfold test2
  (repeat' (first | (with_reducible assumption) | (with_reducible refine wf_scalar2 _ _ _ _ _ ?_) | (with_reducible refine wf_next ?_) | (exact wf_fault _) | (dsimp only) | split | (intro _)))

theorem wf_testI (p : Pr) (imm : BitVec 9) (t0 : Target) (r : W64 → W64 → Bool) (s : State) (h_s : Memory.wf s.ms.mem = true) :
    ∀ t, (testI p imm t0 r s) = .next t → Memory.wf t.ms.mem = true := by
  unfold testI
  (repeat' (first | (with_reducible assumption) | (with_reducible refine wf_scalar1 _ _ _ _ _ ?_) | (with_reducible refine wf_next ?_) | (exact wf_fault _) | (dsimp only) | split | (intro _)))

theorem wf_execTeq (p : Pr) (t1 t0 : Target) (s : State) (h_s : Memory.wf s.ms.mem = true) :
    ∀ t, (execTeq p t1 t0 s) = .next t → Memory.wf t.ms.mem = true := by
  unfold execTeq
  (repeat' (first | (with_reducible assumption) | (with_reducible refine wf_test2 _ _ _ _ _ ?_) | (with_reducible refine wf_next ?_) | (exact wf_fault _) | (dsimp only) | split | (intro _)))

theorem wf_execTne (p : Pr) (t1 t0 : Target) (s : State) (h_s : Memory.wf s.ms.mem = true) :
    ∀ t, (execTne p t1 t0 s) = .next t → Memory.wf t.ms.mem = true := by
  unfold execTne
  (repeat' (first | (with_reducible assumption) | (with_reducible refine wf_test2 _ _ _ _ _ ?_) | (with_reducible refine wf_next ?_) | (exact wf_fault _) | (dsimp only) | split | (intro _)))

theorem wf_execTlt (p : Pr) (t1 t0 : Target) (s : State) (h_s : Memory.wf s.ms.mem = true) :
    ∀ t, (execTlt p t1 t0 s) = .next t → Memory.wf t.ms.mem = true := by
  unfold execTlt
  (repeat' (first | (with_reducible assumption) | (with_reducible refine wf_test2 _ _ _ _ _ ?_) | (with_reducible refine wf_next ?_) | (exact wf_fault _) | (dsimp only) | split | (intro _)))

theorem wf_execTle (p : Pr) (t1 t0 : Target) (s : State) (h_s : Memory.wf s.ms.mem = true) :
    ∀ t, (execTle p t1 t0 s) = .next t → Memory.wf t.ms.mem = true := by
  unfold execTle
  (repeat' (first | (with_reducible assumption) | (with_reducible refine wf_test2 _ _ _ _ _ ?_) | (with_reducible refine wf_next ?_) | (exact wf_fault _) | (dsimp only) | split | (intro _)))

theorem wf_execTltu (p : Pr) (t1 t0 : Target) (s : State) (h_s : Memory.wf s.ms.mem = true) :
    ∀ t, (execTltu p t1 t0 s) = .next t → Memory.wf t.ms.mem = true := by
  unfold execTltu
  (repeat' (first | (with_reducible assumption) | (with_reducible refine wf_test2 _ _ _ _ _ ?_) | (with_reducible refine wf_next ?_) | (exact wf_fault _) | (dsimp only) | split | (intro _)))

theorem wf_execTleu (p : Pr) (t1 t0 : Target) (s : State) (h_s : Memory.wf s.ms.mem = true) :
    ∀ t, (execTleu p t1 t0 s) = .next t → Memory.wf t.ms.mem = true := by
  unfold execTleu
  (repeat' (first | (with_reducible assumption) | (with_reducible refine wf_test2 _ _ _ _ _ ?_) | (with_reducible refine wf_next ?_) | (exact wf_fault _) | (dsimp only) | split | (intro _)))

theorem wf_execTeqi (p : Pr) (imm : BitVec 9) (t0 : Target) (s : State) (h_s : Memory.wf s.ms.mem = true) :
    ∀ t, (execTeqi p imm t0 s) = .next t → Memory.wf t.ms.mem = true := by
  unfold execTeqi
  (repeat' (first | (with_reducible assumption) | (with_reducible refine wf_testI _ _ _ _ _ ?_) | (with_reducible refine wf_next ?_) | (exact wf_fault _) | (dsimp only) | split | (intro _)))

theorem wf_execTnei (p : Pr) (imm : BitVec 9) (t0 : Target) (s : State) (h_s : Memory.wf s.ms.mem = true) :
    ∀ t, (execTnei p imm t0 s) = .next t → Memory.wf t.ms.mem = true := by
  unfold execTnei
  (repeat' (first | (with_reducible assumption) | (with_reducible refine wf_testI _ _ _ _ _ ?_) | (with_reducible refine wf_next ?_) | (exact wf_fault _) | (dsimp only) | split | (intro _)))

theorem wf_execTlti (p : Pr) (imm : BitVec 9) (t0 : Target) (s : State) (h_s : Memory.wf s.ms.mem = true) :
    ∀ t, (execTlti p imm t0 s) = .next t → Memory.wf t.ms.mem = true := by
  unfold execTlti
  (repeat' (first | (with_reducible assumption) | (with_reducible refine wf_testI _ _ _ _ _ ?_) | (with_reducible refine wf_next ?_) | (exact wf_fault _) | (dsimp only) | split | (intro _)))

theorem wf_execTlei (p : Pr) (imm : BitVec 9) (t0 : Target) (s : State) (h_s : Memory.wf s.ms.mem = true) :
    ∀ t, (execTlei p imm t0 s) = .next t → Memory.wf t.ms.mem = true := by
  unfold execTlei
  (repeat' (first | (with_reducible assumption) | (with_reducible refine wf_testI _ _ _ _ _ ?_) | (with_reducible refine wf_next ?_) | (exact wf_fault _) | (dsimp only) | split | (intro _)))

theorem wf_execTgti (p : Pr) (imm : BitVec 9) (t0 : Target) (s : State) (h_s : Memory.wf s.ms.mem = true) :
    ∀ t, (execTgti p imm t0 s) = .next t → Memory.wf t.ms.mem = true := by
  unfold execTgti
  (repeat' (first | (with_reducible assumption) | (with_reducible refine wf_testI _ _ _ _ _ ?_) | (with_reducible refine wf_next ?_) | (exact wf_fault _) | (dsimp only) | split | (intro _)))

theorem wf_execTgei (p : Pr) (imm : BitVec 9) (t0 : Target) (s : State) (h_s : Memory.wf s.ms.mem = true) :
    ∀ t, (execTgei p imm t0 s) = .next t → Memory.wf t.ms.mem = true := by
  unfold execTgei
  (repeat' (first | (with_reducible assumption) | (with_reducible refine wf_testI _ _ _ _ _ ?_) | (with_reducible refine wf_next ?_) | (exact wf_fault _) | (dsimp only) | split | (intro _)))

theorem wf_execTrap (p : Pr) (code : BitVec 9) (s : State) (h_s : Memory.wf s.ms.mem = true) :
    ∀ t, (execTrap p code s) = .next t → Memory.wf t.ms.mem = true := by
  unfold execTrap
  (repeat' (first | (with_reducible assumption) | (with_reducible refine wf_fire0 _ _ _ ?_ ?_) | (with_reducible refine wf_recordFault _ _ _ _ ?_) | (with_reducible refine wf_next ?_) | (exact wf_fault _) | (dsimp only) | split | (intro _)))

theorem wf_execGets (p : Pr) (r : SysReg) (t0 : Target) (s : State) (h_s : Memory.wf s.ms.mem = true) :
    ∀ t, (execGets p r t0 s) = .next t → Memory.wf t.ms.mem = true := by
  unfold execGets
  (repeat' (first | (with_reducible assumption) | (with_reducible refine wf_fire0 _ _ _ ?_ ?_) | (with_reducible refine wf_recordFault _ _ _ _ ?_) | (with_reducible refine wf_setSt _ _ _ ?_) | (with_reducible refine wf_finish _ _ _ _ _ ?_) | (with_reducible refine wf_modBlock _ _ _ _ ?_) | (with_reducible refine wf_next ?_) | (exact wf_fault _) | (dsimp only) | split | (intro _)))

theorem wf_execSets (p : Pr) (r : SysReg) (s : State) (h_s : Memory.wf s.ms.mem = true) :
    ∀ t, (execSets p r s) = .next t → Memory.wf t.ms.mem = true := by
  unfold execSets
  (repeat' (first | (with_reducible assumption) | (with_reducible refine wf_fire1 _ _ _ _ ?_ ?_ ?_) | (with_reducible refine wf_setSt _ _ _ ?_) | (with_reducible refine wf_modBlock _ _ _ _ ?_) | (with_reducible refine wf_recordFault _ _ _ _ ?_) | (with_reducible refine wf_kindFault _ _ ?_) | (with_reducible refine wf_next ?_) | (exact wf_fault _) | (dsimp only) | split | (intro _)))

/-! ## Scalar -/

theorem wf_immOp (p : Pr) (lat : Nat) (imm : BitVec 9) (t0 : Target) (f : W64 → W64 → W64) (s : State) (h_s : Memory.wf s.ms.mem = true) :
    ∀ t, (immOp p lat imm t0 f s) = .next t → Memory.wf t.ms.mem = true := by
  unfold immOp
  (repeat' (first | (with_reducible assumption) | (with_reducible refine wf_scalar1 _ _ _ _ _ ?_) | (with_reducible refine wf_next ?_) | (exact wf_fault _) | (dsimp only) | split | (intro _)))

theorem wf_scalar3 (ts : List Target) (f : W64 → W64 → W64 → W64) (s : State) (h_s : Memory.wf s.ms.mem = true) :
    ∀ t, (scalar3 ts f s) = .next t → Memory.wf t.ms.mem = true := by
  unfold scalar3
  (repeat' (first | (with_reducible assumption) | (with_reducible refine wf_fire3 _ _ _ ?_ ?_ ?_) | (with_reducible refine wf_nullTo _ _ _ ?_) | (with_reducible refine wf_finish _ _ _ _ _ ?_) | (with_reducible refine wf_kindFault _ _ ?_) | (with_reducible refine wf_next ?_) | (exact wf_fault _) | (dsimp only) | split | (intro _)))

theorem wf_emitCarry (s : State) (i : Issue) (t1 t0 : Target) (r : W64 × W64) (h_s : Memory.wf s.ms.mem = true) :
    Memory.wf (emitCarry s i t1 t0 r).ms.mem = true := by
  unfold emitCarry
  (repeat' (first | (with_reducible assumption) | (with_reducible refine wf_setSt _ _ _ ?_) | (with_reducible refine wf_deliver _ _ _ _ _ ?_) | (dsimp only) | split | (intro _)))

theorem wf_execAdd (p : Pr) (t1 t0 : Target) (s : State) (h_s : Memory.wf s.ms.mem = true) :
    ∀ t, (execAdd p t1 t0 s) = .next t → Memory.wf t.ms.mem = true := by
  unfold execAdd
  (repeat' (first | (with_reducible assumption) | (with_reducible refine wf_scalar2 _ _ _ _ _ ?_) | (with_reducible refine wf_next ?_) | (exact wf_fault _) | (dsimp only) | split | (intro _)))

theorem wf_execSub (p : Pr) (t1 t0 : Target) (s : State) (h_s : Memory.wf s.ms.mem = true) :
    ∀ t, (execSub p t1 t0 s) = .next t → Memory.wf t.ms.mem = true := by
  unfold execSub
  (repeat' (first | (with_reducible assumption) | (with_reducible refine wf_scalar2 _ _ _ _ _ ?_) | (with_reducible refine wf_next ?_) | (exact wf_fault _) | (dsimp only) | split | (intro _)))

theorem wf_execMul (p : Pr) (t1 t0 : Target) (s : State) (h_s : Memory.wf s.ms.mem = true) :
    ∀ t, (execMul p t1 t0 s) = .next t → Memory.wf t.ms.mem = true := by
  unfold execMul
  (repeat' (first | (with_reducible assumption) | (with_reducible refine wf_scalar2 _ _ _ _ _ ?_) | (with_reducible refine wf_next ?_) | (exact wf_fault _) | (dsimp only) | split | (intro _)))

theorem wf_execMulh (p : Pr) (k : MulhKind) (t1 t0 : Target) (s : State) (h_s : Memory.wf s.ms.mem = true) :
    ∀ t, (execMulh p k t1 t0 s) = .next t → Memory.wf t.ms.mem = true := by
  unfold execMulh
  (repeat' (first | (with_reducible assumption) | (with_reducible refine wf_scalar2 _ _ _ _ _ ?_) | (with_reducible refine wf_next ?_) | (exact wf_fault _) | (dsimp only) | split | (intro _)))

theorem wf_execDiv (p : Pr) (g : Sgn) (t1 t0 : Target) (s : State) (h_s : Memory.wf s.ms.mem = true) :
    ∀ t, (execDiv p g t1 t0 s) = .next t → Memory.wf t.ms.mem = true := by
  unfold execDiv
  (repeat' (first | (with_reducible assumption) | (with_reducible refine wf_scalar2l _ _ _ _ _ ?_) | (with_reducible refine wf_next ?_) | (exact wf_fault _) | (dsimp only) | split | (intro _)))

theorem wf_execRem (p : Pr) (g : Sgn) (t1 t0 : Target) (s : State) (h_s : Memory.wf s.ms.mem = true) :
    ∀ t, (execRem p g t1 t0 s) = .next t → Memory.wf t.ms.mem = true := by
  unfold execRem
  (repeat' (first | (with_reducible assumption) | (with_reducible refine wf_scalar2l _ _ _ _ _ ?_) | (with_reducible refine wf_next ?_) | (exact wf_fault _) | (dsimp only) | split | (intro _)))

theorem wf_execAnd (p : Pr) (t1 t0 : Target) (s : State) (h_s : Memory.wf s.ms.mem = true) :
    ∀ t, (execAnd p t1 t0 s) = .next t → Memory.wf t.ms.mem = true := by
  unfold execAnd
  (repeat' (first | (with_reducible assumption) | (with_reducible refine wf_scalar2 _ _ _ _ _ ?_) | (with_reducible refine wf_next ?_) | (exact wf_fault _) | (dsimp only) | split | (intro _)))

theorem wf_execOr (p : Pr) (t1 t0 : Target) (s : State) (h_s : Memory.wf s.ms.mem = true) :
    ∀ t, (execOr p t1 t0 s) = .next t → Memory.wf t.ms.mem = true := by
  unfold execOr
  (repeat' (first | (with_reducible assumption) | (with_reducible refine wf_scalar2 _ _ _ _ _ ?_) | (with_reducible refine wf_next ?_) | (exact wf_fault _) | (dsimp only) | split | (intro _)))

theorem wf_execXor (p : Pr) (t1 t0 : Target) (s : State) (h_s : Memory.wf s.ms.mem = true) :
    ∀ t, (execXor p t1 t0 s) = .next t → Memory.wf t.ms.mem = true := by
  unfold execXor
  (repeat' (first | (with_reducible assumption) | (with_reducible refine wf_scalar2 _ _ _ _ _ ?_) | (with_reducible refine wf_next ?_) | (exact wf_fault _) | (dsimp only) | split | (intro _)))

theorem wf_execAndn (p : Pr) (t1 t0 : Target) (s : State) (h_s : Memory.wf s.ms.mem = true) :
    ∀ t, (execAndn p t1 t0 s) = .next t → Memory.wf t.ms.mem = true := by
  unfold execAndn
  (repeat' (first | (with_reducible assumption) | (with_reducible refine wf_scalar2 _ _ _ _ _ ?_) | (with_reducible refine wf_next ?_) | (exact wf_fault _) | (dsimp only) | split | (intro _)))

theorem wf_execShl (p : Pr) (t1 t0 : Target) (s : State) (h_s : Memory.wf s.ms.mem = true) :
    ∀ t, (execShl p t1 t0 s) = .next t → Memory.wf t.ms.mem = true := by
  unfold execShl
  (repeat' (first | (with_reducible assumption) | (with_reducible refine wf_scalar2 _ _ _ _ _ ?_) | (with_reducible refine wf_next ?_) | (exact wf_fault _) | (dsimp only) | split | (intro _)))

theorem wf_execShr (p : Pr) (t1 t0 : Target) (s : State) (h_s : Memory.wf s.ms.mem = true) :
    ∀ t, (execShr p t1 t0 s) = .next t → Memory.wf t.ms.mem = true := by
  unfold execShr
  (repeat' (first | (with_reducible assumption) | (with_reducible refine wf_scalar2 _ _ _ _ _ ?_) | (with_reducible refine wf_next ?_) | (exact wf_fault _) | (dsimp only) | split | (intro _)))

theorem wf_execSar (p : Pr) (t1 t0 : Target) (s : State) (h_s : Memory.wf s.ms.mem = true) :
    ∀ t, (execSar p t1 t0 s) = .next t → Memory.wf t.ms.mem = true := by
  unfold execSar
  (repeat' (first | (with_reducible assumption) | (with_reducible refine wf_scalar2 _ _ _ _ _ ?_) | (with_reducible refine wf_next ?_) | (exact wf_fault _) | (dsimp only) | split | (intro _)))

theorem wf_execRor (p : Pr) (t1 t0 : Target) (s : State) (h_s : Memory.wf s.ms.mem = true) :
    ∀ t, (execRor p t1 t0 s) = .next t → Memory.wf t.ms.mem = true := by
  unfold execRor
  (repeat' (first | (with_reducible assumption) | (with_reducible refine wf_scalar2 _ _ _ _ _ ?_) | (with_reducible refine wf_next ?_) | (exact wf_fault _) | (dsimp only) | split | (intro _)))

theorem wf_execMin (p : Pr) (g : Sgn) (t1 t0 : Target) (s : State) (h_s : Memory.wf s.ms.mem = true) :
    ∀ t, (execMin p g t1 t0 s) = .next t → Memory.wf t.ms.mem = true := by
  unfold execMin
  (repeat' (first | (with_reducible assumption) | (with_reducible refine wf_scalar2 _ _ _ _ _ ?_) | (with_reducible refine wf_next ?_) | (exact wf_fault _) | (dsimp only) | split | (intro _)))

theorem wf_execMax (p : Pr) (g : Sgn) (t1 t0 : Target) (s : State) (h_s : Memory.wf s.ms.mem = true) :
    ∀ t, (execMax p g t1 t0 s) = .next t → Memory.wf t.ms.mem = true := by
  unfold execMax
  (repeat' (first | (with_reducible assumption) | (with_reducible refine wf_scalar2 _ _ _ _ _ ?_) | (with_reducible refine wf_next ?_) | (exact wf_fault _) | (dsimp only) | split | (intro _)))

theorem wf_execAddi (p : Pr) (imm : BitVec 9) (t0 : Target) (s : State) (h_s : Memory.wf s.ms.mem = true) :
    ∀ t, (execAddi p imm t0 s) = .next t → Memory.wf t.ms.mem = true := by
  unfold execAddi
  (repeat' (first | (with_reducible assumption) | (with_reducible refine wf_immOp _ _ _ _ _ _ ?_) | (with_reducible refine wf_next ?_) | (exact wf_fault _) | (dsimp only) | split | (intro _)))

theorem wf_execMuli (p : Pr) (imm : BitVec 9) (t0 : Target) (s : State) (h_s : Memory.wf s.ms.mem = true) :
    ∀ t, (execMuli p imm t0 s) = .next t → Memory.wf t.ms.mem = true := by
  unfold execMuli
  (repeat' (first | (with_reducible assumption) | (with_reducible refine wf_immOp _ _ _ _ _ _ ?_) | (with_reducible refine wf_next ?_) | (exact wf_fault _) | (dsimp only) | split | (intro _)))

theorem wf_execAndi (p : Pr) (imm : BitVec 9) (t0 : Target) (s : State) (h_s : Memory.wf s.ms.mem = true) :
    ∀ t, (execAndi p imm t0 s) = .next t → Memory.wf t.ms.mem = true := by
  unfold execAndi
  (repeat' (first | (with_reducible assumption) | (with_reducible refine wf_immOp _ _ _ _ _ _ ?_) | (with_reducible refine wf_next ?_) | (exact wf_fault _) | (dsimp only) | split | (intro _)))

theorem wf_execOri (p : Pr) (imm : BitVec 9) (t0 : Target) (s : State) (h_s : Memory.wf s.ms.mem = true) :
    ∀ t, (execOri p imm t0 s) = .next t → Memory.wf t.ms.mem = true := by
  unfold execOri
  (repeat' (first | (with_reducible assumption) | (with_reducible refine wf_immOp _ _ _ _ _ _ ?_) | (with_reducible refine wf_next ?_) | (exact wf_fault _) | (dsimp only) | split | (intro _)))

theorem wf_execXori (p : Pr) (imm : BitVec 9) (t0 : Target) (s : State) (h_s : Memory.wf s.ms.mem = true) :
    ∀ t, (execXori p imm t0 s) = .next t → Memory.wf t.ms.mem = true := by
  unfold execXori
  (repeat' (first | (with_reducible assumption) | (with_reducible refine wf_immOp _ _ _ _ _ _ ?_) | (with_reducible refine wf_next ?_) | (exact wf_fault _) | (dsimp only) | split | (intro _)))

theorem wf_execShli (p : Pr) (imm : BitVec 9) (t0 : Target) (s : State) (h_s : Memory.wf s.ms.mem = true) :
    ∀ t, (execShli p imm t0 s) = .next t → Memory.wf t.ms.mem = true := by
  unfold execShli
  (repeat' (first | (with_reducible assumption) | (with_reducible refine wf_scalar1 _ _ _ _ _ ?_) | (with_reducible refine wf_next ?_) | (exact wf_fault _) | (dsimp only) | split | (intro _)))

theorem wf_execShri (p : Pr) (imm : BitVec 9) (t0 : Target) (s : State) (h_s : Memory.wf s.ms.mem = true) :
    ∀ t, (execShri p imm t0 s) = .next t → Memory.wf t.ms.mem = true := by
  unfold execShri
  (repeat' (first | (with_reducible assumption) | (with_reducible refine wf_scalar1 _ _ _ _ _ ?_) | (with_reducible refine wf_next ?_) | (exact wf_fault _) | (dsimp only) | split | (intro _)))

theorem wf_execSari (p : Pr) (imm : BitVec 9) (t0 : Target) (s : State) (h_s : Memory.wf s.ms.mem = true) :
    ∀ t, (execSari p imm t0 s) = .next t → Memory.wf t.ms.mem = true := by
  unfold execSari
  (repeat' (first | (with_reducible assumption) | (with_reducible refine wf_scalar1 _ _ _ _ _ ?_) | (with_reducible refine wf_next ?_) | (exact wf_fault _) | (dsimp only) | split | (intro _)))

theorem wf_execClz (p : Pr) (t1 t0 : Target) (s : State) (h_s : Memory.wf s.ms.mem = true) :
    ∀ t, (execClz p t1 t0 s) = .next t → Memory.wf t.ms.mem = true := by
  unfold execClz
  (repeat' (first | (with_reducible assumption) | (with_reducible refine wf_scalar1 _ _ _ _ _ ?_) | (with_reducible refine wf_next ?_) | (exact wf_fault _) | (dsimp only) | split | (intro _)))

theorem wf_execCtz (p : Pr) (t1 t0 : Target) (s : State) (h_s : Memory.wf s.ms.mem = true) :
    ∀ t, (execCtz p t1 t0 s) = .next t → Memory.wf t.ms.mem = true := by
  unfold execCtz
  (repeat' (first | (with_reducible assumption) | (with_reducible refine wf_scalar1 _ _ _ _ _ ?_) | (with_reducible refine wf_next ?_) | (exact wf_fault _) | (dsimp only) | split | (intro _)))

theorem wf_execPopc (p : Pr) (t1 t0 : Target) (s : State) (h_s : Memory.wf s.ms.mem = true) :
    ∀ t, (execPopc p t1 t0 s) = .next t → Memory.wf t.ms.mem = true := by
  unfold execPopc
  (repeat' (first | (with_reducible assumption) | (with_reducible refine wf_scalar1 _ _ _ _ _ ?_) | (with_reducible refine wf_next ?_) | (exact wf_fault _) | (dsimp only) | split | (intro _)))

theorem wf_execBrev (p : Pr) (t1 t0 : Target) (s : State) (h_s : Memory.wf s.ms.mem = true) :
    ∀ t, (execBrev p t1 t0 s) = .next t → Memory.wf t.ms.mem = true := by
  unfold execBrev
  (repeat' (first | (with_reducible assumption) | (with_reducible refine wf_scalar1 _ _ _ _ _ ?_) | (with_reducible refine wf_next ?_) | (exact wf_fault _) | (dsimp only) | split | (intro _)))

theorem wf_execBswap (p : Pr) (t1 t0 : Target) (s : State) (h_s : Memory.wf s.ms.mem = true) :
    ∀ t, (execBswap p t1 t0 s) = .next t → Memory.wf t.ms.mem = true := by
  unfold execBswap
  (repeat' (first | (with_reducible assumption) | (with_reducible refine wf_scalar1 _ _ _ _ _ ?_) | (with_reducible refine wf_next ?_) | (exact wf_fault _) | (dsimp only) | split | (intro _)))

theorem wf_execSxb (p : Pr) (t1 t0 : Target) (s : State) (h_s : Memory.wf s.ms.mem = true) :
    ∀ t, (execSxb p t1 t0 s) = .next t → Memory.wf t.ms.mem = true := by
  unfold execSxb
  (repeat' (first | (with_reducible assumption) | (with_reducible refine wf_scalar1 _ _ _ _ _ ?_) | (with_reducible refine wf_next ?_) | (exact wf_fault _) | (dsimp only) | split | (intro _)))

theorem wf_execSxh (p : Pr) (t1 t0 : Target) (s : State) (h_s : Memory.wf s.ms.mem = true) :
    ∀ t, (execSxh p t1 t0 s) = .next t → Memory.wf t.ms.mem = true := by
  unfold execSxh
  (repeat' (first | (with_reducible assumption) | (with_reducible refine wf_scalar1 _ _ _ _ _ ?_) | (with_reducible refine wf_next ?_) | (exact wf_fault _) | (dsimp only) | split | (intro _)))

theorem wf_execSxw (p : Pr) (t1 t0 : Target) (s : State) (h_s : Memory.wf s.ms.mem = true) :
    ∀ t, (execSxw p t1 t0 s) = .next t → Memory.wf t.ms.mem = true := by
  unfold execSxw
  (repeat' (first | (with_reducible assumption) | (with_reducible refine wf_scalar1 _ _ _ _ _ ?_) | (with_reducible refine wf_next ?_) | (exact wf_fault _) | (dsimp only) | split | (intro _)))

theorem wf_execZxb (p : Pr) (t1 t0 : Target) (s : State) (h_s : Memory.wf s.ms.mem = true) :
    ∀ t, (execZxb p t1 t0 s) = .next t → Memory.wf t.ms.mem = true := by
  unfold execZxb
  (repeat' (first | (with_reducible assumption) | (with_reducible refine wf_scalar1 _ _ _ _ _ ?_) | (with_reducible refine wf_next ?_) | (exact wf_fault _) | (dsimp only) | split | (intro _)))

theorem wf_execZxh (p : Pr) (t1 t0 : Target) (s : State) (h_s : Memory.wf s.ms.mem = true) :
    ∀ t, (execZxh p t1 t0 s) = .next t → Memory.wf t.ms.mem = true := by
  unfold execZxh
  (repeat' (first | (with_reducible assumption) | (with_reducible refine wf_scalar1 _ _ _ _ _ ?_) | (with_reducible refine wf_next ?_) | (exact wf_fault _) | (dsimp only) | split | (intro _)))

theorem wf_execZxw (p : Pr) (t1 t0 : Target) (s : State) (h_s : Memory.wf s.ms.mem = true) :
    ∀ t, (execZxw p t1 t0 s) = .next t → Memory.wf t.ms.mem = true := by
  unfold execZxw
  (repeat' (first | (with_reducible assumption) | (with_reducible refine wf_scalar1 _ _ _ _ _ ?_) | (with_reducible refine wf_next ?_) | (exact wf_fault _) | (dsimp only) | split | (intro _)))

theorem wf_execNeg (p : Pr) (t1 t0 : Target) (s : State) (h_s : Memory.wf s.ms.mem = true) :
    ∀ t, (execNeg p t1 t0 s) = .next t → Memory.wf t.ms.mem = true := by
  unfold execNeg
  (repeat' (first | (with_reducible assumption) | (with_reducible refine wf_scalar1 _ _ _ _ _ ?_) | (with_reducible refine wf_next ?_) | (exact wf_fault _) | (dsimp only) | split | (intro _)))

theorem wf_execNot (p : Pr) (t1 t0 : Target) (s : State) (h_s : Memory.wf s.ms.mem = true) :
    ∀ t, (execNot p t1 t0 s) = .next t → Memory.wf t.ms.mem = true := by
  unfold execNot
  (repeat' (first | (with_reducible assumption) | (with_reducible refine wf_scalar1 _ _ _ _ _ ?_) | (with_reducible refine wf_next ?_) | (exact wf_fault _) | (dsimp only) | split | (intro _)))

theorem wf_execAbs (p : Pr) (t1 t0 : Target) (s : State) (h_s : Memory.wf s.ms.mem = true) :
    ∀ t, (execAbs p t1 t0 s) = .next t → Memory.wf t.ms.mem = true := by
  unfold execAbs
  (repeat' (first | (with_reducible assumption) | (with_reducible refine wf_scalar1 _ _ _ _ _ ?_) | (with_reducible refine wf_next ?_) | (exact wf_fault _) | (dsimp only) | split | (intro _)))

theorem wf_execLea (p : Pr) (sh : BitVec 3) (t1 t0 : Target) (s : State) (h_s : Memory.wf s.ms.mem = true) :
    ∀ t, (execLea p sh t1 t0 s) = .next t → Memory.wf t.ms.mem = true := by
  unfold execLea
  (repeat' (first | (with_reducible assumption) | (with_reducible refine wf_scalar2 _ _ _ _ _ ?_) | (with_reducible refine wf_next ?_) | (exact wf_fault _) | (dsimp only) | split | (intro _)))

theorem wf_execBfx (p : Pr) (sgn : Bool) (t1 t0 : Target) (s : State) (h_s : Memory.wf s.ms.mem = true) :
    ∀ t, (execBfx p sgn t1 t0 s) = .next t → Memory.wf t.ms.mem = true := by
  unfold execBfx
  (repeat' (first | (with_reducible assumption) | (with_reducible refine wf_scalar2 _ _ _ _ _ ?_) | (with_reducible refine wf_next ?_) | (exact wf_fault _) | (dsimp only) | split | (intro _)))

theorem wf_execBfi (t1 t0 : Target) (s : State) (h_s : Memory.wf s.ms.mem = true) :
    ∀ t, (execBfi t1 t0 s) = .next t → Memory.wf t.ms.mem = true := by
  unfold execBfi
  (repeat' (first | (with_reducible assumption) | (with_reducible refine wf_scalar3 _ _ _ ?_) | (with_reducible refine wf_next ?_) | (exact wf_fault _) | (dsimp only) | split | (intro _)))

theorem wf_execLop3 (p : Pr) (imm : BitVec 24) (tt : BitVec 8) (t1 t0 : Target) (s : State) (h_s : Memory.wf s.ms.mem = true) :
    ∀ t, (execLop3 p imm tt t1 t0 s) = .next t → Memory.wf t.ms.mem = true := by
  unfold execLop3
  (repeat' (first | (with_reducible assumption) | (with_reducible refine wf_scalar2 _ _ _ _ _ ?_) | (with_reducible refine wf_next ?_) | (exact wf_fault _) | (dsimp only) | split | (intro _)))

theorem wf_execAddc (p : Pr) (t1 t0 : Target) (s : State) (h_s : Memory.wf s.ms.mem = true) :
    ∀ t, (execAddc p t1 t0 s) = .next t → Memory.wf t.ms.mem = true := by
  unfold execAddc
  (repeat' (first | (with_reducible assumption) | (with_reducible refine wf_fire2 _ _ _ _ ?_ ?_ ?_) | (with_reducible refine wf_nullTo _ _ _ ?_) | (with_reducible refine wf_emitCarry _ _ _ _ _ ?_) | (with_reducible refine wf_kindFault _ _ ?_) | (with_reducible refine wf_next ?_) | (exact wf_fault _) | (dsimp only) | split | (intro _)))

theorem wf_execAdc (t1 t0 : Target) (s : State) (h_s : Memory.wf s.ms.mem = true) :
    ∀ t, (execAdc t1 t0 s) = .next t → Memory.wf t.ms.mem = true := by
  unfold execAdc
  (repeat' (first | (with_reducible assumption) | (with_reducible refine wf_fire3 _ _ _ ?_ ?_ ?_) | (with_reducible refine wf_nullTo _ _ _ ?_) | (with_reducible refine wf_emitCarry _ _ _ _ _ ?_) | (with_reducible refine wf_kindFault _ _ ?_) | (with_reducible refine wf_next ?_) | (exact wf_fault _) | (dsimp only) | split | (intro _)))

/-! ## Vector -/

theorem wf_lanewise (p : Pr) (lat : Nat) (ty : ElemTy) (op : LaneOp) (t1 t0 : Target) (s : State) (h_s : Memory.wf s.ms.mem = true) :
    ∀ t, (lanewise p lat ty op t1 t0 s) = .next t → Memory.wf t.ms.mem = true := by
  unfold lanewise
  (repeat' (first | (with_reducible assumption) | (with_reducible refine wf_vector2 _ _ _ _ _ ?_) | (with_reducible refine wf_next ?_) | (exact wf_fault _) | (dsimp only) | split | (intro _)))

theorem wf_vectorScalar (p : Pr) (lat : Nat) (ts : List Target) (f : Lanes → Mask → W64 → Token) (s : State) (h_s : Memory.wf s.ms.mem = true) :
    ∀ t, (vectorScalar p lat ts f s) = .next t → Memory.wf t.ms.mem = true := by
  unfold vectorScalar
  (repeat' (first | (with_reducible assumption) | (with_reducible refine wf_fire2 _ _ _ _ ?_ ?_ ?_) | (with_reducible refine wf_nullTo _ _ _ ?_) | (with_reducible refine wf_finish _ _ _ _ _ ?_) | (with_reducible refine wf_kindFault _ _ ?_) | (with_reducible refine wf_next ?_) | (exact wf_fault _) | (dsimp only) | split | (intro _)))

theorem wf_scalarToken (p : Pr) (lat : Nat) (ts : List Target) (f : W64 → Token) (s : State) (h_s : Memory.wf s.ms.mem = true) :
    ∀ t, (scalarToken p lat ts f s) = .next t → Memory.wf t.ms.mem = true := by
  unfold scalarToken
  (repeat' (first | (with_reducible assumption) | (with_reducible refine wf_fire1 _ _ _ _ ?_ ?_ ?_) | (with_reducible refine wf_nullTo _ _ _ ?_) | (with_reducible refine wf_finish _ _ _ _ _ ?_) | (with_reducible refine wf_kindFault _ _ ?_) | (with_reducible refine wf_next ?_) | (exact wf_fault _) | (dsimp only) | split | (intro _)))

theorem wf_execVadd (p : Pr) (ty : ElemTy) (t1 t0 : Target) (s : State) (h_s : Memory.wf s.ms.mem = true) :
    ∀ t, (execVadd p ty t1 t0 s) = .next t → Memory.wf t.ms.mem = true := by
  unfold execVadd
  (repeat' (first | (with_reducible assumption) | (with_reducible refine wf_lanewise _ _ _ _ _ _ _ ?_) | (with_reducible refine wf_next ?_) | (exact wf_fault _) | (dsimp only) | split | (intro _)))

theorem wf_execVsub (p : Pr) (ty : ElemTy) (t1 t0 : Target) (s : State) (h_s : Memory.wf s.ms.mem = true) :
    ∀ t, (execVsub p ty t1 t0 s) = .next t → Memory.wf t.ms.mem = true := by
  unfold execVsub
  (repeat' (first | (with_reducible assumption) | (with_reducible refine wf_lanewise _ _ _ _ _ _ _ ?_) | (with_reducible refine wf_next ?_) | (exact wf_fault _) | (dsimp only) | split | (intro _)))

theorem wf_execVmul (p : Pr) (ty : ElemTy) (t1 t0 : Target) (s : State) (h_s : Memory.wf s.ms.mem = true) :
    ∀ t, (execVmul p ty t1 t0 s) = .next t → Memory.wf t.ms.mem = true := by
  unfold execVmul
  (repeat' (first | (with_reducible assumption) | (with_reducible refine wf_lanewise _ _ _ _ _ _ _ ?_) | (with_reducible refine wf_next ?_) | (exact wf_fault _) | (dsimp only) | split | (intro _)))

theorem wf_execVfma (ty : ElemTy) (t1 t0 : Target) (s : State) (h_s : Memory.wf s.ms.mem = true) :
    ∀ t, (execVfma ty t1 t0 s) = .next t → Memory.wf t.ms.mem = true := by
  unfold execVfma
  (repeat' (first | (with_reducible assumption) | (with_reducible refine wf_vector3 _ _ _ _ ?_) | (with_reducible refine wf_next ?_) | (exact wf_fault _) | (dsimp only) | split | (intro _)))

theorem wf_execVmin (p : Pr) (ty : ElemTy) (t1 t0 : Target) (s : State) (h_s : Memory.wf s.ms.mem = true) :
    ∀ t, (execVmin p ty t1 t0 s) = .next t → Memory.wf t.ms.mem = true := by
  unfold execVmin
  (repeat' (first | (with_reducible assumption) | (with_reducible refine wf_lanewise _ _ _ _ _ _ _ ?_) | (with_reducible refine wf_next ?_) | (exact wf_fault _) | (dsimp only) | split | (intro _)))

theorem wf_execVmax (p : Pr) (ty : ElemTy) (t1 t0 : Target) (s : State) (h_s : Memory.wf s.ms.mem = true) :
    ∀ t, (execVmax p ty t1 t0 s) = .next t → Memory.wf t.ms.mem = true := by
  unfold execVmax
  (repeat' (first | (with_reducible assumption) | (with_reducible refine wf_lanewise _ _ _ _ _ _ _ ?_) | (with_reducible refine wf_next ?_) | (exact wf_fault _) | (dsimp only) | split | (intro _)))

theorem wf_execVand (p : Pr) (ty : ElemTy) (t1 t0 : Target) (s : State) (h_s : Memory.wf s.ms.mem = true) :
    ∀ t, (execVand p ty t1 t0 s) = .next t → Memory.wf t.ms.mem = true := by
  unfold execVand
  (repeat' (first | (with_reducible assumption) | (with_reducible refine wf_lanewise _ _ _ _ _ _ _ ?_) | (with_reducible refine wf_next ?_) | (exact wf_fault _) | (dsimp only) | split | (intro _)))

theorem wf_execVor (p : Pr) (ty : ElemTy) (t1 t0 : Target) (s : State) (h_s : Memory.wf s.ms.mem = true) :
    ∀ t, (execVor p ty t1 t0 s) = .next t → Memory.wf t.ms.mem = true := by
  unfold execVor
  (repeat' (first | (with_reducible assumption) | (with_reducible refine wf_lanewise _ _ _ _ _ _ _ ?_) | (with_reducible refine wf_next ?_) | (exact wf_fault _) | (dsimp only) | split | (intro _)))

theorem wf_execVxor (p : Pr) (ty : ElemTy) (t1 t0 : Target) (s : State) (h_s : Memory.wf s.ms.mem = true) :
    ∀ t, (execVxor p ty t1 t0 s) = .next t → Memory.wf t.ms.mem = true := by
  unfold execVxor
  (repeat' (first | (with_reducible assumption) | (with_reducible refine wf_lanewise _ _ _ _ _ _ _ ?_) | (with_reducible refine wf_next ?_) | (exact wf_fault _) | (dsimp only) | split | (intro _)))

theorem wf_execVshl (p : Pr) (ty : ElemTy) (t1 t0 : Target) (s : State) (h_s : Memory.wf s.ms.mem = true) :
    ∀ t, (execVshl p ty t1 t0 s) = .next t → Memory.wf t.ms.mem = true := by
  unfold execVshl
  (repeat' (first | (with_reducible assumption) | (with_reducible refine wf_lanewise _ _ _ _ _ _ _ ?_) | (with_reducible refine wf_next ?_) | (exact wf_fault _) | (dsimp only) | split | (intro _)))

theorem wf_execVshr (p : Pr) (ty : ElemTy) (t1 t0 : Target) (s : State) (h_s : Memory.wf s.ms.mem = true) :
    ∀ t, (execVshr p ty t1 t0 s) = .next t → Memory.wf t.ms.mem = true := by
  unfold execVshr
  (repeat' (first | (with_reducible assumption) | (with_reducible refine wf_lanewise _ _ _ _ _ _ _ ?_) | (with_reducible refine wf_next ?_) | (exact wf_fault _) | (dsimp only) | split | (intro _)))

theorem wf_execVsar (p : Pr) (ty : ElemTy) (t1 t0 : Target) (s : State) (h_s : Memory.wf s.ms.mem = true) :
    ∀ t, (execVsar p ty t1 t0 s) = .next t → Memory.wf t.ms.mem = true := by
  unfold execVsar
  (repeat' (first | (with_reducible assumption) | (with_reducible refine wf_lanewise _ _ _ _ _ _ _ ?_) | (with_reducible refine wf_next ?_) | (exact wf_fault _) | (dsimp only) | split | (intro _)))

theorem wf_execVcmp (p : Pr) (ty : ElemTy) (c : CmpCond) (t0 : Target) (s : State) (h_s : Memory.wf s.ms.mem = true) :
    ∀ t, (execVcmp p ty c t0 s) = .next t → Memory.wf t.ms.mem = true := by
  unfold execVcmp
  (repeat' (first | (with_reducible assumption) | (with_reducible refine wf_vector2 _ _ _ _ _ ?_) | (with_reducible refine wf_next ?_) | (exact wf_fault _) | (dsimp only) | split | (intro _)))

theorem wf_execVsel (t1 t0 : Target) (s : State) (h_s : Memory.wf s.ms.mem = true) :
    ∀ t, (execVsel t1 t0 s) = .next t → Memory.wf t.ms.mem = true := by
  unfold execVsel
  (repeat' (first | (with_reducible assumption) | (with_reducible refine wf_fire3 _ _ _ ?_ ?_ ?_) | (with_reducible refine wf_nullTo _ _ _ ?_) | (with_reducible refine wf_finish _ _ _ _ _ ?_) | (with_reducible refine wf_kindFault _ _ ?_) | (with_reducible refine wf_next ?_) | (exact wf_fault _) | (dsimp only) | split | (intro _)))

theorem wf_execVsplat (p : Pr) (ty : ElemTy) (t1 t0 : Target) (s : State) (h_s : Memory.wf s.ms.mem = true) :
    ∀ t, (execVsplat p ty t1 t0 s) = .next t → Memory.wf t.ms.mem = true := by
  unfold execVsplat
  (repeat' (first | (with_reducible assumption) | (with_reducible refine wf_scalarToken _ _ _ _ _ ?_) | (with_reducible refine wf_next ?_) | (exact wf_fault _) | (dsimp only) | split | (intro _)))

theorem wf_execVext (p : Pr) (ty : ElemTy) (t1 t0 : Target) (s : State) (h_s : Memory.wf s.ms.mem = true) :
    ∀ t, (execVext p ty t1 t0 s) = .next t → Memory.wf t.ms.mem = true := by
  unfold execVext
  (repeat' (first | (with_reducible assumption) | (with_reducible refine wf_vectorScalar _ _ _ _ _ ?_) | (with_reducible refine wf_next ?_) | (exact wf_fault _) | (dsimp only) | split | (intro _)))

theorem wf_execVins (ty : ElemTy) (t1 t0 : Target) (s : State) (h_s : Memory.wf s.ms.mem = true) :
    ∀ t, (execVins ty t1 t0 s) = .next t → Memory.wf t.ms.mem = true := by
  unfold execVins
  (repeat' (first | (with_reducible assumption) | (with_reducible refine wf_fire3 _ _ _ ?_ ?_ ?_) | (with_reducible refine wf_nullTo _ _ _ ?_) | (with_reducible refine wf_finish _ _ _ _ _ ?_) | (with_reducible refine wf_kindFault _ _ ?_) | (with_reducible refine wf_next ?_) | (exact wf_fault _) | (dsimp only) | split | (intro _)))

theorem wf_execVperm (p : Pr) (t1 t0 : Target) (s : State) (h_s : Memory.wf s.ms.mem = true) :
    ∀ t, (execVperm p t1 t0 s) = .next t → Memory.wf t.ms.mem = true := by
  unfold execVperm
  (repeat' (first | (with_reducible assumption) | (with_reducible refine wf_vector2 _ _ _ _ _ ?_) | (with_reducible refine wf_next ?_) | (exact wf_fault _) | (dsimp only) | split | (intro _)))

theorem wf_execVswz (p : Pr) (pat : SwzPat) (t1 t0 : Target) (s : State) (h_s : Memory.wf s.ms.mem = true) :
    ∀ t, (execVswz p pat t1 t0 s) = .next t → Memory.wf t.ms.mem = true := by
  unfold execVswz
  (repeat' (first | (with_reducible assumption) | (with_reducible refine wf_vector1 _ _ _ _ _ ?_) | (with_reducible refine wf_next ?_) | (exact wf_fault _) | (dsimp only) | split | (intro _)))

theorem wf_execVred (p : Pr) (ty : ElemTy) (op : RedOp) (t0 : Target) (s : State) (h_s : Memory.wf s.ms.mem = true) :
    ∀ t, (execVred p ty op t0 s) = .next t → Memory.wf t.ms.mem = true := by
  unfold execVred
  (repeat' (first | (with_reducible assumption) | (with_reducible refine wf_vector1 _ _ _ _ _ ?_) | (with_reducible refine wf_next ?_) | (exact wf_fault _) | (dsimp only) | split | (intro _)))

theorem wf_execVscan (p : Pr) (ty : ElemTy) (op : RedOp) (t0 : Target) (s : State) (h_s : Memory.wf s.ms.mem = true) :
    ∀ t, (execVscan p ty op t0 s) = .next t → Memory.wf t.ms.mem = true := by
  unfold execVscan
  (repeat' (first | (with_reducible assumption) | (with_reducible refine wf_vector1 _ _ _ _ _ ?_) | (with_reducible refine wf_next ?_) | (exact wf_fault _) | (dsimp only) | split | (intro _)))

theorem wf_execVcvt (p : Pr) (src dst : ElemTy) (sat : Bool) (rnd : Rnd) (t0 : Target) (s : State) (h_s : Memory.wf s.ms.mem = true) :
    ∀ t, (execVcvt p src dst sat rnd t0 s) = .next t → Memory.wf t.ms.mem = true := by
  unfold execVcvt
  (repeat' (first | (with_reducible assumption) | (with_reducible refine wf_vector1 _ _ _ _ _ ?_) | (with_reducible refine wf_next ?_) | (exact wf_fault _) | (dsimp only) | split | (intro _)))

theorem wf_execVpack (p : Pr) (ty : ElemTy) (t1 t0 : Target) (s : State) (h_s : Memory.wf s.ms.mem = true) :
    ∀ t, (execVpack p ty t1 t0 s) = .next t → Memory.wf t.ms.mem = true := by
  unfold execVpack
  (repeat' (first | (with_reducible assumption) | (with_reducible refine wf_vector2 _ _ _ _ _ ?_) | (with_reducible refine wf_next ?_) | (exact wf_fault _) | (dsimp only) | split | (intro _)))

theorem wf_execVunpk (p : Pr) (ty : ElemTy) (t1 t0 : Target) (s : State) (h_s : Memory.wf s.ms.mem = true) :
    ∀ t, (execVunpk p ty t1 t0 s) = .next t → Memory.wf t.ms.mem = true := by
  unfold execVunpk
  (repeat' (first | (with_reducible assumption) | (with_reducible refine wf_fire1 _ _ _ _ ?_ ?_ ?_) | (with_reducible refine wf_nullTo _ _ _ ?_) | (with_reducible refine wf_setSt _ _ _ ?_) | (with_reducible refine wf_deliver _ _ _ _ _ ?_) | (with_reducible refine wf_kindFault _ _ ?_) | (with_reducible refine wf_next ?_) | (exact wf_fault _) | (dsimp only) | split | (intro _)))

theorem wf_execVdot (ty : ElemTy) (t1 t0 : Target) (s : State) (h_s : Memory.wf s.ms.mem = true) :
    ∀ t, (execVdot ty t1 t0 s) = .next t → Memory.wf t.ms.mem = true := by
  unfold execVdot
  (repeat' (first | (with_reducible assumption) | (with_reducible refine wf_vector3 _ _ _ _ ?_) | (with_reducible refine wf_next ?_) | (exact wf_fault _) | (dsimp only) | split | (intro _)))

theorem wf_execVsfu (p : Pr) (fn : SfuFn) (t1 t0 : Target) (s : State) (h_s : Memory.wf s.ms.mem = true) :
    ∀ t, (execVsfu p fn t1 t0 s) = .next t → Memory.wf t.ms.mem = true := by
  unfold execVsfu
  (repeat' (first | (with_reducible assumption) | (with_reducible refine wf_vector1 _ _ _ _ _ ?_) | (with_reducible refine wf_next ?_) | (exact wf_fault _) | (dsimp only) | split | (intro _)))

theorem wf_execVmask (p : Pr) (fn : MaskFn) (t1 t0 : Target) (s : State) (h_s : Memory.wf s.ms.mem = true) :
    ∀ t, (execVmask p fn t1 t0 s) = .next t → Memory.wf t.ms.mem = true := by
  unfold execVmask
  (repeat' (first | (with_reducible assumption) | (with_reducible refine wf_vector1 _ _ _ _ _ ?_) | (with_reducible refine wf_scalarToken _ _ _ _ _ ?_) | (with_reducible refine wf_vectorScalar _ _ _ _ _ ?_) | (with_reducible refine wf_next ?_) | (exact wf_fault _) | (dsimp only) | split | (intro _)))

theorem wf_execVlop3 (p : Pr) (imm : BitVec 24) (tt : BitVec 8) (t1 t0 : Target) (s : State) (h_s : Memory.wf s.ms.mem = true) :
    ∀ t, (execVlop3 p imm tt t1 t0 s) = .next t → Memory.wf t.ms.mem = true := by
  unfold execVlop3
  (repeat' (first | (with_reducible assumption) | (with_reducible refine wf_vector2 _ _ _ _ _ ?_) | (with_reducible refine wf_next ?_) | (exact wf_fault _) | (dsimp only) | split | (intro _)))

/-! ## MemOps -/

theorem wf_forgetWord (s : State) (c w : Nat) (h_s : Memory.wf s.ms.mem = true) :
    Memory.wf (forgetWord s c w).ms.mem = true := by
  unfold forgetWord
  (repeat' (first | (with_reducible assumption) | (dsimp only) | split | (intro _)))

theorem wf_dropStale (s : State) (comb region : Nat) (lp : LPiece) (h_s : Memory.wf s.ms.mem = true) :
    Memory.wf (dropStale s comb region lp).mem = true := by
  unfold dropStale
  (repeat' (first | (with_reducible assumption) | (with_reducible refine wf_combDropIn _ _ _ _ ?_) | (dsimp only) | split | (intro _)))

theorem wf_markLease (m : MemSys) (comb region expiry epoch : Nat) (h_m : Memory.wf m.mem = true) :
    Memory.wf (markLease m comb region expiry epoch).mem = true := by
  unfold markLease
  (repeat' (first | (with_reducible assumption) | (dsimp only) | split | (intro _)))

theorem wf_fillRun (r : LoadReq) (lp : LPiece) (region : Nat) (m : MemSys) (k : Nat) (h_m : Memory.wf m.mem = true) :
    ∀ t, (fillRun r lp region m k) = some t → Memory.wf t.mem = true := by
  intro t ht
  unfold fillRun at ht
  (try dsimp only at ht)
  (repeat' (first | split at ht)) <;> (try contradiction) <;> (try (injection ht with ht; first | subst ht | (injection ht with ha ht; subst ht))) <;> (repeat' (first | (with_reducible assumption) | (with_reducible refine wf_combFill _ _ _ _ _ _ _ _ _ ?_ _ (by assumption)) | (with_reducible refine wf_foldl (fun s a h => ?_) _ ?_) | (with_reducible refine wf_foldlM (fun s a h => ?_) _ ?_) | (dsimp only) | split | (intro _)))

theorem wf_fillRegion (s : State) (r : LoadReq) (lp : LPiece) (region : Nat) (h_s : Memory.wf s.ms.mem = true) :
    ∀ t, (fillRegion s r lp region) = some t → Memory.wf t.ms.mem = true := by
  intro t ht
  have drop : Memory.wf (dropStale s r.comb region lp).mem = true := wf_dropStale _ _ _ _ h_s
  unfold fillRegion at ht
  dsimp only at ht
  rw [Option.map_eq_some_iff] at ht
  obtain ⟨m, hm, rfl⟩ := ht
  have hw : Memory.wf m.mem = true := by
    refine wf_foldl_optM (fun o a h => ?_) _ (wf_someM drop) m hm
    cases o with
    | none => exact fun _ h => nomatch h
    | some m' => exact wf_fillRun _ _ _ _ _ (h m' rfl)
  dsimp only
  split
  · exact wf_markLease _ _ _ _ _ hw
  · exact hw

theorem wf_fillAll (s : State) (r : LoadReq) (h_s : Memory.wf s.ms.mem = true) :
    ∀ t, (fillAll s r) = some t → Memory.wf t.ms.mem = true := by
  unfold fillAll
  refine wf_foldl_opt (fun o a h => ?_) _ (fun t ht => ?_)
  · split
    · simp
    · next s' => exact wf_fillRegion s' _ _ _ (h s' rfl)
  · cases ht
    exact h_s

theorem wf_proxyFill (s : State) (r : LoadReq) (lp : LPiece) (w : Nat) (v : W64 × Bool) (h_s : Memory.wf s.ms.mem = true) :
    Memory.wf (proxyFill s r lp w v).mem = true := by
  unfold proxyFill
  (repeat' (first | (with_reducible assumption) | (with_reducible refine wf_hiveEvict _ _ ?_) | (dsimp only) | split | (intro _)))

theorem wf_proxyDrop (m : MemSys) (w : Nat) (h_m : Memory.wf m.mem = true) :
    Memory.wf (proxyDrop m w).mem = true := by
  unfold proxyDrop
  (repeat' (first | (with_reducible assumption) | (with_reducible refine wf_hiveDropIn _ _ _ ?_) | (with_reducible refine wf_foldl (fun s a h => ?_) _ ?_) | (with_reducible refine wf_foldlM (fun s a h => ?_) _ ?_) | (dsimp only) | split | (intro _)))

theorem wf_startLoad (s : State) (i : Issue) (lsid : Nat) (kind : LoadKind) (acq : Bool) (hint : Hint) (ps : List LPiece) (t1 t0 : Target) (h_s : Memory.wf s.ms.mem = true) :
    Memory.wf (startLoad s i lsid kind acq hint ps t1 t0).ms.mem = true := by
  unfold startLoad
  (repeat' (first | (with_reducible assumption) | (with_reducible refine wf_setSt _ _ _ ?_) | (with_reducible refine wf_modBlock _ _ _ _ ?_) | (with_reducible refine wf_tlbUse _ _ _ _ ?_) | (with_reducible refine wf_bumpSeq _ ?_) | (with_reducible refine wf_foldl (fun s a h => ?_) _ ?_) | (with_reducible refine wf_foldlM (fun s a h => ?_) _ ?_) | (dsimp only) | split | (intro _)))

theorem wf_loadRanges (s : State) (i : Issue) (x : Ctx) (b : Block) (lsid : Nat) (kind : LoadKind) (acq : Bool) (hint : Hint) (k : Plain) (rs : List (Nat × Nat × Nat)) (t0 : Target) (h_s : Memory.wf s.ms.mem = true) :
    Memory.wf (loadRanges s i x b lsid kind acq hint k rs t0).ms.mem = true := by
  unfold loadRanges
  (repeat' (first | (with_reducible assumption) | (with_reducible refine wf_recordFault _ _ _ _ ?_) | (with_reducible refine wf_startLoad _ _ _ _ _ _ _ _ _ ?_) | (dsimp only) | split | (intro _)))

theorem wf_redoLater (s : State) (r : LoadReq) (h_s : Memory.wf s.ms.mem = true) :
    Memory.wf (redoLater s r).ms.mem = true := by
  unfold redoLater
  (repeat' (first | (with_reducible assumption) | (with_reducible refine wf_again _ _ _ _ _ _ ?_) | (with_reducible refine wf_foldl (fun s a h => ?_) _ ?_) | (with_reducible refine wf_foldlM (fun s a h => ?_) _ ?_) | (dsimp only) | split | (intro _)))

theorem wf_endLoad (s : State) (n : Nat) (r : LoadReq) (tok : Token) (h_s : Memory.wf s.ms.mem = true) :
    Memory.wf (endLoad s n r tok).ms.mem = true := by
  unfold endLoad
  (repeat' (first | (with_reducible assumption) | (with_reducible refine wf_modBlock _ _ _ _ ?_) | (with_reducible refine wf_discardAt _ _ _ ?_) | (with_reducible refine wf_redoLater _ _ ?_) | (with_reducible refine wf_finish _ _ _ _ _ ?_) | (with_reducible refine wf_getD ?_ ?_) | (with_reducible refine wf_getDM ?_ ?_) | (dsimp only) | split | (intro _)))

theorem wf_failLoad (s : State) (n : Nat) (r : LoadReq) (cause : BitVec 8) (a : W64) (h_s : Memory.wf s.ms.mem = true) :
    Memory.wf (failLoad s n r cause a).ms.mem = true := by
  unfold failLoad
  (repeat' (first | (with_reducible assumption) | (with_reducible refine wf_modBlock _ _ _ _ ?_) | (with_reducible refine wf_discardAt _ _ _ ?_) | (with_reducible refine wf_recordFault _ _ _ _ ?_) | (dsimp only) | split | (intro _)))

theorem wf_orderCheck (s : State) (c tag lsid comb : Nat) (ps : List Piece) (h_s : Memory.wf s.ms.mem = true) :
    Memory.wf (orderCheck s c tag lsid comb ps).ms.mem = true := by
  unfold orderCheck
  (repeat' (first | (with_reducible assumption) | (with_reducible refine wf_modCtx _ _ _ ?_) | (with_reducible refine wf_discardAt _ _ _ ?_) | (dsimp only) | split | (intro _)))

theorem wf_disarm (s : State) (c tag lsid comb : Nat) (ps : List Piece) (h_s : Memory.wf s.ms.mem = true) :
    Memory.wf (disarm s c tag lsid comb ps).ms.mem = true := by
  unfold disarm
  (repeat' (first | (with_reducible assumption) | (dsimp only) | split | (intro _)))

theorem wf_fireStore (s : State) (i : Issue) (x : Ctx) (b : Block) (lsid : Nat) (op : StoreOp) (h_s : Memory.wf s.ms.mem = true) :
    Memory.wf (fireStore s i x b lsid op).ms.mem = true := by
  unfold fireStore
  (repeat' (first | (with_reducible assumption) | (with_reducible refine wf_setSt _ _ _ ?_) | (with_reducible refine wf_modBlock _ _ _ _ ?_) | (with_reducible refine wf_orderCheck _ _ _ _ _ _ ?_) | (with_reducible refine wf_disarm _ _ _ _ _ _ ?_) | (dsimp only) | split | (intro _)))

theorem wf_nullStore (lsid : BitVec 5) (i : Issue) (s : State) (h_s : Memory.wf s.ms.mem = true) :
    Memory.wf (nullStore lsid i s).ms.mem = true := by
  unfold nullStore
  (repeat' (first | (with_reducible assumption) | (with_reducible refine wf_setSt _ _ _ ?_) | (with_reducible refine wf_modBlock _ _ _ _ ?_) | (dsimp only) | split | (intro _)))

/-! ## Stores -/

theorem wf_endWatch (s : State) (n req : Nat) (r : LoadReq) (tok : Token) (h_s : Memory.wf s.ms.mem = true) :
    Memory.wf (endWatch s n req r tok).ms.mem = true := by
  unfold endWatch
  (repeat' (first | (with_reducible assumption) | (with_reducible refine wf_endLoad _ _ _ _ ?_) | (dsimp only) | split | (intro _)))

theorem wf_watchCheck (s : State) (n : Nat) (e : Watch) (h_s : Memory.wf s.ms.mem = true) :
    Memory.wf (watchCheck s n e).ms.mem = true := by
  unfold watchCheck
  (repeat' (first | (with_reducible assumption) | (with_reducible refine wf_failLoad _ _ _ _ _ ?_) | (with_reducible refine wf_endWatch _ _ _ _ _ ?_) | (dsimp only) | split | (intro _)))

theorem wf_watchScan (s : State) (w : Nat) (h_s : Memory.wf s.ms.mem = true) :
    Memory.wf (watchScan s w).ms.mem = true := by
  unfold watchScan
  (repeat' (first | (with_reducible assumption) | (with_reducible refine wf_watchCheck _ _ _ ?_) | (with_reducible refine wf_foldl (fun s a h => ?_) _ ?_) | (with_reducible refine wf_foldlM (fun s a h => ?_) _ ?_) | (dsimp only) | split | (intro _)))

theorem wf_touch (s : State) (c w : Nat) (h_s : Memory.wf s.ms.mem = true) :
    Memory.wf (touch s c w).ms.mem = true := by
  unfold touch
  (repeat' (first | (with_reducible assumption) | (with_reducible refine wf_modCtx _ _ _ ?_) | (dsimp only) | split | (intro _)))

theorem wf_sendReg (s : State) (c comb w : Nat) (data : Option (W64 × Byte × Bool)) (grant : Bool) (h_s : Memory.wf s.ms.mem = true) :
    Memory.wf (sendReg s c comb w data grant).ms.mem = true := by
  unfold sendReg
  (repeat' (first | (with_reducible assumption) | (with_reducible refine wf_touch _ _ _ ?_) | (with_reducible refine wf_bumpSeq _ ?_) | (dsimp only) | split | (intro _)))

theorem wf_moveWord (m : MemSys) (src dst w : Nat) (cw : CWord) (h_m : Memory.wf m.mem = true) :
    ∀ t, (moveWord m src dst w cw) = some t → Memory.wf t.mem = true := by
  intro t ht
  unfold moveWord at ht
  (try dsimp only at ht)
  (repeat' (first | split at ht | (rw [Option.map_eq_some_iff] at ht; obtain ⟨_, _, rfl⟩ := ht))) <;> (try contradiction) <;> (try (injection ht with ht; first | subst ht | (injection ht with ha ht; subst ht))) <;> (repeat' (first | (with_reducible assumption) | (with_reducible refine wf_combDropIn _ _ _ _ ?_) | (with_reducible refine wf_combFill _ _ _ _ _ _ _ _ _ ?_ _ (by assumption)) | (dsimp only) | split | (intro _)))

theorem wf_readyWord (m : MemSys) (c : Nat) (x : Ctx) (comb w : Nat) (h_m : Memory.wf m.mem = true) :
    ∀ t, (readyWord m c x comb w) = some t → Memory.wf t.mem = true := by
  intro t ht
  unfold readyWord at ht
  dsimp only at ht
  rw [Option.map_eq_some_iff] at ht
  obtain ⟨m1, hm, rfl⟩ := ht
  refine wf_combDropIn _ _ _ _ (wf_dropCopies _ _ _ ?_)
  split at hm
  · exact wf_moveWord _ _ _ _ _ h_m _ hm
  · simp only [Option.some.injEq] at hm
    exact hm ▸ h_m

theorem wf_publishOld (m : MemSys) (comb w : Nat) (cw : CWord) (h_m : Memory.wf m.mem = true) :
    Memory.wf (publishOld m comb w cw).mem = true := by
  unfold publishOld
  (repeat' (first | (with_reducible assumption) | (dsimp only) | split | (intro _)))

theorem wf_installWord (m : MemSys) (comb w : Nat) (cw : CWord) (h_m : Memory.wf m.mem = true) :
    ∀ t, (installWord m comb w cw) = some t → Memory.wf t.mem = true := by
  intro t ht
  unfold installWord at ht
  (try dsimp only at ht)
  (repeat' (first | split at ht)) <;> (try contradiction) <;> (try (injection ht with ht; first | subst ht | (injection ht with ha ht; subst ht))) <;> (repeat' (first | (with_reducible assumption) | (with_reducible refine wf_updComb _ _ _ _ ?_) | (with_reducible refine wf_combFill _ _ _ _ _ _ _ _ _ ?_ _ (by assumption)) | (dsimp only) | split | (intro _)))

theorem wf_addHeld (s : State) (c id : Nat) (h : Held) (h_s : Memory.wf s.ms.mem = true) :
    Memory.wf (addHeld s c id h).ms.mem = true := by
  unfold addHeld
  (repeat' (first | (with_reducible assumption) | (with_reducible refine wf_modCtx _ _ _ ?_) | (dsimp only) | split | (intro _)))

theorem wf_keepOld (s : State) (c comb w : Nat) (held : Option Nat) (h_s : Memory.wf s.ms.mem = true) :
    Memory.wf (keepOld s c comb w held).ms.mem = true := by
  unfold keepOld
  (repeat' (first | (with_reducible assumption) | (with_reducible refine wf_addHeld _ _ _ _ ?_) | (with_reducible refine wf_publishOld _ _ _ _ ?_) | (dsimp only) | split | (intro _)))

theorem wf_putWord (s : State) (c comb w : Nat) (d : W64) (mask : Byte) (pend : Option Nat) (home : Bool) (h_s : Memory.wf s.ms.mem = true) :
    ∀ t, (putWord s c comb w d mask pend home) = some t → Memory.wf t.ms.mem = true := by
  intro t ht
  unfold putWord at ht
  (try dsimp only at ht)
  (repeat' (first | split at ht | (rw [Option.map_eq_some_iff] at ht; obtain ⟨_, _, rfl⟩ := ht))) <;> (try contradiction) <;> (try (injection ht with ht; first | subst ht | (injection ht with ha ht; subst ht))) <;> (repeat' (first | (with_reducible assumption) | (with_reducible refine wf_readyWord _ _ _ _ _ ?_ _ (by assumption)) | (with_reducible refine wf_installWord _ _ _ _ ?_ _ (by assumption)) | (with_reducible refine wf_keepOld _ _ _ _ _ ?_) | (with_reducible refine wf_combUsed _ _ _ ?_) | (with_reducible refine wf_modCtx _ _ _ ?_) | (with_reducible refine wf_watchScan _ _ ?_) | (with_reducible refine wf_sendReg _ _ _ _ _ _ ?_) | (with_reducible refine wf_getD ?_ ?_) | (with_reducible refine wf_getDM ?_ ?_) | (with_reducible refine wf_foldl (fun s a h => ?_) _ ?_) | (with_reducible refine wf_foldlM (fun s a h => ?_) _ ?_) | (dsimp only) | split | (intro _)))

theorem wf_claimWord (s : State) (c comb w : Nat) (pend : Option Nat) (h_s : Memory.wf s.ms.mem = true) :
    ∀ t, (claimWord s c comb w pend) = some t → Memory.wf t.ms.mem = true := by
  intro t ht
  unfold claimWord at ht
  (try dsimp only at ht)
  (repeat' (first | split at ht)) <;> (try contradiction) <;> (try (injection ht with ht; first | subst ht | (injection ht with ha ht; subst ht))) <;> (repeat' (first | (with_reducible assumption) | (with_reducible refine wf_readyWord _ _ _ _ _ ?_ _ (by assumption)) | (with_reducible refine wf_keepOld _ _ _ _ _ ?_) | (with_reducible refine wf_updComb _ _ _ _ ?_) | (with_reducible refine wf_installWord _ _ _ _ ?_ _ (by assumption)) | (with_reducible refine wf_sendReg _ _ _ _ _ _ ?_) | (dsimp only) | split | (intro _)))

theorem wf_sendData (s : State) (c comb w : Nat) (d : W64) (mask : Byte) (poison part : Bool) (h_s : Memory.wf s.ms.mem = true) :
    Memory.wf (sendData s c comb w d mask poison part).ms.mem = true := by
  unfold sendData
  (repeat' (first | (with_reducible assumption) | (with_reducible refine wf_sendReg _ _ _ _ _ _ ?_) | (dsimp only) | split | (intro _)))

theorem wf_unpendHome (s : State) (c comb w : Nat) (cw : CWord) (h_s : Memory.wf s.ms.mem = true) :
    Memory.wf (unpendHome s c comb w cw).ms.mem = true := by
  unfold unpendHome
  (repeat' (first | (with_reducible assumption) | (with_reducible refine wf_revokeWord _ _ ?_) | (with_reducible refine wf_sendData _ _ _ _ _ _ _ _ ?_) | (with_reducible refine wf_combDropIn _ _ _ _ ?_) | (dsimp only) | split | (intro _)))

theorem wf_unpend (s : State) (c comb w : Nat) (h_s : Memory.wf s.ms.mem = true) :
    Memory.wf (unpend s c comb w).ms.mem = true := by
  unfold unpend
  (repeat' (first | (with_reducible assumption) | (with_reducible refine wf_unpendHome _ _ _ _ _ ?_) | (with_reducible refine wf_updComb _ _ _ _ ?_) | (with_reducible refine wf_sendReg _ _ _ _ _ _ ?_) | (with_reducible refine wf_watchScan _ _ ?_) | (dsimp only) | split | (intro _)))

theorem wf_sendAmo (s : State) (n : Nat) (h_s : Memory.wf s.ms.mem = true) :
    Memory.wf (sendAmo s n).ms.mem = true := by
  unfold sendAmo
  (repeat' (first | (with_reducible assumption) | (with_reducible refine wf_proxyDrop _ _ ?_) | (with_reducible refine wf_dropCopies _ _ _ ?_) | (with_reducible refine wf_touch _ _ _ ?_) | (dsimp only) | split | (intro _)))

theorem wf_sendArrival (s : State) (c ch : Nat) (h_s : Memory.wf s.ms.mem = true) :
    Memory.wf (sendArrival s c ch).ms.mem = true := by
  unfold sendArrival
  (repeat' (first | (with_reducible assumption) | (with_reducible refine wf_bumpSeq _ ?_) | (with_reducible refine wf_getD ?_ ?_) | (with_reducible refine wf_getDM ?_ ?_) | (dsimp only) | split | (intro _)))

theorem wf_performHeld (s : State) (c : Nat) (h : Held) (h_s : Memory.wf s.ms.mem = true) :
    Memory.wf (performHeld s c h).ms.mem = true := by
  unfold performHeld
  (repeat' (first | (with_reducible assumption) | (with_reducible refine wf_sendAmo _ _ ?_) | (with_reducible refine wf_dropChild _ _ ?_) | (with_reducible refine wf_pushChild _ _ _ ?_) | (with_reducible refine wf_sendArrival _ _ _ ?_) | (with_reducible refine wf_sendReg _ _ _ _ _ _ ?_) | (with_reducible refine wf_sendData _ _ _ _ _ _ _ _ ?_) | (with_reducible refine wf_foldl (fun s a h => ?_) _ ?_) | (with_reducible refine wf_foldlM (fun s a h => ?_) _ ?_) | (dsimp only) | split | (intro _)))

theorem wf_bornOf (m : MemSys) (since id : Nat) (h_m : Memory.wf m.mem = true) :
    Memory.wf (bornOf m since id).mem = true := by
  unfold bornOf
  (repeat' (first | (with_reducible assumption) | (dsimp only) | split | (intro _)))

theorem wf_completeRelease (s : State) (c : Nat) (r : Release) (h_s : Memory.wf s.ms.mem = true) :
    Memory.wf (completeRelease s c r).ms.mem = true := by
  unfold completeRelease
  (repeat' (first | (with_reducible assumption) | (with_reducible refine wf_modCtx _ _ _ ?_) | (with_reducible refine wf_unpend _ _ _ _ ?_) | (with_reducible refine wf_performHeld _ _ _ ?_) | (with_reducible refine wf_bornOf _ _ _ ?_) | (with_reducible refine wf_foldl (fun s a h => ?_) _ ?_) | (with_reducible refine wf_foldlM (fun s a h => ?_) _ ?_) | (dsimp only) | split | (intro _)))

theorem wf_startRelease (s : State) (c : Nat) (r : Release) (h_s : Memory.wf s.ms.mem = true) :
    Memory.wf (startRelease s c r).ms.mem = true := by
  unfold startRelease
  (repeat' (first | (with_reducible assumption) | (with_reducible refine wf_setCtx _ _ _ ?_) | (dsimp only) | split | (intro _)))

theorem wf_pump (s : State) (c e0 : Nat) (h_s : Memory.wf s.ms.mem = true) :
    Memory.wf (pump s c e0).ms.mem = true := by
  induction e0 generalizing s c with
  | zero =>
    unfold pump
    (repeat' (first | (with_reducible assumption) | (with_reducible refine wf_startRelease _ _ _ ?_) | (with_reducible refine wf_completeRelease _ _ _ ?_) | (dsimp only) | split | (intro _)))
  | succ n ih =>
    unfold pump
    (repeat' (first | (with_reducible refine ih _ _ ?_) | (with_reducible assumption) | (with_reducible refine wf_startRelease _ _ _ ?_) | (with_reducible refine wf_completeRelease _ _ _ ?_) | (dsimp only) | split | (intro _)))

theorem wf_finishBatches (s : State) (c e0 : Nat) (h_s : Memory.wf s.ms.mem = true) :
    Memory.wf (finishBatches s c e0).ms.mem = true := by
  induction e0 generalizing s c with
  | zero =>
    unfold finishBatches
    (repeat' (first | (with_reducible assumption) | (with_reducible refine wf_setCtx _ _ _ ?_) | (with_reducible refine wf_getD ?_ ?_) | (with_reducible refine wf_getDM ?_ ?_) | (dsimp only) | split | (intro _)))
  | succ n ih =>
    unfold finishBatches
    (repeat' (first | (with_reducible refine ih _ _ ?_) | (with_reducible assumption) | (with_reducible refine wf_setCtx _ _ _ ?_) | (with_reducible refine wf_getD ?_ ?_) | (with_reducible refine wf_getDM ?_ ?_) | (dsimp only) | split | (intro _)))

theorem wf_tryRetire (s : State) (c : Nat) (h_s : Memory.wf s.ms.mem = true) :
    Memory.wf (tryRetire s c).ms.mem = true := by
  unfold tryRetire
  (repeat' (first | (with_reducible assumption) | (with_reducible refine wf_freeCtx _ _ ?_) | (with_reducible refine wf_faultRecord _ _ _ ?_) | (with_reducible refine wf_afterHalt _ _ ?_) | (with_reducible refine wf_modCtx _ _ _ ?_) | (with_reducible refine wf_retireTask _ _ ?_) | (dsimp only) | split | (intro _)))

theorem wf_pumpCtx (s : State) (c : Nat) (h_s : Memory.wf s.ms.mem = true) :
    Memory.wf (pumpCtx s c).ms.mem = true := by
  unfold pumpCtx
  (repeat' (first | (with_reducible assumption) | (with_reducible refine wf_finishBatches _ _ _ ?_) | (with_reducible refine wf_tryRetire _ _ ?_) | (with_reducible refine wf_pump _ _ _ ?_) | (dsimp only) | split | (intro _)))

theorem wf_pumpAll (s : State) (h_s : Memory.wf s.ms.mem = true) :
    Memory.wf (pumpAll s).ms.mem = true := by
  unfold pumpAll
  (repeat' (first | (with_reducible assumption) | (with_reducible refine wf_pumpCtx _ _ ?_) | (with_reducible refine wf_foldl (fun s a h => ?_) _ ?_) | (with_reducible refine wf_foldlM (fun s a h => ?_) _ ?_) | (dsimp only) | split | (intro _)))

theorem wf_flushOwn (m : MemSys) (combs : List Nat) (w : Nat) (h_m : Memory.wf m.mem = true) :
    Memory.wf (flushOwn m combs w).mem = true := by
  unfold flushOwn
  (repeat' (first | (with_reducible assumption) | (with_reducible refine wf_combDropIn _ _ _ _ ?_) | (with_reducible refine wf_homeWrite _ _ _ _ _ ?_) | (with_reducible refine wf_foldl (fun s a h => ?_) _ ?_) | (with_reducible refine wf_foldlM (fun s a h => ?_) _ ?_) | (dsimp only) | split | (intro _)))

theorem wf_putStream (s : State) (c w : Nat) (d : W64) (mask : Byte) (pend : Option Nat) (h_s : Memory.wf s.ms.mem = true) :
    ∀ t, (putStream s c w d mask pend) = some t → Memory.wf t.ms.mem = true := by
  intro t ht
  unfold putStream at ht
  (try dsimp only at ht)
  (repeat' (first | split at ht | (rw [Option.map_eq_some_iff] at ht; obtain ⟨_, _, rfl⟩ := ht))) <;> (try contradiction) <;> (try (injection ht with ht; first | subst ht | (injection ht with ha ht; subst ht))) <;> (repeat' (first | (with_reducible assumption) | (with_reducible refine wf_flushOwn _ _ _ ?_) | (with_reducible refine wf_addHeld _ _ _ _ ?_) | (with_reducible refine wf_sendReg _ _ _ _ _ _ ?_) | (dsimp only) | split | (intro _)))

theorem wf_putUnregistered (s : State) (c : Nat) (lp : LPiece) (data : Nat) (pend : Option Nat) (h_s : Memory.wf s.ms.mem = true) :
    Memory.wf (putUnregistered s c lp data pend).ms.mem = true := by
  unfold putUnregistered
  (repeat' (first | (with_reducible assumption) | (with_reducible refine wf_bumpSeq _ ?_) | (with_reducible refine wf_addHeld _ _ _ _ ?_) | (dsimp only) | split | (intro _)))

theorem wf_putPiece (s : State) (c comb : Nat) (stream : Bool) (lp : LPiece) (data : Nat) (pend : Option Nat) (h_s : Memory.wf s.ms.mem = true) :
    ∀ t, (putPiece s c comb stream lp data pend) = some t → Memory.wf t.ms.mem = true := by
  intro t ht
  unfold putPiece at ht
  (try dsimp only at ht)
  (repeat' (first | split at ht | (rw [Option.map_eq_some_iff] at ht; obtain ⟨_, _, rfl⟩ := ht))) <;> (try contradiction) <;> (try (injection ht with ht; first | subst ht | (injection ht with ha ht; subst ht))) <;> (repeat' (first | (with_reducible assumption) | (with_reducible refine wf_storeRaw _ _ _ _ ?_) | (with_reducible refine wf_forgetWord _ _ _ ?_) | (with_reducible refine wf_putStream _ _ _ _ _ _ ?_ _ (by assumption)) | (with_reducible refine wf_putWord _ _ _ _ _ _ _ _ ?_ _ (by assumption)) | (with_reducible refine wf_proxyDrop _ _ ?_) | (with_reducible refine wf_dropCopies _ _ _ ?_) | (with_reducible refine wf_putUnregistered _ _ _ _ _ ?_) | (with_reducible refine wf_foldl (fun s a h => ?_) _ ?_) | (with_reducible refine wf_foldlM (fun s a h => ?_) _ ?_) | (dsimp only) | split | (intro _)))

theorem wf_setReg (s : State) (c n : Nat) (v : RegVal) (h_s : Memory.wf s.ms.mem = true) :
    Memory.wf (setReg s c n v).ms.mem = true := by
  unfold setReg
  (repeat' (first | (with_reducible assumption) | (with_reducible refine wf_modCtx _ _ _ ?_) | (dsimp only) | split | (intro _)))

theorem wf_setDest (s : State) (c : Nat) (d : RegDest) (v : RegVal) (h_s : Memory.wf s.ms.mem = true) :
    Memory.wf (setDest s c d v).ms.mem = true := by
  unfold setDest
  (repeat' (first | (with_reducible assumption) | (with_reducible refine wf_setReg _ _ _ _ ?_) | (dsimp only) | split | (intro _)))

theorem wf_giveReply (s : State) (c id : Nat) (v : RegVal) (h_s : Memory.wf s.ms.mem = true) :
    Memory.wf (giveReply s c id v).ms.mem = true := by
  unfold giveReply
  (repeat' (first | (with_reducible assumption) | (with_reducible refine wf_modCtx _ _ _ ?_) | (dsimp only) | split | (intro _)))

/-! ## Homes -/

theorem wf_putHome (s : State) (w : Nat) (d : W64) (mask : Byte) (poison : Bool) (h_s : Memory.wf s.ms.mem = true) :
    Memory.wf (putHome s w d mask poison).ms.mem = true := by
  unfold putHome
  (repeat' (first | (with_reducible assumption) | (with_reducible refine wf_watchScan _ _ ?_) | (with_reducible refine wf_homeWrite _ _ _ _ _ ?_) | (dsimp only) | split | (intro _)))

theorem wf_poisonWindow (s : State) (comb off : Nat) (h_s : Memory.wf s.ms.mem = true) :
    Memory.wf (poisonWindow s comb off).ms.mem = true := by
  unfold poisonWindow
  (repeat' (first | (with_reducible assumption) | (dsimp only) | split | (intro _)))

theorem wf_windowPut (s : State) (comb off : Nat) (d : W64) (mask : Byte) (poison : Bool) (h_s : Memory.wf s.ms.mem = true) :
    Memory.wf (windowPut s comb off d mask poison).ms.mem = true := by
  unfold windowPut
  (repeat' (first | (with_reducible assumption) | (with_reducible refine wf_windowWrite _ _ _ _ _ ?_) | (with_reducible refine wf_poisonWindow _ _ _ ?_) | (dsimp only) | split | (intro _)))

theorem wf_takeHome (m : MemSys) (w : Nat) (h_m : Memory.wf m.mem = true) :
    Memory.wf (takeHome m w).2.mem = true := by
  unfold takeHome
  (repeat' (first | (with_reducible assumption) | (with_reducible refine wf_recallWord _ _ ?_) | (with_reducible refine wf_checkWords _ _ _ ?_) | (dsimp only) | split | (intro _)))

/-! ## MemInstr -/

theorem wf_scalarLoad (p : Pr) (ls : BitVec 5) (sz : LdSize) (acq : Bool) (hint : Hint) (off : BitVec 4) (t0 : Target) (s : State) (h_s : Memory.wf s.ms.mem = true) :
    ∀ t, (scalarLoad p ls sz acq hint off t0 s) = .next t → Memory.wf t.ms.mem = true := by
  unfold scalarLoad
  (repeat' (first | (with_reducible assumption) | (with_reducible refine wf_fire1 _ _ _ _ ?_ ?_ ?_) | (with_reducible refine wf_nullTo _ _ _ ?_) | (with_reducible refine wf_recordFault _ _ _ _ ?_) | (with_reducible refine wf_loadRanges _ _ _ _ _ _ _ _ _ _ _ ?_) | (with_reducible refine wf_kindFault _ _ ?_) | (with_reducible refine wf_next ?_) | (exact wf_fault _) | (dsimp only) | split | (intro _)))

theorem wf_execLd (p : Pr) (ls : BitVec 5) (sz : LdSize) (hint : Hint) (off : BitVec 4) (t0 : Target) (s : State) (h_s : Memory.wf s.ms.mem = true) :
    ∀ t, (execLd p ls sz hint off t0 s) = .next t → Memory.wf t.ms.mem = true := by
  unfold execLd
  (repeat' (first | (with_reducible assumption) | (with_reducible refine wf_scalarLoad _ _ _ _ _ _ _ _ ?_) | (with_reducible refine wf_next ?_) | (exact wf_fault _) | (dsimp only) | split | (intro _)))

theorem wf_execLda (p : Pr) (ls : BitVec 5) (sz : LdSize) (hint : Hint) (off : BitVec 4) (t0 : Target) (s : State) (h_s : Memory.wf s.ms.mem = true) :
    ∀ t, (execLda p ls sz hint off t0 s) = .next t → Memory.wf t.ms.mem = true := by
  unfold execLda
  (repeat' (first | (with_reducible assumption) | (with_reducible refine wf_scalarLoad _ _ _ _ _ _ _ _ ?_) | (with_reducible refine wf_next ?_) | (exact wf_fault _) | (dsimp only) | split | (intro _)))

theorem wf_ldvStart (s : State) (i : Issue) (x : Ctx) (b : Block) (ls : BitVec 5) (hint : Hint) (off : BitVec 4) (t0 : Target) (base : W64) (m : Mask) (h_s : Memory.wf s.ms.mem = true) :
    Memory.wf (ldvStart s i x b ls hint off t0 base m).ms.mem = true := by
  unfold ldvStart
  (repeat' (first | (with_reducible assumption) | (with_reducible refine wf_loadRanges _ _ _ _ _ _ _ _ _ _ _ ?_) | (dsimp only) | split | (intro _)))

theorem wf_execLdv (p : Pr) (ls : BitVec 5) (masked : Bool) (hint : Hint) (off : BitVec 4) (t0 : Target) (s : State) (h_s : Memory.wf s.ms.mem = true) :
    ∀ t, (execLdv p ls masked hint off t0 s) = .next t → Memory.wf t.ms.mem = true := by
  unfold execLdv
  (repeat' (first | (with_reducible assumption) | (with_reducible refine wf_fire2 _ _ _ _ ?_ ?_ ?_) | (with_reducible refine wf_nullTo _ _ _ ?_) | (with_reducible refine wf_ldvStart _ _ _ _ _ _ _ _ _ _ ?_) | (with_reducible refine wf_kindFault _ _ ?_) | (with_reducible refine wf_fire1 _ _ _ _ ?_ ?_ ?_) | (with_reducible refine wf_next ?_) | (exact wf_fault _) | (dsimp only) | split | (intro _)))

theorem wf_execLdg (p : Pr) (ls : BitVec 5) (sz : LdSize) (hint : Hint) (off : BitVec 4) (t0 : Target) (s : State) (h_s : Memory.wf s.ms.mem = true) :
    ∀ t, (execLdg p ls sz hint off t0 s) = .next t → Memory.wf t.ms.mem = true := by
  unfold execLdg
  (repeat' (first | (with_reducible assumption) | (with_reducible refine wf_fire2 _ _ _ _ ?_ ?_ ?_) | (with_reducible refine wf_nullTo _ _ _ ?_) | (with_reducible refine wf_loadRanges _ _ _ _ _ _ _ _ _ _ _ ?_) | (with_reducible refine wf_kindFault _ _ ?_) | (with_reducible refine wf_next ?_) | (exact wf_fault _) | (dsimp only) | split | (intro _)))

theorem wf_scalarStore (p : Pr) (ls : BitVec 5) (sz : StSize) (rel : Bool) (hint : Hint) (off : BitVec 4) (s : State) (h_s : Memory.wf s.ms.mem = true) :
    ∀ t, (scalarStore p ls sz rel hint off s) = .next t → Memory.wf t.ms.mem = true := by
  unfold scalarStore
  (repeat' (first | (with_reducible assumption) | (with_reducible refine wf_fire2 _ _ _ _ ?_ ?_ ?_) | (with_reducible refine wf_nullStore _ _ _ ?_) | (with_reducible refine wf_fireStore _ _ _ _ _ _ ?_) | (with_reducible refine wf_kindFault _ _ ?_) | (with_reducible refine wf_next ?_) | (exact wf_fault _) | (dsimp only) | split | (intro _)))

theorem wf_execSt (p : Pr) (ls : BitVec 5) (sz : StSize) (hint : Hint) (off : BitVec 4) (s : State) (h_s : Memory.wf s.ms.mem = true) :
    ∀ t, (execSt p ls sz hint off s) = .next t → Memory.wf t.ms.mem = true := by
  unfold execSt
  (repeat' (first | (with_reducible assumption) | (with_reducible refine wf_scalarStore _ _ _ _ _ _ _ ?_) | (with_reducible refine wf_next ?_) | (exact wf_fault _) | (dsimp only) | split | (intro _)))

theorem wf_execStl (p : Pr) (ls : BitVec 5) (sz : StSize) (hint : Hint) (off : BitVec 4) (s : State) (h_s : Memory.wf s.ms.mem = true) :
    ∀ t, (execStl p ls sz hint off s) = .next t → Memory.wf t.ms.mem = true := by
  unfold execStl
  (repeat' (first | (with_reducible assumption) | (with_reducible refine wf_scalarStore _ _ _ _ _ _ _ ?_) | (with_reducible refine wf_next ?_) | (exact wf_fault _) | (dsimp only) | split | (intro _)))

theorem wf_execStv (p : Pr) (ls : BitVec 5) (hint : Hint) (off : BitVec 4) (s : State) (h_s : Memory.wf s.ms.mem = true) :
    ∀ t, (execStv p ls hint off s) = .next t → Memory.wf t.ms.mem = true := by
  unfold execStv
  (repeat' (first | (with_reducible assumption) | (with_reducible refine wf_fire2 _ _ _ _ ?_ ?_ ?_) | (with_reducible refine wf_nullStore _ _ _ ?_) | (with_reducible refine wf_fireStore _ _ _ _ _ _ ?_) | (with_reducible refine wf_kindFault _ _ ?_) | (with_reducible refine wf_next ?_) | (exact wf_fault _) | (dsimp only) | split | (intro _)))

theorem wf_execSts (p : Pr) (ls : BitVec 5) (sz : StSize) (hint : Hint) (off : BitVec 4) (s : State) (h_s : Memory.wf s.ms.mem = true) :
    ∀ t, (execSts p ls sz hint off s) = .next t → Memory.wf t.ms.mem = true := by
  unfold execSts
  (repeat' (first | (with_reducible assumption) | (with_reducible refine wf_fire2 _ _ _ _ ?_ ?_ ?_) | (with_reducible refine wf_nullStore _ _ _ ?_) | (with_reducible refine wf_fireStore _ _ _ _ _ _ ?_) | (with_reducible refine wf_kindFault _ _ ?_) | (with_reducible refine wf_next ?_) | (exact wf_fault _) | (dsimp only) | split | (intro _)))

theorem wf_execAmo (p : Pr) (ls : BitVec 5) (op : AmoOp) (wid : AmoWid) (off : BitVec 4) (d : RegDest) (s : State) (h_s : Memory.wf s.ms.mem = true) :
    ∀ t, (execAmo p ls op wid off d s) = .next t → Memory.wf t.ms.mem = true := by
  unfold execAmo
  (repeat' (first | (with_reducible assumption) | (with_reducible refine wf_fire2 _ _ _ _ ?_ ?_ ?_) | (with_reducible refine wf_nullStore _ _ _ ?_) | (with_reducible refine wf_fireStore _ _ _ _ _ _ ?_) | (with_reducible refine wf_kindFault _ _ ?_) | (with_reducible refine wf_next ?_) | (exact wf_fault _) | (dsimp only) | split | (intro _)))

theorem wf_execCas (p : Pr) (ls : BitVec 5) (wid : Wid2) (off : BitVec 4) (d : RegDest) (s : State) (h_s : Memory.wf s.ms.mem = true) :
    ∀ t, (execCas p ls wid off d s) = .next t → Memory.wf t.ms.mem = true := by
  unfold execCas
  (repeat' (first | (with_reducible assumption) | (with_reducible refine wf_fire2 _ _ _ _ ?_ ?_ ?_) | (with_reducible refine wf_nullStore _ _ _ ?_) | (with_reducible refine wf_kindFault _ _ ?_) | (with_reducible refine wf_fireStore _ _ _ _ _ _ ?_) | (with_reducible refine wf_next ?_) | (exact wf_fault _) | (dsimp only) | split | (intro _)))

theorem wf_execWatch (p : Pr) (ls : BitVec 5) (c : WatchCond) (wid : Wid2) (off : BitVec 4) (t0 : Target) (s : State) (h_s : Memory.wf s.ms.mem = true) :
    ∀ t, (execWatch p ls c wid off t0 s) = .next t → Memory.wf t.ms.mem = true := by
  unfold execWatch
  (repeat' (first | (with_reducible assumption) | (with_reducible refine wf_fire2 _ _ _ _ ?_ ?_ ?_) | (with_reducible refine wf_nullTo _ _ _ ?_) | (with_reducible refine wf_recordFault _ _ _ _ ?_) | (with_reducible refine wf_startLoad _ _ _ _ _ _ _ _ _ ?_) | (with_reducible refine wf_kindFault _ _ ?_) | (with_reducible refine wf_next ?_) | (exact wf_fault _) | (dsimp only) | split | (intro _)))

theorem wf_execFence (p : Pr) (ls : BitVec 5) (k : FenceKind) (s : State) (h_s : Memory.wf s.ms.mem = true) :
    ∀ t, (execFence p ls k s) = .next t → Memory.wf t.ms.mem = true := by
  unfold execFence
  (repeat' (first | (with_reducible assumption) | (with_reducible refine wf_fire0 _ _ _ ?_ ?_) | (with_reducible refine wf_fireStore _ _ _ _ _ _ ?_) | (with_reducible refine wf_acquire _ _ _ _ ?_) | (with_reducible refine wf_setSt _ _ _ ?_) | (with_reducible refine wf_next ?_) | (exact wf_fault _) | (dsimp only) | split | (intro _)))

theorem wf_execFlushr (p : Pr) (ls : BitVec 5) (k : FlushKind) (s : State) (h_s : Memory.wf s.ms.mem = true) :
    ∀ t, (execFlushr p ls k s) = .next t → Memory.wf t.ms.mem = true := by
  unfold execFlushr
  (repeat' (first | (with_reducible assumption) | (with_reducible refine wf_fire2 _ _ _ _ ?_ ?_ ?_) | (with_reducible refine wf_nullStore _ _ _ ?_) | (with_reducible refine wf_recordFault _ _ _ _ ?_) | (with_reducible refine wf_fireStore _ _ _ _ _ _ ?_) | (with_reducible refine wf_kindFault _ _ ?_) | (with_reducible refine wf_next ?_) | (exact wf_fault _) | (dsimp only) | split | (intro _)))

theorem wf_execSpan (p : Pr) (ls : BitVec 5) (hive : Bool) (off : BitVec 4) (t0 : Target) (s : State) (h_s : Memory.wf s.ms.mem = true) :
    ∀ t, (execSpan p ls hive off t0 s) = .next t → Memory.wf t.ms.mem = true := by
  unfold execSpan
  (repeat' (first | (with_reducible assumption) | (with_reducible refine wf_fire2 _ _ _ _ ?_ ?_ ?_) | (with_reducible refine wf_nullTo _ _ _ ?_) | (with_reducible refine wf_recordFault _ _ _ _ ?_) | (with_reducible refine wf_finish _ _ _ _ _ ?_) | (with_reducible refine wf_startLoad _ _ _ _ _ _ _ _ _ ?_) | (with_reducible refine wf_kindFault _ _ ?_) | (with_reducible refine wf_next ?_) | (exact wf_fault _) | (dsimp only) | split | (intro _)))

theorem wf_execClaim (p : Pr) (ls : BitVec 5) (s : State) (h_s : Memory.wf s.ms.mem = true) :
    ∀ t, (execClaim p ls s) = .next t → Memory.wf t.ms.mem = true := by
  unfold execClaim
  (repeat' (first | (with_reducible assumption) | (with_reducible refine wf_fire2 _ _ _ _ ?_ ?_ ?_) | (with_reducible refine wf_nullStore _ _ _ ?_) | (with_reducible refine wf_fireStore _ _ _ _ _ _ ?_) | (with_reducible refine wf_kindFault _ _ ?_) | (with_reducible refine wf_next ?_) | (exact wf_fault _) | (dsimp only) | split | (intro _)))

theorem wf_execIsync (p : Pr) (ls : BitVec 5) (s : State) (h_s : Memory.wf s.ms.mem = true) :
    ∀ t, (execIsync p ls s) = .next t → Memory.wf t.ms.mem = true := by
  unfold execIsync
  (repeat' (first | (with_reducible assumption) | (with_reducible refine wf_fire2 _ _ _ _ ?_ ?_ ?_) | (with_reducible refine wf_nullStore _ _ _ ?_) | (with_reducible refine wf_fireStore _ _ _ _ _ _ ?_) | (with_reducible refine wf_kindFault _ _ ?_) | (with_reducible refine wf_next ?_) | (exact wf_fault _) | (dsimp only) | split | (intro _)))

/-! ## SyncInstr -/

theorem wf_execCopy (p : Pr) (try_ : Bool) (mode : CopyMode) (ls : BitVec 5) (d : RegDest) (s : State) (h_s : Memory.wf s.ms.mem = true) :
    ∀ t, (execCopy p try_ mode ls d s) = .next t → Memory.wf t.ms.mem = true := by
  unfold execCopy
  (repeat' (first | (with_reducible assumption) | (with_reducible refine wf_fire1 _ _ _ _ ?_ ?_ ?_) | (with_reducible refine wf_nullStore _ _ _ ?_) | (with_reducible refine wf_fireStore _ _ _ _ _ _ ?_) | (with_reducible refine wf_kindFault _ _ ?_) | (with_reducible refine wf_next ?_) | (exact wf_fault _) | (dsimp only) | split | (intro _)))

theorem wf_execBatch (p : Pr) (ls : BitVec 5) (d : RegDest) (s : State) (h_s : Memory.wf s.ms.mem = true) :
    ∀ t, (execBatch p ls d s) = .next t → Memory.wf t.ms.mem = true := by
  unfold execBatch
  (repeat' (first | (with_reducible assumption) | (with_reducible refine wf_fire0 _ _ _ ?_ ?_) | (with_reducible refine wf_fireStore _ _ _ _ _ _ ?_) | (with_reducible refine wf_next ?_) | (exact wf_fault _) | (dsimp only) | split | (intro _)))

theorem wf_execWaitb (p : Pr) (n : BitVec 9) (t0 : Target) (s : State) (h_s : Memory.wf s.ms.mem = true) :
    ∀ t, (execWaitb p n t0 s) = .next t → Memory.wf t.ms.mem = true := by
  unfold execWaitb
  (repeat' (first | (with_reducible assumption) | (with_reducible refine wf_fire0 _ _ _ ?_ ?_) | (with_reducible refine wf_setSt _ _ _ ?_) | (with_reducible refine wf_modBlock _ _ _ _ ?_) | (with_reducible refine wf_modCtx _ _ _ ?_) | (with_reducible refine wf_finish _ _ _ _ _ ?_) | (with_reducible refine wf_acquire _ _ _ _ ?_) | (with_reducible refine wf_next ?_) | (exact wf_fault _) | (dsimp only) | split | (intro _)))

theorem wf_execFork (p : Pr) (ls : BitVec 5) (d : RegDest) (s : State) (h_s : Memory.wf s.ms.mem = true) :
    ∀ t, (execFork p ls d s) = .next t → Memory.wf t.ms.mem = true := by
  unfold execFork
  (repeat' (first | (with_reducible assumption) | (with_reducible refine wf_fire2 _ _ _ _ ?_ ?_ ?_) | (with_reducible refine wf_nullStore _ _ _ ?_) | (with_reducible refine wf_fireStore _ _ _ _ _ _ ?_) | (with_reducible refine wf_kindFault _ _ ?_) | (with_reducible refine wf_foldl (fun s a h => ?_) _ ?_) | (with_reducible refine wf_foldlM (fun s a h => ?_) _ ?_) | (with_reducible refine wf_next ?_) | (exact wf_fault _) | (dsimp only) | split | (intro _)))

theorem wf_setAside (s : State) (c : Nat) (run : Nat × Nat) (h_s : Memory.wf s.ms.mem = true) :
    Memory.wf (setAside s c run).ms.mem = true := by
  unfold setAside
  (repeat' (first | (with_reducible assumption) | (with_reducible refine wf_beginSave _ _ _ _ ?_) | (dsimp only) | split | (intro _)))

theorem wf_joinAside (s : State) (i : Issue) (x : Ctx) (t : Task) (h_s : Memory.wf s.ms.mem = true) :
    Memory.wf (joinAside s i x t).ms.mem = true := by
  unfold joinAside
  (repeat' (first | (with_reducible assumption) | (with_reducible refine wf_recordFault _ _ _ _ ?_) | (with_reducible refine wf_deviceFault _ _ _ _ _ ?_) | (with_reducible refine wf_setAside _ _ _ ?_) | (dsimp only) | split | (intro _)))

theorem wf_execJoin (p : Pr) (n : BitVec 9) (t0 : Target) (s : State) (h_s : Memory.wf s.ms.mem = true) :
    ∀ t, (execJoin p n t0 s) = .next t → Memory.wf t.ms.mem = true := by
  unfold execJoin
  (repeat' (first | (with_reducible assumption) | (with_reducible refine wf_fire0 _ _ _ ?_ ?_) | (with_reducible refine wf_setSt _ _ _ ?_) | (with_reducible refine wf_acquire _ _ _ _ ?_) | (with_reducible refine wf_finish _ _ _ _ _ ?_) | (with_reducible refine wf_joinAside _ _ _ _ ?_) | (with_reducible refine wf_next ?_) | (exact wf_fault _) | (dsimp only) | split | (intro _)))

theorem wf_execBar (p : Pr) (ch : BitVec 4) (ls : BitVec 5) (mode : BarMode) (s : State) (h_s : Memory.wf s.ms.mem = true) :
    ∀ t, (execBar p ch ls mode s) = .next t → Memory.wf t.ms.mem = true := by
  unfold execBar
  (repeat' (first | (with_reducible assumption) | (with_reducible refine wf_fireStore _ _ _ _ _ _ ?_) | (with_reducible refine wf_recordFault _ _ _ _ ?_) | (with_reducible refine wf_fire1 _ _ _ _ ?_ ?_ ?_) | (with_reducible refine wf_nullStore _ _ _ ?_) | (with_reducible refine wf_kindFault _ _ ?_) | (with_reducible refine wf_fire0 _ _ _ ?_ ?_) | (with_reducible refine wf_next ?_) | (exact wf_fault _) | (dsimp only) | split | (intro _)))

theorem wf_hintRanges (s : State) (i : Issue) (rs : List (Nat × Nat)) (h_s : Memory.wf s.ms.mem = true) :
    Memory.wf (hintRanges s i rs).ms.mem = true := by
  unfold hintRanges
  (repeat' (first | (with_reducible assumption) | (with_reducible refine wf_setSt _ _ _ ?_) | (with_reducible refine wf_modBlock _ _ _ _ ?_) | (dsimp only) | split | (intro _)))

theorem wf_execPhint (p : Pr) (form : PhintForm) (s : State) (h_s : Memory.wf s.ms.mem = true) :
    ∀ t, (execPhint p form s) = .next t → Memory.wf t.ms.mem = true := by
  unfold execPhint
  (repeat' (first | (with_reducible assumption) | (with_reducible refine wf_fire0 _ _ _ ?_ ?_) | (with_reducible refine wf_hintRanges _ _ _ ?_) | (with_reducible refine wf_fire1 _ _ _ _ ?_ ?_ ?_) | (with_reducible refine wf_setSt _ _ _ ?_) | (with_reducible refine wf_kindFault _ _ ?_) | (with_reducible refine wf_foldl (fun s a h => ?_) _ ?_) | (with_reducible refine wf_foldlM (fun s a h => ?_) _ ?_) | (with_reducible refine wf_next ?_) | (exact wf_fault _) | (dsimp only) | split | (intro _)))

theorem wf_execGeti (p : Pr) (sel : BitVec 9) (t0 : Target) (s : State) (h_s : Memory.wf s.ms.mem = true) :
    ∀ t, (execGeti p sel t0 s) = .next t → Memory.wf t.ms.mem = true := by
  unfold execGeti
  (repeat' (first | (with_reducible assumption) | (with_reducible refine wf_fire0 _ _ _ ?_ ?_) | (with_reducible refine wf_setSt _ _ _ ?_) | (with_reducible refine wf_finish _ _ _ _ _ ?_) | (with_reducible refine wf_next ?_) | (exact wf_fault _) | (dsimp only) | split | (intro _)))

/-! ## Tensor -/

theorem wf_stage (s : State) (c tag t n : Nat) (u : TBuf) (h_s : Memory.wf s.ms.mem = true) :
    Memory.wf (stage s c tag t n u).ms.mem = true := by
  unfold stage
  (repeat' (first | (with_reducible assumption) | (with_reducible refine wf_modBlock _ _ _ _ ?_) | (dsimp only) | split | (intro _)))

theorem wf_shade (s : State) (c tag t a : Nat) (u : TAcc) (h_s : Memory.wf s.ms.mem = true) :
    Memory.wf (shade s c tag t a u).ms.mem = true := by
  unfold shade
  (repeat' (first | (with_reducible assumption) | (with_reducible refine wf_modBlock _ _ _ _ ?_) | (dsimp only) | split | (intro _)))

theorem wf_afterWaits (s : State) (i : Issue) (x : Ctx) (b : Block) (k : State → State) (h_s : Memory.wf s.ms.mem = true) (h_k : ∀ y0, Memory.wf y0.ms.mem = true → Memory.wf (k y0).ms.mem = true) :
    Memory.wf (afterWaits s i x b k).ms.mem = true := by
  unfold afterWaits
  (repeat' (first | (with_reducible assumption) | (with_reducible refine wf_setSt _ _ _ ?_) | (with_reducible refine wf_recordFault _ _ _ _ ?_) | (with_reducible refine h_k _ ?_) | (dsimp only) | split | (intro _)))

theorem wf_tldStart (s : State) (i : Issue) (x : Ctx) (b : Block) (bc tr : Bool) (fmt : TldFmt) (cell ls : BitVec 5) (buf : BitVec 4) (t1 t0 : Target) (base pitch : W64) (h_s : Memory.wf s.ms.mem = true) :
    Memory.wf (tldStart s i x b bc tr fmt cell ls buf t1 t0 base pitch).ms.mem = true := by
  unfold tldStart
  (repeat' (first | (with_reducible assumption) | (with_reducible refine wf_recordFault _ _ _ _ ?_) | (with_reducible refine wf_startLoad _ _ _ _ _ _ _ _ _ ?_) | (with_reducible refine wf_foldl (fun s a h => ?_) _ ?_) | (with_reducible refine wf_foldlM (fun s a h => ?_) _ ?_) | (dsimp only) | split | (intro _)))

theorem wf_execTld (p : Pr) (bc tr : Bool) (fmt : TldFmt) (cell ls : BitVec 5) (buf : BitVec 4) (t1 t0 : Target) (s : State) (h_s : Memory.wf s.ms.mem = true) :
    ∀ t, (execTld p bc tr fmt cell ls buf t1 t0 s) = .next t → Memory.wf t.ms.mem = true := by
  unfold execTld
  (repeat' (first | (with_reducible assumption) | (with_reducible refine wf_fire2 _ _ _ _ ?_ ?_ ?_) | (with_reducible refine wf_nullTo _ _ _ ?_) | (with_reducible refine wf_afterWaits _ _ _ _ _ ?_ ?_) | (with_reducible refine wf_tldStart _ _ _ _ _ _ _ _ _ _ _ _ _ _ ?_) | (with_reducible refine wf_kindFault _ _ ?_) | (with_reducible refine wf_next ?_) | (exact wf_fault _) | (dsimp only) | split | (intro _)))

theorem wf_execTst (p : Pr) (acc tr : Bool) (cell ls : BitVec 5) (idx : BitVec 4) (s : State) (h_s : Memory.wf s.ms.mem = true) :
    ∀ t, (execTst p acc tr cell ls idx s) = .next t → Memory.wf t.ms.mem = true := by
  unfold execTst
  (repeat' (first | (with_reducible assumption) | (with_reducible refine wf_fire2 _ _ _ _ ?_ ?_ ?_) | (with_reducible refine wf_nullStore _ _ _ ?_) | (with_reducible refine wf_afterWaits _ _ _ _ _ ?_ ?_) | (with_reducible refine wf_setSt _ _ _ ?_) | (with_reducible refine wf_modBlock _ _ _ _ ?_) | (with_reducible refine wf_fireStore _ _ _ _ _ _ ?_) | (with_reducible refine wf_kindFault _ _ ?_) | (with_reducible refine wf_next ?_) | (exact wf_fault _) | (dsimp only) | split | (intro _)))

theorem wf_holdMma (s : State) (i : Issue) (b : Block) (h_s : Memory.wf s.ms.mem = true) :
    Memory.wf (holdMma s i b).ms.mem = true := by
  unfold holdMma
  (repeat' (first | (with_reducible assumption) | (with_reducible refine wf_setSt _ _ _ ?_) | (with_reducible refine wf_bumpSeq _ ?_) | (with_reducible refine wf_modBlock _ _ _ _ ?_) | (dsimp only) | split | (intro _)))

theorem wf_execMma (p : Pr) (mode : MmaMode) (cell : BitVec 5) (acc : BitVec 3) (a b : BitVec 4) (rung : BitVec 2) (stk zc : Bool) (t1 t0 : Target) (s : State) (h_s : Memory.wf s.ms.mem = true) :
    ∀ t, (execMma p mode cell acc a b rung stk zc t1 t0 s) = .next t → Memory.wf t.ms.mem = true := by
  unfold execMma
  (repeat' (first | (with_reducible assumption) | (with_reducible refine wf_fire0 _ _ _ ?_ ?_) | (with_reducible refine wf_setSt _ _ _ ?_) | (with_reducible refine wf_emitNull _ _ _ ?_) | (with_reducible refine wf_holdMma _ _ _ ?_) | (with_reducible refine wf_afterWaits _ _ _ _ _ ?_ ?_) | (with_reducible refine wf_recordFault _ _ _ _ ?_) | (with_reducible refine wf_bumpSeq _ ?_) | (with_reducible refine wf_next ?_) | (exact wf_fault _) | (dsimp only) | split | (intro _)))

theorem wf_triggered (p : Pr) (ts : List Target) (s : State) (k : Issue → Ctx → Block → State → State) (h_s : Memory.wf s.ms.mem = true) (h_k : ∀ y0 y1 y2 y3, Memory.wf y3.ms.mem = true → Memory.wf (k y0 y1 y2 y3).ms.mem = true) :
    ∀ t, (triggered p ts s k) = .next t → Memory.wf t.ms.mem = true := by
  unfold triggered
  (repeat' (first | (with_reducible assumption) | (with_reducible refine wf_fire0 _ _ _ ?_ ?_) | (with_reducible refine wf_setSt _ _ _ ?_) | (with_reducible refine wf_emitNull _ _ _ ?_) | (with_reducible refine wf_afterWaits _ _ _ _ _ ?_ ?_) | (with_reducible refine h_k _ _ _ _ ?_) | (with_reducible refine wf_next ?_) | (exact wf_fault _) | (dsimp only) | split | (intro _)))

theorem wf_execTop (p : Pr) (op : TopOp) (cell : BitVec 5) (t1 t0 : Target) (s : State) (h_s : Memory.wf s.ms.mem = true) :
    ∀ t, (execTop p op cell t1 t0 s) = .next t → Memory.wf t.ms.mem = true := by
  unfold execTop
  (repeat' (first | (with_reducible assumption) | (with_reducible refine wf_triggered _ _ _ _ ?_ ?_) | (with_reducible refine wf_finish _ _ _ _ _ ?_) | (with_reducible refine wf_stage _ _ _ _ _ _ ?_) | (with_reducible refine wf_shade _ _ _ _ _ _ ?_) | (with_reducible refine wf_fire2 _ _ _ _ ?_ ?_ ?_) | (with_reducible refine wf_nullTo _ _ _ ?_) | (with_reducible refine wf_afterWaits _ _ _ _ _ ?_ ?_) | (with_reducible refine wf_kindFault _ _ ?_) | (with_reducible refine wf_next ?_) | (exact wf_fault _) | (dsimp only) | split | (intro _)))

theorem wf_trowWrite (p : Pr) (ts : List Target) (s : State) (k : Issue → Ctx → Block → Lanes → Mask → State → State) (h_s : Memory.wf s.ms.mem = true) (h_k : ∀ y0 y1 y2 y3 y4 y5, Memory.wf y5.ms.mem = true → Memory.wf (k y0 y1 y2 y3 y4 y5).ms.mem = true) :
    ∀ t, (trowWrite p ts s k) = .next t → Memory.wf t.ms.mem = true := by
  unfold trowWrite
  (repeat' (first | (with_reducible assumption) | (with_reducible refine wf_fire1 _ _ _ _ ?_ ?_ ?_) | (with_reducible refine wf_nullTo _ _ _ ?_) | (with_reducible refine wf_afterWaits _ _ _ _ _ ?_ ?_) | (with_reducible refine wf_kindFault _ _ ?_) | (with_reducible refine h_k _ _ _ _ _ _ ?_) | (with_reducible refine wf_next ?_) | (exact wf_fault _) | (dsimp only) | split | (intro _)))

theorem wf_execTrow (p : Pr) (op : TrowOp) (cell : BitVec 5) (idx row : BitVec 4) (chunk : BitVec 3) (t1 t0 : Target) (s : State) (h_s : Memory.wf s.ms.mem = true) :
    ∀ t, (execTrow p op cell idx row chunk t1 t0 s) = .next t → Memory.wf t.ms.mem = true := by
  unfold execTrow
  (repeat' (first | (with_reducible assumption) | (with_reducible refine wf_triggered _ _ _ _ ?_ ?_) | (with_reducible refine wf_finish _ _ _ _ _ ?_) | (with_reducible refine wf_trowWrite _ _ _ _ ?_ ?_) | (with_reducible refine wf_stage _ _ _ _ _ _ ?_) | (with_reducible refine wf_shade _ _ _ _ _ _ ?_) | (with_reducible refine wf_next ?_) | (exact wf_fault _) | (dsimp only) | split | (intro _)))

theorem wf_execPset (p : Pr) (mask : BitVec 6) (s : State) (h_s : Memory.wf s.ms.mem = true) :
    ∀ t, (execPset p mask s) = .next t → Memory.wf t.ms.mem = true := by
  unfold execPset
  (repeat' (first | (with_reducible assumption) | (with_reducible refine wf_fire1 _ _ _ _ ?_ ?_ ?_) | (with_reducible refine wf_setSt _ _ _ ?_) | (with_reducible refine wf_modBlock _ _ _ _ ?_) | (with_reducible refine wf_kindFault _ _ ?_) | (with_reducible refine wf_next ?_) | (exact wf_fault _) | (dsimp only) | split | (intro _)))

theorem wf_execPget (p : Pr) (t0 : Target) (s : State) (h_s : Memory.wf s.ms.mem = true) :
    ∀ t, (execPget p t0 s) = .next t → Memory.wf t.ms.mem = true := by
  unfold execPget
  (repeat' (first | (with_reducible assumption) | (with_reducible refine wf_fire0 _ _ _ ?_ ?_) | (with_reducible refine wf_finish _ _ _ _ _ ?_) | (with_reducible refine wf_setSt _ _ _ ?_) | (with_reducible refine wf_next ?_) | (exact wf_fault _) | (dsimp only) | split | (intro _)))

end Sys2Proof.Machine
end

