-- ==== Sys2Proof/Laws/KeepEngines.lean ====
section
/-! SUPPORT. Every state that comes out of a function keeps the canonical form of memory: the copy engines, commit, placement, the queues, the configuration space and start-up. Each lemma
`wf_f` says so of the function `f`. -/

namespace Sys2Proof.Machine

set_option linter.all false

/-! ## CopyEngine -/

theorem wf_putBytes (p : EngPiece) (f : State → Nat → Nat → State) (s : State) (h_f : ∀ y0 y1 y2, Memory.wf y0.ms.mem = true → Memory.wf (f y0 y1 y2).ms.mem = true) (h_s : Memory.wf s.ms.mem = true) :
    Memory.wf (putBytes p f s).ms.mem = true := by
  unfold putBytes
  (repeat' (first | (with_reducible assumption) | (with_reducible refine h_f _ _ _ ?_) | (with_reducible refine wf_foldl (fun s a h => ?_) _ ?_) | (with_reducible refine wf_foldlM (fun s a h => ?_) _ ?_) | (dsimp only) | split | (intro _)))

theorem wf_engPut (s : State) (pl : EngDst) (p : EngPiece) (h_s : Memory.wf s.ms.mem = true) :
    Memory.wf (engPut s pl p).ms.mem = true := by
  unfold engPut
  (repeat' (first | (with_reducible assumption) | (with_reducible refine wf_putBytes _ _ _ ?_ ?_) | (with_reducible refine wf_storeBytes _ _ _ _ ?_) | (with_reducible refine wf_watchScan _ _ ?_) | (with_reducible refine wf_uncachedWrite _ _ _ _ _ ?_) | (with_reducible refine wf_putHome _ _ _ _ _ ?_) | (with_reducible refine wf_windowPut _ _ _ _ _ _ ?_) | (with_reducible refine wf_remoteWrite _ _ _ _ ?_) | (dsimp only) | split | (intro _)))

theorem wf_putFaulting (s : State) (ps : List (EngDst × EngPiece)) (h_s : Memory.wf s.ms.mem = true) :
    Memory.wf (putFaulting s ps).ms.mem = true := by
  unfold putFaulting
  (repeat' (first | (with_reducible assumption) | (with_reducible refine wf_engPut _ _ _ ?_) | (with_reducible refine wf_foldl (fun s a h => ?_) _ ?_) | (with_reducible refine wf_foldlM (fun s a h => ?_) _ ?_) | (dsimp only) | split | (intro _)))

theorem wf_recallAll (s : State) (ws : List Nat) (h_s : Memory.wf s.ms.mem = true) :
    Memory.wf (recallAll s ws).ms.mem = true := by
  unfold recallAll
  (repeat' (first | (with_reducible assumption) | (with_reducible refine wf_recallWord _ _ ?_) | (with_reducible refine wf_foldl (fun s a h => ?_) _ ?_) | (with_reducible refine wf_foldlM (fun s a h => ?_) _ ?_) | (dsimp only) | split | (intro _)))

theorem wf_freeEntry (s : State) (q : CopyReq) (n : Nat) (h_s : Memory.wf s.ms.mem = true) :
    Memory.wf (freeEntry s q n).ms.mem = true := by
  unfold freeEntry
  (repeat' (first | (with_reducible assumption) | (with_reducible refine wf_modCtx _ _ _ ?_) | (dsimp only) | split | (intro _)))

theorem wf_endCopyb (s : State) (n p queue idx : Nat) (fault : W64) (h_s : Memory.wf s.ms.mem = true) :
    Memory.wf (endCopyb s n p queue idx fault).ms.mem = true := by
  unfold endCopyb
  (repeat' (first | (with_reducible assumption) | (with_reducible refine wf_faultRecord _ _ _ ?_) | (with_reducible refine wf_modPkt _ _ _ _ _ ?_) | (with_reducible refine wf_journalAdd _ _ _ _ _ ?_) | (dsimp only) | split | (intro _)))

theorem wf_endCopy (s : State) (n : Nat) (q : CopyReq) (fault : W64) (h_s : Memory.wf s.ms.mem = true) :
    Memory.wf (endCopy s n q fault).ms.mem = true := by
  unfold endCopy
  (repeat' (first | (with_reducible assumption) | (with_reducible refine wf_freeEntry _ _ _ ?_) | (with_reducible refine wf_pumpCtx _ _ ?_) | (with_reducible refine wf_endCopyb _ _ _ _ _ _ ?_) | (dsimp only) | split | (intro _)))

theorem wf_holdChunk (s : State) (n : Nat) (q : CopyReq) (plan : ChunkPlan) (h_s : Memory.wf s.ms.mem = true) :
    Memory.wf (holdChunk s n q plan).ms.mem = true := by
  unfold holdChunk
  (repeat' (first | (with_reducible assumption) | (with_reducible refine wf_delayFor _ _ _ ?_) | (with_reducible refine wf_snoopWords _ _ ?_) | (dsimp only) | split | (intro _)))

theorem wf_sendNet (s : State) (q : CopyReq) (msgs : List (Nat × List (Nat × Bool) × Option W64)) (h_s : Memory.wf s.ms.mem = true) :
    Memory.wf (sendNet s q msgs).ms.mem = true := by
  unfold sendNet
  (repeat' (first | (with_reducible assumption) | (with_reducible refine wf_getD ?_ ?_) | (with_reducible refine wf_getDM ?_ ?_) | (dsimp only) | split | (intro _)))

theorem wf_netStep (s : State) (n : Nat) (q : CopyReq) (h_s : Memory.wf s.ms.mem = true) :
    Memory.wf (netStep s n q).ms.mem = true := by
  unfold netStep
  (repeat' (first | (with_reducible assumption) | (with_reducible refine wf_sendNet _ _ _ ?_) | (with_reducible refine wf_endCopy _ _ _ _ ?_) | (with_reducible refine wf_getD ?_ ?_) | (with_reducible refine wf_getDM ?_ ?_) | (dsimp only) | split | (intro _)))

theorem wf_lastChunk (s : State) (n : Nat) (q : CopyReq) (h_s : Memory.wf s.ms.mem = true) :
    Memory.wf (lastChunk s n q).ms.mem = true := by
  unfold lastChunk
  (repeat' (first | (with_reducible assumption) | (with_reducible refine wf_netStep _ _ _ ?_) | (with_reducible refine wf_endCopy _ _ _ _ ?_) | (dsimp only) | split | (intro _)))

theorem wf_moveChunk (s : State) (n : Nat) (q : CopyReq) (d : CopyDesc) (h_s : Memory.wf s.ms.mem = true) :
    Memory.wf (moveChunk s n q d).ms.mem = true := by
  unfold moveChunk
  (repeat' (first | (with_reducible assumption) | (with_reducible refine wf_holdChunk _ _ _ _ ?_) | (with_reducible refine wf_undelay _ _ ?_) | (with_reducible refine wf_recallAll _ _ ?_) | (with_reducible refine wf_endCopy _ _ _ _ ?_) | (with_reducible refine wf_putFaulting _ _ ?_) | (with_reducible refine wf_engPut _ _ _ ?_) | (with_reducible refine wf_sendNet _ _ _ ?_) | (with_reducible refine wf_lastChunk _ _ _ ?_) | (with_reducible refine wf_freeEntry _ _ _ ?_) | (with_reducible refine wf_getD ?_ ?_) | (with_reducible refine wf_getDM ?_ ?_) | (with_reducible refine wf_foldl (fun s a h => ?_) _ ?_) | (with_reducible refine wf_foldlM (fun s a h => ?_) _ ?_) | (dsimp only) | split | (intro _)))

theorem wf_copyStep (s : State) (n : Nat) (q : CopyReq) (h_s : Memory.wf s.ms.mem = true) :
    Memory.wf (copyStep s n q).ms.mem = true := by
  unfold copyStep
  (repeat' (first | (with_reducible assumption) | (with_reducible refine wf_endCopy _ _ _ _ ?_) | (with_reducible refine wf_netStep _ _ _ ?_) | (with_reducible refine wf_lastChunk _ _ _ ?_) | (with_reducible refine wf_moveChunk _ _ _ _ ?_) | (dsimp only) | split | (intro _)))

/-! ## Commit -/

theorem wf_checkFork (sim : State) (c : Nat) (x : Ctx) (e : W64) (h_sim : Memory.wf sim.ms.mem = true) :
    ∀ t, (checkFork sim c x e) = .ok t → Memory.wf t.ms.mem = true := by
  intro t ht
  unfold checkFork at ht
  (try dsimp only at ht)
  (repeat' (first | split at ht | (rw [Option.map_eq_some_iff] at ht; obtain ⟨_, _, rfl⟩ := ht))) <;> (try contradiction) <;> (try (injection ht with ht; first | subst ht | (injection ht with ha ht; subst ht))) <;> (repeat' (first | (with_reducible assumption) | (with_reducible refine wf_pushChild _ _ _ ?_) | (with_reducible refine wf_getD ?_ ?_) | (with_reducible refine wf_getDM ?_ ?_) | (dsimp only) | split | (intro _)))

theorem wf_spillRecord (s : State) (x : Ctx) (t : BitVec 8 × W64 × Nat) (h_s : Memory.wf s.ms.mem = true) :
    Memory.wf (spillRecord s x t).ms.mem = true := by
  unfold spillRecord
  (repeat' (first | (with_reducible assumption) | (with_reducible refine wf_deviceFault _ _ _ _ _ ?_) | (dsimp only) | split | (intro _)))

theorem wf_checkStore (s sim : State) (c : Nat) (x : Ctx) (b : Block) (r : StoreRec) (h_s : Memory.wf s.ms.mem = true) (h_sim : Memory.wf sim.ms.mem = true) :
    ∀ t, (checkStore s sim c x b r) = .ok t → Memory.wf t.ms.mem = true := by
  intro t ht
  unfold checkStore at ht
  (try dsimp only at ht)
  (repeat' (first | split at ht)) <;> (try contradiction) <;> (try (injection ht with ht; first | subst ht | (injection ht with ha ht; subst ht))) <;> (repeat' (first | (with_reducible assumption) | (with_reducible refine wf_checkFork _ _ _ _ ?_ _ (by assumption)) | (with_reducible refine wf_foldl (fun s a h => ?_) _ ?_) | (with_reducible refine wf_foldlM (fun s a h => ?_) _ ?_) | (dsimp only) | split | (intro _)))

theorem wf_performPieces (s : State) (c comb : Nat) (k : Plain) (stream : Bool) (pend : Option Nat) (e0 : List Piece) (h_s : Memory.wf s.ms.mem = true) :
    ∀ t, (performPieces s c comb k stream pend e0) = some t → Memory.wf t.ms.mem = true := by
  induction e0 generalizing s c comb k stream pend with
  | nil =>
    intro t ht
    unfold performPieces at ht
    (try dsimp only at ht)
    (repeat' (first | split at ht)) <;> (try contradiction) <;> (try (injection ht with ht; first | subst ht | (injection ht with ha ht; subst ht))) <;> (repeat' (first | (with_reducible assumption) | (with_reducible refine wf_putPiece _ _ _ _ _ _ _ ?_ _ (by assumption)) | (with_reducible refine wf_tlbUse _ _ _ _ ?_) | (with_reducible refine wf_foldl (fun s a h => ?_) _ ?_) | (with_reducible refine wf_foldlM (fun s a h => ?_) _ ?_) | (dsimp only) | split | (intro _)))
  | cons a l ih =>
    intro t ht
    unfold performPieces at ht
    (try dsimp only at ht)
    (repeat' (first | split at ht)) <;> (try contradiction) <;> (try (injection ht with ht; first | subst ht | (injection ht with ha ht; subst ht))) <;> (repeat' (first | (with_reducible refine ih _ _ _ _ _ _ ?_ _ (by assumption)) | (with_reducible assumption) | (with_reducible refine wf_putPiece _ _ _ _ _ _ _ ?_ _ (by assumption)) | (with_reducible refine wf_tlbUse _ _ _ _ ?_) | (with_reducible refine wf_foldl (fun s a h => ?_) _ ?_) | (with_reducible refine wf_foldlM (fun s a h => ?_) _ ?_) | (dsimp only) | split | (intro _)))

theorem wf_performAtomic (s : State) (c comb : Nat) (op : StoreOp) (h_s : Memory.wf s.ms.mem = true) :
    Memory.wf (performAtomic s c comb op).ms.mem = true := by
  unfold performAtomic
  (repeat' (first | (with_reducible assumption) | (with_reducible refine wf_setDest _ _ _ _ ?_) | (with_reducible refine wf_storeRaw _ _ _ _ ?_) | (with_reducible refine wf_bumpSeq _ ?_) | (with_reducible refine wf_addHeld _ _ _ _ ?_) | (with_reducible refine wf_sendAmo _ _ ?_) | (dsimp only) | split | (intro _)))

theorem wf_claimRun (s : State) (c comb w : Nat) (pend : Option Nat) (e0 : Nat) (h_s : Memory.wf s.ms.mem = true) :
    ∀ t, (claimRun s c comb w pend e0) = some t → Memory.wf t.ms.mem = true := by
  induction e0 generalizing s c comb w pend with
  | zero =>
    intro t ht
    unfold claimRun at ht
    (try dsimp only at ht)
    (repeat' (first | split at ht)) <;> (try contradiction) <;> (try (injection ht with ht; first | subst ht | (injection ht with ha ht; subst ht))) <;> (repeat' (first | (with_reducible assumption) | (with_reducible refine wf_claimWord _ _ _ _ _ ?_ _ (by assumption)) | (dsimp only) | split | (intro _)))
  | succ n ih =>
    intro t ht
    unfold claimRun at ht
    (try dsimp only at ht)
    (repeat' (first | split at ht)) <;> (try contradiction) <;> (try (injection ht with ht; first | subst ht | (injection ht with ha ht; subst ht))) <;> (repeat' (first | (with_reducible refine ih _ _ _ _ _ ?_ _ (by assumption)) | (with_reducible assumption) | (with_reducible refine wf_claimWord _ _ _ _ _ ?_ _ (by assumption)) | (dsimp only) | split | (intro _)))

theorem wf_claimAll (s : State) (c comb : Nat) (pend : Option Nat) (e0 : List (Nat × Nat × Nat)) (h_s : Memory.wf s.ms.mem = true) :
    ∀ t, (claimAll s c comb pend e0) = some t → Memory.wf t.ms.mem = true := by
  induction e0 generalizing s c comb pend with
  | nil =>
    intro t ht
    unfold claimAll at ht
    (try dsimp only at ht)
    (repeat' (first | split at ht)) <;> (try contradiction) <;> (try (injection ht with ht; first | subst ht | (injection ht with ha ht; subst ht))) <;> (repeat' (first | (with_reducible assumption) | (with_reducible refine wf_claimRun _ _ _ _ _ _ ?_ _ (by assumption)) | (dsimp only) | split | (intro _)))
  | cons a l ih =>
    intro t ht
    unfold claimAll at ht
    (try dsimp only at ht)
    (repeat' (first | split at ht)) <;> (try contradiction) <;> (try (injection ht with ht; first | subst ht | (injection ht with ha ht; subst ht))) <;> (repeat' (first | (with_reducible refine ih _ _ _ _ ?_ _ (by assumption)) | (with_reducible assumption) | (with_reducible refine wf_claimRun _ _ _ _ _ _ ?_ _ (by assumption)) | (dsimp only) | split | (intro _)))

theorem wf_isyncSplit (s : State) (c : Nat) (ws : List (Nat × Nat × Nat)) (h_s : Memory.wf s.ms.mem = true) :
    ∀ t, (isyncSplit s c ws) = some t → Memory.wf t.mem = true := by
  intro t ht
  unfold isyncSplit at ht
  refine wf_foldl_optM (fun o a h => ?_) _ (wf_someM h_s) t ht
  cases o with
  | none => exact fun _ h => nomatch h
  | some m' => exact wf_splitSet _ _ _ (h m' rfl)

theorem wf_isyncRange (s : State) (c : Nat) (all : Bool) (lo hi : Nat) (ws : List (Nat × Nat × Nat)) (h_s : Memory.wf s.ms.mem = true) :
    Memory.wf (isyncRange s c all lo hi ws).ms.mem = true := by
  unfold isyncRange
  (repeat' (first | (with_reducible assumption) | (with_reducible refine wf_modComb _ _ _ ?_) | (with_reducible refine wf_combDrop _ _ _ ?_) | (with_reducible refine wf_foldl (fun s a h => ?_) _ ?_) | (with_reducible refine wf_foldlM (fun s a h => ?_) _ ?_) | (dsimp only) | split | (intro _)))

theorem wf_performCopy (s : State) (c : Nat) (try_ : Bool) (mode : CopyMode) (desc : Lanes) (d : RegDest) (later : Nat) (h_s : Memory.wf s.ms.mem = true) :
    Memory.wf (performCopy s c try_ mode desc d later).ms.mem = true := by
  unfold performCopy
  (repeat' (first | (with_reducible assumption) | (with_reducible refine wf_setDest _ _ _ _ ?_) | (with_reducible refine wf_bumpSeq _ ?_) | (with_reducible refine wf_modCtx _ _ _ ?_) | (with_reducible refine wf_addHeld _ _ _ _ ?_) | (dsimp only) | split | (intro _)))

theorem wf_performBatch (s : State) (c : Nat) (d : RegDest) (h_s : Memory.wf s.ms.mem = true) :
    Memory.wf (performBatch s c d).ms.mem = true := by
  unfold performBatch
  (repeat' (first | (with_reducible assumption) | (with_reducible refine wf_setCtx _ _ _ ?_) | (with_reducible refine wf_setDest _ _ _ _ ?_) | (dsimp only) | split | (intro _)))

theorem wf_performFork (s : State) (c : Nat) (arg : Lanes) (e : W64) (d : RegDest) (h_s : Memory.wf s.ms.mem = true) :
    Memory.wf (performFork s c arg e d).ms.mem = true := by
  unfold performFork
  (repeat' (first | (with_reducible assumption) | (with_reducible refine wf_modLaunch _ _ _ ?_) | (with_reducible refine wf_addHeld _ _ _ _ ?_) | (with_reducible refine wf_pushRelease _ _ _ _ ?_) | (with_reducible refine wf_setDest _ _ _ _ ?_) | (with_reducible refine wf_foldl (fun s a h => ?_) _ ?_) | (with_reducible refine wf_foldlM (fun s a h => ?_) _ ?_) | (dsimp only) | split | (intro _)))

theorem wf_performBar (s : State) (c ch : Nat) (mode : BarMode) (count : Nat) (h_s : Memory.wf s.ms.mem = true) :
    Memory.wf (performBar s c ch mode count).ms.mem = true := by
  unfold performBar
  (repeat' (first | (with_reducible assumption) | (with_reducible refine wf_addHeld _ _ _ _ ?_) | (with_reducible refine wf_pushRelease _ _ _ _ ?_) | (with_reducible refine wf_modCtx _ _ _ ?_) | (dsimp only) | split | (intro _)))

theorem wf_performStore (s : State) (c : Nat) (b : Block) (lsid : Nat) (r : StoreRec) (h_s : Memory.wf s.ms.mem = true) :
    ∀ t, (performStore s c b lsid r) = some t → Memory.wf t.ms.mem = true := by
  intro t ht
  unfold performStore at ht
  (try dsimp only at ht)
  (repeat' (first | split at ht | (rw [Option.map_eq_some_iff] at ht; obtain ⟨_, _, rfl⟩ := ht))) <;> (try contradiction) <;> (try (injection ht with ht; first | subst ht | (injection ht with ha ht; subst ht))) <;> (repeat' (first | (with_reducible assumption) | (with_reducible refine wf_performPieces _ _ _ _ _ _ _ ?_ _ (by assumption)) | (with_reducible refine wf_pushRelease _ _ _ _ ?_) | (with_reducible refine wf_performAtomic _ _ _ _ ?_) | (with_reducible refine wf_discardYounger _ _ _ ?_) | (with_reducible refine wf_isyncRange _ _ _ _ _ _ ?_) | (with_reducible refine wf_bumpSeq _ ?_) | (with_reducible refine wf_claimAll _ _ _ _ _ ?_ _ (by assumption)) | (with_reducible refine wf_isyncSplit _ _ _ ?_ _ (by assumption)) | (with_reducible refine wf_performCopy _ _ _ _ _ _ _ ?_) | (with_reducible refine wf_performBatch _ _ _ ?_) | (with_reducible refine wf_performFork _ _ _ _ _ ?_) | (with_reducible refine wf_performBar _ _ _ _ _ ?_) | (with_reducible refine wf_foldl (fun s a h => ?_) _ ?_) | (with_reducible refine wf_foldlM (fun s a h => ?_) _ ?_) | (dsimp only) | split | (intro _)))

theorem wf_performStores (s : State) (c : Nat) (b : Block) (e0 : List (Nat × StoreRec)) (h_s : Memory.wf s.ms.mem = true) :
    ∀ t, (performStores s c b e0) = some t → Memory.wf t.ms.mem = true := by
  induction e0 generalizing s c b with
  | nil =>
    intro t ht
    unfold performStores at ht
    (try dsimp only at ht)
    (repeat' (first | split at ht)) <;> (try contradiction) <;> (try (injection ht with ht; first | subst ht | (injection ht with ha ht; subst ht))) <;> (repeat' (first | (with_reducible assumption) | (with_reducible refine wf_performStore _ _ _ _ _ ?_ _ (by assumption)) | (with_reducible refine wf_foldl (fun s a h => ?_) _ ?_) | (with_reducible refine wf_foldlM (fun s a h => ?_) _ ?_) | (dsimp only) | split | (intro _)))
  | cons a l ih =>
    intro t ht
    unfold performStores at ht
    (try dsimp only at ht)
    (repeat' (first | split at ht)) <;> (try contradiction) <;> (try (injection ht with ht; first | subst ht | (injection ht with ha ht; subst ht))) <;> (repeat' (first | (with_reducible refine ih _ _ _ ?_ _ (by assumption)) | (with_reducible assumption) | (with_reducible refine wf_performStore _ _ _ _ _ ?_ _ (by assumption)) | (with_reducible refine wf_foldl (fun s a h => ?_) _ ?_) | (with_reducible refine wf_foldlM (fun s a h => ?_) _ ?_) | (dsimp only) | split | (intro _)))

theorem wf_applyTiles (s : State) (c : Nat) (b : Block) (h_s : Memory.wf s.ms.mem = true) :
    Memory.wf (applyTiles s c b).ms.mem = true := by
  unfold applyTiles
  (repeat' (first | (with_reducible assumption) | (with_reducible refine wf_foldl (fun s a h => ?_) _ ?_) | (with_reducible refine wf_foldlM (fun s a h => ?_) _ ?_) | (dsimp only) | split | (intro _)))

theorem wf_applyComposition (s : State) (c : Nat) (b : Block) (h_s : Memory.wf s.ms.mem = true) :
    Memory.wf (applyComposition s c b).ms.mem = true := by
  unfold applyComposition
  (repeat' (first | (with_reducible assumption) | (with_reducible refine wf_shrinkTo _ _ _ ?_) | (with_reducible refine wf_discardFrom _ _ _ ?_) | (with_reducible refine wf_modCtx _ _ _ ?_) | (dsimp only) | split | (intro _)))

theorem wf_applyPreempt (s : State) (c : Nat) (h_s : Memory.wf s.ms.mem = true) :
    Memory.wf (applyPreempt s c).ms.mem = true := by
  unfold applyPreempt
  (repeat' (first | (with_reducible assumption) | (with_reducible refine wf_setCtx _ _ _ ?_) | (with_reducible refine wf_stopForSave _ _ _ ?_) | (dsimp only) | split | (intro _)))

theorem wf_endCommit (s : State) (c : Nat) (b : Block) (h_s : Memory.wf s.ms.mem = true) :
    Memory.wf (endCommit s c b).ms.mem = true := by
  unfold endCommit
  (repeat' (first | (with_reducible assumption) | (with_reducible refine wf_discardFrom _ _ _ ?_) | (with_reducible refine wf_departMember _ _ ?_) | (with_reducible refine wf_beginRetire _ _ ?_) | (with_reducible refine wf_applyComposition _ _ _ ?_) | (with_reducible refine wf_modCtx _ _ _ ?_) | (with_reducible refine wf_pumpCtx _ _ ?_) | (with_reducible refine wf_applyPreempt _ _ ?_) | (dsimp only) | split | (intro _)))

theorem wf_stall (s : State) (c : Nat) (x : Ctx) (b : Block) (h_s : Memory.wf s.ms.mem = true) :
    Memory.wf (stall s c x b).ms.mem = true := by
  unfold stall
  (repeat' (first | (with_reducible assumption) | (with_reducible refine wf_setCtx _ _ _ ?_) | (with_reducible refine wf_bumpSeq _ ?_) | (dsimp only) | split | (intro _)))

theorem wf_pinXlat (s : State) (l : List (Nat × TlbEntry)) (h_s : Memory.wf s.ms.mem = true) :
    Memory.wf (pinXlat s l).ms.mem = true := by
  unfold pinXlat
  (repeat' (first | (with_reducible assumption) | (with_reducible refine wf_modComb _ _ _ ?_) | (with_reducible refine wf_foldl (fun s a h => ?_) _ ?_) | (with_reducible refine wf_foldlM (fun s a h => ?_) _ ?_) | (dsimp only) | split | (intro _)))

theorem wf_unpinXlat (s : State) (l : List (Nat × TlbEntry)) (h_s : Memory.wf s.ms.mem = true) :
    Memory.wf (unpinXlat s l).ms.mem = true := by
  unfold unpinXlat
  (repeat' (first | (with_reducible assumption) | (with_reducible refine wf_modComb _ _ _ ?_) | (with_reducible refine wf_foldl (fun s a h => ?_) _ ?_) | (with_reducible refine wf_foldlM (fun s a h => ?_) _ ?_) | (dsimp only) | split | (intro _)))

theorem wf_commitPoint (s : State) (c : Nat) (b : Block) (idx : Nat) (e : ExitTo) (h_s : Memory.wf s.ms.mem = true) :
    ∀ t, (commitPoint s c b idx e) = some t → Memory.wf t.ms.mem = true := by
  intro t ht
  unfold commitPoint at ht
  (try dsimp only at ht)
  (repeat' (first | split at ht | (rw [Option.map_eq_some_iff] at ht; obtain ⟨_, _, rfl⟩ := ht))) <;> (try contradiction) <;> (try (injection ht with ht; first | subst ht | (injection ht with ha ht; subst ht))) <;> (repeat' (first | (with_reducible assumption) | (with_reducible refine wf_modCtx _ _ _ ?_) | (with_reducible refine wf_pinXlat _ _ ?_) | (with_reducible refine wf_performStores _ _ _ _ ?_ _ (by assumption)) | (with_reducible refine wf_applyTiles _ _ _ ?_) | (with_reducible refine wf_unpinXlat _ _ ?_) | (with_reducible refine wf_markBound _ _ ?_) | (with_reducible refine wf_endCommit _ _ _ ?_) | (with_reducible refine wf_getD ?_ ?_) | (with_reducible refine wf_getDM ?_ ?_) | (with_reducible refine wf_foldl (fun s a h => ?_) _ ?_) | (with_reducible refine wf_foldlM (fun s a h => ?_) _ ?_) | (dsimp only) | split | (intro _)))

theorem wf_commitChecked (s : State) (c : Nat) (x : Ctx) (b : Block) (e : Nat × ExitTo) (h_s : Memory.wf s.ms.mem = true) :
    Memory.wf (commitChecked s c x b e).ms.mem = true := by
  unfold commitChecked
  (repeat' (first | (with_reducible assumption) | (with_reducible refine wf_stall _ _ _ _ ?_) | (with_reducible refine wf_commitPoint _ _ _ _ _ ?_ _ (by assumption)) | (dsimp only) | split | (intro _)))

theorem wf_commitBlock (s : State) (c : Nat) (x : Ctx) (b : Block) (h_s : Memory.wf s.ms.mem = true) :
    Memory.wf (commitBlock s c x b).ms.mem = true := by
  unfold commitBlock
  (repeat' (first | (with_reducible assumption) | (with_reducible refine wf_takeTrap _ _ _ _ _ _ ?_) | (with_reducible refine wf_commitChecked _ _ _ _ _ ?_) | (with_reducible refine wf_setCtx _ _ _ ?_) | (with_reducible refine wf_spillRecord _ _ _ ?_) | (dsimp only) | split | (intro _)))

/-! ## Sched -/

theorem wf_runPolicy (s : State) (p kind : Nat) (waitq : Option Nat) (fv : Option FaultView) (h_s : Memory.wf s.ms.mem = true) :
    Memory.wf (runPolicy s p kind waitq fv).2.ms.mem = true := by
  unfold runPolicy
  (repeat' (first | (with_reducible assumption) | (with_reducible refine wf_modPart _ _ _ ?_) | (dsimp only) | split | (intro _)))

theorem wf_popDecision (s : State) (p : Nat) (h_s : Memory.wf s.ms.mem = true) :
    Memory.wf (popDecision s p).ms.mem = true := by
  unfold popDecision
  (repeat' (first | (with_reducible assumption) | (with_reducible refine wf_modPart _ _ _ ?_) | (dsimp only) | split | (intro _)))

theorem wf_placeSaved (s : State) (launch r : Nat) (room : Nat × SMap (Nat × Nat) × Nat) (h_s : Memory.wf s.ms.mem = true) :
    Memory.wf (placeSaved s launch r room).ms.mem = true := by
  unfold placeSaved
  (repeat' (first | (with_reducible assumption) | (with_reducible refine wf_recordFails _ _ ?_ _ (by assumption)) | (with_reducible refine wf_killSaved _ _ ?_) | (with_reducible refine wf_dropSave _ _ ?_) | (with_reducible refine wf_modLaunch _ _ _ ?_) | (with_reducible refine wf_restoreTask _ _ _ ?_) | (with_reducible refine wf_beginPlacement _ _ _ _ _ _ _ ?_) | (with_reducible refine wf_journalPlaced _ _ ?_) | (dsimp only) | split | (intro _)))

theorem wf_placeChild (s : State) (launch : Nat) (c : Child) (room : Nat × SMap (Nat × Nat) × Nat) (h_s : Memory.wf s.ms.mem = true) :
    Memory.wf (placeChild s launch c room).ms.mem = true := by
  unfold placeChild
  (repeat' (first | (with_reducible assumption) | (with_reducible refine wf_modLaunch _ _ _ ?_) | (with_reducible refine wf_startChild _ _ _ ?_) | (with_reducible refine wf_beginPlacement _ _ _ _ _ _ _ ?_) | (with_reducible refine wf_journalPlaced _ _ ?_) | (dsimp only) | split | (intro _)))

theorem wf_placeItem (s : State) (launch : Nat) (i : Item) (room : Nat × SMap (Nat × Nat) × Nat) (h_s : Memory.wf s.ms.mem = true) :
    Memory.wf (placeItem s launch i room).ms.mem = true := by
  unfold placeItem
  (repeat' (first | (with_reducible assumption) | (with_reducible refine wf_placeSaved _ _ _ _ ?_) | (with_reducible refine wf_placeTile _ _ _ _ ?_) | (with_reducible refine wf_journalPlaced _ _ ?_) | (with_reducible refine wf_placeChild _ _ _ _ ?_) | (with_reducible refine wf_modLaunch _ _ _ ?_) | (with_reducible refine wf_takeSpilled _ _ _ ?_) | (dsimp only) | split | (intro _)))

theorem wf_placeIn (s : State) (launch : Nat) (i : Item) (frames : List Nat) (h_s : Memory.wf s.ms.mem = true) :
    ∀ t, (placeIn s launch i frames) = some t → Memory.wf t.ms.mem = true := by
  intro t ht
  unfold placeIn at ht
  (try dsimp only at ht)
  (repeat' (first | split at ht | (rw [Option.map_eq_some_iff] at ht; obtain ⟨_, _, rfl⟩ := ht))) <;> (try contradiction) <;> (try (injection ht with ht; first | subst ht | (injection ht with ha ht; subst ht))) <;> (repeat' (first | (with_reducible assumption) | (with_reducible refine wf_placeItem _ _ _ _ ?_) | (dsimp only) | split | (intro _)))

theorem wf_placeAll (launch : Nat) (frames : List Nat) (e0 : List Item) (e1 : State) (h_e1 : Memory.wf e1.ms.mem = true) :
    ∀ t, (placeAll launch frames e0 e1) = some t → Memory.wf t.ms.mem = true := by
  induction e0 generalizing launch frames e1 with
  | nil =>
    intro t ht
    unfold placeAll at ht
    (try dsimp only at ht)
    (repeat' (first | split at ht)) <;> (try contradiction) <;> (try (injection ht with ht; first | subst ht | (injection ht with ha ht; subst ht))) <;> (repeat' (first | (with_reducible assumption) | (with_reducible refine wf_placeIn _ _ _ _ ?_ _ (by assumption)) | (dsimp only) | split | (intro _)))
  | cons a l ih =>
    intro t ht
    unfold placeAll at ht
    (try dsimp only at ht)
    (repeat' (first | split at ht)) <;> (try contradiction) <;> (try (injection ht with ht; first | subst ht | (injection ht with ha ht; subst ht))) <;> (repeat' (first | (with_reducible refine ih _ _ _ ?_ _ (by assumption)) | (with_reducible assumption) | (with_reducible refine wf_placeIn _ _ _ _ ?_ _ (by assumption)) | (dsimp only) | split | (intro _)))

theorem wf_fillFrame (launch f e0 : Nat) (e1 : State) (h_e1 : Memory.wf e1.ms.mem = true) :
    Memory.wf (fillFrame launch f e0 e1).ms.mem = true := by
  induction e0 generalizing launch f e1 with
  | zero =>
    unfold fillFrame
    (repeat' (first | (with_reducible assumption) | (with_reducible refine wf_placeIn _ _ _ _ ?_ _ (by assumption)) | (dsimp only) | split | (intro _)))
  | succ n ih =>
    unfold fillFrame
    (repeat' (first | (with_reducible refine ih _ _ _ ?_) | (with_reducible assumption) | (with_reducible refine wf_placeIn _ _ _ _ ?_ _ (by assumption)) | (dsimp only) | split | (intro _)))

theorem wf_endReservation (s : State) (launch : Nat) (h_s : Memory.wf s.ms.mem = true) :
    Memory.wf (endReservation s launch).ms.mem = true := by
  unfold endReservation
  (repeat' (first | (with_reducible assumption) | (with_reducible refine wf_modPart _ _ _ ?_) | (dsimp only) | split | (intro _)))

theorem wf_placeLaunch (s : State) (launch f : Nat) (others : List Nat) (h_s : Memory.wf s.ms.mem = true) :
    ∀ t, (placeLaunch s launch f others) = some t → Memory.wf t.ms.mem = true := by
  intro t ht
  unfold placeLaunch at ht
  dsimp only at ht
  rw [Option.map_eq_some_iff] at ht
  obtain ⟨s1, h1, rfl⟩ := ht
  refine wf_endReservation _ _ ?_
  split at h1
  · split at h1
    · cases h1
    · rw [Option.map_eq_some_iff] at h1
      obtain ⟨s2, h2, rfl⟩ := h1
      exact wf_fillFrame _ _ _ _ (wf_placeAll _ _ _ _ h_s _ h2)
  · split at h1
    · cases h1
    · rw [Option.map_eq_some_iff] at h1
      obtain ⟨s2, h2, rfl⟩ := h1
      exact wf_fillFrame _ _ _ _ (wf_placeIn _ _ _ _ h_s _ h2)

theorem wf_placeDefault (s : State) (p launch : Nat) (h_s : Memory.wf s.ms.mem = true) :
    ∀ t, (placeDefault s p launch) = some t → Memory.wf t.ms.mem = true := by
  intro t ht
  obtain ⟨f, -, hf⟩ := List.exists_of_findSome?_eq_some ht
  exact wf_placeLaunch _ _ _ _ h_s _ hf

theorem wf_applyDispatch (s : State) (p : Nat) (e : WagEnd) (h_s : Memory.wf s.ms.mem = true) :
    (∀ t, (applyDispatch s p e).1 = some t → Memory.wf t.ms.mem = true) ∧ Memory.wf (applyDispatch s p e).2.ms.mem = true := by
  have dflt : ∀ (s : State), Memory.wf s.ms.mem = true → ∀ t, (match defaultHead s p with | some h => placeDefault s p h.2 | none => none) = some t → Memory.wf t.ms.mem = true := by
    intro s h t ht
    split at ht
    · exact wf_placeDefault _ _ _ h _ ht
    · cases ht
  have key : ∀ o : Option State, (∀ t, o = some t → Memory.wf t.ms.mem = true) → ∀ x : Option State × State, (x = match o with | some s' => (some s', s) | none => (match defaultHead (modPart s p (fun x => { x with inv := true })) p with | some h => placeDefault (modPart s p (fun x => { x with inv := true })) p h.2 | none => none, modPart s p (fun x => { x with inv := true }))) → (∀ t, x.1 = some t → Memory.wf t.ms.mem = true) ∧ Memory.wf x.2.ms.mem = true := by
    intro o ho x hx
    subst hx
    have h1 := wf_modPart s p (fun x => { x with inv := true }) h_s
    cases o with
    | none => exact ⟨dflt _ h1, h1⟩
    | some s' => exact ⟨fun t ht => by
        simp only [Option.some.injEq] at ht
        subst ht
        exact ho _ rfl, h_s⟩
  cases e with
  | defer => exact ⟨fun t ht => (by simp only [applyDispatch] at ht; cases ht), h_s⟩
  | pick q f =>
    refine key _ (fun t ht => ?_) _ rfl
    split at ht
    · rw [Option.bind_eq_some_iff] at ht
      obtain ⟨l, -, hl⟩ := ht
      exact wf_placeLaunch _ _ _ _ h_s _ hl
    · cases ht
  | _ => exact ⟨dflt s h_s, h_s⟩

theorem wf_withoutResidents (s : State) (frames : List Nat) (h_s : Memory.wf s.ms.mem = true) :
    Memory.wf (withoutResidents s frames).ms.mem = true := by
  unfold withoutResidents
  (repeat' (first | (with_reducible assumption) | (dsimp only) | split | (intro _)))

theorem wf_withoutAny (s : State) (frames : List Nat) (h_s : Memory.wf s.ms.mem = true) :
    Memory.wf (withoutAny s frames).ms.mem = true := by
  unfold withoutAny
  (repeat' (first | (with_reducible assumption) | (dsimp only) | split | (intro _)))

theorem wf_beginReservation (s : State) (p launch : Nat) (h_s : Memory.wf s.ms.mem = true) :
    Memory.wf (beginReservation s p launch).ms.mem = true := by
  unfold beginReservation
  (repeat' (first | (with_reducible assumption) | (with_reducible refine wf_modPart _ _ _ ?_) | (dsimp only) | split | (intro _)))

theorem wf_reservedPlace (s : State) (p : Nat) (r : Reservation) (h_s : Memory.wf s.ms.mem = true) :
    ∀ t, (reservedPlace s p r) = some t → Memory.wf t.ms.mem = true := by
  intro t ht
  obtain ⟨f, -, hf⟩ := List.exists_of_findSome?_eq_some ht
  exact wf_placeLaunch _ _ _ _ h_s _ hf

theorem wf_reviseReservation (s : State) (p : Nat) (h_s : Memory.wf s.ms.mem = true) :
    Memory.wf (reviseReservation s p).ms.mem = true := by
  unfold reviseReservation
  (repeat' (first | (with_reducible assumption) | (with_reducible refine wf_modPart _ _ _ ?_) | (dsimp only) | split | (intro _)))

theorem wf_tryReserved (s : State) (p : Nat) (h_s : Memory.wf s.ms.mem = true) :
    Memory.wf (tryReserved s p).ms.mem = true := by
  unfold tryReserved
  split
  · exact h_s
  · split
    · exact wf_modPart _ _ _ h_s
    · exact wf_getD (wf_reservedPlace _ _ _ h_s) h_s

theorem wf_floorCheck (s : State) (p : Nat) (h_s : Memory.wf s.ms.mem = true) :
    Memory.wf (floorCheck s p).ms.mem = true := by
  unfold floorCheck
  (repeat' (first | (with_reducible assumption) | (with_reducible refine wf_placeDefault _ _ _ ?_ _ (by assumption)) | (with_reducible refine wf_beginReservation _ _ _ ?_) | (with_reducible refine wf_getD ?_ ?_) | (with_reducible refine wf_getDM ?_ ?_) | (dsimp only) | split | (intro _)))

theorem wf_preemptCheck (s : State) (p : Nat) (h_s : Memory.wf s.ms.mem = true) :
    Memory.wf (preemptCheck s p).ms.mem = true := by
  unfold preemptCheck
  (repeat' (first | (with_reducible assumption) | (with_reducible refine wf_requestDecision _ _ _ ?_) | (with_reducible refine wf_modQueue _ _ _ _ ?_) | (with_reducible refine wf_foldl (fun s a h => ?_) _ ?_) | (with_reducible refine wf_foldlM (fun s a h => ?_) _ ?_) | (dsimp only) | split | (intro _)))

theorem wf_gangCheck (s : State) (p : Nat) (h_s : Memory.wf s.ms.mem = true) :
    Memory.wf (gangCheck s p).ms.mem = true := by
  unfold gangCheck
  (repeat' (first | (with_reducible assumption) | (with_reducible refine wf_placeDefault _ _ _ ?_ _ (by assumption)) | (with_reducible refine wf_beginReservation _ _ _ ?_) | (with_reducible refine wf_getD ?_ ?_) | (with_reducible refine wf_getDM ?_ ?_) | (dsimp only) | split | (intro _)))

theorem wf_relocateComb (s : State) (comb keep : Nat) (h_s : Memory.wf s.ms.mem = true) :
    Memory.wf (relocateComb s comb keep).ms.mem = true := by
  unfold relocateComb
  (repeat' (first | (with_reducible assumption) | (with_reducible refine wf_modComb _ _ _ ?_) | (with_reducible refine wf_modLaunch _ _ _ ?_) | (with_reducible refine wf_restDeque _ _ ?_) | (with_reducible refine wf_foldl (fun s a h => ?_) _ ?_) | (with_reducible refine wf_foldlM (fun s a h => ?_) _ ?_) | (dsimp only) | split | (intro _)))

theorem wf_compactFrames (s : State) (p : Nat) (r : Reservation) (h_s : Memory.wf s.ms.mem = true) :
    Memory.wf (compactFrames s p r).ms.mem = true := by
  unfold compactFrames
  (repeat' (first | (with_reducible assumption) | (with_reducible refine wf_modPart _ _ _ ?_) | (with_reducible refine wf_requestPreempt _ _ _ ?_) | (with_reducible refine wf_relocateComb _ _ _ ?_) | (with_reducible refine wf_requestDispatch _ _ ?_) | (with_reducible refine wf_foldl (fun s a h => ?_) _ ?_) | (with_reducible refine wf_foldlM (fun s a h => ?_) _ ?_) | (dsimp only) | split | (intro _)))

theorem wf_parkCtx (s : State) (c : Nat) (h_s : Memory.wf s.ms.mem = true) :
    Memory.wf (parkCtx s c).ms.mem = true := by
  unfold parkCtx
  (repeat' (first | (with_reducible assumption) | (with_reducible refine wf_taskRecord _ _ _ _ ?_) | (with_reducible refine wf_modCtx _ _ _ ?_) | (with_reducible refine wf_stopForSave _ _ _ ?_) | (dsimp only) | split | (intro _)))

theorem wf_deliverTrap (s : State) (c : Nat) (h_s : Memory.wf s.ms.mem = true) :
    Memory.wf (deliverTrap s c).ms.mem = true := by
  unfold deliverTrap
  (repeat' (first | (with_reducible assumption) | (with_reducible refine wf_parkCtx _ _ ?_) | (with_reducible refine wf_markBound _ _ ?_) | (with_reducible refine wf_setCtx _ _ _ ?_) | (dsimp only) | split | (intro _)))

theorem wf_retryTask (s : State) (c : Nat) (h_s : Memory.wf s.ms.mem = true) :
    Memory.wf (retryTask s c).ms.mem = true := by
  unfold retryTask
  (repeat' (first | (with_reducible assumption) | (with_reducible refine wf_parkCtx _ _ ?_) | (with_reducible refine wf_setCtx _ _ _ ?_) | (with_reducible refine wf_markBound _ _ ?_) | (dsimp only) | split | (intro _)))

theorem wf_applyAction (s : State) (c k : Nat) (dbl : Bool) (h_s : Memory.wf s.ms.mem = true) :
    Memory.wf (applyAction s c k dbl).ms.mem = true := by
  unfold applyAction
  (repeat' (first | (with_reducible assumption) | (with_reducible refine wf_taskRecord _ _ _ _ ?_) | (with_reducible refine wf_modCtx _ _ _ ?_) | (with_reducible refine wf_pumpAll _ ?_) | (with_reducible refine wf_killTask _ _ ?_) | (with_reducible refine wf_killLaunch _ _ ?_) | (with_reducible refine wf_deliverTrap _ _ ?_) | (with_reducible refine wf_retryTask _ _ ?_) | (with_reducible refine wf_parkCtx _ _ ?_) | (dsimp only) | split | (intro _)))

theorem wf_runOn (s : State) (c : Nat) (h_s : Memory.wf s.ms.mem = true) :
    Memory.wf (runOn s c).ms.mem = true := by
  unfold runOn
  (repeat' (first | (with_reducible assumption) | (with_reducible refine wf_markBound _ _ ?_) | (with_reducible refine wf_modCtx _ _ _ ?_) | (with_reducible refine wf_freePool _ _ ?_) | (dsimp only) | split | (intro _)))

theorem wf_putRecord (s : State) (part va units : Nat) (v : Saved) (h_s : Memory.wf s.ms.mem = true) :
    Memory.wf (putRecord s part va units v).2.ms.mem = true := by
  unfold putRecord
  (repeat' (first | (with_reducible assumption) | (with_reducible refine wf_devWriteWords _ _ _ _ ?_ _ (by assumption)) | (dsimp only) | split | (intro _)))

theorem wf_finishPreempt (s : State) (c : Nat) (x : Ctx) (t : Task) (full : Bool) (run : Nat × Nat) (h_s : Memory.wf s.ms.mem = true) :
    Memory.wf (finishPreempt s c x t full run).ms.mem = true := by
  unfold finishPreempt
  (repeat' (first | (with_reducible assumption) | (with_reducible refine wf_deviceFault _ _ _ _ _ ?_) | (with_reducible refine wf_pumpAll _ ?_) | (with_reducible refine wf_killTask _ _ ?_) | (with_reducible refine wf_runOn _ _ ?_) | (with_reducible refine wf_modPart _ _ _ ?_) | (with_reducible refine wf_putRecord _ _ _ _ _ ?_) | (with_reducible refine wf_bumpSeq _ ?_) | (with_reducible refine wf_modLaunch _ _ _ ?_) | (with_reducible refine wf_freeCtx _ _ ?_) | (with_reducible refine wf_requestDispatch _ _ ?_) | (dsimp only) | split | (intro _)))

theorem wf_finishAside (s : State) (c : Nat) (t : Task) (full : Bool) (run : Nat × Nat) (h_s : Memory.wf s.ms.mem = true) :
    Memory.wf (finishAside s c t full run).ms.mem = true := by
  unfold finishAside
  (repeat' (first | (with_reducible assumption) | (with_reducible refine wf_takeBottom _ _ _ _ ?_) | (with_reducible refine wf_putRecord _ _ _ _ _ ?_) | (with_reducible refine wf_bumpSeq _ ?_) | (with_reducible refine wf_modCtx _ _ _ ?_) | (with_reducible refine wf_startChild _ _ _ ?_) | (with_reducible refine wf_runOn _ _ ?_) | (dsimp only) | split | (intro _)))

theorem wf_settleFrames (s : State) (p : Nat) (h_s : Memory.wf s.ms.mem = true) :
    Memory.wf (settleFrames s p).ms.mem = true := by
  unfold settleFrames
  (repeat' (first | (with_reducible assumption) | (with_reducible refine wf_modPart _ _ _ ?_) | (dsimp only) | split | (intro _)))

theorem wf_scrubComb (s : State) (comb : Nat) (h_s : Memory.wf s.ms.mem = true) :
    Memory.wf (scrubComb s comb).ms.mem = true := by
  unfold scrubComb
  (repeat' (first | (with_reducible assumption) | (with_reducible refine wf_flushComb _ _ ?_) | (with_reducible refine wf_memClear ?_ _ _) | (with_reducible refine wf_filter ?_ _) | (dsimp only) | split | (intro _)))

theorem wf_moveOut (s : State) (comb : Nat) (e : Child) (h_s : Memory.wf s.ms.mem = true) :
    Memory.wf (moveOut s comb e).ms.mem = true := by
  unfold moveOut
  (repeat' (first | (with_reducible assumption) | (with_reducible refine wf_modLaunch _ _ _ ?_) | (with_reducible refine wf_spillEntry _ _ _ _ _ ?_) | (with_reducible refine wf_deviceFault _ _ _ _ _ ?_) | (dsimp only) | split | (intro _)))

theorem wf_emptyDeque (s : State) (comb : Nat) (h_s : Memory.wf s.ms.mem = true) :
    Memory.wf (emptyDeque s comb).ms.mem = true := by
  unfold emptyDeque
  (repeat' (first | (with_reducible assumption) | (with_reducible refine wf_modComb _ _ _ ?_) | (with_reducible refine wf_moveOut _ _ _ ?_) | (with_reducible refine wf_foldl (fun s a h => ?_) _ ?_) | (with_reducible refine wf_foldlM (fun s a h => ?_) _ ?_) | (dsimp only) | split | (intro _)))

theorem wf_scrubFrame (s : State) (f : Nat) (h_s : Memory.wf s.ms.mem = true) :
    Memory.wf (scrubFrame s f).ms.mem = true := by
  unfold scrubFrame
  (repeat' (first | (with_reducible assumption) | (with_reducible refine wf_scrubComb _ _ ?_) | (with_reducible refine wf_emptyDeque _ _ ?_) | (with_reducible refine wf_foldl (fun s a h => ?_) _ ?_) | (with_reducible refine wf_foldlM (fun s a h => ?_) _ ?_) | (dsimp only) | split | (intro _)))

/-! ## Queues -/

theorem wf_endEffect (s : State) (p q idx status : Nat) (h_s : Memory.wf s.ms.mem = true) :
    Memory.wf (endEffect s p q idx status).ms.mem = true := by
  unfold endEffect
  (repeat' (first | (with_reducible assumption) | (with_reducible refine wf_modPkt _ _ _ _ _ ?_) | (dsimp only) | split | (intro _)))

theorem wf_endFailed (s : State) (p q idx status kind : Nat) (cause : BitVec 8) (tval : Nat) (h_s : Memory.wf s.ms.mem = true) :
    Memory.wf (endFailed s p q idx status kind cause tval).ms.mem = true := by
  unfold endFailed
  (repeat' (first | (with_reducible assumption) | (with_reducible refine wf_modPkt _ _ _ _ _ ?_) | (with_reducible refine wf_endEffect _ _ _ _ _ ?_) | (dsimp only) | split | (intro _)))

theorem wf_malformed (s : State) (p q idx kind tval : Nat) (h_s : Memory.wf s.ms.mem = true) :
    Memory.wf (malformed s p q idx kind tval).ms.mem = true := by
  unfold malformed
  (repeat' (first | (with_reducible assumption) | (with_reducible refine wf_endFailed _ _ _ _ _ _ _ _ ?_) | (dsimp only) | split | (intro _)))

theorem wf_pkFault (s : State) (p q idx : Nat) (e : BitVec 8 × Nat) (h_s : Memory.wf s.ms.mem = true) :
    Memory.wf (pkFault s p q idx e).ms.mem = true := by
  unfold pkFault
  (repeat' (first | (with_reducible assumption) | (with_reducible refine wf_endEffect _ _ _ _ _ ?_) | (with_reducible refine wf_deviceFault _ _ _ _ _ ?_) | (dsimp only) | split | (intro _)))

theorem wf_stopQueue (s : State) (p q : Nat) (h_s : Memory.wf s.ms.mem = true) :
    Memory.wf (stopQueue s p q).ms.mem = true := by
  unfold stopQueue
  (repeat' (first | (with_reducible assumption) | (with_reducible refine wf_modQueue _ _ _ _ ?_) | (dsimp only) | split | (intro _)))

theorem wf_waitWords (s : State) (n : Nat) (ws : List Nat) (h_s : Memory.wf s.ms.mem = true) :
    ∀ t, (waitWords s n ws) = some t → Memory.wf t.ms.mem = true := by
  intro t ht
  unfold waitWords at ht
  (try dsimp only at ht)
  (repeat' (first | split at ht)) <;> (try contradiction) <;> (try (injection ht with ht; first | subst ht | (injection ht with ha ht; subst ht))) <;> (repeat' (first | (with_reducible assumption) | (with_reducible refine wf_delayFor _ _ _ ?_) | (with_reducible refine wf_snoopWords _ _ ?_) | (dsimp only) | split | (intro _)))

theorem wf_waitHomes (s : State) (p n : Nat) (vas : List Nat) (h_s : Memory.wf s.ms.mem = true) :
    ∀ t, (waitHomes s p n vas) = some t → Memory.wf t.ms.mem = true := by
  intro t ht
  unfold waitHomes at ht
  (try dsimp only at ht)
  (repeat' (first | split at ht)) <;> (try contradiction) <;> (try (injection ht with ht; first | subst ht | (injection ht with ha ht; subst ht))) <;> (repeat' (first | (with_reducible assumption) | (with_reducible refine wf_waitWords _ _ _ ?_ _ (by assumption)) | (dsimp only) | split | (intro _)))

theorem wf_readWaits (s : State) (p n : Nat) (rs : List (Nat × Nat)) (h_s : Memory.wf s.ms.mem = true) :
    ∀ t, (readWaits s p n rs) = some t → Memory.wf t.ms.mem = true := by
  intro t ht
  unfold readWaits at ht
  (try dsimp only at ht)
  (repeat' (first | split at ht | (rw [Option.map_eq_some_iff] at ht; obtain ⟨_, _, rfl⟩ := ht))) <;> (try contradiction) <;> (try (injection ht with ht; first | subst ht | (injection ht with ha ht; subst ht))) <;> (repeat' (first | (with_reducible assumption) | (with_reducible refine wf_undelay _ _ ?_) | (with_reducible refine wf_snoopWords _ _ ?_) | (dsimp only) | split | (intro _)))

theorem wf_timedWait (s w : State) (far asked : Option Nat) (note : State → State) (h_s : Memory.wf s.ms.mem = true) (h_w : Memory.wf w.ms.mem = true) (h_note : ∀ y0, Memory.wf y0.ms.mem = true → Memory.wf (note y0).ms.mem = true) :
    ∀ t, (timedWait s w far asked note) = .ok t → Memory.wf t.ms.mem = true := by
  intro t ht
  unfold timedWait at ht
  (try dsimp only at ht)
  (repeat' (first | split at ht)) <;> (try contradiction) <;> (try (injection ht with ht; first | subst ht | (injection ht with ha ht; subst ht))) <;> (repeat' (first | (with_reducible assumption) | (with_reducible refine h_note _ ?_) | (dsimp only) | split | (intro _)))

theorem wf_seenAll (s : State) (p : Nat) (rs : List (Nat × Nat)) (h_s : Memory.wf s.ms.mem = true) :
    Memory.wf (seenAll s p rs).ms.mem = true := by
  unfold seenAll
  (repeat' (first | (with_reducible assumption) | (with_reducible refine wf_devSeen _ _ _ _ ?_) | (with_reducible refine wf_foldl (fun s a h => ?_) _ ?_) | (with_reducible refine wf_foldlM (fun s a h => ?_) _ ?_) | (dsimp only) | split | (intro _)))

theorem wf_devPut (s : State) (p va n d : Nat) (h_s : Memory.wf s.ms.mem = true) :
    ∀ t, (devPut s p va n d) = .ok t → Memory.wf t.ms.mem = true := by
  intro t ht
  unfold devPut at ht
  (try dsimp only at ht)
  (repeat' (first | split at ht)) <;> (try contradiction) <;> (try (injection ht with ht; first | subst ht | (injection ht with ha ht; subst ht))) <;> (repeat' (first | (with_reducible assumption) | (with_reducible refine wf_devWrite _ _ _ _ _ ?_ _ (by assumption)) | (with_reducible refine wf_watchScan _ _ ?_) | (dsimp only) | split | (intro _)))

theorem wf_startLaunch (s : State) (p q idx : Nat) (ws : List W64) (h_s : Memory.wf s.ms.mem = true) :
    Memory.wf (startLaunch s p q idx ws).ms.mem = true := by
  unfold startLaunch
  (repeat' (first | (with_reducible assumption) | (with_reducible refine wf_pkFault _ _ _ _ _ ?_) | (with_reducible refine wf_malformed _ _ _ _ _ _ ?_) | (with_reducible refine wf_bumpSeq _ ?_) | (with_reducible refine wf_requestDispatch _ _ ?_) | (with_reducible refine wf_launchCheck _ _ ?_) | (with_reducible refine wf_foldl (fun s a h => ?_) _ ?_) | (with_reducible refine wf_foldlM (fun s a h => ?_) _ ?_) | (dsimp only) | split | (intro _)))

theorem wf_endDepwait (s : State) (p q idx status : Nat) (h_s : Memory.wf s.ms.mem = true) :
    Memory.wf (endDepwait s p q idx status).ms.mem = true := by
  unfold endDepwait
  (repeat' (first | (with_reducible assumption) | (with_reducible refine wf_modQueue _ _ _ _ ?_) | (with_reducible refine wf_endEffect _ _ _ _ _ ?_) | (dsimp only) | split | (intro _)))

theorem wf_readCounter (s : State) (p q idx : Nat) (ws : List W64) (h_s : Memory.wf s.ms.mem = true) :
    Memory.wf (readCounter s p q idx ws).ms.mem = true := by
  unfold readCounter
  (repeat' (first | (with_reducible assumption) | (with_reducible refine wf_stopQueue _ _ _ ?_) | (with_reducible refine wf_endDepwait _ _ _ _ _ ?_) | (with_reducible refine wf_deviceFault _ _ _ _ _ ?_) | (with_reducible refine wf_modPkt _ _ _ _ _ ?_) | (with_reducible refine wf_modQueue _ _ _ _ ?_) | (dsimp only) | split | (intro _)))

theorem wf_decrement (s : State) (p q idx va : Nat) (h_s : Memory.wf s.ms.mem = true) :
    Memory.wf (decrement s p q idx va).ms.mem = true := by
  unfold decrement
  (repeat' (first | (with_reducible assumption) | (with_reducible refine wf_deviceFault _ _ _ _ _ ?_) | (with_reducible refine wf_faultRecord _ _ _ ?_) | (with_reducible refine wf_devPut _ _ _ _ _ ?_ _ (by assumption)) | (with_reducible refine wf_journalAdd _ _ _ _ _ ?_) | (with_reducible refine wf_endDepwait _ _ _ _ _ ?_) | (with_reducible refine wf_foldl (fun s a h => ?_) _ ?_) | (with_reducible refine wf_foldlM (fun s a h => ?_) _ ?_) | (dsimp only) | split | (intro _)))

theorem wf_startSignal (s : State) (p q idx : Nat) (ws : List W64) (h_s : Memory.wf s.ms.mem = true) :
    Memory.wf (startSignal s p q idx ws).ms.mem = true := by
  unfold startSignal
  (repeat' (first | (with_reducible assumption) | (with_reducible refine wf_raiseIrq _ _ _ ?_) | (with_reducible refine wf_endEffect _ _ _ _ _ ?_) | (with_reducible refine wf_devPut _ _ _ _ _ ?_ _ (by assumption)) | (with_reducible refine wf_pkFault _ _ _ _ _ ?_) | (dsimp only) | split | (intro _)))

theorem wf_startMarker (s : State) (p q idx : Nat) (ws : List W64) (h_s : Memory.wf s.ms.mem = true) :
    Memory.wf (startMarker s p q idx ws).ms.mem = true := by
  unfold startMarker
  (repeat' (first | (with_reducible assumption) | (with_reducible refine wf_devPut _ _ _ _ _ ?_ _ (by assumption)) | (with_reducible refine wf_pkFault _ _ _ _ _ ?_) | (with_reducible refine wf_endEffect _ _ _ _ _ ?_) | (dsimp only) | split | (intro _)))

theorem wf_startCopyb (s : State) (p q idx : Nat) (ws : List W64) (h_s : Memory.wf s.ms.mem = true) :
    Memory.wf (startCopyb s p q idx ws).ms.mem = true := by
  unfold startCopyb
  (repeat' (first | (with_reducible assumption) | (with_reducible refine wf_bumpSeq _ ?_) | (with_reducible refine wf_malformed _ _ _ _ _ _ ?_) | (with_reducible refine wf_pkFault _ _ _ _ _ ?_) | (with_reducible refine wf_foldl (fun s a h => ?_) _ ?_) | (with_reducible refine wf_foldlM (fun s a h => ?_) _ ?_) | (dsimp only) | split | (intro _)))

theorem wf_startPolicy (s : State) (p q idx : Nat) (ws : List W64) (h_s : Memory.wf s.ms.mem = true) :
    Memory.wf (startPolicy s p q idx ws).ms.mem = true := by
  unfold startPolicy
  (repeat' (first | (with_reducible assumption) | (with_reducible refine wf_malformed _ _ _ _ _ _ ?_) | (with_reducible refine wf_pkFault _ _ _ _ _ ?_) | (with_reducible refine wf_endEffect _ _ _ _ _ ?_) | (with_reducible refine wf_modPart _ _ _ ?_) | (with_reducible refine wf_foldl (fun s a h => ?_) _ ?_) | (with_reducible refine wf_foldlM (fun s a h => ?_) _ ?_) | (dsimp only) | split | (intro _)))

theorem wf_startFwin (s : State) (p q idx : Nat) (ws : List W64) (h_s : Memory.wf s.ms.mem = true) :
    Memory.wf (startFwin s p q idx ws).ms.mem = true := by
  unfold startFwin
  (repeat' (first | (with_reducible assumption) | (with_reducible refine wf_malformed _ _ _ _ _ _ ?_) | (with_reducible refine wf_modPkt _ _ _ _ _ ?_) | (with_reducible refine wf_modPart _ _ _ ?_) | (with_reducible refine wf_getD ?_ ?_) | (with_reducible refine wf_getDM ?_ ?_) | (with_reducible refine wf_foldl (fun s a h => ?_) _ ?_) | (with_reducible refine wf_foldlM (fun s a h => ?_) _ ?_) | (dsimp only) | split | (intro _)))

theorem wf_retranslate (s : State) (n : Nat) (r : LoadReq) (h_s : Memory.wf s.ms.mem = true) :
    Memory.wf (retranslate s n r).ms.mem = true := by
  unfold retranslate
  (repeat' (first | (with_reducible assumption) | (with_reducible refine wf_failLoad _ _ _ _ _ ?_) | (with_reducible refine wf_bumpSeq _ ?_) | (dsimp only) | split | (intro _)))

theorem wf_invalidate (s : State) (p va len : Nat) (h_s : Memory.wf s.ms.mem = true) :
    Memory.wf (invalidate s p va len).ms.mem = true := by
  unfold invalidate
  (repeat' (first | (with_reducible assumption) | (with_reducible refine wf_retranslate _ _ _ ?_) | (with_reducible refine wf_foldl (fun s a h => ?_) _ ?_) | (with_reducible refine wf_foldlM (fun s a h => ?_) _ ?_) | (dsimp only) | split | (intro _)))

theorem wf_startTlbinv (s : State) (p q idx : Nat) (ws : List W64) (h_s : Memory.wf s.ms.mem = true) :
    Memory.wf (startTlbinv s p q idx ws).ms.mem = true := by
  unfold startTlbinv
  (repeat' (first | (with_reducible assumption) | (with_reducible refine wf_modPkt _ _ _ _ _ ?_) | (with_reducible refine wf_invalidate _ _ _ _ ?_) | (dsimp only) | split | (intro _)))

theorem wf_rewriteLeaves (s : State) (part : Nat) (ls : List Leaf) (mode sver : Nat) (h_s : Memory.wf s.ms.mem = true) :
    Memory.wf (rewriteLeaves s part ls mode sver).ms.mem = true := by
  unfold rewriteLeaves
  (repeat' (first | (with_reducible assumption) | (with_reducible refine wf_putHome _ _ _ _ _ ?_) | (with_reducible refine wf_remoteWrite _ _ _ _ ?_) | (with_reducible refine wf_foldl (fun s a h => ?_) _ ?_) | (with_reducible refine wf_foldlM (fun s a h => ?_) _ ?_) | (dsimp only) | split | (intro _)))

theorem wf_startSeal (s : State) (p q idx : Nat) (ws : List W64) (undo : Bool) (h_s : Memory.wf s.ms.mem = true) :
    Memory.wf (startSeal s p q idx ws undo).ms.mem = true := by
  unfold startSeal
  (repeat' (first | (with_reducible assumption) | (with_reducible refine wf_malformed _ _ _ _ _ _ ?_) | (with_reducible refine wf_pkFault _ _ _ _ _ ?_) | (with_reducible refine wf_waitWords _ _ _ ?_ _ (by assumption)) | (with_reducible refine wf_modPkt _ _ _ _ _ ?_) | (with_reducible refine wf_undelay _ _ ?_) | (with_reducible refine wf_rewriteLeaves _ _ _ _ _ ?_) | (with_reducible refine wf_invalidate _ _ _ _ ?_) | (with_reducible refine wf_foldl (fun s a h => ?_) _ ?_) | (with_reducible refine wf_foldlM (fun s a h => ?_) _ ?_) | (dsimp only) | split | (intro _)))

theorem wf_purgeSealed (s : State) (rs : List (Nat × Nat)) (h_s : Memory.wf s.ms.mem = true) :
    Memory.wf (purgeSealed s rs).ms.mem = true := by
  unfold purgeSealed
  (repeat' (first | (with_reducible assumption) | (with_reducible refine wf_combDrop _ _ _ ?_) | (with_reducible refine wf_foldl (fun s a h => ?_) _ ?_) | (with_reducible refine wf_foldlM (fun s a h => ?_) _ ?_) | (dsimp only) | split | (intro _)))

theorem wf_sealAcked (s : State) (p q idx : Nat) (k : Packet) (h_s : Memory.wf s.ms.mem = true) :
    Memory.wf (sealAcked s p q idx k).ms.mem = true := by
  unfold sealAcked
  (repeat' (first | (with_reducible assumption) | (with_reducible refine wf_bumpSeq _ ?_) | (with_reducible refine wf_modPkt _ _ _ _ _ ?_) | (with_reducible refine wf_purgeSealed _ _ ?_) | (with_reducible refine wf_modPart _ _ _ ?_) | (with_reducible refine wf_endEffect _ _ _ _ _ ?_) | (dsimp only) | split | (intro _)))

theorem wf_resumeAction (s : State) (c a : Nat) (h_s : Memory.wf s.ms.mem = true) :
    Memory.wf (resumeAction s c a).ms.mem = true := by
  unfold resumeAction
  (repeat' (first | (with_reducible assumption) | (with_reducible refine wf_pumpAll _ ?_) | (with_reducible refine wf_killTask _ _ ?_) | (with_reducible refine wf_killLaunch _ _ ?_) | (with_reducible refine wf_markBound _ _ ?_) | (with_reducible refine wf_setCtx _ _ _ ?_) | (with_reducible refine wf_taskRecord _ _ _ _ ?_) | (with_reducible refine wf_modCtx _ _ _ ?_) | (dsimp only) | split | (intro _)))

theorem wf_resumeSaved (s : State) (c r : Nat) (v : Saved) (a : Nat) (h_s : Memory.wf s.ms.mem = true) :
    Memory.wf (resumeSaved s c r v a).ms.mem = true := by
  unfold resumeSaved
  (repeat' (first | (with_reducible assumption) | (with_reducible refine wf_pumpAll _ ?_) | (with_reducible refine wf_killSaved _ _ ?_) | (with_reducible refine wf_killLaunch _ _ ?_) | (with_reducible refine wf_modLaunch _ _ _ ?_) | (with_reducible refine wf_faultRecord _ _ _ ?_) | (dsimp only) | split | (intro _)))

theorem wf_startResume (s : State) (p q idx : Nat) (ws : List W64) (h_s : Memory.wf s.ms.mem = true) :
    Memory.wf (startResume s p q idx ws).ms.mem = true := by
  unfold startResume
  (repeat' (first | (with_reducible assumption) | (with_reducible refine wf_requestDispatch _ _ ?_) | (with_reducible refine wf_endEffect _ _ _ _ _ ?_) | (with_reducible refine wf_resumeAction _ _ _ ?_) | (with_reducible refine wf_resumeSaved _ _ _ _ _ ?_) | (with_reducible refine wf_malformed _ _ _ _ _ _ ?_) | (with_reducible refine wf_foldl (fun s a h => ?_) _ ?_) | (with_reducible refine wf_foldlM (fun s a h => ?_) _ ?_) | (dsimp only) | split | (intro _)))

theorem wf_packetEffect (s : State) (p q idx : Nat) (ws : List W64) (h_s : Memory.wf s.ms.mem = true) :
    Memory.wf (packetEffect s p q idx ws).ms.mem = true := by
  unfold packetEffect
  (repeat' (first | (with_reducible assumption) | (with_reducible refine wf_startLaunch _ _ _ _ _ ?_) | (with_reducible refine wf_readCounter _ _ _ _ _ ?_) | (with_reducible refine wf_startSignal _ _ _ _ _ ?_) | (with_reducible refine wf_startCopyb _ _ _ _ _ ?_) | (with_reducible refine wf_startPolicy _ _ _ _ _ ?_) | (with_reducible refine wf_startFwin _ _ _ _ _ ?_) | (with_reducible refine wf_startTlbinv _ _ _ _ _ ?_) | (with_reducible refine wf_startSeal _ _ _ _ _ _ ?_) | (with_reducible refine wf_startResume _ _ _ _ _ ?_) | (with_reducible refine wf_startMarker _ _ _ _ _ ?_) | (dsimp only) | split | (intro _)))

theorem wf_openPacket (s : State) (p q : Nat) (x : Queue) (ws : List W64) (h_s : Memory.wf s.ms.mem = true) :
    Memory.wf (openPacket s p q x ws).ms.mem = true := by
  unfold openPacket
  (repeat' (first | (with_reducible assumption) | (with_reducible refine wf_modQueue _ _ _ _ ?_) | (with_reducible refine wf_journalAdd _ _ _ _ _ ?_) | (dsimp only) | split | (intro _)))

theorem wf_beginPacket (s : State) (p q : Nat) (x : Queue) (ws : List W64) (h_s : Memory.wf s.ms.mem = true) :
    Memory.wf (beginPacket s p q x ws).ms.mem = true := by
  unfold beginPacket
  (repeat' (first | (with_reducible assumption) | (with_reducible refine wf_openPacket _ _ _ _ _ ?_) | (with_reducible refine wf_endFailed _ _ _ _ _ _ _ _ ?_) | (with_reducible refine wf_malformed _ _ _ _ _ _ ?_) | (with_reducible refine wf_packetEffect _ _ _ _ _ ?_) | (with_reducible refine wf_foldl (fun s a h => ?_) _ ?_) | (with_reducible refine wf_foldlM (fun s a h => ?_) _ ?_) | (dsimp only) | split | (intro _)))

theorem wf_failPacket (s : State) (p q : Nat) (x : Queue) (ws : List W64) (e : BitVec 8 × Nat) (h_s : Memory.wf s.ms.mem = true) :
    Memory.wf (failPacket s p q x ws e).ms.mem = true := by
  unfold failPacket
  (repeat' (first | (with_reducible assumption) | (with_reducible refine wf_openPacket _ _ _ _ _ ?_) | (with_reducible refine wf_stopQueue _ _ _ ?_) | (with_reducible refine wf_endDepwait _ _ _ _ _ ?_) | (with_reducible refine wf_deviceFault _ _ _ _ _ ?_) | (with_reducible refine wf_pkFault _ _ _ _ _ ?_) | (dsimp only) | split | (intro _)))

theorem wf_askQueue (p q : Nat) (s : State) (h_s : Memory.wf s.ms.mem = true) :
    Memory.wf (askQueue p q s).ms.mem = true := by
  unfold askQueue
  (repeat' (first | (with_reducible assumption) | (with_reducible refine wf_modQueue _ _ _ _ ?_) | (dsimp only) | split | (intro _)))

theorem wf_takePacket (s : State) (p q : Nat) (x : Queue) (ws : List W64) (h_s : Memory.wf s.ms.mem = true) :
    Memory.wf (takePacket s p q x ws).ms.mem = true := by
  unfold takePacket
  (repeat' (first | (with_reducible assumption) | (with_reducible refine wf_readWaits _ _ _ _ ?_ _ (by assumption)) | (with_reducible refine wf_waitHomes _ _ _ _ ?_ _ (by assumption)) | (with_reducible refine wf_timedWait _ _ _ _ _ ?_ ?_ ?_ _ (by assumption)) | (with_reducible refine wf_askQueue _ _ _ ?_) | (with_reducible refine wf_failPacket _ _ _ _ _ _ ?_) | (with_reducible refine wf_undelay _ _ ?_) | (with_reducible refine wf_beginPacket _ _ _ _ _ ?_) | (with_reducible refine wf_seenAll _ _ _ ?_) | (with_reducible refine wf_or ?_ ?_ _ (by assumption)) | (with_reducible refine wf_readWaits _ _ _ _ ?_) | (with_reducible refine wf_waitHomes _ _ _ _ ?_) | (dsimp only) | split | (intro _)))

theorem wf_startPacket (s : State) (p q ty : Nat) (h_s : Memory.wf s.ms.mem = true) :
    Memory.wf (startPacket s p q ty).ms.mem = true := by
  unfold startPacket
  (repeat' (first | (with_reducible assumption) | (with_reducible refine wf_modQueue _ _ _ _ ?_) | (with_reducible refine wf_stopQueue _ _ _ ?_) | (with_reducible refine wf_deviceFault _ _ _ _ _ ?_) | (with_reducible refine wf_readWaits _ _ _ _ ?_ _ (by assumption)) | (with_reducible refine wf_timedWait _ _ _ _ _ ?_ ?_ ?_ _ (by assumption)) | (with_reducible refine wf_askQueue _ _ _ ?_) | (with_reducible refine wf_takePacket _ _ _ _ _ ?_) | (with_reducible refine wf_seenAll _ _ _ ?_) | (dsimp only) | split | (intro _)))

theorem wf_putDone (s : State) (p : Nat) (k : Packet) (h_s : Memory.wf s.ms.mem = true) :
    ∀ t, (putDone s p k) = .ok t → Memory.wf t.ms.mem = true := by
  intro t ht
  unfold putDone at ht
  (try dsimp only at ht)
  (repeat' (first | split at ht)) <;> (try contradiction) <;> (try (injection ht with ht; first | subst ht | (injection ht with ha ht; subst ht))) <;> (repeat' (first | (with_reducible assumption) | (with_reducible refine wf_devPut _ _ _ _ _ ?_ _ (by assumption)) | (with_reducible refine wf_getD ?_ ?_) | (with_reducible refine wf_getDM ?_ ?_) | (dsimp only) | split | (intro _)))

theorem wf_waitComplete (s t : State) (p q : Nat) (k : Packet) (h_s : Memory.wf s.ms.mem = true) (h_t : Memory.wf t.ms.mem = true) :
    Memory.wf (waitComplete s t p q k).ms.mem = true := by
  unfold waitComplete
  (repeat' (first | (with_reducible assumption) | (with_reducible refine wf_modPkt _ _ _ _ _ ?_) | (with_reducible refine wf_timedWait _ _ _ _ _ ?_ ?_ ?_ _ (by assumption)) | (with_reducible refine wf_undelay _ _ ?_) | (with_reducible refine wf_stopQueue _ _ _ ?_) | (with_reducible refine wf_deviceFault _ _ _ _ _ ?_) | (dsimp only) | split | (intro _)))

theorem wf_completePacket (s : State) (p q : Nat) (k : Packet) (h_s : Memory.wf s.ms.mem = true) :
    Memory.wf (completePacket s p q k).ms.mem = true := by
  unfold completePacket
  (repeat' (first | (with_reducible assumption) | (with_reducible refine wf_waitHomes _ _ _ _ ?_ _ (by assumption)) | (with_reducible refine wf_waitComplete _ _ _ _ _ ?_ ?_) | (with_reducible refine wf_undelay _ _ ?_) | (with_reducible refine wf_putDone _ _ _ ?_ _ (by assumption)) | (with_reducible refine wf_modPkt _ _ _ _ _ ?_) | (with_reducible refine wf_stopQueue _ _ _ ?_) | (with_reducible refine wf_deviceFault _ _ _ _ _ ?_) | (with_reducible refine wf_faultRecord _ _ _ ?_) | (with_reducible refine wf_journalAdd _ _ _ _ _ ?_) | (with_reducible refine wf_decrement _ _ _ _ _ ?_) | (with_reducible refine wf_modQueue _ _ _ _ ?_) | (dsimp only) | split | (intro _)))

theorem wf_packetWait (s : State) (p q : Nat) (k : Packet) (h_s : Memory.wf s.ms.mem = true) :
    Memory.wf (packetWait s p q k).ms.mem = true := by
  unfold packetWait
  (repeat' (first | (with_reducible assumption) | (with_reducible refine wf_endEffect _ _ _ _ _ ?_) | (with_reducible refine wf_sealAcked _ _ _ _ _ ?_) | (with_reducible refine wf_startSeal _ _ _ _ _ _ ?_) | (with_reducible refine wf_foldl (fun s a h => ?_) _ ?_) | (with_reducible refine wf_foldlM (fun s a h => ?_) _ ?_) | (dsimp only) | split | (intro _)))

theorem wf_bindQueue (s : State) (die t p q : Nat) (h_s : Memory.wf s.ms.mem = true) :
    Memory.wf (bindQueue s die t p q).ms.mem = true := by
  unfold bindQueue
  (repeat' (first | (with_reducible assumption) | (with_reducible refine wf_modQueue _ _ _ _ ?_) | (dsimp only) | split | (intro _)))

theorem wf_unbindQueue (s : State) (p q : Nat) (h_s : Memory.wf s.ms.mem = true) :
    Memory.wf (unbindQueue s p q).ms.mem = true := by
  unfold unbindQueue
  (repeat' (first | (with_reducible assumption) | (with_reducible refine wf_modQueue _ _ _ _ ?_) | (dsimp only) | split | (intro _)))

theorem wf_rebuildThreads (s : State) (die : Nat) (h_s : Memory.wf s.ms.mem = true) :
    Memory.wf (rebuildThreads s die).ms.mem = true := by
  unfold rebuildThreads
  (repeat' (first | (with_reducible assumption) | (with_reducible refine wf_foldl (fun s a h => ?_) _ ?_) | (with_reducible refine wf_foldlM (fun s a h => ?_) _ ?_) | (dsimp only) | split | (intro _)))

theorem wf_replay (s : State) (die : Nat) (h_s : Memory.wf s.ms.mem = true) :
    Memory.wf (replay s die).ms.mem = true := by
  unfold replay
  (repeat' (first | (with_reducible assumption) | (with_reducible refine wf_rebuildThreads _ _ ?_) | (dsimp only) | split | (intro _)))

/-! ## CfgRegs -/

theorem wf_writeQwr (s : State) (p q v : Nat) (h_s : Memory.wf s.ms.mem = true) :
    Memory.wf (writeQwr s p q v).ms.mem = true := by
  have key : ∀ (c : Prop) [Decidable c] (a b : State), Memory.wf a.ms.mem = true → Memory.wf b.ms.mem = true → Memory.wf (if c then a else b).ms.mem = true := by
    intro c _ a b ha hb
    split
    · exact ha
    · exact hb
  unfold writeQwr
  exact key _ _ _ (wf_modQueue _ _ _ _ h_s) (wf_bumpSeq _ (wf_modQueue _ _ _ _ h_s))

theorem wf_writeQbase (s : State) (p q : Nat) (v : W64) (h_s : Memory.wf s.ms.mem = true) :
    Memory.wf (writeQbase s p q v).ms.mem = true := by
  unfold writeQbase
  (repeat' (first | (with_reducible assumption) | (with_reducible refine wf_modQueue _ _ _ _ ?_) | (dsimp only) | split | (intro _)))

theorem wf_writeQctl (s : State) (p q : Nat) (v : W64) (h_s : Memory.wf s.ms.mem = true) :
    Memory.wf (writeQctl s p q v).ms.mem = true := by
  unfold writeQctl
  (repeat' (first | (with_reducible assumption) | (with_reducible refine wf_modQueue _ _ _ _ ?_) | (with_reducible refine wf_unbindQueue _ _ _ ?_) | (with_reducible refine wf_checkpoint _ _ ?_) | (dsimp only) | split | (intro _)))

theorem wf_writeQstat (s : State) (p q : Nat) (ones : W64) (h_s : Memory.wf s.ms.mem = true) :
    Memory.wf (writeQstat s p q ones).ms.mem = true := by
  unfold writeQstat
  (repeat' (first | (with_reducible assumption) | (with_reducible refine wf_modQueue _ _ _ _ ?_) | (dsimp only) | split | (intro _)))

theorem wf_queueWrite (s : State) (p q o : Nat) (d ones : W64) (h_s : Memory.wf s.ms.mem = true) :
    Memory.wf (queueWrite s p q o d ones).ms.mem = true := by
  unfold queueWrite
  (repeat' (first | (with_reducible assumption) | (with_reducible refine wf_writeQbase _ _ _ _ ?_) | (with_reducible refine wf_writeQctl _ _ _ _ ?_) | (with_reducible refine wf_writeQwr _ _ _ _ ?_) | (with_reducible refine wf_writeQstat _ _ _ _ ?_) | (dsimp only) | split | (intro _)))

theorem wf_stopQueues (s : State) (p : Nat) (h_s : Memory.wf s.ms.mem = true) :
    Memory.wf (stopQueues s p).ms.mem = true := by
  unfold stopQueues
  (repeat' (first | (with_reducible assumption) | (with_reducible refine wf_unbindQueue _ _ _ ?_) | (with_reducible refine wf_endDepwait _ _ _ _ _ ?_) | (with_reducible refine wf_foldl (fun s a h => ?_) _ ?_) | (with_reducible refine wf_foldlM (fun s a h => ?_) _ ?_) | (dsimp only) | split | (intro _)))

theorem wf_stopCopies (s : State) (p : Nat) (h_s : Memory.wf s.ms.mem = true) :
    Memory.wf (stopCopies s p).ms.mem = true := by
  unfold stopCopies
  (repeat' (first | (with_reducible assumption) | (with_reducible refine wf_endEffect _ _ _ _ _ ?_) | (with_reducible refine wf_foldl (fun s a h => ?_) _ ?_) | (with_reducible refine wf_foldlM (fun s a h => ?_) _ ?_) | (dsimp only) | split | (intro _)))

theorem wf_stopLaunches (s : State) (p : Nat) (h_s : Memory.wf s.ms.mem = true) :
    Memory.wf (stopLaunches s p).ms.mem = true := by
  unfold stopLaunches
  (repeat' (first | (with_reducible assumption) | (with_reducible refine wf_pumpAll _ ?_) | (with_reducible refine wf_killLaunch _ _ ?_) | (with_reducible refine wf_foldl (fun s a h => ?_) _ ?_) | (with_reducible refine wf_foldlM (fun s a h => ?_) _ ?_) | (dsimp only) | split | (intro _)))

theorem wf_stopPartition (s : State) (p : Nat) (h_s : Memory.wf s.ms.mem = true) :
    Memory.wf (stopPartition s p).ms.mem = true := by
  unfold stopPartition
  (repeat' (first | (with_reducible assumption) | (with_reducible refine wf_modPart _ _ _ ?_) | (with_reducible refine wf_stopCopies _ _ ?_) | (with_reducible refine wf_stopLaunches _ _ ?_) | (with_reducible refine wf_stopQueues _ _ ?_) | (dsimp only) | split | (intro _)))

theorem wf_startPartition (s : State) (p : Nat) (h_s : Memory.wf s.ms.mem = true) :
    Memory.wf (startPartition s p).ms.mem = true := by
  unfold startPartition
  (repeat' (first | (with_reducible assumption) | (with_reducible refine wf_modPart _ _ _ ?_) | (dsimp only) | split | (intro _)))

theorem wf_moveFrame (s : State) (p f : Nat) (want : Bool) (h_s : Memory.wf s.ms.mem = true) :
    Memory.wf (moveFrame s p f want).ms.mem = true := by
  unfold moveFrame
  (repeat' (first | (with_reducible assumption) | (with_reducible refine wf_requestPreempt _ _ _ ?_) | (with_reducible refine wf_foldl (fun s a h => ?_) _ ?_) | (with_reducible refine wf_foldlM (fun s a h => ?_) _ ?_) | (dsimp only) | split | (intro _)))

theorem wf_writePframes (s : State) (p : Nat) (v : W64) (h_s : Memory.wf s.ms.mem = true) :
    Memory.wf (writePframes s p v).ms.mem = true := by
  unfold writePframes
  (repeat' (first | (with_reducible assumption) | (with_reducible refine wf_modPart _ _ _ ?_) | (with_reducible refine wf_moveFrame _ _ _ _ ?_) | (with_reducible refine wf_requestDispatch _ _ ?_) | (with_reducible refine wf_reviseReservation _ _ ?_) | (with_reducible refine wf_settleFrames _ _ ?_) | (with_reducible refine wf_foldl (fun s a h => ?_) _ ?_) | (with_reducible refine wf_foldlM (fun s a h => ?_) _ ?_) | (dsimp only) | split | (intro _)))

theorem wf_adminWrite (s : State) (p o : Nat) (d ones mask : W64) (h_s : Memory.wf s.ms.mem = true) :
    Memory.wf (adminWrite s p o d ones mask).ms.mem = true := by
  unfold adminWrite
  (repeat' (first | (with_reducible assumption) | (with_reducible refine wf_modPart _ _ _ ?_) | (with_reducible refine wf_startPartition _ _ ?_) | (with_reducible refine wf_stopPartition _ _ ?_) | (with_reducible refine wf_writePframes _ _ _ ?_) | (dsimp only) | split | (intro _)))

theorem wf_partRegWrite (s : State) (p o : Nat) (d ones : W64) (h_s : Memory.wf s.ms.mem = true) :
    Memory.wf (partRegWrite s p o d ones).ms.mem = true := by
  unfold partRegWrite
  (repeat' (first | (with_reducible assumption) | (with_reducible refine wf_modPart _ _ _ ?_) | (dsimp only) | split | (intro _)))

theorem wf_writeMbcmd (s : State) (d mask : W64) (h_s : Memory.wf s.ms.mem = true) :
    Memory.wf (writeMbcmd s d mask).ms.mem = true := by
  unfold writeMbcmd
  (repeat' (first | (with_reducible assumption) | (dsimp only) | split | (intro _)))

theorem wf_writeBuf (s : State) (o : Nat) (d : W64) (h_s : Memory.wf s.ms.mem = true) :
    Memory.wf (writeBuf s o d).ms.mem = true := by
  unfold writeBuf
  (repeat' (first | (with_reducible assumption) | (with_reducible refine wf_foldl (fun s a h => ?_) _ ?_) | (with_reducible refine wf_foldlM (fun s a h => ?_) _ ?_) | (dsimp only) | split | (intro _)))

theorem wf_mailWrite (s : State) (o : Nat) (d mask : W64) (h_s : Memory.wf s.ms.mem = true) :
    Memory.wf (mailWrite s o d mask).ms.mem = true := by
  unfold mailWrite
  (repeat' (first | (with_reducible assumption) | (with_reducible refine wf_writeMbcmd _ _ _ ?_) | (with_reducible refine wf_writeBuf _ _ _ ?_) | (dsimp only) | split | (intro _)))

theorem wf_mgmtWrite (s : State) (o : Nat) (d : W64) (h_s : Memory.wf s.ms.mem = true) :
    Memory.wf (mgmtWrite s o d).ms.mem = true := by
  unfold mgmtWrite
  (repeat' (first | (with_reducible assumption) | (dsimp only) | split | (intro _)))

theorem wf_msixPut (s : State) (p o : Nat) (b : Byte) (h_s : Memory.wf s.ms.mem = true) :
    Memory.wf (msixPut s p o b).ms.mem = true := by
  unfold msixPut
  (repeat' (first | (with_reducible assumption) | (with_reducible refine wf_raiseIrq _ _ _ ?_) | (dsimp only) | split | (intro _)))

theorem wf_msixWrite (s : State) (p o : Nat) (d mask : W64) (h_s : Memory.wf s.ms.mem = true) :
    Memory.wf (msixWrite s p o d mask).ms.mem = true := by
  unfold msixWrite
  (repeat' (first | (with_reducible assumption) | (with_reducible refine wf_msixPut _ _ _ _ ?_) | (with_reducible refine wf_foldl (fun s a h => ?_) _ ?_) | (with_reducible refine wf_foldlM (fun s a h => ?_) _ ?_) | (dsimp only) | split | (intro _)))

theorem wf_cfgPut (s : State) (off : Nat) (d ones mask : W64) (h_s : Memory.wf s.ms.mem = true) :
    Memory.wf (cfgPut s off d ones mask).ms.mem = true := by
  unfold cfgPut
  (repeat' (first | (with_reducible assumption) | (with_reducible refine wf_adminWrite _ _ _ _ _ _ ?_) | (with_reducible refine wf_mailWrite _ _ _ _ ?_) | (with_reducible refine wf_mgmtWrite _ _ _ ?_) | (with_reducible refine wf_queueWrite _ _ _ _ _ _ ?_) | (with_reducible refine wf_partRegWrite _ _ _ _ _ ?_) | (with_reducible refine wf_msixWrite _ _ _ _ _ ?_) | (dsimp only) | split | (intro _)))

theorem wf_cfgWrite (s : State) (off n v : Nat) (h_s : Memory.wf s.ms.mem = true) :
    Memory.wf (cfgWrite s off n v).ms.mem = true := by
  unfold cfgWrite
  (repeat' (first | (with_reducible assumption) | (with_reducible refine wf_cfgPut _ _ _ _ _ ?_) | (dsimp only) | split | (intro _)))

/-! ## Start -/

theorem wf_beginStart (s : State) (warm : Bool) (h_s : Memory.wf s.ms.mem = true) :
    Memory.wf (beginStart s warm).ms.mem = true := by
  unfold beginStart
  (repeat' (first | (with_reducible assumption) | (dsimp only) | split | (intro _)))

theorem wf_zeroMemory (m : MemSys) (h_m : Memory.wf m.mem = true) :
    Memory.wf (zeroMemory m).mem = true := by
  unfold zeroMemory
  (repeat' (first | (with_reducible assumption) | (with_reducible refine wf_filter ?_ _) | (dsimp only) | split | (intro _)))

theorem wf_scrubSram (s : State) (h_s : Memory.wf s.ms.mem = true) :
    Memory.wf (scrubSram s).ms.mem = true := by
  unfold scrubSram
  (repeat' (first | (with_reducible assumption) | (with_reducible refine wf_filter ?_ _) | (dsimp only) | split | (intro _)))

theorem wf_nextStage (s : State) (retainedOk : Bool) (h_s : Memory.wf s.ms.mem = true) :
    Memory.wf (nextStage s retainedOk).ms.mem = true := by
  unfold nextStage
  (repeat' (first | (with_reducible assumption) | (with_reducible refine wf_zeroMemory _ ?_) | (with_reducible refine wf_scrubSram _ ?_) | (dsimp only) | split | (intro _)))

theorem wf_failStart (s : State) (code : BitVec 8) (h_s : Memory.wf s.ms.mem = true) :
    Memory.wf (failStart s code).ms.mem = true := by
  unfold failStart
  (repeat' (first | (with_reducible assumption) | (with_reducible refine wf_beginStart _ _ ?_) | (dsimp only) | split | (intro _)))

theorem wf_cmdEnd (s : State) (result : Nat) (h_s : Memory.wf s.ms.mem = true) :
    Memory.wf (cmdEnd s result).ms.mem = true := by
  unfold cmdEnd
  (repeat' (first | (with_reducible assumption) | (dsimp only) | split | (intro _)))

theorem wf_runImgchunk (s : State) (h_s : Memory.wf s.ms.mem = true) :
    Memory.wf (runImgchunk s).ms.mem = true := by
  unfold runImgchunk
  (repeat' (first | (with_reducible assumption) | (with_reducible refine wf_cmdEnd _ _ ?_) | (dsimp only) | split | (intro _)))

theorem wf_runImgcommit (written : Bool) (s : State) (h_s : Memory.wf s.ms.mem = true) :
    Memory.wf (runImgcommit written s).ms.mem = true := by
  unfold runImgcommit
  (repeat' (first | (with_reducible assumption) | (with_reducible refine wf_cmdEnd _ _ ?_) | (dsimp only) | split | (intro _)))

theorem wf_runAttest (s : State) (h_s : Memory.wf s.ms.mem = true) :
    Memory.wf (runAttest s).ms.mem = true := by
  unfold runAttest
  (repeat' (first | (with_reducible assumption) | (with_reducible refine wf_cmdEnd _ _ ?_) | (dsimp only) | split | (intro _)))

theorem wf_runOwner (s : State) (h_s : Memory.wf s.ms.mem = true) :
    Memory.wf (runOwner s).ms.mem = true := by
  unfold runOwner
  (repeat' (first | (with_reducible assumption) | (with_reducible refine wf_cmdEnd _ _ ?_) | (dsimp only) | split | (intro _)))

end Sys2Proof.Machine
end

