-- ==== Sys2Proof/Laws/KeepEvents.lean ====
section
/-! SUPPORT. Every state that comes out of a function keeps the canonical form of memory: the events that are no instruction words. Each lemma
`wf_f` says so of the function `f`. -/

namespace Sys2Proof.Machine

set_option linter.all false

/-! ## Pipeline -/

theorem wf_latch (s : State) (a : Cand) (h_s : Memory.wf s.ms.mem = true) :
    Memory.wf (latch s a).ms.mem = true := by
  unfold latch
  (repeat' (first | (with_reducible assumption) | (with_reducible refine wf_modCtx _ _ _ ?_) | (dsimp only) | split | (intro _)))

theorem wf_execCellIssue (comb cell : Nat) (s : State) (h_s : Memory.wf s.ms.mem = true) :
    ∀ t, (execCellIssue comb cell s) = .next t → Memory.wf t.ms.mem = true := by
  unfold execCellIssue
  (repeat' (first | (with_reducible assumption) | (with_reducible refine wf_latch _ _ ?_) | (with_reducible refine wf_next ?_) | (exact wf_fault _) | (dsimp only) | split | (intro _)))

theorem wf_execWeightRecompute (comb cell : Nat) (s : State) (h_s : Memory.wf s.ms.mem = true) :
    ∀ t, (execWeightRecompute comb cell s) = .next t → Memory.wf t.ms.mem = true := by
  unfold execWeightRecompute
  (repeat' (first | (with_reducible assumption) | (with_reducible refine wf_next ?_) | (exact wf_fault _) | (dsimp only) | split | (intro _)))

theorem wf_quench (s : State) (c tag idx : Nat) (h_s : Memory.wf s.ms.mem = true) :
    Memory.wf (quench s c tag idx).ms.mem = true := by
  unfold quench
  (repeat' (first | (with_reducible assumption) | (with_reducible refine wf_modBlock _ _ _ _ ?_) | (dsimp only) | split | (intro _)))

theorem wf_arrive (s : State) (c tag idx : Nat) (b : Block) (k : Slot) (t : Token) (h_s : Memory.wf s.ms.mem = true) :
    Memory.wf (arrive s c tag idx b k t).ms.mem = true := by
  unfold arrive
  (repeat' (first | (with_reducible assumption) | (with_reducible refine wf_recordFault _ _ _ _ ?_) | (with_reducible refine wf_quench _ _ _ _ ?_) | (with_reducible refine wf_modBlock _ _ _ _ ?_) | (dsimp only) | split | (intro _)))

theorem wf_execTokenDelivery (n : Nat) (s : State) (h_s : Memory.wf s.ms.mem = true) :
    ∀ t, (execTokenDelivery n s) = .next t → Memory.wf t.ms.mem = true := by
  unfold execTokenDelivery
  (repeat' (first | (with_reducible assumption) | (with_reducible refine wf_advance _ _ ?_) | (with_reducible refine wf_arrive _ _ _ _ _ _ _ ?_) | (with_reducible refine wf_next ?_) | (exact wf_fault _) | (dsimp only) | split | (intro _)))

theorem wf_addBlock (s : State) (c : Nat) (b : Block) (h_s : Memory.wf s.ms.mem = true) :
    Memory.wf (addBlock s c b).ms.mem = true := by
  unfold addBlock
  (repeat' (first | (with_reducible assumption) | (with_reducible refine wf_modCtx _ _ _ ?_) | (dsimp only) | split | (intro _)))

theorem wf_fillFetched (s : State) (comb : Nat) (f : Fetched) (h_s : Memory.wf s.ms.mem = true) :
    Memory.wf (fillFetched s comb f).ms.mem = true := by
  unfold fillFetched
  split
  · exact h_s
  · next lp _ =>
    have base : Memory.wf (if f.home.isSome then hiveFill (dropStale s comb (lp.pa / 512) lp) (lp.pa / 512) (lp.pa / 8 % 64) (lp.pa / 8 % 64)
        else dropStale s comb (lp.pa / 512) lp).mem = true := by
      split
      · exact wf_hiveFill _ _ _ _ (wf_dropStale _ _ _ _ h_s)
      · exact wf_dropStale _ _ _ _ h_s
    have full := fun sv => wf_getDM (wf_combFill _ comb (lp.pa / 512) (lp.pa / 8 % 64) (lp.pa / 8 % 64) (lp.pa / 8 % 64) (lp.pa / 8 % 64)
      (fun _ => { data := f.data, valid := 0xFF }) sv base) base
    dsimp only
    split
    · exact full _
    · refine wf_bumpFresh _ (wf_markLease _ _ _ _ _ ?_)
      split
      · refine wf_getDM (fun t ht => ?_) (full _)
        rw [Option.map_eq_some_iff] at ht
        obtain ⟨k, -, rfl⟩ := ht
        exact wf_holdLease _ _ _ (full _)
      · exact full _

theorem wf_afterFetch (s : State) (c : Nat) (x : Ctx) (a : W64) (n : Nat) (l : List Fetched) (h_s : Memory.wf s.ms.mem = true) :
    Memory.wf (afterFetch s c x a n l).ms.mem = true := by
  unfold afterFetch
  (repeat' (first | (with_reducible assumption) | (with_reducible refine wf_recallWord _ _ ?_) | (with_reducible refine wf_fillFetched _ _ _ ?_) | (with_reducible refine wf_tlbUse _ _ _ _ ?_) | (with_reducible refine wf_foldl (fun s a h => ?_) _ ?_) | (with_reducible refine wf_foldlM (fun s a h => ?_) _ ?_) | (dsimp only) | split | (intro _)))

theorem wf_cacheImage (s : State) (comb : Nat) (a : W64) (hdr ws : List Word) (h_s : Memory.wf s.ms.mem = true) :
    Memory.wf (cacheImage s comb a hdr ws).ms.mem = true := by
  unfold cacheImage
  (repeat' (first | (with_reducible assumption) | (with_reducible refine wf_modComb _ _ _ ?_) | (with_reducible refine wf_getD ?_ ?_) | (with_reducible refine wf_getDM ?_ ?_) | (dsimp only) | split | (intro _)))

theorem wf_snoopFetch (s : State) (c : Nat) (x : Ctx) (va : Nat) (h_s : Memory.wf s.ms.mem = true) :
    Memory.wf (snoopFetch s c x va).ms.mem = true := by
  unfold snoopFetch
  (repeat' (first | (with_reducible assumption) | (with_reducible refine wf_snoopWords _ _ ?_) | (dsimp only) | split | (intro _)))

theorem wf_holdFetch (s : State) (c : Nat) (x : Ctx) (a : W64) (va n : Nat) (h_s : Memory.wf s.ms.mem = true) :
    Memory.wf (holdFetch s c x a va n).ms.mem = true := by
  unfold holdFetch
  (repeat' (first | (with_reducible assumption) | (with_reducible refine wf_snoopFetch _ _ _ _ ?_) | (with_reducible refine wf_addBlock _ _ _ ?_) | (with_reducible refine wf_setCtx _ _ _ ?_) | (dsimp only) | split | (intro _)))

theorem wf_fetchBody (s : State) (c : Nat) (x : Ctx) (a : W64) (h : List Fetched) (h_s : Memory.wf s.ms.mem = true) :
    Memory.wf (fetchBody s c x a h).ms.mem = true := by
  unfold fetchBody
  (repeat' (first | (with_reducible assumption) | (with_reducible refine wf_addBlock _ _ _ ?_) | (with_reducible refine wf_afterFetch _ _ _ _ _ _ ?_) | (with_reducible refine wf_holdFetch _ _ _ _ _ _ ?_) | (with_reducible refine wf_cacheImage _ _ _ _ _ ?_) | (with_reducible refine wf_getD ?_ ?_) | (with_reducible refine wf_getDM ?_ ?_) | (dsimp only) | split | (intro _)))

theorem wf_execBlockFetch (c : Nat) (a : W64) (s : State) (h_s : Memory.wf s.ms.mem = true) :
    ∀ t, (execBlockFetch c a s) = .next t → Memory.wf t.ms.mem = true := by
  unfold execBlockFetch
  (repeat' (first | (with_reducible assumption) | (with_reducible refine wf_addBlock _ _ _ ?_) | (with_reducible refine wf_holdFetch _ _ _ _ _ _ ?_) | (with_reducible refine wf_fetchBody _ _ _ _ _ ?_) | (with_reducible refine wf_next ?_) | (exact wf_fault _) | (dsimp only) | split | (intro _)))

theorem wf_execBlockCommit (c : Nat) (s : State) (h_s : Memory.wf s.ms.mem = true) :
    ∀ t, (execBlockCommit c s) = .next t → Memory.wf t.ms.mem = true := by
  unfold execBlockCommit
  (repeat' (first | (with_reducible assumption) | (with_reducible refine wf_commitBlock _ _ _ _ ?_) | (with_reducible refine wf_next ?_) | (exact wf_fault _) | (dsimp only) | split | (intro _)))

theorem wf_execGrowthComplete (c : Nat) (s : State) (h_s : Memory.wf s.ms.mem = true) :
    ∀ t, (execGrowthComplete c s) = .next t → Memory.wf t.ms.mem = true := by
  unfold execGrowthComplete
  (repeat' (first | (with_reducible assumption) | (with_reducible refine wf_growNow _ _ _ _ ?_) | (with_reducible refine wf_takeNext _ _ ?_) | (with_reducible refine wf_next ?_) | (exact wf_fault _) | (dsimp only) | split | (intro _)))

theorem wf_execCompactTimeout (c : Nat) (s : State) (h_s : Memory.wf s.ms.mem = true) :
    ∀ t, (execCompactTimeout c s) = .next t → Memory.wf t.ms.mem = true := by
  unfold execCompactTimeout
  (repeat' (first | (with_reducible assumption) | (with_reducible refine wf_requestPreempt _ _ _ ?_) | (with_reducible refine wf_modCtx _ _ _ ?_) | (with_reducible refine wf_foldl (fun s a h => ?_) _ ?_) | (with_reducible refine wf_foldlM (fun s a h => ?_) _ ?_) | (with_reducible refine wf_next ?_) | (exact wf_fault _) | (dsimp only) | split | (intro _)))

theorem wf_resumeSmall (s : State) (c : Nat) (h_s : Memory.wf s.ms.mem = true) :
    Memory.wf (resumeSmall s c).ms.mem = true := by
  unfold resumeSmall
  (repeat' (first | (with_reducible assumption) | (with_reducible refine wf_resumeAside _ _ _ _ _ _ ?_) | (dsimp only) | split | (intro _)))

theorem wf_execCompositionRefused (c : Nat) (s : State) (h_s : Memory.wf s.ms.mem = true) :
    ∀ t, (execCompositionRefused c s) = .next t → Memory.wf t.ms.mem = true := by
  unfold execCompositionRefused
  (repeat' (first | (with_reducible assumption) | (with_reducible refine wf_resumeSmall _ _ ?_) | (with_reducible refine wf_takeTrap _ _ _ _ _ _ ?_) | (with_reducible refine wf_next ?_) | (exact wf_fault _) | (dsimp only) | split | (intro _)))

theorem wf_endPass (s : State) (x : Ctx) (b : Block) (j : MmaJob) (r : PassResult) (h_s : Memory.wf s.ms.mem = true) :
    Memory.wf (endPass s x b j r).ms.mem = true := by
  unfold endPass
  (repeat' (first | (with_reducible assumption) | (with_reducible refine wf_shade _ _ _ _ _ _ ?_) | (with_reducible refine wf_modBlock _ _ _ _ ?_) | (with_reducible refine wf_finish _ _ _ _ _ ?_) | (dsimp only) | split | (intro _)))

theorem wf_execMmaPass (comb cell : Nat) (s : State) (h_s : Memory.wf s.ms.mem = true) :
    ∀ t, (execMmaPass comb cell s) = .next t → Memory.wf t.ms.mem = true := by
  unfold execMmaPass
  (repeat' (first | (with_reducible assumption) | (with_reducible refine wf_advance _ _ ?_) | (with_reducible refine wf_endPass _ _ _ _ _ ?_) | (with_reducible refine wf_getD ?_ ?_) | (with_reducible refine wf_getDM ?_ ?_) | (with_reducible refine wf_next ?_) | (exact wf_fault _) | (dsimp only) | split | (intro _)))

/-! ## MemEvents -/

theorem wf_gotWord (s : State) (n : Nat) (r : LoadReq) (w : Nat) (pl : Place) (v : W64 × Bool) (h_s : Memory.wf s.ms.mem = true) :
    Memory.wf (gotWord s n r w pl v).ms.mem = true := by
  unfold gotWord
  (repeat' (first | (with_reducible assumption) | (dsimp only) | split | (intro _)))

theorem wf_fetchRemote (s : State) (n : Nat) (r : LoadReq) (lp : LPiece) (w md a : Nat) (h_s : Memory.wf s.ms.mem = true) :
    Memory.wf (fetchRemote s n r lp w md a).ms.mem = true := by
  unfold fetchRemote
  (repeat' (first | (with_reducible assumption) | (with_reducible refine wf_gotWord _ _ _ _ _ _ ?_) | (with_reducible refine wf_proxyFill _ _ _ _ _ ?_) | (dsimp only) | split | (intro _)))

theorem wf_fetchWordFor (s : State) (n : Nat) (lp : LPiece) (must : Bool) (w : Nat) (h_s : Memory.wf s.ms.mem = true) :
    Memory.wf (fetchWordFor s n lp must w).ms.mem = true := by
  unfold fetchWordFor
  (repeat' (first | (with_reducible assumption) | (with_reducible refine wf_snoopWords _ _ ?_) | (with_reducible refine wf_takeHome _ _ ?_) | (with_reducible refine wf_hiveFill _ _ _ _ ?_) | (with_reducible refine wf_gotWord _ _ _ _ _ _ ?_) | (with_reducible refine wf_fetchRemote _ _ _ _ _ _ _ ?_) | (dsimp only) | split | (intro _)))

theorem wf_readSpan (s : State) (n : Nat) (r : LoadReq) (lo hi : Nat) (h_s : Memory.wf s.ms.mem = true) :
    Memory.wf (readSpan s n r lo hi).ms.mem = true := by
  unfold readSpan
  (repeat' (first | (with_reducible assumption) | (with_reducible refine wf_fetchWordFor _ _ _ _ _ ?_) | (with_reducible refine wf_foldl (fun s a h => ?_) _ ?_) | (with_reducible refine wf_foldlM (fun s a h => ?_) _ ?_) | (dsimp only) | split | (intro _)))

theorem wf_execHomeRead (n lo hi : Nat) (s : State) (h_s : Memory.wf s.ms.mem = true) :
    ∀ t, (execHomeRead n lo hi s) = .next t → Memory.wf t.ms.mem = true := by
  unfold execHomeRead
  (repeat' (first | (with_reducible assumption) | (with_reducible refine wf_readSpan _ _ _ _ _ ?_) | (with_reducible refine wf_next ?_) | (exact wf_fault _) | (dsimp only) | split | (intro _)))

theorem wf_execLeaseRequest (n : Nat) (s : State) (h_s : Memory.wf s.ms.mem = true) :
    ∀ t, (execLeaseRequest n s) = .next t → Memory.wf t.ms.mem = true := by
  unfold execLeaseRequest
  (repeat' (first | (with_reducible assumption) | (with_reducible refine wf_holdLease _ _ _ ?_) | (with_reducible refine wf_bumpFresh _ ?_) | (with_reducible refine wf_foldl (fun s a h => ?_) _ ?_) | (with_reducible refine wf_foldlM (fun s a h => ?_) _ ?_) | (with_reducible refine wf_next ?_) | (exact wf_fault _) | (dsimp only) | split | (intro _)))

theorem wf_endTile (s : State) (n : Nat) (r : LoadReq) (u : TBuf) (cells : List Nat) (buf : Nat) (h_s : Memory.wf s.ms.mem = true) :
    Memory.wf (endTile s n r u cells buf).ms.mem = true := by
  unfold endTile
  (repeat' (first | (with_reducible assumption) | (with_reducible refine wf_discardAt _ _ _ ?_) | (with_reducible refine wf_endLoad _ _ _ _ ?_) | (with_reducible refine wf_stage _ _ _ _ _ _ ?_) | (with_reducible refine wf_foldl (fun s a h => ?_) _ ?_) | (with_reducible refine wf_foldlM (fun s a h => ?_) _ ?_) | (dsimp only) | split | (intro _)))

theorem wf_usedWords (s : State) (r : LoadReq) (h_s : Memory.wf s.ms.mem = true) :
    Memory.wf (usedWords s r).ms.mem = true := by
  unfold usedWords
  (repeat' (first | (with_reducible assumption) | (with_reducible refine wf_combUsed _ _ _ ?_) | (with_reducible refine wf_foldl (fun s a h => ?_) _ ?_) | (with_reducible refine wf_foldlM (fun s a h => ?_) _ ?_) | (dsimp only) | split | (intro _)))

theorem wf_dataReply (s : State) (n : Nat) (r : LoadReq) (h_s : Memory.wf s.ms.mem = true) :
    Memory.wf (dataReply s n r).ms.mem = true := by
  unfold dataReply
  (repeat' (first | (with_reducible assumption) | (with_reducible refine wf_failLoad _ _ _ _ _ ?_) | (with_reducible refine wf_fillAll _ _ ?_ _ (by assumption)) | (with_reducible refine wf_modComb _ _ _ ?_) | (with_reducible refine wf_usedWords _ _ ?_) | (with_reducible refine wf_endTile _ _ _ _ _ _ ?_) | (with_reducible refine wf_endLoad _ _ _ _ ?_) | (with_reducible refine wf_acquire _ _ _ _ ?_) | (dsimp only) | split | (intro _)))

theorem wf_spanReply (s : State) (n : Nat) (r : LoadReq) (hive : Bool) (h_s : Memory.wf s.ms.mem = true) :
    Memory.wf (spanReply s n r hive).ms.mem = true := by
  unfold spanReply
  (repeat' (first | (with_reducible assumption) | (with_reducible refine wf_endLoad _ _ _ _ ?_) | (with_reducible refine wf_hiveFill _ _ _ _ ?_) | (with_reducible refine wf_failLoad _ _ _ _ _ ?_) | (with_reducible refine wf_fillAll _ _ ?_ _ (by assumption)) | (with_reducible refine wf_foldl (fun s a h => ?_) _ ?_) | (with_reducible refine wf_foldlM (fun s a h => ?_) _ ?_) | (dsimp only) | split | (intro _)))

theorem wf_armWatch (s : State) (n : Nat) (r : LoadReq) (p : LPiece) (wid : Wid2) (v : W64) (h_s : Memory.wf s.ms.mem = true) :
    Memory.wf (armWatch s n r p wid v).ms.mem = true := by
  unfold armWatch
  (repeat' (first | (with_reducible assumption) | (with_reducible refine wf_endLoad _ _ _ _ ?_) | (with_reducible refine wf_bumpSeq _ ?_) | (dsimp only) | split | (intro _)))

theorem wf_watchSeen (s : State) (n : Nat) (r : LoadReq) (p : LPiece) (c : WatchCond) (wid : Wid2) (cmp : W64) (v : W64 × Bool) (h_s : Memory.wf s.ms.mem = true) :
    Memory.wf (watchSeen s n r p c wid cmp v).ms.mem = true := by
  unfold watchSeen
  (repeat' (first | (with_reducible assumption) | (with_reducible refine wf_failLoad _ _ _ _ _ ?_) | (with_reducible refine wf_endLoad _ _ _ _ ?_) | (with_reducible refine wf_armWatch _ _ _ _ _ _ ?_) | (dsimp only) | split | (intro _)))

theorem wf_watchReply (s : State) (n : Nat) (r : LoadReq) (p : LPiece) (c : WatchCond) (wid : Wid2) (cmp : W64) (h_s : Memory.wf s.ms.mem = true) :
    Memory.wf (watchReply s n r p c wid cmp).ms.mem = true := by
  unfold watchReply
  (repeat' (first | (with_reducible assumption) | (with_reducible refine wf_endLoad _ _ _ _ ?_) | (with_reducible refine wf_watchSeen _ _ _ _ _ _ _ _ ?_) | (with_reducible refine wf_snoopWords _ _ ?_) | (with_reducible refine wf_takeHome _ _ ?_) | (dsimp only) | split | (intro _)))

theorem wf_execLoadReply (n : Nat) (s : State) (h_s : Memory.wf s.ms.mem = true) :
    ∀ t, (execLoadReply n s) = .next t → Memory.wf t.ms.mem = true := by
  unfold execLoadReply
  (repeat' (first | (with_reducible assumption) | (with_reducible refine wf_advance _ _ ?_) | (with_reducible refine wf_watchReply _ _ _ _ _ _ _ ?_) | (with_reducible refine wf_spanReply _ _ _ _ ?_) | (with_reducible refine wf_dataReply _ _ _ ?_) | (with_reducible refine wf_next ?_) | (exact wf_fault _) | (dsimp only) | split | (intro _)))

theorem wf_execWatchExpired (n : Nat) (s : State) (h_s : Memory.wf s.ms.mem = true) :
    ∀ t, (execWatchExpired n s) = .next t → Memory.wf t.ms.mem = true := by
  unfold execWatchExpired
  (repeat' (first | (with_reducible assumption) | (with_reducible refine wf_failLoad _ _ _ _ _ ?_) | (with_reducible refine wf_endWatch _ _ _ _ _ ?_) | (with_reducible refine wf_next ?_) | (exact wf_fault _) | (dsimp only) | split | (intro _)))

theorem wf_freshen (s : State) (c w : Nat) (h_s : Memory.wf s.ms.mem = true) :
    Memory.wf (freshen s c w).ms.mem = true := by
  unfold freshen
  (repeat' (first | (with_reducible assumption) | (with_reducible refine wf_forgetWord _ _ _ ?_) | (with_reducible refine wf_proxyDrop _ _ ?_) | (with_reducible refine wf_dropCopies _ _ _ ?_) | (with_reducible refine wf_foldl (fun s a h => ?_) _ ?_) | (with_reducible refine wf_foldlM (fun s a h => ?_) _ ?_) | (dsimp only) | split | (intro _)))

theorem wf_recordOwner (m : MemSys) (comb w : Nat) (c : CWord) (h_m : Memory.wf m.mem = true) :
    Memory.wf (recordOwner m comb w c).mem = true := by
  unfold recordOwner
  (repeat' (first | (with_reducible assumption) | (with_reducible refine wf_revokeWord _ _ ?_) | (with_reducible refine wf_updComb _ _ _ _ ?_) | (with_reducible refine wf_hiveDrop _ _ ?_) | (dsimp only) | split | (intro _)))

theorem wf_registerAt (s : State) (n : Nat) (r : Reg) (h_s : Memory.wf s.ms.mem = true) :
    Memory.wf (registerAt s n r).ms.mem = true := by
  unfold registerAt
  (repeat' (first | (with_reducible assumption) | (with_reducible refine wf_undelay _ _ ?_) | (with_reducible refine wf_freshen _ _ _ ?_) | (with_reducible refine wf_putHome _ _ _ _ _ ?_) | (with_reducible refine wf_watchScan _ _ ?_) | (with_reducible refine wf_recordOwner _ _ _ _ ?_) | (dsimp only) | split | (intro _)))

theorem wf_execRegistration (n : Nat) (s : State) (h_s : Memory.wf s.ms.mem = true) :
    ∀ t, (execRegistration n s) = .next t → Memory.wf t.ms.mem = true := by
  unfold execRegistration
  (repeat' (first | (with_reducible assumption) | (with_reducible refine wf_delayFor _ _ _ ?_) | (with_reducible refine wf_snoopWords _ _ ?_) | (with_reducible refine wf_registerAt _ _ _ ?_) | (with_reducible refine wf_next ?_) | (exact wf_fault _) | (dsimp only) | split | (intro _)))

theorem wf_execSliceEcho (c slice : Nat) (s : State) (h_s : Memory.wf s.ms.mem = true) :
    ∀ t, (execSliceEcho c slice s) = .next t → Memory.wf t.ms.mem = true := by
  unfold execSliceEcho
  (repeat' (first | (with_reducible assumption) | (with_reducible refine wf_modCtx _ _ _ ?_) | (with_reducible refine wf_pumpCtx _ _ ?_) | (with_reducible refine wf_next ?_) | (exact wf_fault _) | (dsimp only) | split | (intro _)))

theorem wf_remoteScan (s : State) (h_s : Memory.wf s.ms.mem = true) :
    Memory.wf (remoteScan s).ms.mem = true := by
  unfold remoteScan
  (repeat' (first | (with_reducible assumption) | (with_reducible refine wf_failLoad _ _ _ _ _ ?_) | (with_reducible refine wf_endWatch _ _ _ _ _ ?_) | (with_reducible refine wf_foldl (fun s a h => ?_) _ ?_) | (with_reducible refine wf_foldlM (fun s a h => ?_) _ ?_) | (dsimp only) | split | (intro _)))

theorem wf_putHomeAs (raw : Bool) (s : State) (w : Nat) (d : W64) (mask : Byte) (poison : Bool) (h_s : Memory.wf s.ms.mem = true) :
    Memory.wf (putHomeAs raw s w d mask poison).ms.mem = true := by
  unfold putHomeAs
  (repeat' (first | (with_reducible assumption) | (with_reducible refine wf_watchScan _ _ ?_) | (with_reducible refine wf_uncachedWrite _ _ _ _ _ ?_) | (with_reducible refine wf_putHome _ _ _ _ _ ?_) | (dsimp only) | split | (intro _)))

theorem wf_putPlace (s : State) (pl : Option Place) (n d : Nat) (raw : Bool) (mine : Option Nat) (h_s : Memory.wf s.ms.mem = true) :
    ∀ t, (putPlace s pl n d raw mine) = some t → Memory.wf t.ms.mem = true := by
  intro t ht
  unfold putPlace at ht
  (try dsimp only at ht)
  (repeat' (first | split at ht)) <;> (try contradiction) <;> (try (injection ht with ht; first | subst ht | (injection ht with ha ht; subst ht))) <;> (repeat' (first | (with_reducible assumption) | (with_reducible refine wf_putHomeAs _ _ _ _ _ _ ?_) | (with_reducible refine wf_windowWrite _ _ _ _ _ ?_) | (with_reducible refine wf_cfgWrite _ _ _ _ ?_) | (with_reducible refine wf_remoteScan _ ?_) | (with_reducible refine wf_remoteWrite _ _ _ _ ?_) | (dsimp only) | split | (intro _)))

theorem wf_holdAt (s : State) (n : Nat) (pl : Option Place) (h_s : Memory.wf s.ms.mem = true) :
    Memory.wf (holdAt s n pl).ms.mem = true := by
  unfold holdAt
  (repeat' (first | (with_reducible assumption) | (with_reducible refine wf_delayFor _ _ _ ?_) | (with_reducible refine wf_snoopWords _ _ ?_) | (dsimp only) | split | (intro _)))

theorem wf_writeAt (s : State) (n : Nat) (h_s : Memory.wf s.ms.mem = true) :
    Memory.wf (writeAt s n).ms.mem = true := by
  unfold writeAt
  (repeat' (first | (with_reducible assumption) | (with_reducible refine wf_putPlace _ _ _ _ _ _ ?_ _ (by assumption)) | (with_reducible refine wf_freshen _ _ _ ?_) | (with_reducible refine wf_pumpCtx _ _ ?_) | (with_reducible refine wf_undelay _ _ ?_) | (with_reducible refine wf_holdAt _ _ _ ?_) | (dsimp only) | split | (intro _)))

theorem wf_execWriteAck (n : Nat) (s : State) (h_s : Memory.wf s.ms.mem = true) :
    ∀ t, (execWriteAck n s) = .next t → Memory.wf t.ms.mem = true := by
  unfold execWriteAck
  (repeat' (first | (with_reducible assumption) | (with_reducible refine wf_writeAt _ _ ?_) | (with_reducible refine wf_next ?_) | (exact wf_fault _) | (dsimp only) | split | (intro _)))

theorem wf_endAmo (s : State) (n : Nat) (a : AmoReq) (res : RegVal) (h_s : Memory.wf s.ms.mem = true) :
    Memory.wf (endAmo s n a res).ms.mem = true := by
  unfold endAmo
  (repeat' (first | (with_reducible assumption) | (with_reducible refine wf_undelay _ _ ?_) | (with_reducible refine wf_giveReply _ _ _ _ ?_) | (with_reducible refine wf_freshen _ _ _ ?_) | (with_reducible refine wf_pumpCtx _ _ ?_) | (dsimp only) | split | (intro _)))

theorem wf_amoHome (s : State) (raw : Bool) (pa n v : Nat) (h_s : Memory.wf s.ms.mem = true) :
    Memory.wf (amoHome s raw pa n v).ms.mem = true := by
  unfold amoHome
  (repeat' (first | (with_reducible assumption) | (with_reducible refine wf_revokeWord _ _ ?_) | (with_reducible refine wf_putHomeAs _ _ _ _ _ _ ?_) | (dsimp only) | split | (intro _)))

theorem wf_amoWindow (s : State) (n : Nat) (a : AmoReq) (comb off : Nat) (h_s : Memory.wf s.ms.mem = true) :
    Memory.wf (amoWindow s n a comb off).ms.mem = true := by
  unfold amoWindow
  (repeat' (first | (with_reducible assumption) | (with_reducible refine wf_endAmo _ _ _ _ ?_) | (with_reducible refine wf_bumpFresh _ ?_) | (with_reducible refine wf_putPlace _ _ _ _ _ _ ?_ _ (by assumption)) | (with_reducible refine wf_getD ?_ ?_) | (with_reducible refine wf_getDM ?_ ?_) | (dsimp only) | split | (intro _)))

theorem wf_amoAt (s : State) (n : Nat) (h_s : Memory.wf s.ms.mem = true) :
    Memory.wf (amoAt s n).ms.mem = true := by
  unfold amoAt
  (repeat' (first | (with_reducible assumption) | (with_reducible refine wf_endAmo _ _ _ _ ?_) | (with_reducible refine wf_delayFor _ _ _ ?_) | (with_reducible refine wf_snoopWords _ _ ?_) | (with_reducible refine wf_amoHome _ _ _ _ _ ?_) | (with_reducible refine wf_amoWindow _ _ _ _ _ ?_) | (with_reducible refine wf_putPlace _ _ _ _ _ _ ?_ _ (by assumption)) | (with_reducible refine wf_holdAt _ _ _ ?_) | (dsimp only) | split | (intro _)))

theorem wf_execAmoAtHome (n : Nat) (s : State) (h_s : Memory.wf s.ms.mem = true) :
    ∀ t, (execAmoAtHome n s) = .next t → Memory.wf t.ms.mem = true := by
  unfold execAmoAtHome
  (repeat' (first | (with_reducible assumption) | (with_reducible refine wf_amoAt _ _ ?_) | (with_reducible refine wf_next ?_) | (exact wf_fault _) | (dsimp only) | split | (intro _)))

theorem wf_windowReads (s : State) (n : Nat) (r : LoadReq) (h_s : Memory.wf s.ms.mem = true) :
    Memory.wf (windowReads s n r).ms.mem = true := by
  unfold windowReads
  (repeat' (first | (with_reducible assumption) | (with_reducible refine wf_gotWord _ _ _ _ _ _ ?_) | (with_reducible refine wf_foldl (fun s a h => ?_) _ ?_) | (with_reducible refine wf_foldlM (fun s a h => ?_) _ ?_) | (dsimp only) | split | (intro _)))

theorem wf_execOnchipWindowAccess (n : Nat) (s : State) (h_s : Memory.wf s.ms.mem = true) :
    ∀ t, (execOnchipWindowAccess n s) = .next t → Memory.wf t.ms.mem = true := by
  unfold execOnchipWindowAccess
  (repeat' (first | (with_reducible assumption) | (with_reducible refine wf_windowReads _ _ _ ?_) | (with_reducible refine wf_amoAt _ _ ?_) | (with_reducible refine wf_writeAt _ _ ?_) | (with_reducible refine wf_next ?_) | (exact wf_fault _) | (dsimp only) | split | (intro _)))

theorem wf_walkSplit (m : MemSys) (k : Walk) (h_m : Memory.wf m.mem = true) :
    ∀ t, (walkSplit m k) = some t → Memory.wf t.mem = true := by
  intro t ht
  unfold walkSplit at ht
  refine wf_foldl_optM (fun o a h => ?_) _ (wf_someM h_m) t ht
  cases o with
  | none => exact fun _ h => nomatch h
  | some m' => exact wf_splitSet _ _ _ (h m' rfl)

theorem wf_walkComb (k : FlushKind) (m : MemSys) (comb w : Nat) (c : CWord) (h_m : Memory.wf m.mem = true) :
    Memory.wf (walkComb k m comb w c).mem = true := by
  unfold walkComb
  (repeat' (first | (with_reducible assumption) | (with_reducible refine wf_combDropIn _ _ _ _ ?_) | (with_reducible refine wf_writeBack _ _ _ ?_) | (with_reducible refine wf_updComb _ _ _ _ ?_) | (dsimp only) | split | (intro _)))

theorem wf_walkHive (k : Walk) (m : MemSys) (h_m : Memory.wf m.mem = true) :
    Memory.wf (walkHive k m).mem = true := by
  unfold walkHive
  (repeat' (first | (with_reducible assumption) | (with_reducible refine wf_memPutWord _ _ _ _ ?_) | (with_reducible refine wf_hiveEvict _ _ ?_) | (with_reducible refine wf_getD ?_ ?_) | (with_reducible refine wf_getDM ?_ ?_) | (with_reducible refine wf_foldl (fun s a h => ?_) _ ?_) | (with_reducible refine wf_foldlM (fun s a h => ?_) _ ?_) | (dsimp only) | split | (intro _)))

theorem wf_endWalk (s : State) (n : Nat) (k : Walk) (h_s : Memory.wf s.ms.mem = true) :
    Memory.wf (endWalk s n k).ms.mem = true := by
  unfold endWalk
  (repeat' (first | (with_reducible assumption) | (with_reducible refine wf_endEffect _ _ _ _ _ ?_) | (with_reducible refine wf_pumpCtx _ _ ?_) | (dsimp only) | split | (intro _)))

theorem wf_walkSet (s : State) (k : Walk) (h_s : Memory.wf s.ms.mem = true) :
    Memory.wf (walkSet s k).mem = true := by
  unfold walkSet
  (repeat' (first | (with_reducible assumption) | (with_reducible refine wf_walkSplit _ _ ?_ _ (by assumption)) | (with_reducible refine wf_walkComb _ _ _ _ _ ?_) | (with_reducible refine wf_walkHive _ _ ?_) | (with_reducible refine wf_getD ?_ ?_) | (with_reducible refine wf_getDM ?_ ?_) | (with_reducible refine wf_foldl (fun s a h => ?_) _ ?_) | (with_reducible refine wf_foldlM (fun s a h => ?_) _ ?_) | (dsimp only) | split | (intro _)))

theorem wf_execFlushrWalk (n : Nat) (s : State) (h_s : Memory.wf s.ms.mem = true) :
    ∀ t, (execFlushrWalk n s) = .next t → Memory.wf t.ms.mem = true := by
  unfold execFlushrWalk
  (repeat' (first | (with_reducible assumption) | (with_reducible refine wf_walkSet _ _ ?_) | (with_reducible refine wf_endWalk _ _ _ ?_) | (with_reducible refine wf_next ?_) | (exact wf_fault _) | (dsimp only) | split | (intro _)))

theorem wf_execCopyChunk (n : Nat) (s : State) (h_s : Memory.wf s.ms.mem = true) :
    ∀ t, (execCopyChunk n s) = .next t → Memory.wf t.ms.mem = true := by
  unfold execCopyChunk
  (repeat' (first | (with_reducible assumption) | (with_reducible refine wf_copyStep _ _ _ ?_) | (with_reducible refine wf_next ?_) | (exact wf_fault _) | (dsimp only) | split | (intro _)))

theorem wf_execBarrierArrival (n : Nat) (s : State) (h_s : Memory.wf s.ms.mem = true) :
    ∀ t, (execBarrierArrival n s) = .next t → Memory.wf t.ms.mem = true := by
  unfold execBarrierArrival
  (repeat' (first | (with_reducible assumption) | (with_reducible refine wf_advance _ _ ?_) | (with_reducible refine wf_modLaunch _ _ _ ?_) | (with_reducible refine wf_releaseChannel _ _ _ ?_) | (with_reducible refine wf_next ?_) | (exact wf_fault _) | (dsimp only) | split | (intro _)))

theorem wf_execBarTimeout (c : Nat) (s : State) (h_s : Memory.wf s.ms.mem = true) :
    ∀ t, (execBarTimeout c s) = .next t → Memory.wf t.ms.mem = true := by
  unfold execBarTimeout
  (repeat' (first | (with_reducible assumption) | (with_reducible refine wf_acquire _ _ _ _ ?_) | (with_reducible refine wf_setCtx _ _ _ ?_) | (with_reducible refine wf_next ?_) | (exact wf_fault _) | (dsimp only) | split | (intro _)))

theorem wf_lostAmo (s : State) (n : Nat) (a : AmoReq) (h_s : Memory.wf s.ms.mem = true) :
    Memory.wf (lostAmo s n a).ms.mem = true := by
  unfold lostAmo
  (repeat' (first | (with_reducible assumption) | (with_reducible refine wf_putPlace _ _ _ _ _ _ ?_ _ (by assumption)) | (with_reducible refine wf_giveReply _ _ _ _ ?_) | (with_reducible refine wf_bumpFresh _ ?_) | (with_reducible refine wf_undelay _ _ ?_) | (with_reducible refine wf_pumpCtx _ _ ?_) | (with_reducible refine wf_freshen _ _ _ ?_) | (with_reducible refine wf_getD ?_ ?_) | (with_reducible refine wf_getDM ?_ ?_) | (dsimp only) | split | (intro _)))

theorem wf_lostWord (s : State) (raw : Bool) (pl : Option Place) (h_s : Memory.wf s.ms.mem = true) :
    Memory.wf (lostWord s raw pl).ms.mem = true := by
  unfold lostWord
  (repeat' (first | (with_reducible assumption) | (with_reducible refine wf_bumpFresh _ ?_) | (with_reducible refine wf_rawPut _ _ _ _ ?_) | (with_reducible refine wf_homePut _ _ _ _ ?_) | (with_reducible refine wf_remoteWrite _ _ _ _ ?_) | (with_reducible refine wf_windowWrite _ _ _ _ _ ?_) | (dsimp only) | split | (intro _)))

theorem wf_lostChunk (s : State) (n : Nat) (q : CopyReq) (a : Nat) (h_s : Memory.wf s.ms.mem = true) :
    Memory.wf (lostChunk s n q a).ms.mem = true := by
  unfold lostChunk
  (repeat' (first | (with_reducible assumption) | (with_reducible refine wf_endCopy _ _ _ _ ?_) | (with_reducible refine wf_putFaulting _ _ ?_) | (dsimp only) | split | (intro _)))

theorem wf_lateFault (s : State) (c : Nat) (a : W64) (h_s : Memory.wf s.ms.mem = true) :
    Memory.wf (lateFault s c a).ms.mem = true := by
  unfold lateFault
  (repeat' (first | (with_reducible assumption) | (with_reducible refine wf_pumpCtx _ _ ?_) | (with_reducible refine wf_modCtx _ _ _ ?_) | (dsimp only) | split | (intro _)))

theorem wf_execRemoteTimeout (n : Nat) (s : State) (h_s : Memory.wf s.ms.mem = true) :
    ∀ t, (execRemoteTimeout n s) = .next t → Memory.wf t.ms.mem = true := by
  unfold execRemoteTimeout
  (repeat' (first | (with_reducible assumption) | (with_reducible refine wf_failLoad _ _ _ _ _ ?_) | (with_reducible refine wf_lostAmo _ _ _ ?_) | (with_reducible refine wf_lostWord _ _ _ ?_) | (with_reducible refine wf_undelay _ _ ?_) | (with_reducible refine wf_lateFault _ _ _ ?_) | (with_reducible refine wf_combDropIn _ _ _ _ ?_) | (with_reducible refine wf_updComb _ _ _ _ ?_) | (with_reducible refine wf_endCopy _ _ _ _ ?_) | (with_reducible refine wf_lostChunk _ _ _ _ ?_) | (with_reducible refine wf_next ?_) | (exact wf_fault _) | (dsimp only) | split | (intro _)))

theorem wf_execPortDrop (port : Nat) (s : State) (h_s : Memory.wf s.ms.mem = true) :
    ∀ t, (execPortDrop port s) = .next t → Memory.wf t.ms.mem = true := by
  unfold execPortDrop
  (repeat' (first | (with_reducible assumption) | (with_reducible refine wf_next ?_) | (exact wf_fault _) | (dsimp only) | split | (intro _)))

/-! ## SchedEvents -/

theorem wf_execDispatchDecision (part : Nat) (s : State) (h_s : Memory.wf s.ms.mem = true) :
    ∀ t, (execDispatchDecision part s) = .next t → Memory.wf t.ms.mem = true := by
  intro t ht
  unfold execDispatchDecision at ht
  injection ht with ht
  subst ht
  split
  · dsimp only
    have h1 := wf_runPolicy (popDecision s part) part 0 none none (wf_popDecision _ _ h_s)
    have h2 := wf_applyDispatch _ part (runPolicy (popDecision s part) part 0 none none).1 h1
    split
    · exact h2.1 _ (by assumption)
    · exact wf_modPart _ _ _ h2.2
  · exact h_s

theorem wf_execDispatchRetry (part : Nat) (s : State) (h_s : Memory.wf s.ms.mem = true) :
    ∀ t, (execDispatchRetry part s) = .next t → Memory.wf t.ms.mem = true := by
  unfold execDispatchRetry
  (repeat' (first | (with_reducible assumption) | (with_reducible refine wf_requestDispatch _ _ ?_) | (with_reducible refine wf_modPart _ _ _ ?_) | (with_reducible refine wf_next ?_) | (exact wf_fault _) | (dsimp only) | split | (intro _)))

theorem wf_execPreemptionDecision (part queue : Nat) (s : State) (h_s : Memory.wf s.ms.mem = true) :
    ∀ t, (execPreemptionDecision part queue s) = .next t → Memory.wf t.ms.mem = true := by
  unfold execPreemptionDecision
  (repeat' (first | (with_reducible assumption) | (with_reducible refine wf_runPolicy _ _ _ _ _ ?_) | (with_reducible refine wf_popDecision _ _ ?_) | (with_reducible refine wf_requestPreempt _ _ _ ?_) | (with_reducible refine wf_modPart _ _ _ ?_) | (with_reducible refine wf_next ?_) | (exact wf_fault _) | (dsimp only) | split | (intro _)))

theorem wf_execFaultDecision (ctx : Nat) (s : State) (h_s : Memory.wf s.ms.mem = true) :
    ∀ t, (execFaultDecision ctx s) = .next t → Memory.wf t.ms.mem = true := by
  unfold execFaultDecision
  (repeat' (first | (with_reducible assumption) | (with_reducible refine wf_popDecision _ _ ?_) | (with_reducible refine wf_runPolicy _ _ _ _ _ ?_) | (with_reducible refine wf_applyAction _ _ _ _ ?_) | (with_reducible refine wf_next ?_) | (exact wf_fault _) | (dsimp only) | split | (intro _)))

theorem wf_execStarvationCheck (part : Nat) (s : State) (h_s : Memory.wf s.ms.mem = true) :
    ∀ t, (execStarvationCheck part s) = .next t → Memory.wf t.ms.mem = true := by
  unfold execStarvationCheck
  (repeat' (first | (with_reducible assumption) | (with_reducible refine wf_modPart _ _ _ ?_) | (with_reducible refine wf_gangCheck _ _ ?_) | (with_reducible refine wf_preemptCheck _ _ ?_) | (with_reducible refine wf_floorCheck _ _ ?_) | (with_reducible refine wf_next ?_) | (exact wf_fault _) | (dsimp only) | split | (intro _)))

theorem wf_execReservation (part : Nat) (s : State) (h_s : Memory.wf s.ms.mem = true) :
    ∀ t, (execReservation part s) = .next t → Memory.wf t.ms.mem = true := by
  unfold execReservation
  (repeat' (first | (with_reducible assumption) | (with_reducible refine wf_tryReserved _ _ ?_) | (with_reducible refine wf_gangCheck _ _ ?_) | (with_reducible refine wf_next ?_) | (exact wf_fault _) | (dsimp only) | split | (intro _)))

theorem wf_execCompaction (part : Nat) (s : State) (h_s : Memory.wf s.ms.mem = true) :
    ∀ t, (execCompaction part s) = .next t → Memory.wf t.ms.mem = true := by
  unfold execCompaction
  (repeat' (first | (with_reducible assumption) | (with_reducible refine wf_compactFrames _ _ _ ?_) | (with_reducible refine wf_next ?_) | (exact wf_fault _) | (dsimp only) | split | (intro _)))

theorem wf_execPreemptTimeout (ctx : Nat) (s : State) (h_s : Memory.wf s.ms.mem = true) :
    ∀ t, (execPreemptTimeout ctx s) = .next t → Memory.wf t.ms.mem = true := by
  unfold execPreemptTimeout
  (repeat' (first | (with_reducible assumption) | (with_reducible refine wf_stopForSave _ _ _ ?_) | (with_reducible refine wf_next ?_) | (exact wf_fault _) | (dsimp only) | split | (intro _)))

theorem wf_writeSave (s : State) (c : Nat) (h_s : Memory.wf s.ms.mem = true) :
    Memory.wf (writeSave s c).ms.mem = true := by
  unfold writeSave
  (repeat' (first | (with_reducible assumption) | (with_reducible refine wf_finishPreempt _ _ _ _ _ _ ?_) | (with_reducible refine wf_finishAside _ _ _ _ _ ?_) | (dsimp only) | split | (intro _)))

theorem wf_execSaveComplete (ctx : Nat) (s : State) (h_s : Memory.wf s.ms.mem = true) :
    ∀ t, (execSaveComplete ctx s) = .next t → Memory.wf t.ms.mem = true := by
  unfold execSaveComplete
  (repeat' (first | (with_reducible assumption) | (with_reducible refine wf_writeSave _ _ ?_) | (with_reducible refine wf_pumpCtx _ _ ?_) | (with_reducible refine wf_next ?_) | (exact wf_fault _) | (dsimp only) | split | (intro _)))

theorem wf_execPreemptRetry (part : Nat) (s : State) (h_s : Memory.wf s.ms.mem = true) :
    ∀ t, (execPreemptRetry part s) = .next t → Memory.wf t.ms.mem = true := by
  unfold execPreemptRetry
  (repeat' (first | (with_reducible assumption) | (with_reducible refine wf_modPart _ _ _ ?_) | (with_reducible refine wf_modCtx _ _ _ ?_) | (with_reducible refine wf_stopForSave _ _ _ ?_) | (with_reducible refine wf_foldl (fun s a h => ?_) _ ?_) | (with_reducible refine wf_foldlM (fun s a h => ?_) _ ?_) | (with_reducible refine wf_next ?_) | (exact wf_fault _) | (dsimp only) | split | (intro _)))

theorem wf_execNoProgress (ctx : Nat) (s : State) (h_s : Memory.wf s.ms.mem = true) :
    ∀ t, (execNoProgress ctx s) = .next t → Memory.wf t.ms.mem = true := by
  unfold execNoProgress
  (repeat' (first | (with_reducible assumption) | (with_reducible refine wf_modCtx _ _ _ ?_) | (with_reducible refine wf_takeTrap _ _ _ _ _ _ ?_) | (with_reducible refine wf_next ?_) | (exact wf_fault _) | (dsimp only) | split | (intro _)))

/-! ## Packets -/

theorem wf_execLaunch (part queue : Nat) (s : State) (h_s : Memory.wf s.ms.mem = true) :
    ∀ t, (execLaunch part queue s) = .next t → Memory.wf t.ms.mem = true := by
  unfold execLaunch
  (repeat' (first | (with_reducible assumption) | (with_reducible refine wf_startPacket _ _ _ _ ?_) | (with_reducible refine wf_next ?_) | (exact wf_fault _) | (dsimp only) | split | (intro _)))

theorem wf_execDepwait (part queue : Nat) (s : State) (h_s : Memory.wf s.ms.mem = true) :
    ∀ t, (execDepwait part queue s) = .next t → Memory.wf t.ms.mem = true := by
  unfold execDepwait
  (repeat' (first | (with_reducible assumption) | (with_reducible refine wf_startPacket _ _ _ _ ?_) | (with_reducible refine wf_next ?_) | (exact wf_fault _) | (dsimp only) | split | (intro _)))

theorem wf_execSignal (part queue : Nat) (s : State) (h_s : Memory.wf s.ms.mem = true) :
    ∀ t, (execSignal part queue s) = .next t → Memory.wf t.ms.mem = true := by
  unfold execSignal
  (repeat' (first | (with_reducible assumption) | (with_reducible refine wf_startPacket _ _ _ _ ?_) | (with_reducible refine wf_next ?_) | (exact wf_fault _) | (dsimp only) | split | (intro _)))

theorem wf_execCopyb (part queue : Nat) (s : State) (h_s : Memory.wf s.ms.mem = true) :
    ∀ t, (execCopyb part queue s) = .next t → Memory.wf t.ms.mem = true := by
  unfold execCopyb
  (repeat' (first | (with_reducible assumption) | (with_reducible refine wf_startPacket _ _ _ _ ?_) | (with_reducible refine wf_next ?_) | (exact wf_fault _) | (dsimp only) | split | (intro _)))

theorem wf_execPolicy (part queue : Nat) (s : State) (h_s : Memory.wf s.ms.mem = true) :
    ∀ t, (execPolicy part queue s) = .next t → Memory.wf t.ms.mem = true := by
  unfold execPolicy
  (repeat' (first | (with_reducible assumption) | (with_reducible refine wf_startPacket _ _ _ _ ?_) | (with_reducible refine wf_next ?_) | (exact wf_fault _) | (dsimp only) | split | (intro _)))

theorem wf_execFwin (part queue : Nat) (s : State) (h_s : Memory.wf s.ms.mem = true) :
    ∀ t, (execFwin part queue s) = .next t → Memory.wf t.ms.mem = true := by
  unfold execFwin
  (repeat' (first | (with_reducible assumption) | (with_reducible refine wf_startPacket _ _ _ _ ?_) | (with_reducible refine wf_next ?_) | (exact wf_fault _) | (dsimp only) | split | (intro _)))

theorem wf_execTlbinv (part queue : Nat) (s : State) (h_s : Memory.wf s.ms.mem = true) :
    ∀ t, (execTlbinv part queue s) = .next t → Memory.wf t.ms.mem = true := by
  unfold execTlbinv
  (repeat' (first | (with_reducible assumption) | (with_reducible refine wf_startPacket _ _ _ _ ?_) | (with_reducible refine wf_next ?_) | (exact wf_fault _) | (dsimp only) | split | (intro _)))

theorem wf_execSealRange (part queue : Nat) (s : State) (h_s : Memory.wf s.ms.mem = true) :
    ∀ t, (execSealRange part queue s) = .next t → Memory.wf t.ms.mem = true := by
  unfold execSealRange
  (repeat' (first | (with_reducible assumption) | (with_reducible refine wf_startPacket _ _ _ _ ?_) | (with_reducible refine wf_next ?_) | (exact wf_fault _) | (dsimp only) | split | (intro _)))

theorem wf_execUnsealRange (part queue : Nat) (s : State) (h_s : Memory.wf s.ms.mem = true) :
    ∀ t, (execUnsealRange part queue s) = .next t → Memory.wf t.ms.mem = true := by
  unfold execUnsealRange
  (repeat' (first | (with_reducible assumption) | (with_reducible refine wf_startPacket _ _ _ _ ?_) | (with_reducible refine wf_next ?_) | (exact wf_fault _) | (dsimp only) | split | (intro _)))

theorem wf_execResume (part queue : Nat) (s : State) (h_s : Memory.wf s.ms.mem = true) :
    ∀ t, (execResume part queue s) = .next t → Memory.wf t.ms.mem = true := by
  unfold execResume
  (repeat' (first | (with_reducible assumption) | (with_reducible refine wf_startPacket _ _ _ _ ?_) | (with_reducible refine wf_next ?_) | (exact wf_fault _) | (dsimp only) | split | (intro _)))

theorem wf_execMarker (part queue : Nat) (s : State) (h_s : Memory.wf s.ms.mem = true) :
    ∀ t, (execMarker part queue s) = .next t → Memory.wf t.ms.mem = true := by
  unfold execMarker
  (repeat' (first | (with_reducible assumption) | (with_reducible refine wf_startPacket _ _ _ _ ?_) | (with_reducible refine wf_next ?_) | (exact wf_fault _) | (dsimp only) | split | (intro _)))

theorem wf_execDepwaitReread (part queue : Nat) (s : State) (h_s : Memory.wf s.ms.mem = true) :
    ∀ t, (execDepwaitReread part queue s) = .next t → Memory.wf t.ms.mem = true := by
  unfold execDepwaitReread
  (repeat' (first | (with_reducible assumption) | (with_reducible refine wf_readWaits _ _ _ _ ?_ _ (by assumption)) | (with_reducible refine wf_timedWait _ _ _ _ _ ?_ ?_ ?_ _ (by assumption)) | (with_reducible refine wf_modPkt _ _ _ _ _ ?_) | (with_reducible refine wf_stopQueue _ _ _ ?_) | (with_reducible refine wf_endDepwait _ _ _ _ _ ?_) | (with_reducible refine wf_deviceFault _ _ _ _ _ ?_) | (with_reducible refine wf_readCounter _ _ _ _ _ ?_) | (with_reducible refine wf_seenAll _ _ _ ?_) | (with_reducible refine wf_next ?_) | (exact wf_fault _) | (dsimp only) | split | (intro _)))

theorem wf_completeNext (s : State) (p q : Nat) (h_s : Memory.wf s.ms.mem = true) :
    Memory.wf (completeNext s p q).ms.mem = true := by
  unfold completeNext
  (repeat' (first | (with_reducible assumption) | (with_reducible refine wf_completePacket _ _ _ _ ?_) | (with_reducible refine wf_packetWait _ _ _ _ ?_) | (dsimp only) | split | (intro _)))

theorem wf_execPacketComplete (part queue : Nat) (s : State) (h_s : Memory.wf s.ms.mem = true) :
    ∀ t, (execPacketComplete part queue s) = .next t → Memory.wf t.ms.mem = true := by
  unfold execPacketComplete
  (repeat' (first | (with_reducible assumption) | (with_reducible refine wf_completeNext _ _ _ ?_) | (with_reducible refine wf_next ?_) | (exact wf_fault _) | (dsimp only) | split | (intro _)))

theorem wf_retryPacket (s : State) (n : Nat) (h_s : Memory.wf s.ms.mem = true) :
    Memory.wf (retryPacket s n).ms.mem = true := by
  unfold retryPacket
  (repeat' (first | (with_reducible assumption) | (with_reducible refine wf_completeNext _ _ _ ?_) | (with_reducible refine wf_startPacket _ _ _ _ ?_) | (with_reducible refine wf_foldl (fun s a h => ?_) _ ?_) | (with_reducible refine wf_foldlM (fun s a h => ?_) _ ?_) | (dsimp only) | split | (intro _)))

theorem wf_execQueueBind (die : Nat) (s : State) (h_s : Memory.wf s.ms.mem = true) :
    ∀ t, (execQueueBind die s) = .next t → Memory.wf t.ms.mem = true := by
  unfold execQueueBind
  (repeat' (first | (with_reducible assumption) | (with_reducible refine wf_bindQueue _ _ _ _ _ ?_) | (with_reducible refine wf_next ?_) | (exact wf_fault _) | (dsimp only) | split | (intro _)))

theorem wf_execQueueUnbind (die thread : Nat) (s : State) (h_s : Memory.wf s.ms.mem = true) :
    ∀ t, (execQueueUnbind die thread s) = .next t → Memory.wf t.ms.mem = true := by
  unfold execQueueUnbind
  (repeat' (first | (with_reducible assumption) | (with_reducible refine wf_unbindQueue _ _ _ ?_) | (with_reducible refine wf_next ?_) | (exact wf_fault _) | (dsimp only) | split | (intro _)))

theorem wf_execQpWatchdog (die : Nat) (s : State) (h_s : Memory.wf s.ms.mem = true) :
    ∀ t, (execQpWatchdog die s) = .next t → Memory.wf t.ms.mem = true := by
  unfold execQpWatchdog
  (repeat' (first | (with_reducible assumption) | (with_reducible refine wf_modQueue _ _ _ _ ?_) | (with_reducible refine wf_replay _ _ ?_) | (with_reducible refine wf_foldl (fun s a h => ?_) _ ?_) | (with_reducible refine wf_foldlM (fun s a h => ?_) _ ?_) | (with_reducible refine wf_next ?_) | (exact wf_fault _) | (dsimp only) | split | (intro _)))

/-! ## SysEvents -/

theorem wf_takeWords (m : MemSys) (w e0 : Nat) (h_m : Memory.wf m.mem = true) :
    Memory.wf (takeWords m w e0).2.mem = true := by
  induction e0 generalizing m w with
  | zero =>
    unfold takeWords
    (repeat' (first | (with_reducible assumption) | (with_reducible refine wf_takeHome _ _ ?_) | (dsimp only) | split | (intro _)))
  | succ n ih =>
    unfold takeWords
    (repeat' (first | (with_reducible refine ih _ _ ?_) | (with_reducible assumption) | (with_reducible refine wf_takeHome _ _ ?_) | (dsimp only) | split | (intro _)))

theorem wf_putRange (s : State) (pa n data : Nat) (host : Bool) (h_s : Memory.wf s.ms.mem = true) :
    Memory.wf (putRange s pa n data host).ms.mem = true := by
  unfold putRange
  (repeat' (first | (with_reducible assumption) | (with_reducible refine wf_putHome _ _ _ _ _ ?_) | (with_reducible refine wf_foldl (fun s a h => ?_) _ ?_) | (with_reducible refine wf_foldlM (fun s a h => ?_) _ ?_) | (dsimp only) | split | (intro _)))

theorem wf_hostLine (s : State) (pa : Nat) (h_s : Memory.wf s.ms.mem = true) :
    ∀ t, (hostLine s pa) = some t → Memory.wf t.ms.mem = true := by
  intro t ht
  unfold hostLine at ht
  (try dsimp only at ht)
  (repeat' (first | split at ht)) <;> (try contradiction) <;> (try (injection ht with ht; first | subst ht | (injection ht with ha ht; subst ht))) <;> (repeat' (first | (with_reducible assumption) | (with_reducible refine wf_takeWords _ _ _ ?_) | (with_reducible refine wf_trackLine _ _ ?_) | (dsimp only) | split | (intro _)))

theorem wf_hostPut (s : State) (pa n data : Nat) (h_s : Memory.wf s.ms.mem = true) :
    ∀ t, (hostPut s pa n data) = some t → Memory.wf t.ms.mem = true := by
  intro t ht
  unfold hostPut at ht
  (try dsimp only at ht)
  (repeat' (first | split at ht)) <;> (try contradiction) <;> (try (injection ht with ht; first | subst ht | (injection ht with ha ht; subst ht))) <;> (repeat' (first | (with_reducible assumption) | (with_reducible refine wf_putRange _ _ _ _ _ ?_) | (dsimp only) | split | (intro _)))

theorem wf_execBisnpResponse (line : Nat) (dirty : Option (BitVec 512)) (s : State) (h_s : Memory.wf s.ms.mem = true) :
    ∀ t, (execBisnpResponse line dirty s) = .next t → Memory.wf t.ms.mem = true := by
  unfold execBisnpResponse
  (repeat' (first | (with_reducible assumption) | (with_reducible refine wf_putRange _ _ _ _ _ ?_) | (with_reducible refine wf_drainAll _ ?_) | (with_reducible refine wf_untrackLine _ _ ?_) | (with_reducible refine wf_next ?_) | (exact wf_fault _) | (dsimp only) | split | (intro _)))

theorem wf_answer (s : State) (r : Option Nat) (h_s : Memory.wf s.ms.mem = true) :
    Memory.wf (answer s r).ms.mem = true := by
  unfold answer
  (repeat' (first | (with_reducible assumption) | (dsimp only) | split | (intro _)))

theorem wf_grantLease (s : State) (pa : Nat) (h_s : Memory.wf s.ms.mem = true) :
    Memory.wf (grantLease s pa).ms.mem = true := by
  unfold grantLease
  (repeat' (first | (with_reducible assumption) | (with_reducible refine wf_bumpFresh _ ?_) | (dsimp only) | split | (intro _)))

theorem wf_lineReply (s : State) (pa : Nat) (h_s : Memory.wf s.ms.mem = true) :
    ∀ t, (lineReply s pa) = some t → Memory.wf t.ms.mem = true := by
  intro t ht
  unfold lineReply at ht
  (try dsimp only at ht)
  (repeat' (first | split at ht)) <;> (try contradiction) <;> (try (injection ht with ht; first | subst ht | (injection ht with ha ht; subst ht))) <;> (repeat' (first | (with_reducible assumption) | (with_reducible refine wf_takeWords _ _ _ ?_) | (with_reducible refine wf_answer _ _ ?_) | (dsimp only) | split | (intro _)))

theorem wf_atomicReply (s : State) (raw : Bool) (pa n : Nat) (op : StoreOp) (h_s : Memory.wf s.ms.mem = true) :
    ∀ t, (atomicReply s raw pa n op) = some t → Memory.wf t.ms.mem = true := by
  intro t ht
  unfold atomicReply at ht
  (try dsimp only at ht)
  (repeat' (first | split at ht)) <;> (try contradiction) <;> (try (injection ht with ht; first | subst ht | (injection ht with ha ht; subst ht))) <;> (repeat' (first | (with_reducible assumption) | (with_reducible refine wf_answer _ _ ?_) | (with_reducible refine wf_amoHome _ _ _ _ _ ?_) | (dsimp only) | split | (intro _)))

theorem wf_fabricPerform (s : State) (pa : Nat) (op : FabricOp) (h_s : Memory.wf s.ms.mem = true) :
    ∀ t, (fabricPerform s pa op) = some t → Memory.wf t.ms.mem = true := by
  intro t ht
  unfold fabricPerform at ht
  (try dsimp only at ht)
  (repeat' (first | split at ht | (rw [Option.map_eq_some_iff] at ht; obtain ⟨_, _, rfl⟩ := ht))) <;> (try contradiction) <;> (try (injection ht with ht; first | subst ht | (injection ht with ha ht; subst ht))) <;> (repeat' (first | (with_reducible assumption) | (with_reducible refine wf_lineReply _ _ ?_ _ (by assumption)) | (with_reducible refine wf_answer _ _ ?_) | (with_reducible refine wf_putRange _ _ _ _ _ ?_) | (with_reducible refine wf_atomicReply _ _ _ _ _ ?_ _ (by assumption)) | (with_reducible refine wf_grantLease _ _ ?_) | (dsimp only) | split | (intro _)))

theorem wf_rdmaWrite (s : State) (p va n data : Nat) (h_s : Memory.wf s.ms.mem = true) :
    ∀ t, (rdmaWrite s p va n data) = some t → Memory.wf t.ms.mem = true := by
  intro t ht
  unfold rdmaWrite at ht
  (try dsimp only at ht)
  (repeat' (first | split at ht)) <;> (try contradiction) <;> (try (injection ht with ht; first | subst ht | (injection ht with ha ht; subst ht))) <;> (repeat' (first | (with_reducible assumption) | (with_reducible refine wf_answer _ _ ?_) | (with_reducible refine wf_putPlace _ _ _ _ _ _ ?_ _ (by assumption)) | (with_reducible refine wf_getD ?_ ?_) | (with_reducible refine wf_getDM ?_ ?_) | (with_reducible refine wf_foldl (fun s a h => ?_) _ ?_) | (with_reducible refine wf_foldlM (fun s a h => ?_) _ ?_) | (dsimp only) | split | (intro _)))

theorem wf_rdmaRead (s : State) (p va n : Nat) (h_s : Memory.wf s.ms.mem = true) :
    ∀ t, (rdmaRead s p va n) = some t → Memory.wf t.ms.mem = true := by
  intro t ht
  unfold rdmaRead at ht
  (try dsimp only at ht)
  (repeat' (first | split at ht)) <;> (try contradiction) <;> (try (injection ht with ht; first | subst ht | (injection ht with ha ht; subst ht))) <;> (repeat' (first | (with_reducible assumption) | (with_reducible refine wf_answer _ _ ?_) | (with_reducible refine wf_recallWord _ _ ?_) | (with_reducible refine wf_foldl (fun s a h => ?_) _ ?_) | (with_reducible refine wf_foldlM (fun s a h => ?_) _ ?_) | (dsimp only) | split | (intro _)))

theorem wf_rdmaAdd (s : State) (p va : Nat) (v : W64) (h_s : Memory.wf s.ms.mem = true) :
    ∀ t, (rdmaAdd s p va v) = some t → Memory.wf t.ms.mem = true := by
  intro t ht
  unfold rdmaAdd at ht
  (try dsimp only at ht)
  (repeat' (first | split at ht)) <;> (try contradiction) <;> (try (injection ht with ht; first | subst ht | (injection ht with ha ht; subst ht))) <;> (repeat' (first | (with_reducible assumption) | (with_reducible refine wf_answer _ _ ?_) | (with_reducible refine wf_atomicReply _ _ _ _ _ ?_ _ (by assumption)) | (with_reducible refine wf_putPlace _ _ _ _ _ _ ?_ _ (by assumption)) | (with_reducible refine wf_getD ?_ ?_) | (with_reducible refine wf_getDM ?_ ?_) | (dsimp only) | split | (intro _)))

theorem wf_rdmaPerform (s : State) (part : Nat) (rkey : BitVec 32) (va : W64) (op : RdmaOp) (h_s : Memory.wf s.ms.mem = true) :
    ∀ t, (rdmaPerform s part rkey va op) = some t → Memory.wf t.ms.mem = true := by
  intro t ht
  unfold rdmaPerform at ht
  (try dsimp only at ht)
  (repeat' (first | split at ht)) <;> (try contradiction) <;> (try (injection ht with ht; first | subst ht | (injection ht with ha ht; subst ht))) <;> (repeat' (first | (with_reducible assumption) | (with_reducible refine wf_readWaits _ _ _ _ ?_ _ (by assumption)) | (with_reducible refine wf_answer _ _ ?_) | (with_reducible refine wf_deviceFault _ _ _ _ _ ?_) | (with_reducible refine wf_rdmaWrite _ _ _ _ _ ?_ _ (by assumption)) | (with_reducible refine wf_rdmaRead _ _ _ _ ?_ _ (by assumption)) | (with_reducible refine wf_rdmaAdd _ _ _ _ ?_ _ (by assumption)) | (dsimp only) | split | (intro _)))

theorem wf_outsidePerform (s : State) (o : Outside) (h_s : Memory.wf s.ms.mem = true) :
    ∀ t, (outsidePerform s o) = some t → Memory.wf t.ms.mem = true := by
  intro t ht
  unfold outsidePerform at ht
  (try dsimp only at ht)
  (repeat' (first | split at ht)) <;> (try contradiction) <;> (try (injection ht with ht; first | subst ht | (injection ht with ha ht; subst ht))) <;> (repeat' (first | (with_reducible assumption) | (with_reducible refine wf_hostLine _ _ ?_ _ (by assumption)) | (with_reducible refine wf_hostPut _ _ _ _ ?_ _ (by assumption)) | (with_reducible refine wf_fabricPerform _ _ _ ?_ _ (by assumption)) | (with_reducible refine wf_rdmaPerform _ _ _ _ _ ?_ _ (by assumption)) | (with_reducible refine wf_foldl (fun s a h => ?_) _ ?_) | (with_reducible refine wf_foldlM (fun s a h => ?_) _ ?_) | (dsimp only) | split | (intro _)))

theorem wf_outsideWait (s : State) (n : Nat) (o : Outside) (h_s : Memory.wf s.ms.mem = true) :
    Memory.wf (outsideWait s n o).ms.mem = true := by
  unfold outsideWait
  (repeat' (first | (with_reducible assumption) | (with_reducible refine wf_delayFor _ _ _ ?_) | (with_reducible refine wf_snoopLine _ _ ?_) | (with_reducible refine wf_snoopWords _ _ ?_) | (dsimp only) | split | (intro _)))

theorem wf_tryOutside (s : State) (n : Nat) (h_s : Memory.wf s.ms.mem = true) :
    Memory.wf (tryOutside s n).ms.mem = true := by
  unfold tryOutside
  (repeat' (first | (with_reducible assumption) | (with_reducible refine wf_outsidePerform _ _ ?_ _ (by assumption)) | (with_reducible refine wf_undelay _ _ ?_) | (with_reducible refine wf_outsideWait _ _ _ ?_) | (with_reducible refine wf_foldl (fun s a h => ?_) _ ?_) | (with_reducible refine wf_foldlM (fun s a h => ?_) _ ?_) | (dsimp only) | split | (intro _)))

theorem wf_addOutside (s : State) (o : Outside) (h_s : Memory.wf s.ms.mem = true) :
    Memory.wf (addOutside s o).ms.mem = true := by
  unfold addOutside
  (repeat' (first | (with_reducible assumption) | (with_reducible refine wf_tryOutside _ _ ?_) | (with_reducible refine wf_bumpSeq _ ?_) | (dsimp only) | split | (intro _)))

theorem wf_hostCfgRead (s : State) (fn off : Nat) (h_s : Memory.wf s.ms.mem = true) :
    Memory.wf (hostCfgRead s fn off).ms.mem = true := by
  unfold hostCfgRead
  (repeat' (first | (with_reducible assumption) | (dsimp only) | split | (intro _)))

theorem wf_execHostRead (at_ : HostAddr) (s : State) (h_s : Memory.wf s.ms.mem = true) :
    ∀ t, (execHostRead at_ s) = .next t → Memory.wf t.ms.mem = true := by
  unfold execHostRead
  (repeat' (first | (with_reducible assumption) | (with_reducible refine wf_addOutside _ _ ?_) | (with_reducible refine wf_hostCfgRead _ _ _ ?_) | (with_reducible refine wf_next ?_) | (exact wf_fault _) | (dsimp only) | split | (intro _)))

theorem wf_execHostWrite (at_ : HostAddr) (n : Nat) (data : BitVec 512) (s : State) (h_s : Memory.wf s.ms.mem = true) :
    ∀ t, (execHostWrite at_ n data s) = .next t → Memory.wf t.ms.mem = true := by
  unfold execHostWrite
  (repeat' (first | (with_reducible assumption) | (with_reducible refine wf_addOutside _ _ ?_) | (with_reducible refine wf_cfgWrite _ _ _ _ ?_) | (with_reducible refine wf_remoteScan _ ?_) | (with_reducible refine wf_remoteWrite _ _ _ _ ?_) | (with_reducible refine wf_next ?_) | (exact wf_fault _) | (dsimp only) | split | (intro _)))

theorem wf_execFabricRequest (module pa : Nat) (op : FabricOp) (s : State) (h_s : Memory.wf s.ms.mem = true) :
    ∀ t, (execFabricRequest module pa op s) = .next t → Memory.wf t.ms.mem = true := by
  unfold execFabricRequest
  (repeat' (first | (with_reducible assumption) | (with_reducible refine wf_answer _ _ ?_) | (with_reducible refine wf_addOutside _ _ ?_) | (with_reducible refine wf_next ?_) | (exact wf_fault _) | (dsimp only) | split | (intro _)))

theorem wf_execInboundRdma (part qp : Nat) (rkey : BitVec 32) (va : W64) (op : RdmaOp) (s : State) (h_s : Memory.wf s.ms.mem = true) :
    ∀ t, (execInboundRdma part qp rkey va op s) = .next t → Memory.wf t.ms.mem = true := by
  unfold execInboundRdma
  (repeat' (first | (with_reducible assumption) | (with_reducible refine wf_addOutside _ _ ?_) | (with_reducible refine wf_next ?_) | (exact wf_fault _) | (dsimp only) | split | (intro _)))

theorem wf_retryMessage (n : Nat) (s : State) (h_s : Memory.wf s.ms.mem = true) :
    ∀ t, (retryMessage n s) = .next t → Memory.wf t.ms.mem = true := by
  unfold retryMessage
  (repeat' (first | (with_reducible assumption) | (with_reducible refine wf_execRegistration _ _ ?_) | (with_reducible refine wf_execWriteAck _ _ ?_) | (with_reducible refine wf_execAmoAtHome _ _ ?_) | (with_reducible refine wf_execCopyChunk _ _ ?_) | (with_reducible refine wf_tryOutside _ _ ?_) | (with_reducible refine wf_undelay _ _ ?_) | (with_reducible refine wf_drainRecords _ _ _ ?_) | (with_reducible refine wf_retryPacket _ _ ?_) | (with_reducible refine wf_next ?_) | (exact wf_fault _) | (dsimp only) | split | (intro _)))

theorem wf_execLeasedWriteApply (n : Nat) (s : State) (h_s : Memory.wf s.ms.mem = true) :
    ∀ t, (execLeasedWriteApply n s) = .next t → Memory.wf t.ms.mem = true := by
  unfold execLeasedWriteApply
  (repeat' (first | (with_reducible assumption) | (with_reducible refine wf_retryMessage _ _ ?_) | (with_reducible refine wf_tryOutside _ _ ?_) | (with_reducible refine wf_retryMessage _ _ ?_ _ (by assumption)) | (with_reducible refine wf_next ?_) | (exact wf_fault _) | (dsimp only) | split | (intro _)))

theorem wf_execTimeExchange (ok : Bool) (offs : BitVec 24) (master : Nat) (s : State) (h_s : Memory.wf s.ms.mem = true) :
    ∀ t, (execTimeExchange ok offs master s) = .next t → Memory.wf t.ms.mem = true := by
  unfold execTimeExchange
  (repeat' (first | (with_reducible assumption) | (with_reducible refine wf_next ?_) | (exact wf_fault _) | (dsimp only) | split | (intro _)))

theorem wf_execSyncLoss (s : State) (h_s : Memory.wf s.ms.mem = true) :
    ∀ t, (execSyncLoss s) = .next t → Memory.wf t.ms.mem = true := by
  unfold execSyncLoss
  (repeat' (first | (with_reducible assumption) | (with_reducible refine wf_next ?_) | (exact wf_fault _) | (dsimp only) | split | (intro _)))

theorem wf_execTimeBaseResume (s : State) (h_s : Memory.wf s.ms.mem = true) :
    ∀ t, (execTimeBaseResume s) = .next t → Memory.wf t.ms.mem = true := by
  unfold execTimeBaseResume
  (repeat' (first | (with_reducible assumption) | (with_reducible refine wf_combDrop _ _ _ ?_) | (with_reducible refine wf_foldl (fun s a h => ?_) _ ?_) | (with_reducible refine wf_foldlM (fun s a h => ?_) _ ?_) | (with_reducible refine wf_next ?_) | (exact wf_fault _) | (dsimp only) | split | (intro _)))

theorem wf_logEvent (s : State) (kind loc : Nat) (h_s : Memory.wf s.ms.mem = true) :
    Memory.wf (logEvent s kind loc).ms.mem = true := by
  unfold logEvent
  (repeat' (first | (with_reducible assumption) | (dsimp only) | split | (intro _)))

theorem wf_cancelCopies (s : State) (c : Nat) (h_s : Memory.wf s.ms.mem = true) :
    Memory.wf (cancelCopies s c).ms.mem = true := by
  unfold cancelCopies
  (repeat' (first | (with_reducible assumption) | (with_reducible refine wf_modCtx _ _ _ ?_) | (dsimp only) | split | (intro _)))

theorem wf_machineCheck (s : State) (c : Nat) (h_s : Memory.wf s.ms.mem = true) :
    Memory.wf (machineCheck s c).ms.mem = true := by
  unfold machineCheck
  (repeat' (first | (with_reducible assumption) | (with_reducible refine wf_faultRecord _ _ _ ?_) | (with_reducible refine wf_killTask _ _ ?_) | (with_reducible refine wf_cancelCopies _ _ ?_) | (with_reducible refine wf_getD ?_ ?_) | (with_reducible refine wf_getDM ?_ ?_) | (dsimp only) | split | (intro _)))

theorem wf_deferWord (comb : Nat) (s : State) (e : Nat × CWord × Nat) (h_s : Memory.wf s.ms.mem = true) :
    Memory.wf (deferWord comb s e).ms.mem = true := by
  unfold deferWord
  (repeat' (first | (with_reducible assumption) | (with_reducible refine wf_revokeWord _ _ ?_) | (with_reducible refine wf_updComb _ _ _ _ ?_) | (dsimp only) | split | (intro _)))

theorem wf_sealComb (s : State) (comb : Nat) (h_s : Memory.wf s.ms.mem = true) :
    Memory.wf (sealComb s comb).ms.mem = true := by
  unfold sealComb
  (repeat' (first | (with_reducible assumption) | (with_reducible refine wf_modComb _ _ _ ?_) | (with_reducible refine wf_machineCheck _ _ ?_) | (with_reducible refine wf_deferWord _ _ _ ?_) | (with_reducible refine wf_flushComb _ _ ?_) | (with_reducible refine wf_pumpAll _ ?_) | (with_reducible refine wf_logEvent _ _ _ ?_) | (with_reducible refine wf_foldl (fun s a h => ?_) _ ?_) | (with_reducible refine wf_foldlM (fun s a h => ?_) _ ?_) | (dsimp only) | split | (intro _)))

theorem wf_updHive (m : MemSys) (key w : Nat) (f : CWord → CWord) (h_m : Memory.wf m.mem = true) :
    Memory.wf (updHive m key w f).mem = true := by
  unfold updHive
  (repeat' (first | (with_reducible assumption) | (dsimp only) | split | (intro _)))

theorem wf_poisonWord (s : State) (w : Nat) (h_s : Memory.wf s.ms.mem = true) :
    Memory.wf (poisonWord s w).ms.mem = true := by
  unfold poisonWord
  (repeat' (first | (with_reducible assumption) | (with_reducible refine wf_rawPut _ _ _ _ ?_) | (with_reducible refine wf_poisonWindow _ _ _ ?_) | (with_reducible refine wf_updHive _ _ _ _ ?_) | (with_reducible refine wf_foldl (fun s a h => ?_) _ ?_) | (with_reducible refine wf_foldlM (fun s a h => ?_) _ ?_) | (dsimp only) | split | (intro _)))

theorem wf_poisonCopy (s : State) (comb w : Nat) (h_s : Memory.wf s.ms.mem = true) :
    Memory.wf (poisonCopy s comb w).ms.mem = true := by
  unfold poisonCopy
  (repeat' (first | (with_reducible assumption) | (with_reducible refine wf_updComb _ _ _ _ ?_) | (dsimp only) | split | (intro _)))

theorem wf_unseenByte (s : State) (pa : Nat) (flips : Byte) (h_s : Memory.wf s.ms.mem = true) :
    Memory.wf (unseenByte s pa flips).ms.mem = true := by
  unfold unseenByte
  (repeat' (first | (with_reducible assumption) | (with_reducible refine wf_memSet ?_ _ _) | (dsimp only) | split | (intro _)))

theorem wf_countCarry (s : State) (h_s : Memory.wf s.ms.mem = true) :
    Memory.wf (countCarry s).ms.mem = true := by
  unfold countCarry
  (repeat' (first | (with_reducible assumption) | (dsimp only) | split | (intro _)))

theorem wf_unseenCopy (s : State) (pa : Nat) (flips : Byte) (held : Bool) (change : State → State) (poison : State → Nat → State) (h_s : Memory.wf s.ms.mem = true) (h_change : ∀ y0, Memory.wf y0.ms.mem = true → Memory.wf (change y0).ms.mem = true) (h_poison : ∀ y0 y1, Memory.wf y0.ms.mem = true → Memory.wf (poison y0 y1).ms.mem = true) :
    Memory.wf (unseenCopy s pa flips held change poison).ms.mem = true := by
  unfold unseenCopy
  (repeat' (first | (with_reducible assumption) | (with_reducible refine wf_countCarry _ ?_) | (with_reducible refine h_change _ ?_) | (with_reducible refine h_poison _ _ ?_) | (with_reducible refine wf_foldl (fun s a h => ?_) _ ?_) | (with_reducible refine wf_foldlM (fun s a h => ?_) _ ?_) | (dsimp only) | split | (intro _)))

theorem wf_poisonReply (n : Nat) (s : State) (w : Nat) (h_s : Memory.wf s.ms.mem = true) :
    Memory.wf (poisonReply n s w).ms.mem = true := by
  unfold poisonReply
  (repeat' (first | (with_reducible assumption) | (dsimp only) | split | (intro _)))

theorem wf_flipWindow (pa : Nat) (flips : Byte) (s : State) (h_s : Memory.wf s.ms.mem = true) :
    Memory.wf (flipWindow pa flips s).ms.mem = true := by
  have two : ∀ (a b : Nat) (x : W64), Memory.wf (if windowPoison s a b then poisonWindow (windowWrite s a b x 0xFF) a b else windowWrite s a b x 0xFF).ms.mem = true := by
    intro a b x
    split
    · exact wf_poisonWindow _ _ _ (wf_windowWrite _ _ _ _ _ h_s)
    · exact wf_windowWrite _ _ _ _ _ h_s
  have e : flipWindow pa flips s = (if windowPoison s (windowOf pa).1 ((windowOf pa).2 / 8 * 8) then poisonWindow (windowWrite s (windowOf pa).1 ((windowOf pa).2 / 8 * 8) (windowWord s (windowOf pa).1 ((windowOf pa).2 / 8 * 8) ^^^ flipBits pa flips) 0xFF) (windowOf pa).1 ((windowOf pa).2 / 8 * 8) else windowWrite s (windowOf pa).1 ((windowOf pa).2 / 8 * 8) (windowWord s (windowOf pa).1 ((windowOf pa).2 / 8 * 8) ^^^ flipBits pa flips) 0xFF) := rfl
  rw [e]
  exact two _ _ _

theorem wf_unseenError (s : State) (site : UnseenSite) (flips : Byte) (h_s : Memory.wf s.ms.mem = true) :
    Memory.wf (unseenError s site flips).ms.mem = true := by
  cases site with
  | byte pa =>
    have two : ∀ H : Bool, Memory.wf (if isLocal pa then unseenByte s pa flips else unseenCopy s pa flips H (flipWindow pa flips) poisonWord).ms.mem = true := by
      intro H
      refine wf_choose _ (wf_unseenByte _ _ _ h_s) ?_
      exact wf_unseenCopy _ _ _ _ _ _ h_s (fun t h => wf_flipWindow _ _ _ h) (fun t w h => wf_poisonWord _ _ h)
    have e : unseenError s (.byte pa) flips = (if isLocal pa then unseenByte s pa flips else unseenCopy s pa flips (isWindow pa && decide ((windowOf pa).2 < 0x18C000)) (flipWindow pa flips) poisonWord) := rfl
    rw [e]
    exact two _
  | copy comb pa =>
    unfold unseenError
    exact wf_unseenCopy _ _ _ _ _ _ h_s (fun t h => wf_updComb _ _ _ _ h) (fun t w h => wf_poisonCopy _ _ _ h)
  | slice die pa =>
    unfold unseenError
    exact wf_unseenCopy _ _ _ _ _ _ h_s (fun t h => wf_updHive _ _ _ _ h) (fun t w h => wf_updHive _ _ _ _ h)
  | reply n pa =>
    unfold unseenError
    refine wf_unseenCopy _ _ _ _ _ _ h_s (fun t h => ?_) (fun t w h => wf_poisonReply _ _ _ h)
    dsimp only
    split <;> exact h

theorem wf_loseWord (s : State) (w : Nat) (h_s : Memory.wf s.ms.mem = true) :
    Memory.wf (loseWord s w).ms.mem = true := by
  unfold loseWord
  (repeat' (first | (with_reducible assumption) | (with_reducible refine wf_watchScan _ _ ?_) | (with_reducible refine wf_homePut _ _ _ _ ?_) | (with_reducible refine wf_proxyDrop _ _ ?_) | (with_reducible refine wf_remoteScan _ ?_) | (dsimp only) | split | (intro _)))

theorem wf_loseRecords (s : State) (slice : Nat) (h_s : Memory.wf s.ms.mem = true) :
    Memory.wf (loseRecords s slice).ms.mem = true := by
  unfold loseRecords
  (repeat' (first | (with_reducible assumption) | (with_reducible refine wf_loseWord _ _ ?_) | (with_reducible refine wf_foldl (fun s a h => ?_) _ ?_) | (with_reducible refine wf_foldlM (fun s a h => ?_) _ ?_) | (dsimp only) | split | (intro _)))

theorem wf_uncorrectable (s : State) (site : ErrorSite) (h_s : Memory.wf s.ms.mem = true) :
    Memory.wf (uncorrectable s site).ms.mem = true := by
  unfold uncorrectable
  (repeat' (first | (with_reducible assumption) | (with_reducible refine wf_logEvent _ _ _ ?_) | (with_reducible refine wf_poisonWord _ _ ?_) | (with_reducible refine wf_poisonCopy _ _ _ ?_) | (with_reducible refine wf_unseenError _ _ _ ?_) | (with_reducible refine wf_sealComb _ _ ?_) | (with_reducible refine wf_loseRecords _ _ ?_) | (with_reducible refine wf_foldl (fun s a h => ?_) _ ?_) | (with_reducible refine wf_foldlM (fun s a h => ?_) _ ?_) | (dsimp only) | split | (intro _)))

theorem wf_execSramError (site : ErrorSite) (uncorrectable_ : Bool) (s : State) (h_s : Memory.wf s.ms.mem = true) :
    ∀ t, (execSramError site uncorrectable_ s) = .next t → Memory.wf t.ms.mem = true := by
  unfold execSramError
  (repeat' (first | (with_reducible assumption) | (with_reducible refine wf_uncorrectable _ _ ?_) | (with_reducible refine wf_unseenError _ _ _ ?_) | (with_reducible refine wf_next ?_) | (exact wf_fault _) | (dsimp only) | split | (intro _)))

theorem wf_setClock (s : State) (mhz : Nat) (h_s : Memory.wf s.ms.mem = true) :
    Memory.wf (setClock s mhz).ms.mem = true := by
  unfold setClock
  (repeat' (first | (with_reducible assumption) | (dsimp only) | split | (intro _)))

theorem wf_readings (s : State) (watts celsius : Nat) (h_s : Memory.wf s.ms.mem = true) :
    Memory.wf (readings s watts celsius).ms.mem = true := by
  unfold readings
  (repeat' (first | (with_reducible assumption) | (dsimp only) | split | (intro _)))

theorem wf_tripNow (s : State) (h_s : Memory.wf s.ms.mem = true) :
    Memory.wf (tripNow s).ms.mem = true := by
  unfold tripNow
  (repeat' (first | (with_reducible assumption) | (with_reducible refine wf_faultRecord _ _ _ ?_) | (with_reducible refine wf_killTask _ _ ?_) | (with_reducible refine wf_cancelCopies _ _ ?_) | (with_reducible refine wf_foldl (fun s a h => ?_) _ ?_) | (with_reducible refine wf_foldlM (fun s a h => ?_) _ ?_) | (dsimp only) | split | (intro _)))

theorem wf_execClockStepDown (watts celsius : Nat) (s : State) (h_s : Memory.wf s.ms.mem = true) :
    ∀ t, (execClockStepDown watts celsius s) = .next t → Memory.wf t.ms.mem = true := by
  unfold execClockStepDown
  (repeat' (first | (with_reducible assumption) | (with_reducible refine wf_readings _ _ _ ?_) | (with_reducible refine wf_tripNow _ ?_) | (with_reducible refine wf_setClock _ _ ?_) | (with_reducible refine wf_next ?_) | (exact wf_fault _) | (dsimp only) | split | (intro _)))

theorem wf_execClockStepUp (watts celsius : Nat) (s : State) (h_s : Memory.wf s.ms.mem = true) :
    ∀ t, (execClockStepUp watts celsius s) = .next t → Memory.wf t.ms.mem = true := by
  unfold execClockStepUp
  (repeat' (first | (with_reducible assumption) | (with_reducible refine wf_readings _ _ _ ?_) | (with_reducible refine wf_tripNow _ ?_) | (with_reducible refine wf_setClock _ _ ?_) | (with_reducible refine wf_next ?_) | (exact wf_fault _) | (dsimp only) | split | (intro _)))

theorem wf_execThermalTrip (celsius : Nat) (s : State) (h_s : Memory.wf s.ms.mem = true) :
    ∀ t, (execThermalTrip celsius s) = .next t → Memory.wf t.ms.mem = true := by
  unfold execThermalTrip
  (repeat' (first | (with_reducible assumption) | (with_reducible refine wf_readings _ _ _ ?_) | (with_reducible refine wf_tripNow _ ?_) | (with_reducible refine wf_next ?_) | (exact wf_fault _) | (dsimp only) | split | (intro _)))

theorem wf_execPowerOn (s : State) (h_s : Memory.wf s.ms.mem = true) :
    ∀ t, (execPowerOn s) = .next t → Memory.wf t.ms.mem = true := by
  unfold execPowerOn
  (repeat' (first | (with_reducible assumption) | (with_reducible refine wf_beginStart _ _ ?_) | (with_reducible refine wf_next ?_) | (exact wf_fault _) | (dsimp only) | split | (intro _)))

theorem wf_execStartStage (retainedOk : Bool) (s : State) (h_s : Memory.wf s.ms.mem = true) :
    ∀ t, (execStartStage retainedOk s) = .next t → Memory.wf t.ms.mem = true := by
  unfold execStartStage
  (repeat' (first | (with_reducible assumption) | (with_reducible refine wf_nextStage _ _ ?_) | (with_reducible refine wf_next ?_) | (exact wf_fault _) | (dsimp only) | split | (intro _)))

theorem wf_execStartFailure (code : BitVec 8) (s : State) (h_s : Memory.wf s.ms.mem = true) :
    ∀ t, (execStartFailure code s) = .next t → Memory.wf t.ms.mem = true := by
  unfold execStartFailure
  (repeat' (first | (with_reducible assumption) | (with_reducible refine wf_failStart _ _ ?_) | (with_reducible refine wf_next ?_) | (exact wf_fault _) | (dsimp only) | split | (intro _)))

theorem wf_execPowerLoss (s : State) (h_s : Memory.wf s.ms.mem = true) :
    ∀ t, (execPowerLoss s) = .next t → Memory.wf t.ms.mem = true := by
  unfold execPowerLoss
  (repeat' (first | (with_reducible assumption) | (with_reducible refine wf_beginStart _ _ ?_) | (with_reducible refine wf_next ?_) | (exact wf_fault _) | (dsimp only) | split | (intro _)))

theorem wf_execFrameScrubDone (frame : Nat) (s : State) (h_s : Memory.wf s.ms.mem = true) :
    ∀ t, (execFrameScrubDone frame s) = .next t → Memory.wf t.ms.mem = true := by
  unfold execFrameScrubDone
  (repeat' (first | (with_reducible assumption) | (with_reducible refine wf_scrubFrame _ _ ?_) | (with_reducible refine wf_requestDispatch _ _ ?_) | (with_reducible refine wf_settleFrames _ _ ?_) | (with_reducible refine wf_next ?_) | (exact wf_fault _) | (dsimp only) | split | (intro _)))

theorem wf_execStopComplete (part : Nat) (s : State) (h_s : Memory.wf s.ms.mem = true) :
    ∀ t, (execStopComplete part s) = .next t → Memory.wf t.ms.mem = true := by
  unfold execStopComplete
  (repeat' (first | (with_reducible assumption) | (with_reducible refine wf_modPart _ _ _ ?_) | (with_reducible refine wf_next ?_) | (exact wf_fault _) | (dsimp only) | split | (intro _)))

theorem wf_queueAccess (by_ : CfgAgent) (part queue o : Nat) (s : State) (f : State → State) (h_s : Memory.wf s.ms.mem = true) (h_f : ∀ y0, Memory.wf y0.ms.mem = true → Memory.wf (f y0).ms.mem = true) :
    Memory.wf (queueAccess by_ part queue o s f).ms.mem = true := by
  unfold queueAccess
  (repeat' (first | (with_reducible assumption) | (with_reducible refine h_f _ ?_) | (dsimp only) | split | (intro _)))

theorem wf_execQwr (by_ : CfgAgent) (part queue : Nat) (v : BitVec 32) (s : State) (h_s : Memory.wf s.ms.mem = true) :
    ∀ t, (execQwr by_ part queue v s) = .next t → Memory.wf t.ms.mem = true := by
  intro t ht
  unfold execQwr at ht
  injection ht with ht
  subst ht
  exact wf_queueAccess _ _ _ _ s _ h_s (fun s h => wf_writeQwr s _ _ _ h)

theorem wf_execQbase (by_ : CfgAgent) (part queue : Nat) (v : W64) (s : State) (h_s : Memory.wf s.ms.mem = true) :
    ∀ t, (execQbase by_ part queue v s) = .next t → Memory.wf t.ms.mem = true := by
  unfold execQbase
  (repeat' (first | (with_reducible assumption) | (with_reducible refine wf_queueAccess _ _ _ _ _ _ ?_ ?_) | (with_reducible refine wf_writeQbase _ _ _ _ ?_) | (with_reducible refine wf_next ?_) | (exact wf_fault _) | (dsimp only) | split | (intro _)))

theorem wf_execQctl (by_ : CfgAgent) (part queue : Nat) (v : W64) (s : State) (h_s : Memory.wf s.ms.mem = true) :
    ∀ t, (execQctl by_ part queue v s) = .next t → Memory.wf t.ms.mem = true := by
  unfold execQctl
  (repeat' (first | (with_reducible assumption) | (with_reducible refine wf_queueAccess _ _ _ _ _ _ ?_ ?_) | (with_reducible refine wf_writeQctl _ _ _ _ ?_) | (with_reducible refine wf_next ?_) | (exact wf_fault _) | (dsimp only) | split | (intro _)))

theorem wf_execQflt (by_ : CfgAgent) (part queue : Nat) (s : State) (h_s : Memory.wf s.ms.mem = true) :
    ∀ t, (execQflt by_ part queue s) = .next t → Memory.wf t.ms.mem = true := by
  unfold execQflt
  (repeat' (first | (with_reducible assumption) | (with_reducible refine wf_queueAccess _ _ _ _ _ _ ?_ ?_) | (with_reducible refine wf_writeQstat _ _ _ _ ?_) | (with_reducible refine wf_next ?_) | (exact wf_fault _) | (dsimp only) | split | (intro _)))

theorem wf_adminAccess (by_ : CfgAgent) (part o : Nat) (s : State) (f : State → State) (h_s : Memory.wf s.ms.mem = true) (h_f : ∀ y0, Memory.wf y0.ms.mem = true → Memory.wf (f y0).ms.mem = true) :
    Memory.wf (adminAccess by_ part o s f).ms.mem = true := by
  unfold adminAccess
  (repeat' (first | (with_reducible assumption) | (with_reducible refine h_f _ ?_) | (dsimp only) | split | (intro _)))

theorem wf_execPartitionStop (by_ : CfgAgent) (part : Nat) (s : State) (h_s : Memory.wf s.ms.mem = true) :
    ∀ t, (execPartitionStop by_ part s) = .next t → Memory.wf t.ms.mem = true := by
  unfold execPartitionStop
  (repeat' (first | (with_reducible assumption) | (with_reducible refine wf_adminAccess _ _ _ _ _ ?_ ?_) | (with_reducible refine wf_stopPartition _ _ ?_) | (with_reducible refine wf_next ?_) | (exact wf_fault _) | (dsimp only) | split | (intro _)))

theorem wf_execPartitionStart (by_ : CfgAgent) (part : Nat) (s : State) (h_s : Memory.wf s.ms.mem = true) :
    ∀ t, (execPartitionStart by_ part s) = .next t → Memory.wf t.ms.mem = true := by
  unfold execPartitionStart
  (repeat' (first | (with_reducible assumption) | (with_reducible refine wf_adminAccess _ _ _ _ _ ?_ ?_) | (with_reducible refine wf_startPartition _ _ ?_) | (with_reducible refine wf_next ?_) | (exact wf_fault _) | (dsimp only) | split | (intro _)))

theorem wf_execPframes (by_ : CfgAgent) (part : Nat) (v : W64) (s : State) (h_s : Memory.wf s.ms.mem = true) :
    ∀ t, (execPframes by_ part v s) = .next t → Memory.wf t.ms.mem = true := by
  unfold execPframes
  (repeat' (first | (with_reducible assumption) | (with_reducible refine wf_adminAccess _ _ _ _ _ ?_ ?_) | (with_reducible refine wf_writePframes _ _ _ ?_) | (with_reducible refine wf_next ?_) | (exact wf_fault _) | (dsimp only) | split | (intro _)))

theorem wf_execRegisterWrite (by_ : CfgAgent) (off size : Nat) (v : W64) (s : State) (h_s : Memory.wf s.ms.mem = true) :
    ∀ t, (execRegisterWrite by_ off size v s) = .next t → Memory.wf t.ms.mem = true := by
  unfold execRegisterWrite
  (repeat' (first | (with_reducible assumption) | (with_reducible refine wf_cfgWrite _ _ _ _ ?_) | (with_reducible refine wf_next ?_) | (exact wf_fault _) | (dsimp only) | split | (intro _)))

theorem wf_execImgchunk (s : State) (h_s : Memory.wf s.ms.mem = true) :
    ∀ t, (execImgchunk s) = .next t → Memory.wf t.ms.mem = true := by
  unfold execImgchunk
  (repeat' (first | (with_reducible assumption) | (with_reducible refine wf_runImgchunk _ ?_) | (with_reducible refine wf_next ?_) | (exact wf_fault _) | (dsimp only) | split | (intro _)))

theorem wf_execImgcommit (written : Bool) (s : State) (h_s : Memory.wf s.ms.mem = true) :
    ∀ t, (execImgcommit written s) = .next t → Memory.wf t.ms.mem = true := by
  unfold execImgcommit
  (repeat' (first | (with_reducible assumption) | (with_reducible refine wf_runImgcommit _ _ ?_) | (with_reducible refine wf_next ?_) | (exact wf_fault _) | (dsimp only) | split | (intro _)))

theorem wf_execAttest (s : State) (h_s : Memory.wf s.ms.mem = true) :
    ∀ t, (execAttest s) = .next t → Memory.wf t.ms.mem = true := by
  unfold execAttest
  (repeat' (first | (with_reducible assumption) | (with_reducible refine wf_runAttest _ ?_) | (with_reducible refine wf_next ?_) | (exact wf_fault _) | (dsimp only) | split | (intro _)))

theorem wf_execOwner (s : State) (h_s : Memory.wf s.ms.mem = true) :
    ∀ t, (execOwner s) = .next t → Memory.wf t.ms.mem = true := by
  unfold execOwner
  (repeat' (first | (with_reducible assumption) | (with_reducible refine wf_runOwner _ ?_) | (with_reducible refine wf_next ?_) | (exact wf_fault _) | (dsimp only) | split | (intro _)))

theorem wf_execResetWarm (s : State) (h_s : Memory.wf s.ms.mem = true) :
    ∀ t, (execResetWarm s) = .next t → Memory.wf t.ms.mem = true := by
  unfold execResetWarm
  (repeat' (first | (with_reducible assumption) | (with_reducible refine wf_cmdEnd _ _ ?_) | (with_reducible refine wf_beginStart _ _ ?_) | (with_reducible refine wf_next ?_) | (exact wf_fault _) | (dsimp only) | split | (intro _)))

theorem wf_execResetCold (s : State) (h_s : Memory.wf s.ms.mem = true) :
    ∀ t, (execResetCold s) = .next t → Memory.wf t.ms.mem = true := by
  unfold execResetCold
  (repeat' (first | (with_reducible assumption) | (with_reducible refine wf_beginStart _ _ ?_) | (with_reducible refine wf_next ?_) | (exact wf_fault _) | (dsimp only) | split | (intro _)))

theorem wf_execResetClear (s : State) (h_s : Memory.wf s.ms.mem = true) :
    ∀ t, (execResetClear s) = .next t → Memory.wf t.ms.mem = true := by
  unfold execResetClear
  (repeat' (first | (with_reducible assumption) | (with_reducible refine wf_beginStart _ _ ?_) | (with_reducible refine wf_next ?_) | (exact wf_fault _) | (dsimp only) | split | (intro _)))

theorem wf_execMailboxCommandComplete (s : State) (h_s : Memory.wf s.ms.mem = true) :
    ∀ t, (execMailboxCommandComplete s) = .next t → Memory.wf t.ms.mem = true := by
  unfold execMailboxCommandComplete
  (repeat' (first | (with_reducible assumption) | (with_reducible refine wf_next ?_) | (exact wf_fault _) | (dsimp only) | split | (intro _)))

end Sys2Proof.Machine
end

