-- ==== Sys2Proof/Laws/Lanes.lean ====
section
/-! SUPPORT. Lanes and sub-elements: what a lane of a built vector and a sub-element of a built lane hold (R195). -/

namespace Sys2Proof.Machine

theorem lane_shifted (acc : Lanes) (w : Word) (i : Nat) (h : i < 15) :
    lane ((acc <<< 32) ||| w.zeroExtend 512) (i + 1) = lane acc i := by
  apply BitVec.eq_of_getLsbD_eq
  intro j hj
  simp only [lane, BitVec.getLsbD_extractLsb', BitVec.getLsbD_or, BitVec.getLsbD_shiftLeft, BitVec.truncate_eq_setWidth, BitVec.getLsbD_setWidth]
  have h1 : ¬ (32 * (i + 1) + j < 32) := by omega
  have h2 : 32 * (i + 1) + j < 512 := by omega
  have h3 : 32 * (i + 1) + j - 32 = 32 * i + j := by omega
  have h4 : w.getLsbD (32 * (i + 1) + j) = false := BitVec.getLsbD_of_ge _ _ (by omega)
  simp [hj, h1, h2, h3, h4]

theorem lane_zero_or (acc : Lanes) (w : Word) : lane ((acc <<< 32) ||| w.zeroExtend 512) 0 = w := by
  apply BitVec.eq_of_getLsbD_eq
  intro j hj
  have h2 : j < 512 := by omega
  simp [lane, hj, h2]

theorem lane_fold (f : Nat → Word) : ∀ (n a i : Nat), n ≤ 16 → i < n →
    lane ((rangeFrom a n).foldr (fun i acc => (acc <<< 32) ||| (f i).zeroExtend 512) 0) i = f (a + i)
  | n + 1, a, 0, _, _ => lane_zero_or _ _
  | n + 1, a, i + 1, hn, hi => by
    rw [rangeFrom, List.foldr_cons, lane_shifted _ _ _ (by omega), lane_fold f n (a + 1) i (by omega) (by omega)]
    congr 1; omega

theorem lane_mkLanes (f : Nat → Word) (i : Nat) (h : i < 16) : lane (mkLanes f) i = f i := by
  simpa [mkLanes, upTo] using lane_fold f 16 0 i (by omega) h

theorem mask_fold (f : Nat → Bool) : ∀ (n a i : Nat), n ≤ 16 → i < n →
    ((rangeFrom a n).foldr (fun i (acc : Mask) => (acc <<< 1) ||| (if f i then 1 else 0)) 0).getLsbD i = f (a + i)
  | n + 1, a, 0, _, _ => by
    rw [rangeFrom, List.foldr_cons]; cases f a <;> simp
  | n + 1, a, i + 1, hn, hi => by
    rw [rangeFrom, List.foldr_cons, BitVec.getLsbD_or, BitVec.getLsbD_shiftLeft, Nat.add_sub_cancel, mask_fold f n (a + 1) i (by omega) (by omega)]
    have h1 : i + 1 < 16 := by omega
    have h2 : (if f a = true then (1 : Mask) else 0).getLsbD (i + 1) = false := by split <;> simp [BitVec.getLsbD_one]
    rw [h2]; simp [h1]; congr 1; omega

theorem getLsbD_mkMask (f : Nat → Bool) (i : Nat) (h : i < 16) : (mkMask f).getLsbD i = f i := by
  simpa [mkMask, upTo] using mask_fold f 16 0 i (by omega) h

theorem fold_get (w : Nat) : ∀ (ys : List Nat) (j : Nat), j < ys.length →
    (ys.foldr (fun y acc => acc * 2 ^ w + y % 2 ^ w) 0) / 2 ^ (j * w) % 2 ^ w = ys.getD j 0 % 2 ^ w
  | y :: ys, 0, _ => by simp [Nat.add_mod]
  | y :: ys, j + 1, h => by
    have : (2 ^ w) * (2 ^ (j * w)) = 2 ^ ((j + 1) * w) := by rw [← Nat.pow_add, Nat.add_mul, Nat.one_mul, Nat.add_comm]
    rw [List.foldr_cons, ← this, ← Nat.div_div_eq_div_mul, Nat.mul_comm _ (2 ^ w), Nat.mul_add_div (Nat.two_pow_pos w),
      Nat.div_eq_of_lt (Nat.mod_lt _ (Nat.two_pow_pos w)), Nat.add_zero, fold_get w ys j (by simpa using h)]
    rfl

theorem sub_packLane (w : Nat) (ys : List Nat) (j : Nat) (h : j < ys.length) (hw : (j + 1) * w ≤ 32) :
    sub (packLane w ys) j w = ys.getD j 0 % 2 ^ w := by
  have : 2 ^ 32 = 2 ^ (j * w) * 2 ^ (32 - j * w) := by rw [← Nat.pow_add]; congr 1; rw [Nat.add_mul] at hw; omega
  rw [sub, packLane, bits, BitVec.toNat_ofNat, Nat.shiftRight_eq_div_pow, this, Nat.mod_mul_right_div_self, Nat.mod_mod_of_dvd, fold_get w ys j h]
  exact Nat.pow_dvd_pow 2 (by rw [Nat.add_mul] at hw; omega)

theorem getD_rangeFrom (f : Nat → Nat) : ∀ (n a j : Nat), j < n → ((rangeFrom a n).map f).getD j 0 = f (a + j)
  | n + 1, a, 0, _ => rfl
  | n + 1, a, j + 1, h => by
    rw [rangeFrom, List.map_cons, List.getD_cons_succ, getD_rangeFrom f n (a + 1) j (by omega)]; congr 1; omega

theorem length_rangeFrom : ∀ (n a : Nat), (rangeFrom a n).length = n
  | 0, _ => rfl
  | n + 1, a => by simp [rangeFrom, length_rangeFrom n]

theorem sub_mapSubs (t : ElemTy) (f : Nat → Nat) (j : Nat) (h : j < t.count) : sub (mapSubs t f) j t.width = f j % 2 ^ t.width := by
  have hw : (j + 1) * t.width ≤ 32 := by
    calc (j + 1) * t.width ≤ t.count * t.width := Nat.mul_le_mul_right _ h
      _ ≤ 32 := by cases t <;> decide
  rw [mapSubs, sub_packLane _ _ _ (by simpa [upTo, length_rangeFrom] using h) hw, upTo, getD_rangeFrom f _ _ _ h, Nat.zero_add]

theorem sub_lt (x : Word) (j w : Nat) : sub x j w < 2 ^ w := Nat.mod_lt _ (Nat.two_pow_pos w)

theorem lane_maskedLanes (m : Mask) (f : Nat → Word) (i : Nat) (h : i < 16) : lane (maskedLanes m f) i = if m.getLsbD i then f i else 0 :=
  lane_mkLanes _ i h
end Sys2Proof.Machine
end

