-- ==== Sys2Proof/Laws/PerInstr.lean ====
section
/-! SUPPORT. The family RoundTrip, one lemma per constructor of `Instr`: decoding the word that the encoder writes for
a well-formed instruction gives that instruction back (R93 to R98). The operations and events of the opcode table that
have no word meet it with nothing to show. -/

namespace Sys2Proof.Laws.RoundTrip

set_option Elab.async false

/-- Instruction `i`, if it has a word and is well formed, is what its own encoding decodes to. -/
def Statement (i : Instr) : Prop := i.isWord = true → i.wf = true → decode (encode i).1 (encode i).2 = .ok i

theorem nop : Statement .nop := fun _ _ => rfl

theorem exit (p : Pr) (e : BitVec 3) (off : BitVec 20) : Statement (.exit p e off) := fun _ hw => by
  refine (decode_Control (op := 0x01#7) (opcodeOf_encE ..) (by decide) (by decide)).trans ?_
  simp only [decodeControl, BitVec.toNat_ofNat, Nat.reducePow, Nat.reduceMod, decE, bind, Except.bind, ext_encE_23,
    decPr_encPr, ext_encE_20, ext_encE_0]

theorem call (p : Pr) (e : BitVec 3) (off : BitVec 20) : Statement (.call p e off) := fun _ hw => by
  refine (decode_Control (op := 0x02#7) (opcodeOf_encE ..) (by decide) (by decide)).trans ?_
  simp only [decodeControl, BitVec.toNat_ofNat, Nat.reducePow, Nat.reduceMod, decE, bind, Except.bind, ext_encE_23,
    decPr_encPr, ext_encE_20, ext_encE_0]

theorem exitr (p : Pr) (e : BitVec 3) : Statement (.exitr p e) := fun _ hw => by
  refine (decode_Control (op := 0x03#7) (opcodeOf_encE ..) (by decide) (by decide)).trans ?_
  simp only [decodeControl, BitVec.toNat_ofNat, Nat.reducePow, Nat.reduceMod, decE0, bind, Except.bind, ext_encE_23,
    decPr_encPr, ext_encE_0, decZero_zero', ext_encE_20]

theorem callr (p : Pr) (e : BitVec 3) : Statement (.callr p e) := fun _ hw => by
  refine (decode_Control (op := 0x04#7) (opcodeOf_encE ..) (by decide) (by decide)).trans ?_
  simp only [decodeControl, BitVec.toNat_ofNat, Nat.reducePow, Nat.reduceMod, decE0, bind, Except.bind, ext_encE_23,
    decPr_encPr, ext_encE_0, decZero_zero', ext_encE_20]

theorem ret (p : Pr) (e : BitVec 3) : Statement (.ret p e) := fun _ hw => by
  refine (decode_Control (op := 0x05#7) (opcodeOf_encE ..) (by decide) (by decide)).trans ?_
  simp only [decodeControl, BitVec.toNat_ofNat, Nat.reducePow, Nat.reduceMod, decE0, bind, Except.bind, ext_encE_23,
    decPr_encPr, ext_encE_0, decZero_zero', ext_encE_20]

theorem halt (p : Pr) (e : BitVec 3) : Statement (.halt p e) := fun _ hw => by
  refine (decode_Control (op := 0x06#7) (opcodeOf_encE ..) (by decide) (by decide)).trans ?_
  simp only [decodeControl, BitVec.toNat_ofNat, Nat.reducePow, Nat.reduceMod, decE0, bind, Except.bind, ext_encE_23,
    decPr_encPr, ext_encE_0, decZero_zero', ext_encE_20]

theorem tret (p : Pr) (e : BitVec 3) : Statement (.tret p e) := fun _ hw => by
  refine (decode_Control (op := 0x07#7) (opcodeOf_encE ..) (by decide) (by decide)).trans ?_
  simp only [decodeControl, BitVec.toNat_ofNat, Nat.reducePow, Nat.reduceMod, decE0, bind, Except.bind, ext_encE_23,
    decPr_encPr, ext_encE_0, decZero_zero', ext_encE_20]

theorem genc (imm : BitVec 16) (t0 : Target) : Statement (.genc imm t0) := fun _ hw => by
  refine (decode_Control (op := 0x08#7) (opcodeOf_encK ..) (by decide) (by decide)).trans ?_
  simp only [decodeControl, BitVec.toNat_ofNat, Nat.reducePow, Nat.reduceMod, decK, bind, Except.bind, ext_encK_0,
    decTarget_encTarget, ext_encK_9]

theorem appc (imm : BitVec 16) (t0 : Target) : Statement (.appc imm t0) := fun _ hw => by
  refine (decode_Control (op := 0x09#7) (opcodeOf_encK ..) (by decide) (by decide)).trans ?_
  simp only [decodeControl, BitVec.toNat_ofNat, Nat.reducePow, Nat.reduceMod, decK, bind, Except.bind, ext_encK_0,
    decTarget_encTarget, ext_encK_9]

theorem badr (imm : BitVec 16) (t0 : Target) : Statement (.badr imm t0) := fun _ hw => by
  refine (decode_Control (op := 0x0A#7) (opcodeOf_encK ..) (by decide) (by decide)).trans ?_
  simp only [decodeControl, BitVec.toNat_ofNat, Nat.reducePow, Nat.reduceMod, decK, bind, Except.bind, ext_encK_0,
    decTarget_encTarget, ext_encK_9]

theorem rd (n : BitVec 6) (t1 : Target) (t0 : Target) : Statement (.rd n t1 t0) := fun _ hw => by
  refine (decode_Control (op := 0x0C#7) (opcodeOf_encW ..) (by decide) (by decide)).trans ?_
  simp only [decodeControl, BitVec.toNat_ofNat, Nat.reducePow, Nat.reduceMod, bind, Except.bind, ext_encW_24,
    decZero_zero, ext_encW_9, decTarget_encTarget, ext_encW_0, ext_encW_18]

theorem wr (n : BitVec 6) : Statement (.wr n) := fun _ hw => by
  refine (decode_Control (op := 0x0D#7) (opcodeOf_encW ..) (by decide) (by decide)).trans ?_
  simp only [decodeControl, BitVec.toNat_ofNat, Nat.reducePow, Nat.reduceMod, bind, Except.bind, ext_encW_24,
    decZero_zero, ext_encW_low, ext_encW_18]

theorem mov (p : Pr) (t1 : Target) (t0 : Target) : Statement (.mov p t1 t0) := fun _ hw => by
  refine (decode_Control (op := 0x0E#7) (opcodeOf_encG ..) (by decide) (by decide)).trans ?_
  simp only [decodeControl, BitVec.toNat_ofNat, Nat.reducePow, Nat.reduceMod, decG2, bind, Except.bind, gFields_encG,
    decPr_encPr, decXop0_zero, decTarget_encTarget]

theorem mov4 (p : Pr) (t3 : Target) (t2 : Target) (t1 : Target) (t0 : Target)
    : Statement (.mov4 p t3 t2 t1 t0) := fun _ hw => by
  refine (decode_Control (op := 0x0F#7) (opcodeOf_encG ..) (by decide) (by decide)).trans ?_
  simp only [decodeControl, BitVec.toNat_ofNat, Nat.reducePow, Nat.reduceMod, bind, Except.bind, gFields_encG,
    decPr_encPr, decXop0_zero, decTarget_encTarget, encode, lay_mov4_18_14, decZero_zero, lay_mov4_9_9,
    lay_mov4_0_9]

theorem null (p : Pr) (t1 : Target) (t0 : Target) : Statement (.null p t1 t0) := fun _ hw => by
  refine (decode_Tests (op := 0x10#7) (opcodeOf_encG ..) (by decide) (by decide)).trans ?_
  simp only [decodeTests, BitVec.toNat_ofNat, Nat.reducePow, Nat.reduceMod, decG2, bind, Except.bind, gFields_encG,
    decPr_encPr, decXop0_zero, decTarget_encTarget]

theorem sel (t1 : Target) (t0 : Target) : Statement (.sel t1 t0) := fun _ hw => by
  refine (decode_Tests (op := 0x11#7) (opcodeOf_encG ..) (by decide) (by decide)).trans ?_
  simp only [decodeTests, BitVec.toNat_ofNat, Nat.reducePow, Nat.reduceMod, decG3, bind, Except.bind, gFields_encG,
    decNoPr_encPr, decXop0_zero, decTarget_encTarget]

theorem teq (p : Pr) (t1 : Target) (t0 : Target) : Statement (.teq p t1 t0) := fun _ hw => by
  refine (decode_Tests (op := 0x12#7) (opcodeOf_encG ..) (by decide) (by decide)).trans ?_
  simp only [decodeTests, BitVec.toNat_ofNat, Nat.reducePow, Nat.reduceMod, decG2, bind, Except.bind, gFields_encG,
    decPr_encPr, decXop0_zero, decTarget_encTarget]

theorem tne (p : Pr) (t1 : Target) (t0 : Target) : Statement (.tne p t1 t0) := fun _ hw => by
  refine (decode_Tests (op := 0x13#7) (opcodeOf_encG ..) (by decide) (by decide)).trans ?_
  simp only [decodeTests, BitVec.toNat_ofNat, Nat.reducePow, Nat.reduceMod, decG2, bind, Except.bind, gFields_encG,
    decPr_encPr, decXop0_zero, decTarget_encTarget]

theorem tlt (p : Pr) (t1 : Target) (t0 : Target) : Statement (.tlt p t1 t0) := fun _ hw => by
  refine (decode_Tests (op := 0x14#7) (opcodeOf_encG ..) (by decide) (by decide)).trans ?_
  simp only [decodeTests, BitVec.toNat_ofNat, Nat.reducePow, Nat.reduceMod, decG2, bind, Except.bind, gFields_encG,
    decPr_encPr, decXop0_zero, decTarget_encTarget]

theorem tle (p : Pr) (t1 : Target) (t0 : Target) : Statement (.tle p t1 t0) := fun _ hw => by
  refine (decode_Tests (op := 0x15#7) (opcodeOf_encG ..) (by decide) (by decide)).trans ?_
  simp only [decodeTests, BitVec.toNat_ofNat, Nat.reducePow, Nat.reduceMod, decG2, bind, Except.bind, gFields_encG,
    decPr_encPr, decXop0_zero, decTarget_encTarget]

theorem tltu (p : Pr) (t1 : Target) (t0 : Target) : Statement (.tltu p t1 t0) := fun _ hw => by
  refine (decode_Tests (op := 0x16#7) (opcodeOf_encG ..) (by decide) (by decide)).trans ?_
  simp only [decodeTests, BitVec.toNat_ofNat, Nat.reducePow, Nat.reduceMod, decG2, bind, Except.bind, gFields_encG,
    decPr_encPr, decXop0_zero, decTarget_encTarget]

theorem tleu (p : Pr) (t1 : Target) (t0 : Target) : Statement (.tleu p t1 t0) := fun _ hw => by
  refine (decode_Tests (op := 0x17#7) (opcodeOf_encG ..) (by decide) (by decide)).trans ?_
  simp only [decodeTests, BitVec.toNat_ofNat, Nat.reducePow, Nat.reduceMod, decG2, bind, Except.bind, gFields_encG,
    decPr_encPr, decXop0_zero, decTarget_encTarget]

theorem teqi (p : Pr) (imm : BitVec 9) (t0 : Target) : Statement (.teqi p imm t0) := fun _ hw => by
  refine (decode_Tests (op := 0x18#7) (opcodeOf_encG ..) (by decide) (by decide)).trans ?_
  simp only [decodeTests, BitVec.toNat_ofNat, Nat.reducePow, Nat.reduceMod, decI, bind, Except.bind, gFields_encG,
    decPr_encPr, decXop0_zero, decTarget_encTarget, decWf, hw, if_true]

theorem tnei (p : Pr) (imm : BitVec 9) (t0 : Target) : Statement (.tnei p imm t0) := fun _ hw => by
  refine (decode_Tests (op := 0x19#7) (opcodeOf_encG ..) (by decide) (by decide)).trans ?_
  simp only [decodeTests, BitVec.toNat_ofNat, Nat.reducePow, Nat.reduceMod, decI, bind, Except.bind, gFields_encG,
    decPr_encPr, decXop0_zero, decTarget_encTarget, decWf, hw, if_true]

theorem tlti (p : Pr) (imm : BitVec 9) (t0 : Target) : Statement (.tlti p imm t0) := fun _ hw => by
  refine (decode_Tests (op := 0x1a#7) (opcodeOf_encG ..) (by decide) (by decide)).trans ?_
  simp only [decodeTests, BitVec.toNat_ofNat, Nat.reducePow, Nat.reduceMod, decI, bind, Except.bind, gFields_encG,
    decPr_encPr, decXop0_zero, decTarget_encTarget, decWf, hw, if_true]

theorem tlei (p : Pr) (imm : BitVec 9) (t0 : Target) : Statement (.tlei p imm t0) := fun _ hw => by
  refine (decode_Tests (op := 0x1b#7) (opcodeOf_encG ..) (by decide) (by decide)).trans ?_
  simp only [decodeTests, BitVec.toNat_ofNat, Nat.reducePow, Nat.reduceMod, decI, bind, Except.bind, gFields_encG,
    decPr_encPr, decXop0_zero, decTarget_encTarget, decWf, hw, if_true]

theorem tgti (p : Pr) (imm : BitVec 9) (t0 : Target) : Statement (.tgti p imm t0) := fun _ hw => by
  refine (decode_Tests (op := 0x1c#7) (opcodeOf_encG ..) (by decide) (by decide)).trans ?_
  simp only [decodeTests, BitVec.toNat_ofNat, Nat.reducePow, Nat.reduceMod, decI, bind, Except.bind, gFields_encG,
    decPr_encPr, decXop0_zero, decTarget_encTarget, decWf, hw, if_true]

theorem tgei (p : Pr) (imm : BitVec 9) (t0 : Target) : Statement (.tgei p imm t0) := fun _ hw => by
  refine (decode_Tests (op := 0x1d#7) (opcodeOf_encG ..) (by decide) (by decide)).trans ?_
  simp only [decodeTests, BitVec.toNat_ofNat, Nat.reducePow, Nat.reduceMod, decI, bind, Except.bind, gFields_encG,
    decPr_encPr, decXop0_zero, decTarget_encTarget, decWf, hw, if_true]

theorem trap (p : Pr) (code : BitVec 9) : Statement (.trap p code) := fun _ hw => by
  refine (decode_Tests (op := 0x1E#7) (opcodeOf_encG ..) (by decide) (by decide)).trans ?_
  simp only [decodeTests, BitVec.toNat_ofNat, Nat.reducePow, Nat.reduceMod, bind, Except.bind, gFields_encG,
    decPr_encPr, decXop0_zero, decZero_zero']

theorem gets (p : Pr) (r : SysReg) (t0 : Target) : Statement (.gets p r t0) := fun _ hw => by
  refine (decode_Tests (op := 0x1F#7) (opcodeOf_encG ..) (by decide) (by decide)).trans ?_
  simp only [decodeTests, BitVec.toNat_ofNat, Nat.reducePow, Nat.reduceMod, bind, Except.bind, gFields_encG,
    decPr_encPr, decSysReg_num, decTarget_encTarget, if_true]

theorem sets (p : Pr) (r : SysReg) : Statement (.sets p r) := fun _ hw => by
  refine (decode_Tests (op := 0x1F#7) (opcodeOf_encG ..) (by decide) (by decide)).trans ?_
  simp only [decodeTests, BitVec.toNat_ofNat, Nat.reducePow, Nat.reduceMod, bind, Except.bind, gFields_encG,
    decPr_encPr, decSysReg_num, decZero_zero', if_true]
  all_goals first | done | rfl

theorem add (p : Pr) (t1 : Target) (t0 : Target) : Statement (.add p t1 t0) := fun _ hw => by
  refine (decode_Scalar (op := 0x20#7) (opcodeOf_encG ..) (by decide) (by decide)).trans ?_
  simp only [decodeScalar, BitVec.toNat_ofNat, Nat.reducePow, Nat.reduceMod, decG2, bind, Except.bind, gFields_encG,
    decPr_encPr, decXop0_zero, decTarget_encTarget]

theorem sub (p : Pr) (t1 : Target) (t0 : Target) : Statement (.sub p t1 t0) := fun _ hw => by
  refine (decode_Scalar (op := 0x21#7) (opcodeOf_encG ..) (by decide) (by decide)).trans ?_
  simp only [decodeScalar, BitVec.toNat_ofNat, Nat.reducePow, Nat.reduceMod, decG2, bind, Except.bind, gFields_encG,
    decPr_encPr, decXop0_zero, decTarget_encTarget]

theorem mul (p : Pr) (t1 : Target) (t0 : Target) : Statement (.mul p t1 t0) := fun _ hw => by
  refine (decode_Scalar (op := 0x22#7) (opcodeOf_encG ..) (by decide) (by decide)).trans ?_
  simp only [decodeScalar, BitVec.toNat_ofNat, Nat.reducePow, Nat.reduceMod, decG2, bind, Except.bind, gFields_encG,
    decPr_encPr, decXop0_zero, decTarget_encTarget]

theorem mulh (p : Pr) (k : MulhKind) (t1 : Target) (t0 : Target) : Statement (.mulh p k t1 t0) := fun _ hw => by
  refine (decode_Scalar (op := 0x23#7) (opcodeOf_encG ..) (by decide) (by decide)).trans ?_
  simp only [decodeScalar, BitVec.toNat_ofNat, Nat.reducePow, Nat.reduceMod, decGX, bind, Except.bind, gFields_encG,
    decPr_encPr, decMulh_encMulh, decTarget_encTarget, decWf, hw, if_true]

theorem div (p : Pr) (g : Sgn) (t1 : Target) (t0 : Target) : Statement (.div p g t1 t0) := fun _ hw => by
  refine (decode_Scalar (op := 0x24#7) (opcodeOf_encG ..) (by decide) (by decide)).trans ?_
  simp only [decodeScalar, BitVec.toNat_ofNat, Nat.reducePow, Nat.reduceMod, decGX, bind, Except.bind, gFields_encG,
    decPr_encPr, decSgn_encSgn, decTarget_encTarget, decWf, hw, if_true]

theorem rem (p : Pr) (g : Sgn) (t1 : Target) (t0 : Target) : Statement (.rem p g t1 t0) := fun _ hw => by
  refine (decode_Scalar (op := 0x25#7) (opcodeOf_encG ..) (by decide) (by decide)).trans ?_
  simp only [decodeScalar, BitVec.toNat_ofNat, Nat.reducePow, Nat.reduceMod, decGX, bind, Except.bind, gFields_encG,
    decPr_encPr, decSgn_encSgn, decTarget_encTarget, decWf, hw, if_true]

theorem and (p : Pr) (t1 : Target) (t0 : Target) : Statement (.and p t1 t0) := fun _ hw => by
  refine (decode_Scalar (op := 0x26#7) (opcodeOf_encG ..) (by decide) (by decide)).trans ?_
  simp only [decodeScalar, BitVec.toNat_ofNat, Nat.reducePow, Nat.reduceMod, decG2, bind, Except.bind, gFields_encG,
    decPr_encPr, decXop0_zero, decTarget_encTarget]

theorem or (p : Pr) (t1 : Target) (t0 : Target) : Statement (.or p t1 t0) := fun _ hw => by
  refine (decode_Scalar (op := 0x27#7) (opcodeOf_encG ..) (by decide) (by decide)).trans ?_
  simp only [decodeScalar, BitVec.toNat_ofNat, Nat.reducePow, Nat.reduceMod, decG2, bind, Except.bind, gFields_encG,
    decPr_encPr, decXop0_zero, decTarget_encTarget]

theorem xor (p : Pr) (t1 : Target) (t0 : Target) : Statement (.xor p t1 t0) := fun _ hw => by
  refine (decode_Scalar (op := 0x28#7) (opcodeOf_encG ..) (by decide) (by decide)).trans ?_
  simp only [decodeScalar, BitVec.toNat_ofNat, Nat.reducePow, Nat.reduceMod, decG2, bind, Except.bind, gFields_encG,
    decPr_encPr, decXop0_zero, decTarget_encTarget]

theorem andn (p : Pr) (t1 : Target) (t0 : Target) : Statement (.andn p t1 t0) := fun _ hw => by
  refine (decode_Scalar (op := 0x29#7) (opcodeOf_encG ..) (by decide) (by decide)).trans ?_
  simp only [decodeScalar, BitVec.toNat_ofNat, Nat.reducePow, Nat.reduceMod, decG2, bind, Except.bind, gFields_encG,
    decPr_encPr, decXop0_zero, decTarget_encTarget]

theorem shl (p : Pr) (t1 : Target) (t0 : Target) : Statement (.shl p t1 t0) := fun _ hw => by
  refine (decode_Scalar (op := 0x2a#7) (opcodeOf_encG ..) (by decide) (by decide)).trans ?_
  simp only [decodeScalar, BitVec.toNat_ofNat, Nat.reducePow, Nat.reduceMod, decG2, bind, Except.bind, gFields_encG,
    decPr_encPr, decXop0_zero, decTarget_encTarget]

theorem shr (p : Pr) (t1 : Target) (t0 : Target) : Statement (.shr p t1 t0) := fun _ hw => by
  refine (decode_Scalar (op := 0x2b#7) (opcodeOf_encG ..) (by decide) (by decide)).trans ?_
  simp only [decodeScalar, BitVec.toNat_ofNat, Nat.reducePow, Nat.reduceMod, decG2, bind, Except.bind, gFields_encG,
    decPr_encPr, decXop0_zero, decTarget_encTarget]

theorem sar (p : Pr) (t1 : Target) (t0 : Target) : Statement (.sar p t1 t0) := fun _ hw => by
  refine (decode_Scalar (op := 0x2c#7) (opcodeOf_encG ..) (by decide) (by decide)).trans ?_
  simp only [decodeScalar, BitVec.toNat_ofNat, Nat.reducePow, Nat.reduceMod, decG2, bind, Except.bind, gFields_encG,
    decPr_encPr, decXop0_zero, decTarget_encTarget]

theorem ror (p : Pr) (t1 : Target) (t0 : Target) : Statement (.ror p t1 t0) := fun _ hw => by
  refine (decode_Scalar (op := 0x2d#7) (opcodeOf_encG ..) (by decide) (by decide)).trans ?_
  simp only [decodeScalar, BitVec.toNat_ofNat, Nat.reducePow, Nat.reduceMod, decG2, bind, Except.bind, gFields_encG,
    decPr_encPr, decXop0_zero, decTarget_encTarget]

theorem min (p : Pr) (g : Sgn) (t1 : Target) (t0 : Target) : Statement (.min p g t1 t0) := fun _ hw => by
  refine (decode_Scalar (op := 0x2e#7) (opcodeOf_encG ..) (by decide) (by decide)).trans ?_
  simp only [decodeScalar, BitVec.toNat_ofNat, Nat.reducePow, Nat.reduceMod, decGX, bind, Except.bind, gFields_encG,
    decPr_encPr, decSgn_encSgn, decTarget_encTarget, decWf, hw, if_true]

theorem max (p : Pr) (g : Sgn) (t1 : Target) (t0 : Target) : Statement (.max p g t1 t0) := fun _ hw => by
  refine (decode_Scalar (op := 0x2f#7) (opcodeOf_encG ..) (by decide) (by decide)).trans ?_
  simp only [decodeScalar, BitVec.toNat_ofNat, Nat.reducePow, Nat.reduceMod, decGX, bind, Except.bind, gFields_encG,
    decPr_encPr, decSgn_encSgn, decTarget_encTarget, decWf, hw, if_true]

theorem addi (p : Pr) (imm : BitVec 9) (t0 : Target) : Statement (.addi p imm t0) := fun _ hw => by
  refine (decode_Scalar (op := 0x30#7) (opcodeOf_encG ..) (by decide) (by decide)).trans ?_
  simp only [decodeScalar, BitVec.toNat_ofNat, Nat.reducePow, Nat.reduceMod, decI, bind, Except.bind, gFields_encG,
    decPr_encPr, decXop0_zero, decTarget_encTarget, decWf, hw, if_true]

theorem muli (p : Pr) (imm : BitVec 9) (t0 : Target) : Statement (.muli p imm t0) := fun _ hw => by
  refine (decode_Scalar (op := 0x31#7) (opcodeOf_encG ..) (by decide) (by decide)).trans ?_
  simp only [decodeScalar, BitVec.toNat_ofNat, Nat.reducePow, Nat.reduceMod, decI, bind, Except.bind, gFields_encG,
    decPr_encPr, decXop0_zero, decTarget_encTarget, decWf, hw, if_true]

theorem andi (p : Pr) (imm : BitVec 9) (t0 : Target) : Statement (.andi p imm t0) := fun _ hw => by
  refine (decode_Scalar (op := 0x32#7) (opcodeOf_encG ..) (by decide) (by decide)).trans ?_
  simp only [decodeScalar, BitVec.toNat_ofNat, Nat.reducePow, Nat.reduceMod, decI, bind, Except.bind, gFields_encG,
    decPr_encPr, decXop0_zero, decTarget_encTarget, decWf, hw, if_true]

theorem ori (p : Pr) (imm : BitVec 9) (t0 : Target) : Statement (.ori p imm t0) := fun _ hw => by
  refine (decode_Scalar (op := 0x33#7) (opcodeOf_encG ..) (by decide) (by decide)).trans ?_
  simp only [decodeScalar, BitVec.toNat_ofNat, Nat.reducePow, Nat.reduceMod, decI, bind, Except.bind, gFields_encG,
    decPr_encPr, decXop0_zero, decTarget_encTarget, decWf, hw, if_true]

theorem xori (p : Pr) (imm : BitVec 9) (t0 : Target) : Statement (.xori p imm t0) := fun _ hw => by
  refine (decode_Scalar (op := 0x34#7) (opcodeOf_encG ..) (by decide) (by decide)).trans ?_
  simp only [decodeScalar, BitVec.toNat_ofNat, Nat.reducePow, Nat.reduceMod, decI, bind, Except.bind, gFields_encG,
    decPr_encPr, decXop0_zero, decTarget_encTarget, decWf, hw, if_true]

theorem shli (p : Pr) (imm : BitVec 9) (t0 : Target) : Statement (.shli p imm t0) := fun _ hw => by
  refine (decode_Scalar (op := 0x35#7) (opcodeOf_encG ..) (by decide) (by decide)).trans ?_
  simp only [decodeScalar, BitVec.toNat_ofNat, Nat.reducePow, Nat.reduceMod, decI, bind, Except.bind, gFields_encG,
    decPr_encPr, decXop0_zero, decTarget_encTarget, decWf, hw, if_true]

theorem shri (p : Pr) (imm : BitVec 9) (t0 : Target) : Statement (.shri p imm t0) := fun _ hw => by
  refine (decode_Scalar (op := 0x36#7) (opcodeOf_encG ..) (by decide) (by decide)).trans ?_
  simp only [decodeScalar, BitVec.toNat_ofNat, Nat.reducePow, Nat.reduceMod, decI, bind, Except.bind, gFields_encG,
    decPr_encPr, decXop0_zero, decTarget_encTarget, decWf, hw, if_true]

theorem sari (p : Pr) (imm : BitVec 9) (t0 : Target) : Statement (.sari p imm t0) := fun _ hw => by
  refine (decode_Scalar (op := 0x37#7) (opcodeOf_encG ..) (by decide) (by decide)).trans ?_
  simp only [decodeScalar, BitVec.toNat_ofNat, Nat.reducePow, Nat.reduceMod, decI, bind, Except.bind, gFields_encG,
    decPr_encPr, decXop0_zero, decTarget_encTarget, decWf, hw, if_true]

theorem clz (p : Pr) (t1 : Target) (t0 : Target) : Statement (.clz p t1 t0) := fun _ hw => by
  refine (decode_Scalar (op := 0x38#7) (opcodeOf_encG ..) (by decide) (by decide)).trans ?_
  simp only [decodeScalar, BitVec.toNat_ofNat, Nat.reducePow, Nat.reduceMod, decodeUnop, bind, Except.bind,
    gFields_encG, decPr_encPr, decTarget_encTarget]
  all_goals first | done | rfl

theorem ctz (p : Pr) (t1 : Target) (t0 : Target) : Statement (.ctz p t1 t0) := fun _ hw => by
  refine (decode_Scalar (op := 0x38#7) (opcodeOf_encG ..) (by decide) (by decide)).trans ?_
  simp only [decodeScalar, BitVec.toNat_ofNat, Nat.reducePow, Nat.reduceMod, decodeUnop, bind, Except.bind,
    gFields_encG, decPr_encPr, decTarget_encTarget]
  all_goals first | done | rfl

theorem popc (p : Pr) (t1 : Target) (t0 : Target) : Statement (.popc p t1 t0) := fun _ hw => by
  refine (decode_Scalar (op := 0x38#7) (opcodeOf_encG ..) (by decide) (by decide)).trans ?_
  simp only [decodeScalar, BitVec.toNat_ofNat, Nat.reducePow, Nat.reduceMod, decodeUnop, bind, Except.bind,
    gFields_encG, decPr_encPr, decTarget_encTarget]
  all_goals first | done | rfl

theorem brev (p : Pr) (t1 : Target) (t0 : Target) : Statement (.brev p t1 t0) := fun _ hw => by
  refine (decode_Scalar (op := 0x38#7) (opcodeOf_encG ..) (by decide) (by decide)).trans ?_
  simp only [decodeScalar, BitVec.toNat_ofNat, Nat.reducePow, Nat.reduceMod, decodeUnop, bind, Except.bind,
    gFields_encG, decPr_encPr, decTarget_encTarget]
  all_goals first | done | rfl

theorem bswap (p : Pr) (t1 : Target) (t0 : Target) : Statement (.bswap p t1 t0) := fun _ hw => by
  refine (decode_Scalar (op := 0x38#7) (opcodeOf_encG ..) (by decide) (by decide)).trans ?_
  simp only [decodeScalar, BitVec.toNat_ofNat, Nat.reducePow, Nat.reduceMod, decodeUnop, bind, Except.bind,
    gFields_encG, decPr_encPr, decTarget_encTarget]
  all_goals first | done | rfl

theorem sxb (p : Pr) (t1 : Target) (t0 : Target) : Statement (.sxb p t1 t0) := fun _ hw => by
  refine (decode_Scalar (op := 0x38#7) (opcodeOf_encG ..) (by decide) (by decide)).trans ?_
  simp only [decodeScalar, BitVec.toNat_ofNat, Nat.reducePow, Nat.reduceMod, decodeUnop, bind, Except.bind,
    gFields_encG, decPr_encPr, decTarget_encTarget]
  all_goals first | done | rfl

theorem sxh (p : Pr) (t1 : Target) (t0 : Target) : Statement (.sxh p t1 t0) := fun _ hw => by
  refine (decode_Scalar (op := 0x38#7) (opcodeOf_encG ..) (by decide) (by decide)).trans ?_
  simp only [decodeScalar, BitVec.toNat_ofNat, Nat.reducePow, Nat.reduceMod, decodeUnop, bind, Except.bind,
    gFields_encG, decPr_encPr, decTarget_encTarget]
  all_goals first | done | rfl

theorem sxw (p : Pr) (t1 : Target) (t0 : Target) : Statement (.sxw p t1 t0) := fun _ hw => by
  refine (decode_Scalar (op := 0x38#7) (opcodeOf_encG ..) (by decide) (by decide)).trans ?_
  simp only [decodeScalar, BitVec.toNat_ofNat, Nat.reducePow, Nat.reduceMod, decodeUnop, bind, Except.bind,
    gFields_encG, decPr_encPr, decTarget_encTarget]
  all_goals first | done | rfl

theorem zxb (p : Pr) (t1 : Target) (t0 : Target) : Statement (.zxb p t1 t0) := fun _ hw => by
  refine (decode_Scalar (op := 0x38#7) (opcodeOf_encG ..) (by decide) (by decide)).trans ?_
  simp only [decodeScalar, BitVec.toNat_ofNat, Nat.reducePow, Nat.reduceMod, decodeUnop, bind, Except.bind,
    gFields_encG, decPr_encPr, decTarget_encTarget]
  all_goals first | done | rfl

theorem zxh (p : Pr) (t1 : Target) (t0 : Target) : Statement (.zxh p t1 t0) := fun _ hw => by
  refine (decode_Scalar (op := 0x38#7) (opcodeOf_encG ..) (by decide) (by decide)).trans ?_
  simp only [decodeScalar, BitVec.toNat_ofNat, Nat.reducePow, Nat.reduceMod, decodeUnop, bind, Except.bind,
    gFields_encG, decPr_encPr, decTarget_encTarget]
  all_goals first | done | rfl

theorem zxw (p : Pr) (t1 : Target) (t0 : Target) : Statement (.zxw p t1 t0) := fun _ hw => by
  refine (decode_Scalar (op := 0x38#7) (opcodeOf_encG ..) (by decide) (by decide)).trans ?_
  simp only [decodeScalar, BitVec.toNat_ofNat, Nat.reducePow, Nat.reduceMod, decodeUnop, bind, Except.bind,
    gFields_encG, decPr_encPr, decTarget_encTarget]
  all_goals first | done | rfl

theorem neg (p : Pr) (t1 : Target) (t0 : Target) : Statement (.neg p t1 t0) := fun _ hw => by
  refine (decode_Scalar (op := 0x38#7) (opcodeOf_encG ..) (by decide) (by decide)).trans ?_
  simp only [decodeScalar, BitVec.toNat_ofNat, Nat.reducePow, Nat.reduceMod, decodeUnop, bind, Except.bind,
    gFields_encG, decPr_encPr, decTarget_encTarget]
  all_goals first | done | rfl

theorem not (p : Pr) (t1 : Target) (t0 : Target) : Statement (.not p t1 t0) := fun _ hw => by
  refine (decode_Scalar (op := 0x38#7) (opcodeOf_encG ..) (by decide) (by decide)).trans ?_
  simp only [decodeScalar, BitVec.toNat_ofNat, Nat.reducePow, Nat.reduceMod, decodeUnop, bind, Except.bind,
    gFields_encG, decPr_encPr, decTarget_encTarget]
  all_goals first | done | rfl

theorem abs (p : Pr) (t1 : Target) (t0 : Target) : Statement (.abs p t1 t0) := fun _ hw => by
  refine (decode_Scalar (op := 0x38#7) (opcodeOf_encG ..) (by decide) (by decide)).trans ?_
  simp only [decodeScalar, BitVec.toNat_ofNat, Nat.reducePow, Nat.reduceMod, decodeUnop, bind, Except.bind,
    gFields_encG, decPr_encPr, decTarget_encTarget]
  all_goals first | done | rfl

theorem lea (p : Pr) (sh : BitVec 3) (t1 : Target) (t0 : Target) : Statement (.lea p sh t1 t0) := fun _ hw => by
  refine (decode_Scalar (op := 0x39#7) (opcodeOf_encG ..) (by decide) (by decide)).trans ?_
  simp only [decodeScalar, BitVec.toNat_ofNat, Nat.reducePow, Nat.reduceMod, bind, Except.bind, gFields_encG,
    lay_lea_3_2, decCheck_zero, decPr_encPr, decTarget_encTarget, lay_lea_0_3]

theorem bfx (p : Pr) (sgn : Bool) (t1 : Target) (t0 : Target) : Statement (.bfx p sgn t1 t0) := fun _ hw => by
  refine (decode_Scalar (op := 0x3A#7) (opcodeOf_encG ..) (by decide) (by decide)).trans ?_
  simp only [decodeScalar, BitVec.toNat_ofNat, Nat.reducePow, Nat.reduceMod, bind, Except.bind, gFields_encG,
    lay_bfx_1_4, decCheck_zero, decPr_encPr, decTarget_encTarget]
  all_goals first | done | cases sgn <;> rfl

theorem bfi (t1 : Target) (t0 : Target) : Statement (.bfi t1 t0) := fun _ hw => by
  refine (decode_Scalar (op := 0x3b#7) (opcodeOf_encG ..) (by decide) (by decide)).trans ?_
  simp only [decodeScalar, BitVec.toNat_ofNat, Nat.reducePow, Nat.reduceMod, decG3, bind, Except.bind, gFields_encG,
    decNoPr_encPr, decXop0_zero, decTarget_encTarget]

theorem lop3 (p : Pr) (imm : BitVec 24) (tt : BitVec 8) (t1 : Target) (t0 : Target)
    : Statement (.lop3 p imm tt t1 t0) := fun _ hw => by
  refine (decode_Scalar (op := 0x3C#7) (opcodeOf_encG ..) (by decide) (by decide)).trans ?_
  simp only [decodeScalar, BitVec.toNat_ofNat, Nat.reducePow, Nat.reduceMod, decG2, bind, Except.bind, gFields_encG,
    decPr_encPr, decXop0_zero, decTarget_encTarget, encode, lay_imm_tt_8_24, lay_imm_tt_0_8]

theorem addc (p : Pr) (t1 : Target) (t0 : Target) : Statement (.addc p t1 t0) := fun _ hw => by
  refine (decode_Scalar (op := 0x3d#7) (opcodeOf_encG ..) (by decide) (by decide)).trans ?_
  simp only [decodeScalar, BitVec.toNat_ofNat, Nat.reducePow, Nat.reduceMod, decG2, bind, Except.bind, gFields_encG,
    decPr_encPr, decXop0_zero, decTarget_encTarget]

theorem adc (t1 : Target) (t0 : Target) : Statement (.adc t1 t0) := fun _ hw => by
  refine (decode_Scalar (op := 0x3e#7) (opcodeOf_encG ..) (by decide) (by decide)).trans ?_
  simp only [decodeScalar, BitVec.toNat_ofNat, Nat.reducePow, Nat.reduceMod, decG3, bind, Except.bind, gFields_encG,
    decNoPr_encPr, decXop0_zero, decTarget_encTarget]

theorem vadd (p : Pr) (ty : ElemTy) (t1 : Target) (t0 : Target) : Statement (.vadd p ty t1 t0) := fun _ hw => by
  refine (decode_Vector (op := 0x40#7) (opcodeOf_encG ..) (by decide) (by decide)).trans ?_
  simp only [decodeVector, BitVec.toNat_ofNat, Nat.reducePow, Nat.reduceMod, decGX, bind, Except.bind, gFields_encG,
    decPr_encPr, decTy_encTy, decTarget_encTarget, decWf, hw, if_true]

theorem vsub (p : Pr) (ty : ElemTy) (t1 : Target) (t0 : Target) : Statement (.vsub p ty t1 t0) := fun _ hw => by
  refine (decode_Vector (op := 0x41#7) (opcodeOf_encG ..) (by decide) (by decide)).trans ?_
  simp only [decodeVector, BitVec.toNat_ofNat, Nat.reducePow, Nat.reduceMod, decGX, bind, Except.bind, gFields_encG,
    decPr_encPr, decTy_encTy, decTarget_encTarget, decWf, hw, if_true]

theorem vmul (p : Pr) (ty : ElemTy) (t1 : Target) (t0 : Target) : Statement (.vmul p ty t1 t0) := fun _ hw => by
  refine (decode_Vector (op := 0x42#7) (opcodeOf_encG ..) (by decide) (by decide)).trans ?_
  simp only [decodeVector, BitVec.toNat_ofNat, Nat.reducePow, Nat.reduceMod, decGX, bind, Except.bind, gFields_encG,
    decPr_encPr, decTy_encTy, decTarget_encTarget, decWf, hw, if_true]

theorem vfma (ty : ElemTy) (t1 : Target) (t0 : Target) : Statement (.vfma ty t1 t0) := fun _ hw => by
  refine (decode_Vector (op := 0x43#7) (opcodeOf_encG ..) (by decide) (by decide)).trans ?_
  simp only [decodeVector, BitVec.toNat_ofNat, Nat.reducePow, Nat.reduceMod, decG3Ty, bind, Except.bind,
    gFields_encG, decNoPr_encPr, decTy_encTy, decTarget_encTarget, decWf, hw, if_true]

theorem vmin (p : Pr) (ty : ElemTy) (t1 : Target) (t0 : Target) : Statement (.vmin p ty t1 t0) := fun _ hw => by
  refine (decode_Vector (op := 0x44#7) (opcodeOf_encG ..) (by decide) (by decide)).trans ?_
  simp only [decodeVector, BitVec.toNat_ofNat, Nat.reducePow, Nat.reduceMod, decGX, bind, Except.bind, gFields_encG,
    decPr_encPr, decTy_encTy, decTarget_encTarget, decWf, hw, if_true]

theorem vmax (p : Pr) (ty : ElemTy) (t1 : Target) (t0 : Target) : Statement (.vmax p ty t1 t0) := fun _ hw => by
  refine (decode_Vector (op := 0x45#7) (opcodeOf_encG ..) (by decide) (by decide)).trans ?_
  simp only [decodeVector, BitVec.toNat_ofNat, Nat.reducePow, Nat.reduceMod, decGX, bind, Except.bind, gFields_encG,
    decPr_encPr, decTy_encTy, decTarget_encTarget, decWf, hw, if_true]

theorem vand (p : Pr) (ty : ElemTy) (t1 : Target) (t0 : Target) : Statement (.vand p ty t1 t0) := fun _ hw => by
  refine (decode_Vector (op := 0x46#7) (opcodeOf_encG ..) (by decide) (by decide)).trans ?_
  simp only [decodeVector, BitVec.toNat_ofNat, Nat.reducePow, Nat.reduceMod, decGX, bind, Except.bind, gFields_encG,
    decPr_encPr, decTy_encTy, decTarget_encTarget, decWf, hw, if_true]

theorem vor (p : Pr) (ty : ElemTy) (t1 : Target) (t0 : Target) : Statement (.vor p ty t1 t0) := fun _ hw => by
  refine (decode_Vector (op := 0x47#7) (opcodeOf_encG ..) (by decide) (by decide)).trans ?_
  simp only [decodeVector, BitVec.toNat_ofNat, Nat.reducePow, Nat.reduceMod, decGX, bind, Except.bind, gFields_encG,
    decPr_encPr, decTy_encTy, decTarget_encTarget, decWf, hw, if_true]

theorem vxor (p : Pr) (ty : ElemTy) (t1 : Target) (t0 : Target) : Statement (.vxor p ty t1 t0) := fun _ hw => by
  refine (decode_Vector (op := 0x48#7) (opcodeOf_encG ..) (by decide) (by decide)).trans ?_
  simp only [decodeVector, BitVec.toNat_ofNat, Nat.reducePow, Nat.reduceMod, decGX, bind, Except.bind, gFields_encG,
    decPr_encPr, decTy_encTy, decTarget_encTarget, decWf, hw, if_true]

theorem vshl (p : Pr) (ty : ElemTy) (t1 : Target) (t0 : Target) : Statement (.vshl p ty t1 t0) := fun _ hw => by
  refine (decode_Vector (op := 0x49#7) (opcodeOf_encG ..) (by decide) (by decide)).trans ?_
  simp only [decodeVector, BitVec.toNat_ofNat, Nat.reducePow, Nat.reduceMod, decGX, bind, Except.bind, gFields_encG,
    decPr_encPr, decTy_encTy, decTarget_encTarget, decWf, hw, if_true]

theorem vshr (p : Pr) (ty : ElemTy) (t1 : Target) (t0 : Target) : Statement (.vshr p ty t1 t0) := fun _ hw => by
  refine (decode_Vector (op := 0x4a#7) (opcodeOf_encG ..) (by decide) (by decide)).trans ?_
  simp only [decodeVector, BitVec.toNat_ofNat, Nat.reducePow, Nat.reduceMod, decGX, bind, Except.bind, gFields_encG,
    decPr_encPr, decTy_encTy, decTarget_encTarget, decWf, hw, if_true]

theorem vsar (p : Pr) (ty : ElemTy) (t1 : Target) (t0 : Target) : Statement (.vsar p ty t1 t0) := fun _ hw => by
  refine (decode_Vector (op := 0x4b#7) (opcodeOf_encG ..) (by decide) (by decide)).trans ?_
  simp only [decodeVector, BitVec.toNat_ofNat, Nat.reducePow, Nat.reduceMod, decGX, bind, Except.bind, gFields_encG,
    decPr_encPr, decTy_encTy, decTarget_encTarget, decWf, hw, if_true]

theorem vcmp (p : Pr) (ty : ElemTy) (c : CmpCond) (t0 : Target) : Statement (.vcmp p ty c t0) := fun _ hw => by
  refine (decode_Vector (op := 0x4C#7) (opcodeOf_encG ..) (by decide) (by decide)).trans ?_
  simp only [decodeVector, BitVec.toNat_ofNat, Nat.reducePow, Nat.reduceMod, decG1, bind, Except.bind, gFields_encG,
    decPr_encPr, decTy_encTy, lay_g1_6_3, decCmp_encCmp, lay_g1_0_6, decZero_zero, decTarget_encTarget, decWf, hw,
    if_true]

theorem vsel (t1 : Target) (t0 : Target) : Statement (.vsel t1 t0) := fun _ hw => by
  refine (decode_Vector (op := 0x4d#7) (opcodeOf_encG ..) (by decide) (by decide)).trans ?_
  simp only [decodeVector, BitVec.toNat_ofNat, Nat.reducePow, Nat.reduceMod, decG3, bind, Except.bind, gFields_encG,
    decNoPr_encPr, decXop0_zero, decTarget_encTarget]

theorem vsplat (p : Pr) (ty : ElemTy) (t1 : Target) (t0 : Target) : Statement (.vsplat p ty t1 t0) := fun _ hw => by
  refine (decode_Vector (op := 0x4e#7) (opcodeOf_encG ..) (by decide) (by decide)).trans ?_
  simp only [decodeVector, BitVec.toNat_ofNat, Nat.reducePow, Nat.reduceMod, decGX, bind, Except.bind, gFields_encG,
    decPr_encPr, decTy_encTy, decTarget_encTarget, decWf, hw, if_true]

theorem vext (p : Pr) (ty : ElemTy) (t1 : Target) (t0 : Target) : Statement (.vext p ty t1 t0) := fun _ hw => by
  refine (decode_Vector (op := 0x4f#7) (opcodeOf_encG ..) (by decide) (by decide)).trans ?_
  simp only [decodeVector, BitVec.toNat_ofNat, Nat.reducePow, Nat.reduceMod, decGX, bind, Except.bind, gFields_encG,
    decPr_encPr, decTy_encTy, decTarget_encTarget, decWf, hw, if_true]

theorem vins (ty : ElemTy) (t1 : Target) (t0 : Target) : Statement (.vins ty t1 t0) := fun _ hw => by
  refine (decode_Vector (op := 0x50#7) (opcodeOf_encG ..) (by decide) (by decide)).trans ?_
  simp only [decodeVector, BitVec.toNat_ofNat, Nat.reducePow, Nat.reduceMod, decG3Ty, bind, Except.bind,
    gFields_encG, decNoPr_encPr, decTy_encTy, decTarget_encTarget, decWf, hw, if_true]

theorem vperm (p : Pr) (t1 : Target) (t0 : Target) : Statement (.vperm p t1 t0) := fun _ hw => by
  refine (decode_Vector (op := 0x51#7) (opcodeOf_encG ..) (by decide) (by decide)).trans ?_
  simp only [decodeVector, BitVec.toNat_ofNat, Nat.reducePow, Nat.reduceMod, decG2, bind, Except.bind, gFields_encG,
    decPr_encPr, decXop0_zero, decTarget_encTarget]

theorem vswz (p : Pr) (pat : SwzPat) (t1 : Target) (t0 : Target) : Statement (.vswz p pat t1 t0) := fun _ hw => by
  refine (decode_Vector (op := 0x52#7) (opcodeOf_encG ..) (by decide) (by decide)).trans ?_
  simp only [decodeVector, BitVec.toNat_ofNat, Nat.reducePow, Nat.reduceMod, decGX, bind, Except.bind, gFields_encG,
    decPr_encPr, decSwz_encSwz, decTarget_encTarget, decWf, hw, if_true]

theorem vred (p : Pr) (ty : ElemTy) (op : RedOp) (t0 : Target) : Statement (.vred p ty op t0) := fun _ hw => by
  refine (decode_Vector (op := 0x53#7) (opcodeOf_encG ..) (by decide) (by decide)).trans ?_
  simp only [decodeVector, BitVec.toNat_ofNat, Nat.reducePow, Nat.reduceMod, decG1, bind, Except.bind, gFields_encG,
    decPr_encPr, decTy_encTy, lay_g1_6_3, decRed_encRed, lay_g1_0_6, decZero_zero, decTarget_encTarget, decWf, hw,
    if_true]

theorem vscan (p : Pr) (ty : ElemTy) (op : RedOp) (t0 : Target) : Statement (.vscan p ty op t0) := fun _ hw => by
  refine (decode_Vector (op := 0x54#7) (opcodeOf_encG ..) (by decide) (by decide)).trans ?_
  simp only [decodeVector, BitVec.toNat_ofNat, Nat.reducePow, Nat.reduceMod, decG1, bind, Except.bind, gFields_encG,
    decPr_encPr, decTy_encTy, lay_g1_6_3, decRed_encRed, lay_g1_0_6, decZero_zero, decTarget_encTarget, decWf, hw,
    if_true]

theorem vcvt (p : Pr) (src : ElemTy) (dst : ElemTy) (sat : Bool) (rnd : Rnd) (t0 : Target)
    : Statement (.vcvt p src dst sat rnd t0) := fun _ hw => by
  refine (decode_Vector (op := 0x55#7) (opcodeOf_encG ..) (by decide) (by decide)).trans ?_
  simp only [decodeVector, BitVec.toNat_ofNat, Nat.reducePow, Nat.reduceMod, bind, Except.bind, gFields_encG,
    decPr_encPr, decTy_encTy, lay_cvt_4_5, lay_cvt_1_2, decRnd_encRnd, lay_cvt_0_1, decZero_zero,
    decTarget_encTarget, decWf, lay_cvt_3_1, encBit_eq_one, hw, if_true]

theorem vpack (p : Pr) (ty : ElemTy) (t1 : Target) (t0 : Target) : Statement (.vpack p ty t1 t0) := fun _ hw => by
  refine (decode_Vector (op := 0x56#7) (opcodeOf_encG ..) (by decide) (by decide)).trans ?_
  simp only [decodeVector, BitVec.toNat_ofNat, Nat.reducePow, Nat.reduceMod, decGX, bind, Except.bind, gFields_encG,
    decPr_encPr, decTy_encTy, decTarget_encTarget, decWf, hw, if_true]

theorem vunpk (p : Pr) (ty : ElemTy) (t1 : Target) (t0 : Target) : Statement (.vunpk p ty t1 t0) := fun _ hw => by
  refine (decode_Vector (op := 0x57#7) (opcodeOf_encG ..) (by decide) (by decide)).trans ?_
  simp only [decodeVector, BitVec.toNat_ofNat, Nat.reducePow, Nat.reduceMod, decGX, bind, Except.bind, gFields_encG,
    decPr_encPr, decTy_encTy, decTarget_encTarget, decWf, hw, if_true]

theorem vdot (ty : ElemTy) (t1 : Target) (t0 : Target) : Statement (.vdot ty t1 t0) := fun _ hw => by
  refine (decode_Vector (op := 0x58#7) (opcodeOf_encG ..) (by decide) (by decide)).trans ?_
  simp only [decodeVector, BitVec.toNat_ofNat, Nat.reducePow, Nat.reduceMod, decG3Ty, bind, Except.bind,
    gFields_encG, decNoPr_encPr, decTy_encTy, decTarget_encTarget, decWf, hw, if_true]

theorem vsfu (p : Pr) (fn : SfuFn) (t1 : Target) (t0 : Target) : Statement (.vsfu p fn t1 t0) := fun _ hw => by
  refine (decode_Vector (op := 0x59#7) (opcodeOf_encG ..) (by decide) (by decide)).trans ?_
  simp only [decodeVector, BitVec.toNat_ofNat, Nat.reducePow, Nat.reduceMod, decGX, bind, Except.bind, gFields_encG,
    decPr_encPr, decSfu_encSfu, decTarget_encTarget, decWf, hw, if_true]

theorem vmask (p : Pr) (fn : MaskFn) (t1 : Target) (t0 : Target) : Statement (.vmask p fn t1 t0) := fun _ hw => by
  refine (decode_Vector (op := 0x5a#7) (opcodeOf_encG ..) (by decide) (by decide)).trans ?_
  simp only [decodeVector, BitVec.toNat_ofNat, Nat.reducePow, Nat.reduceMod, decGX, bind, Except.bind, gFields_encG,
    decPr_encPr, decMaskFn_encMaskFn, decTarget_encTarget, decWf, hw, if_true]

theorem vlop3 (p : Pr) (imm : BitVec 24) (tt : BitVec 8) (t1 : Target) (t0 : Target)
    : Statement (.vlop3 p imm tt t1 t0) := fun _ hw => by
  refine (decode_Vector (op := 0x5B#7) (opcodeOf_encG ..) (by decide) (by decide)).trans ?_
  simp only [decodeVector, BitVec.toNat_ofNat, Nat.reducePow, Nat.reduceMod, decG2, bind, Except.bind, gFields_encG,
    decPr_encPr, decXop0_zero, decTarget_encTarget, encode, lay_imm_tt_8_24, lay_imm_tt_0_8]

theorem ld (p : Pr) (ls : BitVec 5) (sz : LdSize) (hint : Hint) (off : BitVec 4) (t0 : Target)
    : Statement (.ld p ls sz hint off t0) := fun _ hw => by
  refine (decode_Memory (op := 0x60#7) (opcodeOf_encM ..) (by decide) (by decide)).trans ?_
  simp only [decodeMemory, BitVec.toNat_ofNat, Nat.reducePow, Nat.reduceMod, decLoad, bind, Except.bind,
    mFields_encM, decPr_encPr, decLdSize_encLdSize, decHint_encHint, decTarget_encTarget, decWf, hw, if_true]

theorem ldv (p : Pr) (ls : BitVec 5) (masked : Bool) (hint : Hint) (off : BitVec 4) (t0 : Target)
    : Statement (.ldv p ls masked hint off t0) := fun _ hw => by
  refine (decode_Memory (op := 0x61#7) (opcodeOf_encM ..) (by decide) (by decide)).trans ?_
  simp only [decodeMemory, BitVec.toNat_ofNat, Nat.reducePow, Nat.reduceMod, bind, Except.bind, mFields_encM,
    lay_ldv_1_2, decCheck_zero, decPr_encPr, decHint_encHint, decTarget_encTarget]
  all_goals first | done | cases masked <;> rfl

theorem ldg (p : Pr) (ls : BitVec 5) (sz : LdSize) (hint : Hint) (off : BitVec 4) (t0 : Target)
    : Statement (.ldg p ls sz hint off t0) := fun _ hw => by
  refine (decode_Memory (op := 0x62#7) (opcodeOf_encM ..) (by decide) (by decide)).trans ?_
  simp only [decodeMemory, BitVec.toNat_ofNat, Nat.reducePow, Nat.reduceMod, decLoad, bind, Except.bind,
    mFields_encM, decPr_encPr, decLdSize_encLdSize, decHint_encHint, decTarget_encTarget, decWf, hw, if_true]

theorem lda (p : Pr) (ls : BitVec 5) (sz : LdSize) (hint : Hint) (off : BitVec 4) (t0 : Target)
    : Statement (.lda p ls sz hint off t0) := fun _ hw => by
  refine (decode_Memory (op := 0x63#7) (opcodeOf_encM ..) (by decide) (by decide)).trans ?_
  simp only [decodeMemory, BitVec.toNat_ofNat, Nat.reducePow, Nat.reduceMod, decLoad, bind, Except.bind,
    mFields_encM, decPr_encPr, decLdSize_encLdSize, decHint_encHint, decTarget_encTarget, decWf, hw, if_true]

theorem st (p : Pr) (ls : BitVec 5) (sz : StSize) (hint : Hint) (off : BitVec 4)
    : Statement (.st p ls sz hint off) := fun _ hw => by
  refine (decode_Memory (op := 0x64#7) (opcodeOf_encM ..) (by decide) (by decide)).trans ?_
  simp only [decodeMemory, BitVec.toNat_ofNat, Nat.reducePow, Nat.reduceMod, decStore, bind, Except.bind,
    mFields_encM, decPr_encPr, decStSize_encStSize, decHint_encHint, decZero_zero', decWf, hw, if_true]

theorem stv (p : Pr) (ls : BitVec 5) (hint : Hint) (off : BitVec 4) : Statement (.stv p ls hint off) := fun _ hw => by
  refine (decode_Memory (op := 0x65#7) (opcodeOf_encM ..) (by decide) (by decide)).trans ?_
  simp only [decodeMemory, BitVec.toNat_ofNat, Nat.reducePow, Nat.reduceMod, bind, Except.bind, mFields_encM,
    decCheck_zero', decPr_encPr, decHint_encHint, decZero_zero']

theorem sts (p : Pr) (ls : BitVec 5) (sz : StSize) (hint : Hint) (off : BitVec 4)
    : Statement (.sts p ls sz hint off) := fun _ hw => by
  refine (decode_Memory (op := 0x66#7) (opcodeOf_encM ..) (by decide) (by decide)).trans ?_
  simp only [decodeMemory, BitVec.toNat_ofNat, Nat.reducePow, Nat.reduceMod, decStore, bind, Except.bind,
    mFields_encM, decPr_encPr, decStSize_encStSize, decHint_encHint, decZero_zero', decWf, hw, if_true]

theorem stl (p : Pr) (ls : BitVec 5) (sz : StSize) (hint : Hint) (off : BitVec 4)
    : Statement (.stl p ls sz hint off) := fun _ hw => by
  refine (decode_Memory (op := 0x67#7) (opcodeOf_encM ..) (by decide) (by decide)).trans ?_
  simp only [decodeMemory, BitVec.toNat_ofNat, Nat.reducePow, Nat.reduceMod, decStore, bind, Except.bind,
    mFields_encM, decPr_encPr, decStSize_encStSize, decHint_encHint, decZero_zero', decWf, hw, if_true]

theorem amo (p : Pr) (ls : BitVec 5) (op : AmoOp) (wid : AmoWid) (off : BitVec 4) (d : RegDest)
    : Statement (.amo p ls op wid off d) := fun _ hw => by
  refine (decode_Memory (op := 0x68#7) (opcodeOf_encM ..) (by decide) (by decide)).trans ?_
  simp only [decodeMemory, BitVec.toNat_ofNat, Nat.reducePow, Nat.reduceMod, bind, Except.bind, mFields_encM,
    decPr_encPr, decAmoOp_encAmoOp, decAmoWid_encAmoWid, decRegDest_encRegDest, decWf, hw, if_true]

theorem cas (p : Pr) (ls : BitVec 5) (wid : Wid2) (off : BitVec 4) (d : RegDest)
    : Statement (.cas p ls wid off d) := fun _ hw => by
  refine (decode_Memory (op := 0x69#7) (opcodeOf_encM ..) (by decide) (by decide)).trans ?_
  simp only [decodeMemory, BitVec.toNat_ofNat, Nat.reducePow, Nat.reduceMod, bind, Except.bind, mFields_encM,
    decCheck_zero', decPr_encPr, decWid2_encWid2, decRegDest_encRegDest]

theorem watch (p : Pr) (ls : BitVec 5) (c : WatchCond) (wid : Wid2) (off : BitVec 4) (t0 : Target)
    : Statement (.watch p ls c wid off t0) := fun _ hw => by
  refine (decode_Memory (op := 0x6A#7) (opcodeOf_encM ..) (by decide) (by decide)).trans ?_
  simp only [decodeMemory, BitVec.toNat_ofNat, Nat.reducePow, Nat.reduceMod, bind, Except.bind, mFields_encM,
    decPr_encPr, decWatchCond_encWatchCond, decWid2_encWid2, decTarget_encTarget]

theorem fence (p : Pr) (ls : BitVec 5) (k : FenceKind) : Statement (.fence p ls k) := fun _ hw => by
  refine (decode_Memory (op := 0x6B#7) (opcodeOf_encM ..) (by decide) (by decide)).trans ?_
  simp only [decodeMemory, BitVec.toNat_ofNat, Nat.reducePow, Nat.reduceMod, bind, Except.bind, mFields_encM,
    decFence_encFence, decRange, decPr_encPr, decZero_zero']

theorem flushr (p : Pr) (ls : BitVec 5) (k : FlushKind) : Statement (.flushr p ls k) := fun _ hw => by
  refine (decode_Memory (op := 0x6C#7) (opcodeOf_encM ..) (by decide) (by decide)).trans ?_
  simp only [decodeMemory, BitVec.toNat_ofNat, Nat.reducePow, Nat.reduceMod, bind, Except.bind, mFields_encM,
    decFlush_encFlush, decRange, decPr_encPr, decZero_zero']

theorem span (p : Pr) (ls : BitVec 5) (hive : Bool) (off : BitVec 4) (t0 : Target)
    : Statement (.span p ls hive off t0) := fun _ hw => by
  refine (decode_Memory (op := 0x6D#7) (opcodeOf_encM ..) (by decide) (by decide)).trans ?_
  simp only [decodeMemory, BitVec.toNat_ofNat, Nat.reducePow, Nat.reduceMod, bind, Except.bind, mFields_encM,
    lay_ldv_1_2, decCheck_zero, decPr_encPr, decZero_zero', decTarget_encTarget]
  all_goals first | done | cases hive <;> rfl

theorem claim (p : Pr) (ls : BitVec 5) : Statement (.claim p ls) := fun _ hw => by
  refine (decode_Memory (op := 0x6E#7) (opcodeOf_encM ..) (by decide) (by decide)).trans ?_
  simp only [decodeMemory, BitVec.toNat_ofNat, Nat.reducePow, Nat.reduceMod, bind, Except.bind, mFields_encM,
    decCheck_zero', decRange, decPr_encPr, decZero_zero']

theorem isync (p : Pr) (ls : BitVec 5) : Statement (.isync p ls) := fun _ hw => by
  refine (decode_Memory (op := 0x6F#7) (opcodeOf_encM ..) (by decide) (by decide)).trans ?_
  simp only [decodeMemory, BitVec.toNat_ofNat, Nat.reducePow, Nat.reduceMod, bind, Except.bind, mFields_encM,
    decCheck_zero', decRange, decPr_encPr, decZero_zero']

theorem copy (p : Pr) (try_ : Bool) (mode : CopyMode) (ls : BitVec 5) (d : RegDest)
    : Statement (.copy p try_ mode ls d) := fun _ hw => by
  refine (decode_Sync (op := 0x70#7) (opcodeOf_encG ..) (by decide) (by decide)).trans ?_
  simp only [decodeSync, BitVec.toNat_ofNat, Nat.reducePow, Nat.reduceMod, bind, Except.bind, gFields_encG,
    decPr_encPr, lay_copy_0_4, decCopyMode_encCopyMode, lay_ls_0_4, decZero_zero, decRegDest_encRegDest,
    lay_copy_4_1, encBit_eq_one, lay_ls_4_5]

theorem batch (p : Pr) (ls : BitVec 5) (d : RegDest) : Statement (.batch p ls d) := fun _ hw => by
  refine (decode_Sync (op := 0x71#7) (opcodeOf_encG ..) (by decide) (by decide)).trans ?_
  simp only [decodeSync, BitVec.toNat_ofNat, Nat.reducePow, Nat.reduceMod, bind, Except.bind, gFields_encG,
    decPr_encPr, decXop0_zero, lay_ls_0_4, decZero_zero, decRegDest_encRegDest, lay_ls_4_5]

theorem waitb (p : Pr) (n : BitVec 9) (t0 : Target) : Statement (.waitb p n t0) := fun _ hw => by
  refine (decode_Sync (op := 0x72#7) (opcodeOf_encG ..) (by decide) (by decide)).trans ?_
  simp only [decodeSync, BitVec.toNat_ofNat, Nat.reducePow, Nat.reduceMod, decI, bind, Except.bind, gFields_encG,
    decPr_encPr, decXop0_zero, decTarget_encTarget, decWf, hw, if_true]

theorem fork (p : Pr) (ls : BitVec 5) (d : RegDest) : Statement (.fork p ls d) := fun _ hw => by
  refine (decode_Sync (op := 0x73#7) (opcodeOf_encG ..) (by decide) (by decide)).trans ?_
  simp only [decodeSync, BitVec.toNat_ofNat, Nat.reducePow, Nat.reduceMod, bind, Except.bind, gFields_encG,
    decPr_encPr, decXop0_zero, lay_ls_0_4, decZero_zero, decRegDest_encRegDest, lay_ls_4_5]

theorem join (p : Pr) (n : BitVec 9) (t0 : Target) : Statement (.join p n t0) := fun _ hw => by
  refine (decode_Sync (op := 0x74#7) (opcodeOf_encG ..) (by decide) (by decide)).trans ?_
  simp only [decodeSync, BitVec.toNat_ofNat, Nat.reducePow, Nat.reduceMod, decI, bind, Except.bind, gFields_encG,
    decPr_encPr, decXop0_zero, decTarget_encTarget, decWf, hw, if_true]

theorem bar (p : Pr) (ch : BitVec 4) (ls : BitVec 5) (mode : BarMode)
    : Statement (.bar p ch ls mode) := fun _ hw => by
  refine (decode_Sync (op := 0x75#7) (opcodeOf_encG ..) (by decide) (by decide)).trans ?_
  simp only [decodeSync, BitVec.toNat_ofNat, Nat.reducePow, Nat.reduceMod, bind, Except.bind, gFields_encG,
    decPr_encPr, lay_copy_4_1, decCheck_zero, lay_bar_low, lay_m2_2_2, decBarMode_encBarMode, lay_m2_0_2,
    decZero_zero, decZero_zero', lay_copy_0_4, lay_bar_4_5]

theorem phint (p : Pr) (form : PhintForm) : Statement (.phint p form) := fun _ hw => by
  cases form
  all_goals
    refine (decode_Sync (op := 0x76#7) (opcodeOf_encG ..) (by decide) (by decide)).trans ?_
    simp only [decodeSync, BitVec.toNat_ofNat, Nat.reducePow, Nat.reduceMod, bind, Except.bind, gFields_encG,
      decPr_encPr, decZero_zero', encode, lay_phint_24_8, lay_phint_16_8, lay_phint_8_8, lay_phint_0_8, if_true]
    all_goals first | done | rfl | (simp only [decZero_zero, if_neg, hw]; done)

theorem geti (p : Pr) (sel : BitVec 9) (t0 : Target) : Statement (.geti p sel t0) := fun _ hw => by
  refine (decode_Sync (op := 0x77#7) (opcodeOf_encG ..) (by decide) (by decide)).trans ?_
  simp only [decodeSync, BitVec.toNat_ofNat, Nat.reducePow, Nat.reduceMod, decI, bind, Except.bind, gFields_encG,
    decPr_encPr, decXop0_zero, decTarget_encTarget, decWf, hw, if_true]

theorem tld (p : Pr) (bc : Bool) (tr : Bool) (fmt : TldFmt) (cell : BitVec 5) (ls : BitVec 5) (buf : BitVec 4) (t1 : Target) (t0 : Target)
    : Statement (.tld p bc tr fmt cell ls buf t1 t0) := fun _ hw => by
  cases fmt
  all_goals
    refine (decode_Tensor (op := 0x78#7) (opcodeOf_encG ..) (by decide) (by decide)).trans ?_
    simp only [decodeTensor, BitVec.toNat_ofNat, Nat.reducePow, Nat.reduceMod, bind, Except.bind, gFields_encG,
      decPr_encPr, lay_tldx_0_2, decZero_zero, decTarget_encTarget, encode, lay_tile_0_13, lay_tldx_2_1,
      lay_tile_13_5, decWf, lay_tldx_4_1, encBit_eq_one, lay_tldx_3_1, lay_tile_27_5, lay_tile_22_5, lay_tile_18_4,
      hw, if_true, lay_tldf_0_2, lay_tld_0_13, lay_tldf_2_1, lay_tld_13_5, lay_tldf_4_1, lay_tldf_3_1, lay_tld_27_5,
      lay_tld_22_5, lay_tld_18_4, decTy_encTy]
    all_goals first | done | rfl | (simp only [decZero_zero, if_neg, hw]; done)

theorem tst (p : Pr) (acc : Bool) (tr : Bool) (cell : BitVec 5) (ls : BitVec 5) (idx : BitVec 4)
    : Statement (.tst p acc tr cell ls idx) := fun _ hw => by
  refine (decode_Tensor (op := 0x79#7) (opcodeOf_encG ..) (by decide) (by decide)).trans ?_
  simp only [decodeTensor, BitVec.toNat_ofNat, Nat.reducePow, Nat.reduceMod, bind, Except.bind, gFields_encG,
    decPr_encPr, lay_tldf_0_3, decZero_zero, decZero_zero', encode, lay_tile_0_18, lay_tldf_4_1, encBit_eq_one,
    lay_tldf_3_1, lay_tile_27_5, lay_tile_22_5, lay_tile_18_4]

theorem mma (p : Pr) (mode : MmaMode) (cell : BitVec 5) (acc : BitVec 3) (a : BitVec 4) (b : BitVec 4) (rung : BitVec 2) (stk : Bool) (zc : Bool) (t1 : Target) (t0 : Target)
    : Statement (.mma p mode cell acc a b rung stk zc t1 t0) := fun _ hw => by
  refine (decode_Tensor (op := 0x7A#7) (opcodeOf_encG ..) (by decide) (by decide)).trans ?_
  simp only [decodeTensor, BitVec.toNat_ofNat, Nat.reducePow, Nat.reduceMod, bind, Except.bind, gFields_encG,
    decPr_encPr, decMmaMode_encMmaMode, decTarget_encTarget, encode, lay_mma_22_5, decZero_zero, lay_mma_0_7, decWf,
    lay_mma_27_5, lay_mma_19_3, lay_mma_15_4, lay_mma_11_4, lay_mma_9_2, lay_mma_8_1, encBit_eq_one, lay_mma_7_1, hw,
    if_true]

theorem top (p : Pr) (op : TopOp) (cell : BitVec 5) (t1 : Target) (t0 : Target)
    : Statement (.top p op cell t1 t0) := fun _ hw => by
  cases op
  all_goals
    refine (decode_Tensor (op := 0x7B#7) (opcodeOf_encG ..) (by decide) (by decide)).trans ?_
    simp only [decodeTensor, BitVec.toNat_ofNat, Nat.reducePow, Nat.reduceMod, bind, Except.bind, encTopOp,
      gFields_encG, decPr_encPr, decTarget_encTarget, encode, lay_top_22_5, decZero_zero, decodeTopOp, lay_top_7_10,
      lay_zb_7_10, lay_top_0_5, lay_zb_0_5, lay_top_21_1, lay_zb_21_1, lay_top_5_2, lay_zb_5_2, lay_top_17_4,
      lay_zb_17_4, lay_top_0_13, lay_top_13_4, decCheck_zero, lay_top_0_6, lay_top_8_5, lay_top_7_1, lay_top_17_5,
      lay_top_4_1, lay_top_0_4, decWf, lay_top_27_5, lay_za_7_10, lay_za_0_5, lay_za_21_1, lay_za_5_2,
      decZeroVal_encZeroVal, lay_za_17_4, decCheck_one, lay_t1_21_1, lay_t1_17_4, lay_t1_0_13, lay_t1_13_4,
      lay_conv_21_1, lay_conv_5_2, lay_conv_17_4, lay_conv_13_4, lay_conv_0_6, lay_conv_8_5, decTy_encTy,
      lay_conv_7_1, encBit_eq_one, lay_rm_0_13, lay_rm_13_4, lay_rm_17_5, lay_a2b_21_1, lay_a2b_5_2, lay_a2b_17_4,
      lay_a2b_13_4, lay_a2b_8_5, lay_a2b_7_1, lay_a2b_4_1, lay_a2b_0_4]
    all_goals first | done | rfl | exact if_pos hw | (rename_i ns _; rw [show (BitVec.extractLsb' 1 1 (encBit ns ++ 0#1) == 1) = ns by cases ns <;> rfl]; exact if_pos hw)

theorem trow (p : Pr) (op : TrowOp) (cell : BitVec 5) (idx : BitVec 4) (row : BitVec 4) (chunk : BitVec 3) (t1 : Target) (t0 : Target)
    : Statement (.trow p op cell idx row chunk t1 t0) := fun _ hw => by
  refine (decode_Tensor (op := 0x7C#7) (opcodeOf_encG ..) (by decide) (by decide)).trans ?_
  simp only [decodeTensor, BitVec.toNat_ofNat, Nat.reducePow, Nat.reduceMod, bind, Except.bind, gFields_encG,
    decPr_encPr, decTrow_encTrow, decTarget_encTarget, encode, lay_trow_22_5, decZero_zero, lay_trow_0_11, decWf,
    lay_trow_27_5, lay_trow_18_4, lay_trow_14_4, lay_trow_11_3, hw, if_true]

theorem pset (p : Pr) (mask : BitVec 6) : Statement (.pset p mask) := fun _ hw => by
  refine (decode_Tensor (op := 0x7D#7) (opcodeOf_encG ..) (by decide) (by decide)).trans ?_
  simp only [decodeTensor, BitVec.toNat_ofNat, Nat.reducePow, Nat.reduceMod, bind, Except.bind, gFields_encG,
    decPr_encPr, lay_pset_6_3, decZero_zero, decZero_zero', decWf, lay_pset_0_6, hw, if_true]

theorem pget (p : Pr) (t0 : Target) : Statement (.pget p t0) := fun _ hw => by
  refine (decode_Tensor (op := 0x7D#7) (opcodeOf_encG ..) (by decide) (by decide)).trans ?_
  simp only [decodeTensor, BitVec.toNat_ofNat, Nat.reducePow, Nat.reduceMod, bind, Except.bind, gFields_encG,
    decPr_encPr, decWf, decZero_zero', decTarget_encTarget, if_true]
  all_goals first | done | rfl

theorem cellIssue (comb : Nat) (cell : Nat) : Statement (.cellIssue comb cell) := fun h => nomatch h

theorem weightRecompute (comb : Nat) (cell : Nat) : Statement (.weightRecompute comb cell) := fun h => nomatch h

theorem tokenDelivery (n : Nat) : Statement (.tokenDelivery n) := fun h => nomatch h

theorem blockFetch (ctx : Nat) (addr : W64) : Statement (.blockFetch ctx addr) := fun h => nomatch h

theorem blockCommit (ctx : Nat) : Statement (.blockCommit ctx) := fun h => nomatch h

theorem growthComplete (ctx : Nat) : Statement (.growthComplete ctx) := fun h => nomatch h

theorem compactTimeout (ctx : Nat) : Statement (.compactTimeout ctx) := fun h => nomatch h

theorem compositionRefused (ctx : Nat) : Statement (.compositionRefused ctx) := fun h => nomatch h

theorem mmaPass (comb : Nat) (cell : Nat) : Statement (.mmaPass comb cell) := fun h => nomatch h

theorem loadReply (n : Nat) : Statement (.loadReply n) := fun h => nomatch h

theorem registration (n : Nat) : Statement (.registration n) := fun h => nomatch h

theorem homeRead (n : Nat) (lo : Nat) (hi : Nat) : Statement (.homeRead n lo hi) := fun h => nomatch h

theorem sliceEcho (ctx : Nat) (slice : Nat) : Statement (.sliceEcho ctx slice) := fun h => nomatch h

theorem writeAck (n : Nat) : Statement (.writeAck n) := fun h => nomatch h

theorem amoAtHome (n : Nat) : Statement (.amoAtHome n) := fun h => nomatch h

theorem watchExpired (n : Nat) : Statement (.watchExpired n) := fun h => nomatch h

theorem flushrWalk (n : Nat) : Statement (.flushrWalk n) := fun h => nomatch h

theorem copyChunk (n : Nat) : Statement (.copyChunk n) := fun h => nomatch h

theorem barrierArrival (n : Nat) : Statement (.barrierArrival n) := fun h => nomatch h

theorem barTimeout (ctx : Nat) : Statement (.barTimeout ctx) := fun h => nomatch h

theorem onchipWindowAccess (n : Nat) : Statement (.onchipWindowAccess n) := fun h => nomatch h

theorem launch (part : Nat) (queue : Nat) : Statement (.launch part queue) := fun h => nomatch h

theorem depwait (part : Nat) (queue : Nat) : Statement (.depwait part queue) := fun h => nomatch h

theorem depwaitReread (part : Nat) (queue : Nat) : Statement (.depwaitReread part queue) := fun h => nomatch h

theorem signal (part : Nat) (queue : Nat) : Statement (.signal part queue) := fun h => nomatch h

theorem copyb (part : Nat) (queue : Nat) : Statement (.copyb part queue) := fun h => nomatch h

theorem policy (part : Nat) (queue : Nat) : Statement (.policy part queue) := fun h => nomatch h

theorem fwin (part : Nat) (queue : Nat) : Statement (.fwin part queue) := fun h => nomatch h

theorem tlbinv (part : Nat) (queue : Nat) : Statement (.tlbinv part queue) := fun h => nomatch h

theorem sealRange (part : Nat) (queue : Nat) : Statement (.sealRange part queue) := fun h => nomatch h

theorem unsealRange (part : Nat) (queue : Nat) : Statement (.unsealRange part queue) := fun h => nomatch h

theorem resume (part : Nat) (queue : Nat) : Statement (.resume part queue) := fun h => nomatch h

theorem marker (part : Nat) (queue : Nat) : Statement (.marker part queue) := fun h => nomatch h

theorem packetComplete (part : Nat) (queue : Nat) : Statement (.packetComplete part queue) := fun h => nomatch h

theorem queueBind (die : Nat) : Statement (.queueBind die) := fun h => nomatch h

theorem queueUnbind (die : Nat) (thread : Nat) : Statement (.queueUnbind die thread) := fun h => nomatch h

theorem qpWatchdog (die : Nat) : Statement (.qpWatchdog die) := fun h => nomatch h

theorem dispatchDecision (part : Nat) : Statement (.dispatchDecision part) := fun h => nomatch h

theorem dispatchRetry (part : Nat) : Statement (.dispatchRetry part) := fun h => nomatch h

theorem preemptionDecision (part : Nat) (queue : Nat) : Statement (.preemptionDecision part queue) := fun h => nomatch h

theorem faultDecision (ctx : Nat) : Statement (.faultDecision ctx) := fun h => nomatch h

theorem starvationCheck (part : Nat) : Statement (.starvationCheck part) := fun h => nomatch h

theorem reservation (part : Nat) : Statement (.reservation part) := fun h => nomatch h

theorem compaction (part : Nat) : Statement (.compaction part) := fun h => nomatch h

theorem preemptTimeout (ctx : Nat) : Statement (.preemptTimeout ctx) := fun h => nomatch h

theorem saveComplete (ctx : Nat) : Statement (.saveComplete ctx) := fun h => nomatch h

theorem preemptRetry (part : Nat) : Statement (.preemptRetry part) := fun h => nomatch h

theorem noProgress (ctx : Nat) : Statement (.noProgress ctx) := fun h => nomatch h

theorem remoteTimeout (n : Nat) : Statement (.remoteTimeout n) := fun h => nomatch h

theorem leaseRequest (n : Nat) : Statement (.leaseRequest n) := fun h => nomatch h

theorem leasedWriteApply (n : Nat) : Statement (.leasedWriteApply n) := fun h => nomatch h

theorem hostRead (at_ : HostAddr) : Statement (.hostRead at_) := fun h => nomatch h

theorem hostWrite (at_ : HostAddr) (n : Nat) (data : BitVec 512) : Statement (.hostWrite at_ n data) := fun h => nomatch h

theorem bisnpResponse (line : Nat) (dirty : Option (BitVec 512)) : Statement (.bisnpResponse line dirty) := fun h => nomatch h

theorem fabricRequest (module : Nat) (pa : Nat) (op : FabricOp) : Statement (.fabricRequest module pa op) := fun h => nomatch h

theorem inboundRdma (part : Nat) (qp : Nat) (rkey : BitVec 32) (va : W64) (op : RdmaOp) : Statement (.inboundRdma part qp rkey va op) := fun h => nomatch h

theorem portDrop (port : Nat) : Statement (.portDrop port) := fun h => nomatch h

theorem timeExchange (ok : Bool) (offs : BitVec 24) (master : Nat) : Statement (.timeExchange ok offs master) := fun h => nomatch h

theorem syncLoss : Statement .syncLoss := fun h => nomatch h

theorem sramError (site : ErrorSite) (uncorrectable : Bool) : Statement (.sramError site uncorrectable) := fun h => nomatch h

theorem clockStepDown (watts : Nat) (celsius : Nat) : Statement (.clockStepDown watts celsius) := fun h => nomatch h

theorem clockStepUp (watts : Nat) (celsius : Nat) : Statement (.clockStepUp watts celsius) := fun h => nomatch h

theorem thermalTrip (celsius : Nat) : Statement (.thermalTrip celsius) := fun h => nomatch h

theorem powerOn : Statement .powerOn := fun h => nomatch h

theorem startStage (calibrationOk : Bool) : Statement (.startStage calibrationOk) := fun h => nomatch h

theorem startFailure (code : BitVec 8) : Statement (.startFailure code) := fun h => nomatch h

theorem frameScrubDone (frame : Nat) : Statement (.frameScrubDone frame) := fun h => nomatch h

theorem stopComplete (part : Nat) : Statement (.stopComplete part) := fun h => nomatch h

theorem qwr (by_ : CfgAgent) (part : Nat) (queue : Nat) (v : BitVec 32) : Statement (.qwr by_ part queue v) := fun h => nomatch h

theorem qbase (by_ : CfgAgent) (part : Nat) (queue : Nat) (v : W64) : Statement (.qbase by_ part queue v) := fun h => nomatch h

theorem qctl (by_ : CfgAgent) (part : Nat) (queue : Nat) (v : W64) : Statement (.qctl by_ part queue v) := fun h => nomatch h

theorem qflt (by_ : CfgAgent) (part : Nat) (queue : Nat) : Statement (.qflt by_ part queue) := fun h => nomatch h

theorem partitionStop (by_ : CfgAgent) (part : Nat) : Statement (.partitionStop by_ part) := fun h => nomatch h

theorem partitionStart (by_ : CfgAgent) (part : Nat) : Statement (.partitionStart by_ part) := fun h => nomatch h

theorem pframes (by_ : CfgAgent) (part : Nat) (v : W64) : Statement (.pframes by_ part v) := fun h => nomatch h

theorem registerWrite (by_ : CfgAgent) (off : Nat) (size : Nat) (v : W64) : Statement (.registerWrite by_ off size v) := fun h => nomatch h

theorem imgchunk : Statement .imgchunk := fun h => nomatch h

theorem imgcommit (written : Bool) : Statement (.imgcommit written) := fun h => nomatch h

theorem attest : Statement .attest := fun h => nomatch h

theorem owner : Statement .owner := fun h => nomatch h

theorem resetWarm : Statement .resetWarm := fun h => nomatch h

theorem resetCold : Statement .resetCold := fun h => nomatch h

theorem resetClear : Statement .resetClear := fun h => nomatch h

theorem powerLoss : Statement .powerLoss := fun h => nomatch h

theorem timeBaseResume : Statement .timeBaseResume := fun h => nomatch h

theorem mailboxCommandComplete : Statement .mailboxCommandComplete := fun h => nomatch h

end Sys2Proof.Laws.RoundTrip
end

