-- ==== Sys2Proof/Laws/State.lean ====
section
/-! SUPPORT. One lemma per field per named update of the state, true by rfl, and what the shared operations leave alone. -/

namespace Sys2Proof.Machine

/-! ## setCtx -/

@[simp] theorem setCtx_issue (s : State) (c : Nat) (x : Ctx) : (setCtx s c x).issue = s.issue := rfl
@[simp] theorem setCtx_agenda (s : State) (c : Nat) (x : Ctx) : (setCtx s c x).agenda = s.agenda := rfl
@[simp] theorem setCtx_fresh (s : State) (c : Nat) (x : Ctx) : (setCtx s c x).fresh = s.fresh := rfl
@[simp] theorem setCtx_seq (s : State) (c : Nat) (x : Ctx) : (setCtx s c x).seq = s.seq := rfl
@[simp] theorem setCtx_cycles (s : State) (c : Nat) (x : Ctx) : (setCtx s c x).cycles = s.cycles := rfl
@[simp] theorem setCtx_gtime (s : State) (c : Nat) (x : Ctx) : (setCtx s c x).gtime = s.gtime := rfl
@[simp] theorem setCtx_gfrac (s : State) (c : Nat) (x : Ctx) : (setCtx s c x).gfrac = s.gfrac := rfl
@[simp] theorem setCtx_ms (s : State) (c : Nat) (x : Ctx) : (setCtx s c x).ms = s.ms := rfl
@[simp] theorem setCtx_tbufs (s : State) (c : Nat) (x : Ctx) : (setCtx s c x).tbufs = s.tbufs := rfl
@[simp] theorem setCtx_taccs (s : State) (c : Nat) (x : Ctx) : (setCtx s c x).taccs = s.taccs := rfl
@[simp] theorem setCtx_cells (s : State) (c : Nat) (x : Ctx) : (setCtx s c x).cells = s.cells := rfl
@[simp] theorem setCtx_jobs (s : State) (c : Nat) (x : Ctx) : (setCtx s c x).jobs = s.jobs := rfl
@[simp] theorem setCtx_net (s : State) (c : Nat) (x : Ctx) : (setCtx s c x).net = s.net := rfl
@[simp] theorem setCtx_arrivals (s : State) (c : Nat) (x : Ctx) : (setCtx s c x).arrivals = s.arrivals := rfl
@[simp] theorem setCtx_combs (s : State) (c : Nat) (x : Ctx) : (setCtx s c x).combs = s.combs := rfl
@[simp] theorem setCtx_frames (s : State) (c : Nat) (x : Ctx) : (setCtx s c x).frames = s.frames := rfl
@[simp] theorem setCtx_dies (s : State) (c : Nat) (x : Ctx) : (setCtx s c x).dies = s.dies := rfl
@[simp] theorem setCtx_parts (s : State) (c : Nat) (x : Ctx) : (setCtx s c x).parts = s.parts := rfl
@[simp] theorem setCtx_launches (s : State) (c : Nat) (x : Ctx) : (setCtx s c x).launches = s.launches := rfl
@[simp] theorem setCtx_saves (s : State) (c : Nat) (x : Ctx) : (setCtx s c x).saves = s.saves := rfl
@[simp] theorem setCtx_md (s : State) (c : Nat) (x : Ctx) : (setCtx s c x).md = s.md := rfl
@[simp] theorem setCtx_apertures (s : State) (c : Nat) (x : Ctx) : (setCtx s c x).apertures = s.apertures := rfl
@[simp] theorem setCtx_inbound (s : State) (c : Nat) (x : Ctx) : (setCtx s c x).inbound = s.inbound := rfl
@[simp] theorem setCtx_msix (s : State) (c : Nat) (x : Ctx) : (setCtx s c x).msix = s.msix := rfl
@[simp] theorem setCtx_irqs (s : State) (c : Nat) (x : Ctx) : (setCtx s c x).irqs = s.irqs := rfl
@[simp] theorem setCtx_rdmaOut (s : State) (c : Nat) (x : Ctx) : (setCtx s c x).rdmaOut = s.rdmaOut := rfl

/-! ## modCtx -/

@[simp] theorem modCtx_issue (s : State) (c : Nat) (f : Ctx → Ctx) : (modCtx s c f).issue = s.issue := rfl
@[simp] theorem modCtx_agenda (s : State) (c : Nat) (f : Ctx → Ctx) : (modCtx s c f).agenda = s.agenda := rfl
@[simp] theorem modCtx_fresh (s : State) (c : Nat) (f : Ctx → Ctx) : (modCtx s c f).fresh = s.fresh := rfl
@[simp] theorem modCtx_seq (s : State) (c : Nat) (f : Ctx → Ctx) : (modCtx s c f).seq = s.seq := rfl
@[simp] theorem modCtx_cycles (s : State) (c : Nat) (f : Ctx → Ctx) : (modCtx s c f).cycles = s.cycles := rfl
@[simp] theorem modCtx_gtime (s : State) (c : Nat) (f : Ctx → Ctx) : (modCtx s c f).gtime = s.gtime := rfl
@[simp] theorem modCtx_gfrac (s : State) (c : Nat) (f : Ctx → Ctx) : (modCtx s c f).gfrac = s.gfrac := rfl
@[simp] theorem modCtx_ms (s : State) (c : Nat) (f : Ctx → Ctx) : (modCtx s c f).ms = s.ms := rfl
@[simp] theorem modCtx_tbufs (s : State) (c : Nat) (f : Ctx → Ctx) : (modCtx s c f).tbufs = s.tbufs := rfl
@[simp] theorem modCtx_taccs (s : State) (c : Nat) (f : Ctx → Ctx) : (modCtx s c f).taccs = s.taccs := rfl
@[simp] theorem modCtx_cells (s : State) (c : Nat) (f : Ctx → Ctx) : (modCtx s c f).cells = s.cells := rfl
@[simp] theorem modCtx_jobs (s : State) (c : Nat) (f : Ctx → Ctx) : (modCtx s c f).jobs = s.jobs := rfl
@[simp] theorem modCtx_net (s : State) (c : Nat) (f : Ctx → Ctx) : (modCtx s c f).net = s.net := rfl
@[simp] theorem modCtx_arrivals (s : State) (c : Nat) (f : Ctx → Ctx) : (modCtx s c f).arrivals = s.arrivals := rfl
@[simp] theorem modCtx_combs (s : State) (c : Nat) (f : Ctx → Ctx) : (modCtx s c f).combs = s.combs := rfl
@[simp] theorem modCtx_frames (s : State) (c : Nat) (f : Ctx → Ctx) : (modCtx s c f).frames = s.frames := rfl
@[simp] theorem modCtx_dies (s : State) (c : Nat) (f : Ctx → Ctx) : (modCtx s c f).dies = s.dies := rfl
@[simp] theorem modCtx_parts (s : State) (c : Nat) (f : Ctx → Ctx) : (modCtx s c f).parts = s.parts := rfl
@[simp] theorem modCtx_launches (s : State) (c : Nat) (f : Ctx → Ctx) : (modCtx s c f).launches = s.launches := rfl
@[simp] theorem modCtx_saves (s : State) (c : Nat) (f : Ctx → Ctx) : (modCtx s c f).saves = s.saves := rfl
@[simp] theorem modCtx_md (s : State) (c : Nat) (f : Ctx → Ctx) : (modCtx s c f).md = s.md := rfl
@[simp] theorem modCtx_apertures (s : State) (c : Nat) (f : Ctx → Ctx) : (modCtx s c f).apertures = s.apertures := rfl
@[simp] theorem modCtx_inbound (s : State) (c : Nat) (f : Ctx → Ctx) : (modCtx s c f).inbound = s.inbound := rfl
@[simp] theorem modCtx_msix (s : State) (c : Nat) (f : Ctx → Ctx) : (modCtx s c f).msix = s.msix := rfl
@[simp] theorem modCtx_irqs (s : State) (c : Nat) (f : Ctx → Ctx) : (modCtx s c f).irqs = s.irqs := rfl
@[simp] theorem modCtx_rdmaOut (s : State) (c : Nat) (f : Ctx → Ctx) : (modCtx s c f).rdmaOut = s.rdmaOut := rfl

/-! ## modBlock -/

@[simp] theorem modBlock_issue (s : State) (c tag : Nat) (f : Block → Block) : (modBlock s c tag f).issue = s.issue := rfl
@[simp] theorem modBlock_agenda (s : State) (c tag : Nat) (f : Block → Block) : (modBlock s c tag f).agenda = s.agenda := rfl
@[simp] theorem modBlock_fresh (s : State) (c tag : Nat) (f : Block → Block) : (modBlock s c tag f).fresh = s.fresh := rfl
@[simp] theorem modBlock_seq (s : State) (c tag : Nat) (f : Block → Block) : (modBlock s c tag f).seq = s.seq := rfl
@[simp] theorem modBlock_cycles (s : State) (c tag : Nat) (f : Block → Block) : (modBlock s c tag f).cycles = s.cycles := rfl
@[simp] theorem modBlock_gtime (s : State) (c tag : Nat) (f : Block → Block) : (modBlock s c tag f).gtime = s.gtime := rfl
@[simp] theorem modBlock_gfrac (s : State) (c tag : Nat) (f : Block → Block) : (modBlock s c tag f).gfrac = s.gfrac := rfl
@[simp] theorem modBlock_ms (s : State) (c tag : Nat) (f : Block → Block) : (modBlock s c tag f).ms = s.ms := rfl
@[simp] theorem modBlock_tbufs (s : State) (c tag : Nat) (f : Block → Block) : (modBlock s c tag f).tbufs = s.tbufs := rfl
@[simp] theorem modBlock_taccs (s : State) (c tag : Nat) (f : Block → Block) : (modBlock s c tag f).taccs = s.taccs := rfl
@[simp] theorem modBlock_cells (s : State) (c tag : Nat) (f : Block → Block) : (modBlock s c tag f).cells = s.cells := rfl
@[simp] theorem modBlock_jobs (s : State) (c tag : Nat) (f : Block → Block) : (modBlock s c tag f).jobs = s.jobs := rfl
@[simp] theorem modBlock_net (s : State) (c tag : Nat) (f : Block → Block) : (modBlock s c tag f).net = s.net := rfl
@[simp] theorem modBlock_arrivals (s : State) (c tag : Nat) (f : Block → Block) : (modBlock s c tag f).arrivals = s.arrivals := rfl
@[simp] theorem modBlock_combs (s : State) (c tag : Nat) (f : Block → Block) : (modBlock s c tag f).combs = s.combs := rfl
@[simp] theorem modBlock_frames (s : State) (c tag : Nat) (f : Block → Block) : (modBlock s c tag f).frames = s.frames := rfl
@[simp] theorem modBlock_dies (s : State) (c tag : Nat) (f : Block → Block) : (modBlock s c tag f).dies = s.dies := rfl
@[simp] theorem modBlock_parts (s : State) (c tag : Nat) (f : Block → Block) : (modBlock s c tag f).parts = s.parts := rfl
@[simp] theorem modBlock_launches (s : State) (c tag : Nat) (f : Block → Block) : (modBlock s c tag f).launches = s.launches := rfl
@[simp] theorem modBlock_saves (s : State) (c tag : Nat) (f : Block → Block) : (modBlock s c tag f).saves = s.saves := rfl
@[simp] theorem modBlock_md (s : State) (c tag : Nat) (f : Block → Block) : (modBlock s c tag f).md = s.md := rfl
@[simp] theorem modBlock_apertures (s : State) (c tag : Nat) (f : Block → Block) : (modBlock s c tag f).apertures = s.apertures := rfl
@[simp] theorem modBlock_inbound (s : State) (c tag : Nat) (f : Block → Block) : (modBlock s c tag f).inbound = s.inbound := rfl
@[simp] theorem modBlock_msix (s : State) (c tag : Nat) (f : Block → Block) : (modBlock s c tag f).msix = s.msix := rfl
@[simp] theorem modBlock_irqs (s : State) (c tag : Nat) (f : Block → Block) : (modBlock s c tag f).irqs = s.irqs := rfl
@[simp] theorem modBlock_rdmaOut (s : State) (c tag : Nat) (f : Block → Block) : (modBlock s c tag f).rdmaOut = s.rdmaOut := rfl

/-! ## setSt -/

@[simp] theorem setSt_issue (s : State) (i : Issue) (st : NodeSt) : (setSt s i st).issue = s.issue := rfl
@[simp] theorem setSt_agenda (s : State) (i : Issue) (st : NodeSt) : (setSt s i st).agenda = s.agenda := rfl
@[simp] theorem setSt_fresh (s : State) (i : Issue) (st : NodeSt) : (setSt s i st).fresh = s.fresh := rfl
@[simp] theorem setSt_seq (s : State) (i : Issue) (st : NodeSt) : (setSt s i st).seq = s.seq := rfl
@[simp] theorem setSt_cycles (s : State) (i : Issue) (st : NodeSt) : (setSt s i st).cycles = s.cycles := rfl
@[simp] theorem setSt_gtime (s : State) (i : Issue) (st : NodeSt) : (setSt s i st).gtime = s.gtime := rfl
@[simp] theorem setSt_gfrac (s : State) (i : Issue) (st : NodeSt) : (setSt s i st).gfrac = s.gfrac := rfl
@[simp] theorem setSt_ms (s : State) (i : Issue) (st : NodeSt) : (setSt s i st).ms = s.ms := rfl
@[simp] theorem setSt_tbufs (s : State) (i : Issue) (st : NodeSt) : (setSt s i st).tbufs = s.tbufs := rfl
@[simp] theorem setSt_taccs (s : State) (i : Issue) (st : NodeSt) : (setSt s i st).taccs = s.taccs := rfl
@[simp] theorem setSt_cells (s : State) (i : Issue) (st : NodeSt) : (setSt s i st).cells = s.cells := rfl
@[simp] theorem setSt_jobs (s : State) (i : Issue) (st : NodeSt) : (setSt s i st).jobs = s.jobs := rfl
@[simp] theorem setSt_net (s : State) (i : Issue) (st : NodeSt) : (setSt s i st).net = s.net := rfl
@[simp] theorem setSt_arrivals (s : State) (i : Issue) (st : NodeSt) : (setSt s i st).arrivals = s.arrivals := rfl
@[simp] theorem setSt_combs (s : State) (i : Issue) (st : NodeSt) : (setSt s i st).combs = s.combs := rfl
@[simp] theorem setSt_frames (s : State) (i : Issue) (st : NodeSt) : (setSt s i st).frames = s.frames := rfl
@[simp] theorem setSt_dies (s : State) (i : Issue) (st : NodeSt) : (setSt s i st).dies = s.dies := rfl
@[simp] theorem setSt_parts (s : State) (i : Issue) (st : NodeSt) : (setSt s i st).parts = s.parts := rfl
@[simp] theorem setSt_launches (s : State) (i : Issue) (st : NodeSt) : (setSt s i st).launches = s.launches := rfl
@[simp] theorem setSt_saves (s : State) (i : Issue) (st : NodeSt) : (setSt s i st).saves = s.saves := rfl
@[simp] theorem setSt_md (s : State) (i : Issue) (st : NodeSt) : (setSt s i st).md = s.md := rfl
@[simp] theorem setSt_apertures (s : State) (i : Issue) (st : NodeSt) : (setSt s i st).apertures = s.apertures := rfl
@[simp] theorem setSt_inbound (s : State) (i : Issue) (st : NodeSt) : (setSt s i st).inbound = s.inbound := rfl
@[simp] theorem setSt_msix (s : State) (i : Issue) (st : NodeSt) : (setSt s i st).msix = s.msix := rfl
@[simp] theorem setSt_irqs (s : State) (i : Issue) (st : NodeSt) : (setSt s i st).irqs = s.irqs := rfl
@[simp] theorem setSt_rdmaOut (s : State) (i : Issue) (st : NodeSt) : (setSt s i st).rdmaOut = s.rdmaOut := rfl

/-! ## modLaunch -/

@[simp] theorem modLaunch_issue (s : State) (l : Nat) (f : Launch → Launch) : (modLaunch s l f).issue = s.issue := rfl
@[simp] theorem modLaunch_agenda (s : State) (l : Nat) (f : Launch → Launch) : (modLaunch s l f).agenda = s.agenda := rfl
@[simp] theorem modLaunch_fresh (s : State) (l : Nat) (f : Launch → Launch) : (modLaunch s l f).fresh = s.fresh := rfl
@[simp] theorem modLaunch_seq (s : State) (l : Nat) (f : Launch → Launch) : (modLaunch s l f).seq = s.seq := rfl
@[simp] theorem modLaunch_cycles (s : State) (l : Nat) (f : Launch → Launch) : (modLaunch s l f).cycles = s.cycles := rfl
@[simp] theorem modLaunch_gtime (s : State) (l : Nat) (f : Launch → Launch) : (modLaunch s l f).gtime = s.gtime := rfl
@[simp] theorem modLaunch_gfrac (s : State) (l : Nat) (f : Launch → Launch) : (modLaunch s l f).gfrac = s.gfrac := rfl
@[simp] theorem modLaunch_ms (s : State) (l : Nat) (f : Launch → Launch) : (modLaunch s l f).ms = s.ms := rfl
@[simp] theorem modLaunch_ctxs (s : State) (l : Nat) (f : Launch → Launch) : (modLaunch s l f).ctxs = s.ctxs := rfl
@[simp] theorem modLaunch_tbufs (s : State) (l : Nat) (f : Launch → Launch) : (modLaunch s l f).tbufs = s.tbufs := rfl
@[simp] theorem modLaunch_taccs (s : State) (l : Nat) (f : Launch → Launch) : (modLaunch s l f).taccs = s.taccs := rfl
@[simp] theorem modLaunch_cells (s : State) (l : Nat) (f : Launch → Launch) : (modLaunch s l f).cells = s.cells := rfl
@[simp] theorem modLaunch_jobs (s : State) (l : Nat) (f : Launch → Launch) : (modLaunch s l f).jobs = s.jobs := rfl
@[simp] theorem modLaunch_net (s : State) (l : Nat) (f : Launch → Launch) : (modLaunch s l f).net = s.net := rfl
@[simp] theorem modLaunch_arrivals (s : State) (l : Nat) (f : Launch → Launch) : (modLaunch s l f).arrivals = s.arrivals := rfl
@[simp] theorem modLaunch_combs (s : State) (l : Nat) (f : Launch → Launch) : (modLaunch s l f).combs = s.combs := rfl
@[simp] theorem modLaunch_frames (s : State) (l : Nat) (f : Launch → Launch) : (modLaunch s l f).frames = s.frames := rfl
@[simp] theorem modLaunch_dies (s : State) (l : Nat) (f : Launch → Launch) : (modLaunch s l f).dies = s.dies := rfl
@[simp] theorem modLaunch_parts (s : State) (l : Nat) (f : Launch → Launch) : (modLaunch s l f).parts = s.parts := rfl
@[simp] theorem modLaunch_saves (s : State) (l : Nat) (f : Launch → Launch) : (modLaunch s l f).saves = s.saves := rfl
@[simp] theorem modLaunch_md (s : State) (l : Nat) (f : Launch → Launch) : (modLaunch s l f).md = s.md := rfl
@[simp] theorem modLaunch_apertures (s : State) (l : Nat) (f : Launch → Launch) : (modLaunch s l f).apertures = s.apertures := rfl
@[simp] theorem modLaunch_inbound (s : State) (l : Nat) (f : Launch → Launch) : (modLaunch s l f).inbound = s.inbound := rfl
@[simp] theorem modLaunch_msix (s : State) (l : Nat) (f : Launch → Launch) : (modLaunch s l f).msix = s.msix := rfl
@[simp] theorem modLaunch_irqs (s : State) (l : Nat) (f : Launch → Launch) : (modLaunch s l f).irqs = s.irqs := rfl
@[simp] theorem modLaunch_rdmaOut (s : State) (l : Nat) (f : Launch → Launch) : (modLaunch s l f).rdmaOut = s.rdmaOut := rfl

/-! ## modPart -/

@[simp] theorem modPart_issue (s : State) (p : Nat) (f : Partition → Partition) : (modPart s p f).issue = s.issue := rfl
@[simp] theorem modPart_agenda (s : State) (p : Nat) (f : Partition → Partition) : (modPart s p f).agenda = s.agenda := rfl
@[simp] theorem modPart_fresh (s : State) (p : Nat) (f : Partition → Partition) : (modPart s p f).fresh = s.fresh := rfl
@[simp] theorem modPart_seq (s : State) (p : Nat) (f : Partition → Partition) : (modPart s p f).seq = s.seq := rfl
@[simp] theorem modPart_cycles (s : State) (p : Nat) (f : Partition → Partition) : (modPart s p f).cycles = s.cycles := rfl
@[simp] theorem modPart_gtime (s : State) (p : Nat) (f : Partition → Partition) : (modPart s p f).gtime = s.gtime := rfl
@[simp] theorem modPart_gfrac (s : State) (p : Nat) (f : Partition → Partition) : (modPart s p f).gfrac = s.gfrac := rfl
@[simp] theorem modPart_ms (s : State) (p : Nat) (f : Partition → Partition) : (modPart s p f).ms = s.ms := rfl
@[simp] theorem modPart_ctxs (s : State) (p : Nat) (f : Partition → Partition) : (modPart s p f).ctxs = s.ctxs := rfl
@[simp] theorem modPart_tbufs (s : State) (p : Nat) (f : Partition → Partition) : (modPart s p f).tbufs = s.tbufs := rfl
@[simp] theorem modPart_taccs (s : State) (p : Nat) (f : Partition → Partition) : (modPart s p f).taccs = s.taccs := rfl
@[simp] theorem modPart_cells (s : State) (p : Nat) (f : Partition → Partition) : (modPart s p f).cells = s.cells := rfl
@[simp] theorem modPart_jobs (s : State) (p : Nat) (f : Partition → Partition) : (modPart s p f).jobs = s.jobs := rfl
@[simp] theorem modPart_net (s : State) (p : Nat) (f : Partition → Partition) : (modPart s p f).net = s.net := rfl
@[simp] theorem modPart_arrivals (s : State) (p : Nat) (f : Partition → Partition) : (modPart s p f).arrivals = s.arrivals := rfl
@[simp] theorem modPart_combs (s : State) (p : Nat) (f : Partition → Partition) : (modPart s p f).combs = s.combs := rfl
@[simp] theorem modPart_frames (s : State) (p : Nat) (f : Partition → Partition) : (modPart s p f).frames = s.frames := rfl
@[simp] theorem modPart_dies (s : State) (p : Nat) (f : Partition → Partition) : (modPart s p f).dies = s.dies := rfl
@[simp] theorem modPart_launches (s : State) (p : Nat) (f : Partition → Partition) : (modPart s p f).launches = s.launches := rfl
@[simp] theorem modPart_saves (s : State) (p : Nat) (f : Partition → Partition) : (modPart s p f).saves = s.saves := rfl
@[simp] theorem modPart_md (s : State) (p : Nat) (f : Partition → Partition) : (modPart s p f).md = s.md := rfl
@[simp] theorem modPart_apertures (s : State) (p : Nat) (f : Partition → Partition) : (modPart s p f).apertures = s.apertures := rfl
@[simp] theorem modPart_inbound (s : State) (p : Nat) (f : Partition → Partition) : (modPart s p f).inbound = s.inbound := rfl
@[simp] theorem modPart_msix (s : State) (p : Nat) (f : Partition → Partition) : (modPart s p f).msix = s.msix := rfl
@[simp] theorem modPart_irqs (s : State) (p : Nat) (f : Partition → Partition) : (modPart s p f).irqs = s.irqs := rfl
@[simp] theorem modPart_rdmaOut (s : State) (p : Nat) (f : Partition → Partition) : (modPart s p f).rdmaOut = s.rdmaOut := rfl

/-! ## modQueue -/

@[simp] theorem modQueue_issue (s : State) (p q : Nat) (f : Queue → Queue) : (modQueue s p q f).issue = s.issue := rfl
@[simp] theorem modQueue_agenda (s : State) (p q : Nat) (f : Queue → Queue) : (modQueue s p q f).agenda = s.agenda := rfl
@[simp] theorem modQueue_fresh (s : State) (p q : Nat) (f : Queue → Queue) : (modQueue s p q f).fresh = s.fresh := rfl
@[simp] theorem modQueue_seq (s : State) (p q : Nat) (f : Queue → Queue) : (modQueue s p q f).seq = s.seq := rfl
@[simp] theorem modQueue_cycles (s : State) (p q : Nat) (f : Queue → Queue) : (modQueue s p q f).cycles = s.cycles := rfl
@[simp] theorem modQueue_gtime (s : State) (p q : Nat) (f : Queue → Queue) : (modQueue s p q f).gtime = s.gtime := rfl
@[simp] theorem modQueue_gfrac (s : State) (p q : Nat) (f : Queue → Queue) : (modQueue s p q f).gfrac = s.gfrac := rfl
@[simp] theorem modQueue_ms (s : State) (p q : Nat) (f : Queue → Queue) : (modQueue s p q f).ms = s.ms := rfl
@[simp] theorem modQueue_ctxs (s : State) (p q : Nat) (f : Queue → Queue) : (modQueue s p q f).ctxs = s.ctxs := rfl
@[simp] theorem modQueue_tbufs (s : State) (p q : Nat) (f : Queue → Queue) : (modQueue s p q f).tbufs = s.tbufs := rfl
@[simp] theorem modQueue_taccs (s : State) (p q : Nat) (f : Queue → Queue) : (modQueue s p q f).taccs = s.taccs := rfl
@[simp] theorem modQueue_cells (s : State) (p q : Nat) (f : Queue → Queue) : (modQueue s p q f).cells = s.cells := rfl
@[simp] theorem modQueue_jobs (s : State) (p q : Nat) (f : Queue → Queue) : (modQueue s p q f).jobs = s.jobs := rfl
@[simp] theorem modQueue_net (s : State) (p q : Nat) (f : Queue → Queue) : (modQueue s p q f).net = s.net := rfl
@[simp] theorem modQueue_arrivals (s : State) (p q : Nat) (f : Queue → Queue) : (modQueue s p q f).arrivals = s.arrivals := rfl
@[simp] theorem modQueue_combs (s : State) (p q : Nat) (f : Queue → Queue) : (modQueue s p q f).combs = s.combs := rfl
@[simp] theorem modQueue_frames (s : State) (p q : Nat) (f : Queue → Queue) : (modQueue s p q f).frames = s.frames := rfl
@[simp] theorem modQueue_dies (s : State) (p q : Nat) (f : Queue → Queue) : (modQueue s p q f).dies = s.dies := rfl
@[simp] theorem modQueue_launches (s : State) (p q : Nat) (f : Queue → Queue) : (modQueue s p q f).launches = s.launches := rfl
@[simp] theorem modQueue_saves (s : State) (p q : Nat) (f : Queue → Queue) : (modQueue s p q f).saves = s.saves := rfl
@[simp] theorem modQueue_md (s : State) (p q : Nat) (f : Queue → Queue) : (modQueue s p q f).md = s.md := rfl
@[simp] theorem modQueue_apertures (s : State) (p q : Nat) (f : Queue → Queue) : (modQueue s p q f).apertures = s.apertures := rfl
@[simp] theorem modQueue_inbound (s : State) (p q : Nat) (f : Queue → Queue) : (modQueue s p q f).inbound = s.inbound := rfl
@[simp] theorem modQueue_msix (s : State) (p q : Nat) (f : Queue → Queue) : (modQueue s p q f).msix = s.msix := rfl
@[simp] theorem modQueue_irqs (s : State) (p q : Nat) (f : Queue → Queue) : (modQueue s p q f).irqs = s.irqs := rfl
@[simp] theorem modQueue_rdmaOut (s : State) (p q : Nat) (f : Queue → Queue) : (modQueue s p q f).rdmaOut = s.rdmaOut := rfl

/-! ## modComb -/

@[simp] theorem modComb_issue (s : State) (k : Nat) (f : Comb → Comb) : (modComb s k f).issue = s.issue := rfl
@[simp] theorem modComb_agenda (s : State) (k : Nat) (f : Comb → Comb) : (modComb s k f).agenda = s.agenda := rfl
@[simp] theorem modComb_fresh (s : State) (k : Nat) (f : Comb → Comb) : (modComb s k f).fresh = s.fresh := rfl
@[simp] theorem modComb_seq (s : State) (k : Nat) (f : Comb → Comb) : (modComb s k f).seq = s.seq := rfl
@[simp] theorem modComb_cycles (s : State) (k : Nat) (f : Comb → Comb) : (modComb s k f).cycles = s.cycles := rfl
@[simp] theorem modComb_gtime (s : State) (k : Nat) (f : Comb → Comb) : (modComb s k f).gtime = s.gtime := rfl
@[simp] theorem modComb_gfrac (s : State) (k : Nat) (f : Comb → Comb) : (modComb s k f).gfrac = s.gfrac := rfl
@[simp] theorem modComb_ms (s : State) (k : Nat) (f : Comb → Comb) : (modComb s k f).ms = s.ms := rfl
@[simp] theorem modComb_ctxs (s : State) (k : Nat) (f : Comb → Comb) : (modComb s k f).ctxs = s.ctxs := rfl
@[simp] theorem modComb_tbufs (s : State) (k : Nat) (f : Comb → Comb) : (modComb s k f).tbufs = s.tbufs := rfl
@[simp] theorem modComb_taccs (s : State) (k : Nat) (f : Comb → Comb) : (modComb s k f).taccs = s.taccs := rfl
@[simp] theorem modComb_cells (s : State) (k : Nat) (f : Comb → Comb) : (modComb s k f).cells = s.cells := rfl
@[simp] theorem modComb_jobs (s : State) (k : Nat) (f : Comb → Comb) : (modComb s k f).jobs = s.jobs := rfl
@[simp] theorem modComb_net (s : State) (k : Nat) (f : Comb → Comb) : (modComb s k f).net = s.net := rfl
@[simp] theorem modComb_arrivals (s : State) (k : Nat) (f : Comb → Comb) : (modComb s k f).arrivals = s.arrivals := rfl
@[simp] theorem modComb_frames (s : State) (k : Nat) (f : Comb → Comb) : (modComb s k f).frames = s.frames := rfl
@[simp] theorem modComb_dies (s : State) (k : Nat) (f : Comb → Comb) : (modComb s k f).dies = s.dies := rfl
@[simp] theorem modComb_parts (s : State) (k : Nat) (f : Comb → Comb) : (modComb s k f).parts = s.parts := rfl
@[simp] theorem modComb_launches (s : State) (k : Nat) (f : Comb → Comb) : (modComb s k f).launches = s.launches := rfl
@[simp] theorem modComb_saves (s : State) (k : Nat) (f : Comb → Comb) : (modComb s k f).saves = s.saves := rfl
@[simp] theorem modComb_md (s : State) (k : Nat) (f : Comb → Comb) : (modComb s k f).md = s.md := rfl
@[simp] theorem modComb_apertures (s : State) (k : Nat) (f : Comb → Comb) : (modComb s k f).apertures = s.apertures := rfl
@[simp] theorem modComb_inbound (s : State) (k : Nat) (f : Comb → Comb) : (modComb s k f).inbound = s.inbound := rfl
@[simp] theorem modComb_msix (s : State) (k : Nat) (f : Comb → Comb) : (modComb s k f).msix = s.msix := rfl
@[simp] theorem modComb_irqs (s : State) (k : Nat) (f : Comb → Comb) : (modComb s k f).irqs = s.irqs := rfl
@[simp] theorem modComb_rdmaOut (s : State) (k : Nat) (f : Comb → Comb) : (modComb s k f).rdmaOut = s.rdmaOut := rfl

/-! ## bumpSeq -/

@[simp] theorem bumpSeq_issue (s : State) : (bumpSeq s).issue = s.issue := rfl
@[simp] theorem bumpSeq_agenda (s : State) : (bumpSeq s).agenda = s.agenda := rfl
@[simp] theorem bumpSeq_fresh (s : State) : (bumpSeq s).fresh = s.fresh := rfl
@[simp] theorem bumpSeq_cycles (s : State) : (bumpSeq s).cycles = s.cycles := rfl
@[simp] theorem bumpSeq_gtime (s : State) : (bumpSeq s).gtime = s.gtime := rfl
@[simp] theorem bumpSeq_gfrac (s : State) : (bumpSeq s).gfrac = s.gfrac := rfl
@[simp] theorem bumpSeq_ms (s : State) : (bumpSeq s).ms = s.ms := rfl
@[simp] theorem bumpSeq_ctxs (s : State) : (bumpSeq s).ctxs = s.ctxs := rfl
@[simp] theorem bumpSeq_tbufs (s : State) : (bumpSeq s).tbufs = s.tbufs := rfl
@[simp] theorem bumpSeq_taccs (s : State) : (bumpSeq s).taccs = s.taccs := rfl
@[simp] theorem bumpSeq_cells (s : State) : (bumpSeq s).cells = s.cells := rfl
@[simp] theorem bumpSeq_jobs (s : State) : (bumpSeq s).jobs = s.jobs := rfl
@[simp] theorem bumpSeq_net (s : State) : (bumpSeq s).net = s.net := rfl
@[simp] theorem bumpSeq_arrivals (s : State) : (bumpSeq s).arrivals = s.arrivals := rfl
@[simp] theorem bumpSeq_combs (s : State) : (bumpSeq s).combs = s.combs := rfl
@[simp] theorem bumpSeq_frames (s : State) : (bumpSeq s).frames = s.frames := rfl
@[simp] theorem bumpSeq_dies (s : State) : (bumpSeq s).dies = s.dies := rfl
@[simp] theorem bumpSeq_parts (s : State) : (bumpSeq s).parts = s.parts := rfl
@[simp] theorem bumpSeq_launches (s : State) : (bumpSeq s).launches = s.launches := rfl
@[simp] theorem bumpSeq_saves (s : State) : (bumpSeq s).saves = s.saves := rfl
@[simp] theorem bumpSeq_md (s : State) : (bumpSeq s).md = s.md := rfl
@[simp] theorem bumpSeq_apertures (s : State) : (bumpSeq s).apertures = s.apertures := rfl
@[simp] theorem bumpSeq_inbound (s : State) : (bumpSeq s).inbound = s.inbound := rfl
@[simp] theorem bumpSeq_msix (s : State) : (bumpSeq s).msix = s.msix := rfl
@[simp] theorem bumpSeq_irqs (s : State) : (bumpSeq s).irqs = s.irqs := rfl
@[simp] theorem bumpSeq_rdmaOut (s : State) : (bumpSeq s).rdmaOut = s.rdmaOut := rfl

/-! ## bumpFresh -/

@[simp] theorem bumpFresh_issue (s : State) : (bumpFresh s).issue = s.issue := rfl
@[simp] theorem bumpFresh_agenda (s : State) : (bumpFresh s).agenda = s.agenda := rfl
@[simp] theorem bumpFresh_seq (s : State) : (bumpFresh s).seq = s.seq := rfl
@[simp] theorem bumpFresh_cycles (s : State) : (bumpFresh s).cycles = s.cycles := rfl
@[simp] theorem bumpFresh_gtime (s : State) : (bumpFresh s).gtime = s.gtime := rfl
@[simp] theorem bumpFresh_gfrac (s : State) : (bumpFresh s).gfrac = s.gfrac := rfl
@[simp] theorem bumpFresh_ms (s : State) : (bumpFresh s).ms = s.ms := rfl
@[simp] theorem bumpFresh_ctxs (s : State) : (bumpFresh s).ctxs = s.ctxs := rfl
@[simp] theorem bumpFresh_tbufs (s : State) : (bumpFresh s).tbufs = s.tbufs := rfl
@[simp] theorem bumpFresh_taccs (s : State) : (bumpFresh s).taccs = s.taccs := rfl
@[simp] theorem bumpFresh_cells (s : State) : (bumpFresh s).cells = s.cells := rfl
@[simp] theorem bumpFresh_jobs (s : State) : (bumpFresh s).jobs = s.jobs := rfl
@[simp] theorem bumpFresh_net (s : State) : (bumpFresh s).net = s.net := rfl
@[simp] theorem bumpFresh_arrivals (s : State) : (bumpFresh s).arrivals = s.arrivals := rfl
@[simp] theorem bumpFresh_combs (s : State) : (bumpFresh s).combs = s.combs := rfl
@[simp] theorem bumpFresh_frames (s : State) : (bumpFresh s).frames = s.frames := rfl
@[simp] theorem bumpFresh_dies (s : State) : (bumpFresh s).dies = s.dies := rfl
@[simp] theorem bumpFresh_parts (s : State) : (bumpFresh s).parts = s.parts := rfl
@[simp] theorem bumpFresh_launches (s : State) : (bumpFresh s).launches = s.launches := rfl
@[simp] theorem bumpFresh_saves (s : State) : (bumpFresh s).saves = s.saves := rfl
@[simp] theorem bumpFresh_md (s : State) : (bumpFresh s).md = s.md := rfl
@[simp] theorem bumpFresh_apertures (s : State) : (bumpFresh s).apertures = s.apertures := rfl
@[simp] theorem bumpFresh_inbound (s : State) : (bumpFresh s).inbound = s.inbound := rfl
@[simp] theorem bumpFresh_msix (s : State) : (bumpFresh s).msix = s.msix := rfl
@[simp] theorem bumpFresh_irqs (s : State) : (bumpFresh s).irqs = s.irqs := rfl
@[simp] theorem bumpFresh_rdmaOut (s : State) : (bumpFresh s).rdmaOut = s.rdmaOut := rfl

/-! ## taken -/

@[simp] theorem taken_agenda (s : State) : (taken s).agenda = s.agenda := rfl
@[simp] theorem taken_fresh (s : State) : (taken s).fresh = s.fresh := rfl
@[simp] theorem taken_seq (s : State) : (taken s).seq = s.seq := rfl
@[simp] theorem taken_cycles (s : State) : (taken s).cycles = s.cycles := rfl
@[simp] theorem taken_gtime (s : State) : (taken s).gtime = s.gtime := rfl
@[simp] theorem taken_gfrac (s : State) : (taken s).gfrac = s.gfrac := rfl
@[simp] theorem taken_ms (s : State) : (taken s).ms = s.ms := rfl
@[simp] theorem taken_ctxs (s : State) : (taken s).ctxs = s.ctxs := rfl
@[simp] theorem taken_tbufs (s : State) : (taken s).tbufs = s.tbufs := rfl
@[simp] theorem taken_taccs (s : State) : (taken s).taccs = s.taccs := rfl
@[simp] theorem taken_cells (s : State) : (taken s).cells = s.cells := rfl
@[simp] theorem taken_jobs (s : State) : (taken s).jobs = s.jobs := rfl
@[simp] theorem taken_net (s : State) : (taken s).net = s.net := rfl
@[simp] theorem taken_arrivals (s : State) : (taken s).arrivals = s.arrivals := rfl
@[simp] theorem taken_combs (s : State) : (taken s).combs = s.combs := rfl
@[simp] theorem taken_frames (s : State) : (taken s).frames = s.frames := rfl
@[simp] theorem taken_dies (s : State) : (taken s).dies = s.dies := rfl
@[simp] theorem taken_parts (s : State) : (taken s).parts = s.parts := rfl
@[simp] theorem taken_launches (s : State) : (taken s).launches = s.launches := rfl
@[simp] theorem taken_saves (s : State) : (taken s).saves = s.saves := rfl
@[simp] theorem taken_md (s : State) : (taken s).md = s.md := rfl
@[simp] theorem taken_apertures (s : State) : (taken s).apertures = s.apertures := rfl
@[simp] theorem taken_inbound (s : State) : (taken s).inbound = s.inbound := rfl
@[simp] theorem taken_msix (s : State) : (taken s).msix = s.msix := rfl
@[simp] theorem taken_irqs (s : State) : (taken s).irqs = s.irqs := rfl
@[simp] theorem taken_rdmaOut (s : State) : (taken s).rdmaOut = s.rdmaOut := rfl

/-! ## Reads after the named updates -/

@[simp] theorem ctxOf_setCtx_same (s : State) (c : Nat) (x : Ctx) : ctxOf (setCtx s c x) c = x := mget_mput_same ..
@[simp] theorem ctxOf_setCtx_other (s : State) (c : Nat) (x : Ctx) (d : Nat) (h : d ≠ c) : ctxOf (setCtx s c x) d = ctxOf s d := mget_mput_other h ..
@[simp] theorem ctxOf_modCtx_same (s : State) (c : Nat) (f : Ctx → Ctx) : ctxOf (modCtx s c f) c = f (ctxOf s c) := ctxOf_setCtx_same ..
@[simp] theorem ctxOf_modCtx_other (s : State) (c : Nat) (f : Ctx → Ctx) (d : Nat) (h : d ≠ c) : ctxOf (modCtx s c f) d = ctxOf s d := ctxOf_setCtx_other _ _ _ _ h
@[simp] theorem launchOf_modLaunch_same (s : State) (l : Nat) (f : Launch → Launch) : launchOf (modLaunch s l f) l = f (launchOf s l) := mget_mput_same ..
@[simp] theorem launchOf_modLaunch_other (s : State) (l : Nat) (f : Launch → Launch) (k : Nat) (h : k ≠ l) : launchOf (modLaunch s l f) k = launchOf s k :=
  mget_mput_other h ..
@[simp] theorem partOf_modPart_same (s : State) (p : Nat) (f : Partition → Partition) : partOf (modPart s p f) p = f (partOf s p) := mget_mput_same ..
@[simp] theorem partOf_modPart_other (s : State) (p : Nat) (f : Partition → Partition) (k : Nat) (h : k ≠ p) : partOf (modPart s p f) k = partOf s k :=
  mget_mput_other h ..
@[simp] theorem queueOf_modQueue_same (s : State) (p q : Nat) (f : Queue → Queue) : queueOf (modQueue s p q f) p q = f (queueOf s p q) := by
  simp [queueOf, modQueue, mget_mput_same]
@[simp] theorem ctxOf_setSt_other (s : State) (i : Issue) (st : NodeSt) (d : Nat) (h : d ≠ i.ctx) : ctxOf (setSt s i st) d = ctxOf s d :=
  ctxOf_setCtx_other _ _ _ _ h

/-! ## What the shared operations leave alone -/

/-- A token delivered changes the operand network and the message number alone (R120). -/
theorem deliver_frame (s : State) (i : Issue) (lat : Nat) (t : Target) (tok : Token) :
    { deliver s i lat t tok with net := s.net, seq := s.seq } = s := by
  unfold deliver
  cases t with
  | none => rfl
  | slot k idx => dsimp only; split <;> rfl

/-- A result emitted changes the operand network and the message number alone (R169). -/
theorem emitTo_frame (i : Issue) (lat : Nat) (tok : Token) (ts : List Target) (s : State) :
    { emitTo s i lat ts tok with net := s.net, seq := s.seq } = s := by
  induction ts generalizing s with
  | nil => rfl
  | cons t ts ih =>
    have h1 := ih (deliver s i lat t tok)
    have h2 := deliver_frame s i lat t tok
    simp only [emitTo, List.foldl_cons] at h1 ⊢
    generalize hd : deliver s i lat t tok = u at h1 h2
    have h3 := congrArg (fun x : State => { x with net := s.net, seq := s.seq }) h1
    exact h3.trans h2

/-- An instruction that ends with its result changes the operand network, the message number and its own context's blocks
alone. -/
theorem finish_other (s : State) (i : Issue) (lat : Nat) (ts : List Target) (tok : Token) (d : Nat) (h : d ≠ i.ctx) :
    ctxOf (finish s i lat ts tok) d = ctxOf s d := by
  have h1 : ctxOf (finish s i lat ts tok) d = ctxOf (emitTo s i lat ts tok) d := ctxOf_setSt_other _ _ _ _ h
  rw [h1]
  have h2 : (emitTo s i lat ts tok).ctxs = s.ctxs := by
    have h3 := congrArg State.ctxs (emitTo_frame i lat tok ts s)
    exact h3
  simp only [ctxOf, h2]

/-- A fault recorded changes its own context's blocks alone (R110). -/
theorem recordFault_other (s : State) (i : Issue) (cause : BitVec 8) (v : W64) (d : Nat) (h : d ≠ i.ctx) :
    ctxOf (recordFault s i cause v) d = ctxOf s d := by
  have h1 : ctxOf (recordFault s i cause v) d = ctxOf (modBlock s i.ctx i.tag (fun b => { b with faults := mput i.idx (cause, v) b.faults })) d :=
    ctxOf_setSt_other _ _ _ _ h
  exact h1.trans (ctxOf_setCtx_other _ _ _ _ h)

/-- A block boundary noted changes its own context alone, and of it the values that GETS is to read (R178). -/
theorem markBound_other (s : State) (c d : Nat) (h : d ≠ c) : ctxOf (markBound s c) d = ctxOf s d := ctxOf_modCtx_other _ _ _ _ h

/-- A context in use stands at the block boundary noted (R178). -/
theorem markBound_same (s : State) (c : Nat) (h : (ctxOf s c).phase ≠ .free) :
    ctxOf (markBound s c) c = { ctxOf s c with bound := some (boundNow s (ctxOf s c)) } := by
  simp only [markBound, ctxOf_modCtx_same]
  exact if_neg (fun e => h (by simpa using e))

/-- Every block of a context from position n on is discarded, the others stay, and a batch fault that a discarded WAITB had taken
is given back (R112, R247). -/
theorem discardFrom_same (s : State) (c n : Nat) :
    ctxOf (discardFrom s c n) c = { giveBack ((ctxOf s c).blocks.drop n) (ctxOf s c) with
                                                   blocks := (ctxOf s c).blocks.take n
                                                   sqc := (ctxOf s c).sqc + BitVec.ofNat 64 ((ctxOf s c).blocks.drop n).length
                                                   fetch := none
                                                   xlat := if n == 0 then none else (ctxOf s c).xlat } := ctxOf_modCtx_same ..

/-- A discard leaves other contexts as they are. -/
theorem discardFrom_other (s : State) (c n d : Nat) (h : d ≠ c) : ctxOf (discardFrom s c n) d = ctxOf s d := ctxOf_modCtx_other _ _ _ _ h

/-- A requested decision changes its partition alone (R303). -/
theorem requestDecision_ctxOf (s : State) (p : Nat) (d : Decision) (c : Nat) : ctxOf (requestDecision s p d) c = ctxOf s c := rfl

/-- A context that takes a trap waits for its fault decision, its blocks discarded and its trap registers written (R110, R325). -/
theorem takeTrap_same (s : State) (c : Nat) (cause : BitVec 8) (tval tepc : W64) (tidx : Nat) :
    let x := ctxOf s c
    ctxOf (takeTrap s c cause tval tepc tidx) c =
      { giveBack x.blocks x with
        blocks := [], sqc := x.sqc + BitVec.ofNat 64 x.blocks.length, trap := trapRegs x.trap cause tval tepc tidx, phase := .deciding
        growth := none, stalled := false, fetch := none, xlat := none } := by
  simp only [takeTrap, requestDecision_ctxOf, ctxOf_setCtx_same, discardFrom_same, List.take_zero, List.drop_zero]
  rfl

/-- A trap leaves other contexts as they are. -/
theorem takeTrap_other (s : State) (c : Nat) (cause : BitVec 8) (tval tepc : W64) (tidx d : Nat) (h : d ≠ c) :
    ctxOf (takeTrap s c cause tval tepc tidx) d = ctxOf s d := by
  simp only [takeTrap, requestDecision_ctxOf]
  rw [ctxOf_setCtx_other _ _ _ _ h, discardFrom_other _ _ _ _ h]

/-- A fault record changes no context (R334). -/
theorem devWrite_ctxs (s t : State) (p va n d : Nat) (h : devWrite s p va n d = .ok t) : t.ctxs = s.ctxs := by
  unfold devWrite at h
  split at h
  · cases h
  · split at h <;> first | (cases h; rfl) | cases h

/-- Words written by the device itself change no context. -/
theorem devWriteWords_ctxs (p : Nat) (ws : List W64) (va : Nat) (s t : State) (h : devWriteWords s p va ws = .ok t) : t.ctxs = s.ctxs := by
  induction ws generalizing va s with
  | nil => cases h; rfl
  | cons w ws ih =>
    unfold devWriteWords at h
    split at h
    · cases h
    · next u hu => exact (ih _ _ h).trans (devWrite_ctxs _ _ _ _ _ _ hu)

/-- A fault record written changes no context (R334). -/
theorem writeRecord_ctxs (s : State) (p : Nat) (ws : List W64) : (writeRecord s p ws).ctxs = s.ctxs := by
  unfold writeRecord
  dsimp only
  split
  · rfl
  · split
    · rfl
    · next t ht =>
      have h := devWriteWords_ctxs _ _ _ _ _ ht
      unfold raiseIrq
      split <;> exact h

/-- A message that waits for leases changes no context (R161). -/
theorem delayFor_ctxs (s : State) (msg : Nat) (ws : List Nat) : (delayFor s msg ws).ctxs = s.ctxs := by
  unfold delayFor
  generalize ws.filter (leased s) = l
  induction l generalizing s with
  | nil => rfl
  | cons w l ih =>
    refine (ih _).trans ?_
    dsimp only
    split <;> rfl

/-- The records that wait, written as far as they can be, change no context (R334). -/
theorem drainRecords_ctxs (p n : Nat) (s : State) : (drainRecords s p n).ctxs = s.ctxs := by
  induction n generalizing s with
  | zero => rfl
  | succ n ih =>
    unfold drainRecords
    split
    · rfl
    · dsimp only
      split
      · exact (ih _).trans (writeRecord_ctxs _ _ _)
      · exact delayFor_ctxs _ _ _

/-- A fault record changes no context (R334). -/
theorem faultRecord_ctxs (s : State) (p : Nat) (r : FaultRec) : (faultRecord s p r).ctxs = s.ctxs := by
  unfold faultRecord
  dsimp only
  split
  · rfl
  · exact drainRecords_ctxs _ _ _

end Sys2Proof.Machine
end

