-- ==== Sys2Proof/Laws/Words.lean ====
section
/-! SUPPORT. What an issued word's meaning answers: one lemma for each operand form once its predicate lets it fire, and the lemmas by
which an N operand, a mismatched predicate and an operand of the wrong kind are told apart. -/

namespace Sys2Proof.Machine

/-- A word issued from a block in flight: its meaning goes on with the latch taken. -/
theorem withIssue_issued {s : State} {f : Issue} {b : Block} (h : Issued s f b) (k : Issue → Ctx → Block → State → State) :
    withIssue s k = .next (k f (ctxOf s f.ctx) b (taken s)) := by
  simp only [withIssue, h.1, h.2, taken]

/-- A predicate that fires matches. -/
theorem prMatch_fires {p : Pr} {t : Option Token} (h : Fires p t) : prMatch p t = some true := by
  cases p with
  | always => rfl
  | ifZero => rw [h]; rfl
  | ifNonzero => obtain ⟨v, hv, rfl⟩ := h; simpa [prMatch] using hv

/-- A word of no data operand fires. -/
theorem fire0_fires {s : State} {f : Issue} {b : Block} {p : Pr} (h : Issued s f b) (hp : Fires p f.third)
    (k : Issue → Ctx → Block → State → State) : fire0 p s k = .next (k f (ctxOf s f.ctx) b (taken s)) := by
  simp only [fire0, withIssue_issued h, prMatch_fires hp]

/-- A word of one data operand that is not N fires. -/
theorem fire1_fires {s : State} {f : Issue} {b : Block} {p : Pr} {t : Token} (h : Issued s f b) (hp : Fires p f.third)
    (hl : f.left = some t) (ht : t ≠ .n) (n : Issue → State → State) (k : Issue → Ctx → Block → Token → State → State) :
    fire1 p s n k = .next (k f (ctxOf s f.ctx) b t (taken s)) := by
  simp only [fire1, fire0_fires h hp, hl]

/-- A word of two data operands that are not N fires. -/
theorem fire2_fires {s : State} {f : Issue} {b : Block} {p : Pr} {t u : Token} (h : Issued s f b) (hp : Fires p f.third)
    (hl : f.left = some t) (hr : f.right = some u) (ht : t ≠ .n) (hu : u ≠ .n) (n : Issue → State → State)
    (k : Issue → Ctx → Block → Token → Token → State → State) :
    fire2 p s n k = .next (k f (ctxOf s f.ctx) b t u (taken s)) := by
  simp only [fire2, fire0_fires h hp, hl, hr]

/-- A word of three data operands that are not N fires. -/
theorem fire3_fires {s : State} {f : Issue} {b : Block} {t u w : Token} (h : Issued s f b)
    (hl : f.left = some t) (hr : f.right = some u) (h3 : f.third = some w) (ht : t ≠ .n) (hu : u ≠ .n) (hw : w ≠ .n)
    (n : Issue → State → State) (k : Issue → Ctx → Block → Token → Token → Token → State → State) :
    fire3 s n k = .next (k f (ctxOf s f.ctx) b t u w (taken s)) := by
  simp [fire3, withIssue_issued h, hl, hr, h3, ht, hu, hw]

/-- A predicate that does not match lets nothing fire. -/
theorem prMatch_mismatches {p : Pr} {t : Token} (h : Mismatches p t) : prMatch p (some t) = some false := by
  cases p with
  | always => exact h.elim
  | ifZero =>
    rcases h with rfl | ⟨v, hv, rfl⟩
    · rfl
    · simpa [prMatch] using hv
  | ifNonzero =>
    rcases h with rfl | rfl
    · rfl
    · rfl

/-- A word under a predicate that does not match is resolved (R91). -/
theorem fire0_mismatch {s : State} {f : Issue} {b : Block} {p : Pr} {t : Token} (h : Issued s f b) (h3 : f.third = some t)
    (hp : Mismatches p t) (k : Issue → Ctx → Block → State → State) : fire0 p s k = .next (setSt (taken s) f .resolved) := by
  simp only [fire0, withIssue_issued h, h3, prMatch_mismatches hp]

/-- A word of one data operand that is N does what it does with N (R92). -/
theorem fire1_null {s : State} {f : Issue} {b : Block} {p : Pr} (h : Issued s f b) (hp : Fires p f.third) (hl : f.left = some .n)
    (n : Issue → State → State) (k : Issue → Ctx → Block → Token → State → State) : fire1 p s n k = .next (n f (taken s)) := by
  simp only [fire1, fire0_fires h hp, hl]

end Sys2Proof.Machine
end

