-- ==== Sys2Proof/Tests/Slice0.lean ====
section
/-! SUPPORT. Tests: ill-formed terms, words of the spec, small steps whose results the spec gives, and states that meet the
hypotheses of the statements. -/

namespace Sys2Proof.Machine

set_option Elab.async false

/-! ## Ill-formed terms that WellFormed refuses, one for each check -/

/-- R188: a shift immediate above 63; R195, R196: a type without lane arithmetic, and one without shifts; R198: an ordering of NaNs
on integers; R205: a packed type without lanes; R207: unequal counts; R208: a type that VPACK cannot narrow to. -/
theorem test_ill_formed_scalar_and_vector :
    [Instr.shli .always 64 .none, .shri .always 64 .none, .sari .always 0x1FF .none, .vadd .always .e4m3x4 .none .none, .vfma .e2m1x8 .none .none,
     .vand .always .tern2x16 .none .none, .vshl .always .f32 .none .none, .vcmp .always .i32 .un .none, .vred .always .e5m2x4 .add .none,
     .vcvt .always .f32 .bf16x2 false .ne .none, .vpack .always .f32 .none .none, .vdot .i32 .none .none].map Instr.wf = List.replicate 12 false := by decide +kernel

/-- R215: an LDG of doublewords, an STS of doublewords; R227: an unsigned FADD; R257: a selector above 20; R267: automatic format with
TR, and a format that is not stored; R277: rung 3, sticky in a pinned mode, a rung in ternary mode; R285: NS with bf16, a format that is
not stored; R287: a chunk of an accumulator; R288: an empty mask. -/
theorem test_ill_formed_memory_and_tensor :
    [Instr.ldg .always 0 .d .predict 0 .none, .sts .always 0 .d .predict 0, .amo .always 0 .fadd .wu 0 .none, .geti .always 21 .none,
     .tld .always false true .auto 0 0 0 .none .none, .tld .always false false (.fmt .f32) 0 0 0 .none .none,
     .mma .always .f 0 0 0 0 3 false false .none .none, .mma .always .fp 0 0 0 0 0 true false .none .none, .mma .always .t 0 0 0 0 1 false false .none .none,
     .top .always (.conv 0 1 .bf16x2 false true) 0 .none .none, .top .always (.conv 0 1 .f32 false false) 0 .none .none,
     .trow .always .ra 0 0 0 1 .none .none, .pset .always 0].map Instr.wf = List.replicate 13 false := by decide +kernel

/-! ## Words of the spec -/

def tl (n : BitVec 7) : Target := .slot .left n
def tr (n : BitVec 7) : Target := .slot .right n
def tp (n : BitVec 7) : Target := .slot .third n

/-- The words of the Euclid block (10_core_notes.md). -/
theorem test_decode_core_words :
    [0x18040082, 0x18090702, 0x4A050894, 0x1C011093, 0x30000085, 0x20021B08, 0x22000111, 0x1810008B, 0x1000030B, 0x40011895, 0x38007F8F, 0x3D800200,
     0x1A040000, 0x03000000, 0x03900005, 0x00000000].map (fun w => (decode w 0).toOption)
    = [some (.rd 1 .none (tl 2)), some (.rd 2 (tl 3) (tr 2)), some (.rem .always .u (tl 4) (tl 20)), some (.mov .always (tl 8) (tl 19)), some (.teqi .always 0 (tl 5)),
       some (.null .always (tr 13) (tr 8)), some (.sel .none (tr 17)), some (.rd 4 .none (tl 11)), some (.genc 1 (tr 11)), some (.add .always (tl 12) (tl 21)),
       some (.tgti .always 63 (tp 15)), some (.trap .ifNonzero 1), some (.wr 1), some (.exit .ifZero 0 0), some (.exit .ifNonzero 1 5), some .nop] := by decide +kernel

/-- The words of the notice board and of the copy example (11_memory_instructions.md, 12_memory_notes.md). -/
theorem test_decode_memory_words :
    [0xC8018000, 0xC8058200, 0xC009C091, 0xCE118000, 0xD402A085, 0xD8040000, 0xD6008000, 0xC6058089, 0xC2100493, 0xD0202000, 0xE004010C, 0xE200210D,
     0xEA005000].map (fun w => (decode w 0).toOption)
    = [some (.st .always 0 .d .predict 0), some (.st .always 1 .d .predict 1), some (.ld .always 2 .d .region 0 (tl 17)), some (.stl .always 4 .d .predict 0),
       some (.watch .always 0 .geu .d 0 (tl 5)), some (.flushr .always 1 .clean), some (.fence .always 0 .acq), some (.lda .always 1 .d .predict 0 (tl 9)),
       some (.ldv .always 4 false .predict 2 (tl 19)), some (.amo .always 8 .add .d 0 .none), some (.copy .always false .d2 0 (.reg 12)), some (.batch .always 1 (.reg 13)),
       some (.bar .always 0 2 .tmd)] := by decide +kernel

/-- The paired words of the tensor examples (13_tensor_instructions.md, 14_tensor_notes.md) and of MOV4. -/
theorem test_decode_paired_words :
    ([(0xF0000087, 0x00012000), (0xF0400000, 0x00452000), (0xF408008D, 0x00000A00), (0xF2400000, 0x00800000), (0xF40000A8, 0x0812C900), (0xF40A228E, 0x00000A80),
      (0x1E032F96, 0x00031B88)] : List (Word × Word)).map (fun w => (decode w.1 w.2).toOption)
    = [some (.tld .always false false (.fmt .e4m3x4) 0 0 0 .none (tl 7)), some (.tld .always true false (.fmt .e4m3x4) 0 1 1 .none .none),
       some (.mma .always .fp 0 0 0 1 1 false false .none (tl 13)), some (.tst .always true false 0 2 0), some (.mma .always .f 1 2 5 9 0 true false .none (tl 40)),
       some (.mma .always .fp 0 0 0 1 1 false true (tr 17) (tl 14)), some (.mov4 .always (tp 13) (tp 8) (tp 23) (tp 22))] := by decide +kernel

/-- Words put together field by field: VSUB.f32, GETS PPR, PGET under PR 0b11, and, refused, an ADD with PR
0b01, an ADD with a nonzero xop and an ADD whose T1 names an index without a kind. -/
theorem test_decode_fields :
    (decode ((0x41 : BitVec 7) ++ (0 : BitVec 2) ++ (2 : BitVec 5) ++ (0 : BitVec 9) ++ (0x081 : BitVec 9)) 0).toOption = some (.vsub .always .f32 .none (tl 1))
    ∧ (decode ((0x1F : BitVec 7) ++ (0 : BitVec 2) ++ (0 : BitVec 5) ++ (0x020 : BitVec 9) ++ (0x081 : BitVec 9)) 0).toOption = some (.gets .always .ppr (tl 1))
    ∧ (decode ((0x7D : BitVec 7) ++ (3 : BitVec 2) ++ (1 : BitVec 5) ++ (0 : BitVec 9) ++ (0x101 : BitVec 9)) 0).toOption = some (.pget .ifNonzero (tr 1))
    ∧ (decode ((0x20 : BitVec 7) ++ (1 : BitVec 2) ++ (0 : BitVec 5) ++ (0 : BitVec 9) ++ (0x081 : BitVec 9)) 0).toOption = none
    ∧ (decode ((0x20 : BitVec 7) ++ (0 : BitVec 2) ++ (1 : BitVec 5) ++ (0 : BitVec 9) ++ (0x081 : BitVec 9)) 0).toOption = none
    ∧ (decode ((0x20 : BitVec 7) ++ (0 : BitVec 2) ++ (0 : BitVec 5) ++ (0x001 : BitVec 9) ++ (0x081 : BitVec 9)) 0).toOption = none := by decide +kernel


/-! ## Small states: one word issued with its operands -/

def tWord : State := placeWord State.reset 0 0
def tF (l r t : Option Token) : Issue := ⟨0, 0, 0, l, r, t⟩
def tIss (l r t : Option Token) : State := { tWord with issue := some (tF l r t) }
def tB : Block := placedBlock 0 0

/-- The first token that leaves for a target. -/
def tOut (o : Out) : Option Token := match o with | .next s => s.net.head?.map (fun p => p.2.tok) | _ => none

/-- The cause and value that a word records as its fault. -/
def tFault (o : Out) : Option (BitVec 8 × W64) :=
  match o with
  | .next s => (blockOf (ctxOf s 0) 0).bind (fun b => (mfind 0 b.faults))
  | _ => none

/-- An instruction run on its operands. -/
def tRun (i : Instr) (l r t : Option Token) : Option Token := tOut (exec i (tIss l r t))
def tRun2 (i : Instr) (x y : W64) : Option Token := tRun i (some (.s x)) (some (.s y)) none
def tRun1 (i : Instr) (x : W64) : Option Token := tRun i (some (.s x)) none none

theorem test_issued (l r t : Option Token) : Issued (tIss l r t) (tF l r t) tB := ⟨rfl, rfl⟩

/-- Each predicate sense lets an issued word fire. -/
theorem test_ready (l r t : Option Token) :
    Ready (tIss l r t) (tF l r t) tB .always ∧ Ready (tIss l r (some (.s 0))) (tF l r (some (.s 0))) tB .ifZero
    ∧ Ready (tIss l r (some (.s 9))) (tF l r (some (.s 9))) tB .ifNonzero :=
  ⟨⟨test_issued .., trivial⟩, ⟨test_issued .., rfl⟩, ⟨test_issued .., 9, by decide, rfl⟩⟩

/-! ## Scalar results at the ends of their ranges -/

/-- The hypotheses of ScalarArithmeticResults, RegisterTestsEmitOneOrZero and AddressesTruthTablesAndFieldExtraction. -/
theorem test_meets_two_scalars : ∃ s f b p, ∃ x y : W64, Ready s f b p ∧ f.left = some (.s x) ∧ f.right = some (.s y) :=
  ⟨_, _, _, _, 5, 7, (test_ready (some (.s 5)) (some (.s 7)) none).1, rfl, rfl⟩

/-- R187: ADD wraps, MULH takes the high half by its form, MIN orders by its form. -/
theorem test_scalar_arithmetic :
    tRun2 (.add .always .none (tl 1)) (-1) 1 = some (.s 0) ∧ tRun2 (.sub .always .none (tl 1)) 0 1 = some (.s (-1))
    ∧ tRun2 (.mul .always .none (tl 1)) (2 ^ 63) 2 = some (.s 0) ∧ tRun2 (.mulh .always .ss .none (tl 1)) (-1) 2 = some (.s (-1))
    ∧ tRun2 (.mulh .always .uu .none (tl 1)) (-1) 2 = some (.s 1) ∧ tRun2 (.mulh .always .su .none (tl 1)) (-1) (-1) = some (.s (-1))
    ∧ tRun2 (.min .always .s .none (tl 1)) (-1) 1 = some (.s (-1)) ∧ tRun2 (.min .always .u .none (tl 1)) (-1) 1 = some (.s 1)
    ∧ tRun2 (.andn .always .none (tl 1)) 0xFF 0x0F = some (.s 0xF0) := by decide +kernel

/-- The hypotheses of DivisionsAndShiftsFollowTheirCases with operands for each case: a divisor of 0, the most negative number by −1, other
signed and unsigned operands, of 32 bits and beyond; and counts of 0, 1 and 63. -/
theorem test_meets_divisions : (∃ s f b p, ∃ x y : W64, Ready s f b p ∧ f.left = some (.s x) ∧ f.right = some (.s y))
    ∧ (∃ x y : W64, y = 0 ∧ x ≠ 0) ∧ (∃ x y : W64, y ≠ 0 ∧ x = BitVec.intMin 64 ∧ y = BitVec.allOnes 64)
    ∧ (∃ x y : W64, y ≠ 0 ∧ ¬(x = BitVec.intMin 64 ∧ y = BitVec.allOnes 64) ∧ x.toInt < 0) :=
  ⟨test_meets_two_scalars, ⟨1, 0, by decide⟩, ⟨BitVec.intMin 64, BitVec.allOnes 64, by decide⟩, ⟨-7, 2, by decide⟩⟩

/-- R70's rows: a divisor of 0, overflow, truncation toward zero; R71: counts are taken modulo 64. -/
theorem test_divisions_and_shifts :
    tRun2 (.div .always .s .none (tl 1)) 7 0 = some (.s (-1)) ∧ tRun2 (.rem .always .s .none (tl 1)) 7 0 = some (.s 7)
    ∧ tRun2 (.div .always .s .none (tl 1)) (BitVec.intMin 64) (-1) = some (.s (BitVec.intMin 64)) ∧ tRun2 (.rem .always .s .none (tl 1)) (BitVec.intMin 64) (-1) = some (.s 0)
    ∧ tRun2 (.div .always .s .none (tl 1)) (-7) 2 = some (.s (-3)) ∧ tRun2 (.rem .always .s .none (tl 1)) (-7) 2 = some (.s (-1))
    ∧ tRun2 (.div .always .u .none (tl 1)) (-1) 16 = some (.s 0x0FFFFFFFFFFFFFFF) ∧ tRun2 (.rem .always .u .none (tl 1)) 1071 462 = some (.s 147)
    ∧ tRun2 (.shl .always .none (tl 1)) 1 64 = some (.s 1) ∧ tRun2 (.shr .always .none (tl 1)) (-1) 63 = some (.s 1)
    ∧ tRun2 (.sar .always .none (tl 1)) (BitVec.intMin 64) 63 = some (.s (-1)) ∧ tRun2 (.ror .always .none (tl 1)) 1 1 = some (.s (2 ^ 63)) := by decide +kernel

/-- The hypotheses of ImmediateFormsUseTheSignExtendedImmediate and OneOperandScalarResults; a shift immediate of 0 and of 63. -/
theorem test_meets_one_scalar : (∃ s f b p, ∃ x : W64, Ready s f b p ∧ f.left = some (.s x)) ∧ (0 : BitVec 9).toNat ≤ 63 ∧ (63 : BitVec 9).toNat ≤ 63 :=
  ⟨⟨_, _, _, _, 5, (test_ready (some (.s 5)) none none).1, rfl⟩, by decide, by decide⟩

/-- R186, R188: immediates are sign-extended, and compares are signed. -/
theorem test_immediates :
    tRun1 (.addi .always 0x1FF (tl 1)) 0 = some (.s (-1)) ∧ tRun1 (.muli .always 0x100 (tl 1)) 2 = some (.s (-512)) ∧ tRun1 (.ori .always 0x100 (tl 1)) 0 = some (.s (-256))
    ∧ tRun1 (.shli .always 63 (tl 1)) 3 = some (.s (2 ^ 63)) ∧ tRun1 (.sari .always 63 (tl 1)) (-2) = some (.s (-1))
    ∧ tRun1 (.tgti .always 63 (tl 1)) 64 = some (.s 1) ∧ tRun1 (.tgti .always 63 (tl 1)) 63 = some (.s 0) ∧ tRun1 (.tlti .always 0x1FF (tl 1)) (-2) = some (.s 1)
    ∧ tRun1 (.teqi .always 0 (tl 1)) 0 = some (.s 1) ∧ tRun1 (.tgei .always 100 (tl 1)) 99 = some (.s 0) := by decide +kernel

/-- R189: counts of zero, extension, and ABS of the most negative number. -/
theorem test_unary :
    tRun1 (.clz .always .none (tl 1)) 0 = some (.s 64) ∧ tRun1 (.ctz .always .none (tl 1)) 0 = some (.s 64) ∧ tRun1 (.popc .always .none (tl 1)) (-1) = some (.s 64)
    ∧ tRun1 (.brev .always .none (tl 1)) 1 = some (.s (2 ^ 63)) ∧ tRun1 (.bswap .always .none (tl 1)) 0x0102030405060708 = some (.s 0x0807060504030201)
    ∧ tRun1 (.sxb .always .none (tl 1)) 0x80 = some (.s (-128)) ∧ tRun1 (.zxh .always .none (tl 1)) (-1) = some (.s 0xFFFF) ∧ tRun1 (.sxw .always .none (tl 1)) 0x80000000 = some (.s 0xFFFFFFFF80000000)
    ∧ tRun1 (.abs .always .none (tl 1)) (BitVec.intMin 64) = some (.s (BitVec.intMin 64)) ∧ tRun1 (.neg .always .none (tl 1)) 1 = some (.s (-1))
    ∧ tRun1 (.not .always .none (tl 1)) 0 = some (.s (-1)) := by decide +kernel

/-- The hypotheses of FieldInsertionUnderItsControlToken and CarriesGoToTheSecondTarget. -/
theorem test_meets_three_scalars :
    (∃ s f b, ∃ x y c : W64, Issued s f b ∧ f.left = some (.s x) ∧ f.right = some (.s y) ∧ f.third = some (.s c))
    ∧ ∃ s f b p, ∃ x y : W64, Issued s f b ∧ f.left = some (.s x) ∧ f.right = some (.s y) ∧ Fires p f.third :=
  ⟨⟨_, _, _, 1, 2, 3, test_issued (some (.s 1)) (some (.s 2)) (some (.s 3)), rfl, rfl, rfl⟩, ⟨_, _, _, .always, 1, 2, test_issued (some (.s 1)) (some (.s 2)) none, rfl, rfl, trivial⟩⟩

/-- R191, R192: a length of 0 means 64, and bits that would land above bit 63 are dropped; R193: LOP3 of the majority; R190. -/
theorem test_fields :
    tRun2 (.bfx .always false .none (tl 1)) 0xABCD 0x0404 = some (.s 0xC) ∧ tRun2 (.bfx .always true .none (tl 1)) 0xABCD 0x0404 = some (.s (-4))
    ∧ tRun2 (.bfx .always false .none (tl 1)) (-1) 1 = some (.s 0x7FFFFFFFFFFFFFFF)
    ∧ tRun (.bfi .none (tl 1)) (some (.s 0)) (some (.s (-1))) (some (.s 0x083C)) = some (.s 0xF000000000000000)
    ∧ tRun (.bfi .none (tl 1)) (some (.s (-1))) (some (.s 0)) (some (.s 0x0408)) = some (.s 0xFFFFFFFFFFFFF0FF)
    ∧ tRun2 (.lop3 .always 0x00000C 0xE8 .none (tl 1)) 0xA 0x6 = some (.s 0xE) ∧ tRun2 (.lea .always 3 .none (tl 1)) 0x1000 2 = some (.s 0x1010) := by decide +kernel

/-- R194's worked words: the low halves give 0 with a carry, the high halves 2. -/
theorem test_carries :
    tRun2 (.addc .always .none (tl 1)) (-1) 1 = some (.s 0) ∧ tRun2 (.addc .always (tl 1) .none) (-1) 1 = some (.s 1)
    ∧ tRun (.adc .none (tl 1)) (some (.s 1)) (some (.s 0)) (some (.s 1)) = some (.s 2) ∧ tRun (.adc (tl 1) .none) (some (.s (-1))) (some (.s 0)) (some (.s 3)) = some (.s 1) := by decide +kernel

/-- R185: signed and unsigned order differ at the most negative number. -/
theorem test_tests :
    tRun2 (.tlt .always .none (tl 1)) (BitVec.intMin 64) 0 = some (.s 1) ∧ tRun2 (.tltu .always .none (tl 1)) (BitVec.intMin 64) 0 = some (.s 0)
    ∧ tRun2 (.tle .always .none (tl 1)) 0 0 = some (.s 1) ∧ tRun2 (.tleu .always .none (tl 1)) 1 0 = some (.s 0)
    ∧ tRun2 (.teq .always .none (tl 1)) 3 3 = some (.s 1) ∧ tRun2 (.tne .always .none (tl 1)) 3 3 = some (.s 0) := by decide +kernel


/-! ## Moves, registers, exits and system registers -/

/-- The hypotheses of ConstantsMovesAndSelection: each kind of selector, with operands of any kind. -/
theorem test_meets_moves :
    (∃ s f b, ∃ x : W64, Issued s f b ∧ f.left = some (.s x)) ∧ (∃ s f b p u, Ready s f b p ∧ f.left = some u)
    ∧ (∃ s f b u v, Issued s f b ∧ f.left = some u ∧ f.right = some v ∧ f.third = some .n)
    ∧ (∃ s f b u v, Issued s f b ∧ f.left = some u ∧ f.right = some v ∧ f.third = some (.s 0))
    ∧ (∃ s f b u v, ∃ x : W64, Issued s f b ∧ f.left = some u ∧ f.right = some v ∧ x ≠ 0 ∧ f.third = some (.s x))
    ∧ (∃ s f b u v l m, Issued s f b ∧ f.left = some u ∧ f.right = some v ∧ f.third = some (.v l m)) :=
  ⟨⟨_, _, _, 1, test_issued (some (.s 1)) none none, rfl⟩, ⟨_, _, _, .always, .n, (test_ready (some .n) none none).1, rfl⟩,
   ⟨_, _, _, .n, .n, test_issued (some .n) (some .n) (some .n), rfl, rfl, rfl⟩, ⟨_, _, _, .n, .n, test_issued (some .n) (some .n) (some (.s 0)), rfl, rfl, rfl⟩,
   ⟨_, _, _, .n, .n, 1, test_issued (some .n) (some .n) (some (.s 1)), rfl, rfl, by decide, rfl⟩,
   ⟨_, _, _, .n, .n, 0, 0, test_issued (some .n) (some .n) (some (.v 0 0)), rfl, rfl, rfl⟩⟩

/-- R180: APPC shifts 16 places; R184: an N selector gives N and a V selector faults; a chosen N passes. -/
theorem test_moves :
    tRun (.genc 0xFFFF (tl 1)) none none none = some (.s (-1)) ∧ tRun1 (.appc 0xFFFF (tl 1)) 1 = some (.s 0x1FFFF) ∧ tRun (.badr 1 (tl 1)) none none none = some (.s 32)
    ∧ tRun (.sel .none (tl 1)) (some (.s 5)) (some .n) (some (.s 7)) = some (.s 5) ∧ tRun (.sel .none (tl 1)) (some (.s 5)) (some .n) (some (.s 0)) = some .n
    ∧ tRun (.sel .none (tl 1)) (some (.s 5)) (some (.s 6)) (some .n) = some .n
    ∧ tFault (exec (.sel .none (tl 1)) (tIss (some (.s 5)) (some (.s 6)) (some (.v 0 0)))) = some (4, 0)
    ∧ tRun (.null .always .none (tl 1)) none none none = some .n ∧ tRun (.mov .always .none (tl 1)) (some .n) none none = some .n := by decide +kernel

/-- Context 0 with two blocks in flight: the older writes g1 and g2. -/
def tTwo (wr : SMap Token) (regs : SMap RegVal) : State :=
  modCtx (tIss none none none) 0 (fun x =>
    { x with regs := regs, blocks := [{ tB with tag := 1, hdr := [0, 0, 6, 0, 0, 0, 0, 0], words := [0, 0], wr := wr }, tB] })

theorem test_issued_two (wr : SMap Token) (regs : SMap RegVal) : Issued (tTwo wr regs) (tF none none none) tB := ⟨rfl, rfl⟩

/-- The hypotheses of RegisterReadsSeeOlderBlocksWrites: no older writer, with each content of the register file; an older writer that has written
a value, N, and nothing. -/
theorem test_meets_register_reads :
    (∃ s f b, Issued s f b ∧ (∀ o ∈ olderThan (ctxOf s f.ctx) f.tag, (wmaskOf o.hdr).testBit 3 = false))
    ∧ (∃ s f b, Issued s f b ∧ mget (.s 0) 3 (ctxOf s f.ctx).regs = .reply 4 5) ∧ (∃ s f b, Issued s f b ∧ mget (.s 0) 3 (ctxOf s f.ctx).regs = .poisoned 5)
    ∧ (∃ s f b, Issued s f b ∧ mget (.s 0) 3 (ctxOf s f.ctx).regs = .v 1 1)
    ∧ (∃ s f b old new w, Issued s f b ∧ olderThan (ctxOf s f.ctx) f.tag = old ++ w :: new ∧ new = [] ∧ (wmaskOf w.hdr).testBit 1 = true ∧ mfind 1 w.wr = some (.s 9)
        ∧ mfind 2 w.wr = none)
    ∧ (∃ s f b old new w, Issued s f b ∧ olderThan (ctxOf s f.ctx) f.tag = old ++ w :: new ∧ new = [] ∧ (wmaskOf w.hdr).testBit 1 = true ∧ mfind 1 w.wr = some .n ∧ old = []) :=
  ⟨⟨_, _, _, test_issued_two [] [], by decide +kernel⟩, ⟨_, _, _, test_issued_two [] [(3, .reply 4 5)], rfl⟩, ⟨_, _, _, test_issued_two [] [(3, .poisoned 5)], rfl⟩,
   ⟨_, _, _, test_issued_two [] [(3, .v 1 1)], rfl⟩, ⟨_, _, _, [], [], _, test_issued_two [(1, .s 9)] [], rfl, rfl, by decide +kernel, rfl, rfl⟩,
   ⟨_, _, _, [], [], _, test_issued_two [(1, .n)] [], rfl, rfl, by decide +kernel, rfl, rfl⟩⟩

/-- R106: the older block's write, the register file where that write was N, and a fault on a poisoned register (R228). -/
theorem test_register_reads :
    tOut (exec (.rd 1 .none (tl 1)) (tTwo [(1, .s 9)] [(1, .s 7)])) = some (.s 9) ∧ tOut (exec (.rd 1 .none (tl 1)) (tTwo [(1, .n)] [(1, .s 7)])) = some (.s 7)
    ∧ tOut (exec (.rd 2 .none (tl 1)) (tTwo [(1, .s 9)] [(2, .s 7)])) = none ∧ tOut (exec (.rd 3 .none (tl 1)) (tTwo [] [(3, .s 7)])) = some (.s 7)
    ∧ tFault (exec (.rd 3 .none (tl 1)) (tTwo [] [(3, .poisoned 0x40)])) = some (0x14, 0x40) := by decide +kernel

/-- The hypotheses of RegisterWritesAndSaveHintsAreRecorded: a token of each kind for WR, and an S token for PHINT. -/
theorem test_meets_register_writes : (∃ s f b, Issued s f b ∧ f.left = some .n) ∧ (∃ s f b l m, Issued s f b ∧ f.left = some (.v l m))
    ∧ ∃ s f b p, ∃ v : W64, Ready s f b p ∧ f.left = some (.s v) :=
  ⟨⟨_, _, _, test_issued (some .n) none none, rfl⟩, ⟨_, _, _, 0, 1, test_issued (some (.v 0 1)) none none, rfl⟩, ⟨_, _, _, .always, 3, (test_ready (some (.s 3)) none none).1, rfl⟩⟩

/-- R92, R256: WR records N; PHINT's register form takes a range of 256-byte units. -/
theorem test_register_writes :
    (match exec (.wr 3) (tIss (some .n) none none) with | .next s => (blockOf (ctxOf s 0) 0).map (·.wr) | _ => none) = some [(3, .n)]
    ∧ (match exec (.phint .always .reg) (tIss (some (.s 0x2001)) none none) with | .next s => (blockOf (ctxOf s 0) 0).map (·.hints) | _ => none) = some [(0, [(256, 512)])] := by
  decide +kernel

/-- Context 0 in handler mode. -/
def tHandler (l : Option Token) : State := modCtx (tIss l none none) 0 (fun x => { x with trap := { x.trap with hm := true, tepc := 0x40 } })

theorem test_issued_handler (l : Option Token) : Issued (tHandler l) (tF l none none) tB := ⟨rfl, rfl⟩

/-- The hypotheses of ExitsRecordTheirAddresses: addresses that are a block's, misaligned, and at 2^55; both modes. -/
theorem test_meets_exits : (∃ s f b p, ∃ r : W64, Ready s f b p ∧ f.left = some (.s r) ∧ r.toNat < 2 ^ 55 ∧ r.toNat % 32 = 0 ∧ (ctxOf s f.ctx).trap.hm = false)
    ∧ (∃ s f b p, ∃ r : W64, Ready s f b p ∧ f.left = some (.s r) ∧ ¬(r.toNat < 2 ^ 55 ∧ r.toNat % 32 = 0)) ∧ (∃ s f b p, Ready s f b p ∧ (ctxOf s f.ctx).trap.hm = true)
    ∧ (∃ off : BitVec 20, (0 + off.signExtend 64 * 32 : W64).toNat < 2 ^ 55) ∧ ∃ off : BitVec 20, ¬(0 + off.signExtend 64 * 32 : W64).toNat < 2 ^ 55 :=
  ⟨⟨_, _, _, .always, 0x40, (test_ready (some (.s 0x40)) none none).1, rfl, by decide, by decide, rfl⟩,
   ⟨_, _, _, .always, 0x0080000000000000, (test_ready (some (.s 0x0080000000000000)) none none).1, rfl, by decide⟩,
   ⟨_, _, _, .always, ⟨test_issued_handler none, trivial⟩, rfl⟩, ⟨5, by decide⟩, ⟨0xFFFFF, by decide⟩⟩

/-- What a fired exit leaves recorded. -/
def tExits (o : Out) : List ExitTo := match o with | .next s => ((blockOf (ctxOf s 0) 0).map (fun b => b.exits.map (·.2))).getD [] | _ => []

/-- R171: an address that is not a multiple of 32 faults 0x0D; R172: CALL links to the block behind its 32 + 64T bytes; R174: TRET faults in task mode. -/
theorem test_exits :
    tExits (exec (.exit .always 0 5) (tIss none none none)) = [.goto 160] ∧ tExits (exec (.call .always 0 5) (tIss none none none)) = [.call 160 96]
    ∧ tFault (exec (.exitr .always 0) (tIss (some (.s 0x41)) none none)) = some (0x0D, 0x41) ∧ tExits (exec (.ret .always 1) (tIss (some (.s 0x40)) none none)) = [.goto 0x40]
    ∧ tFault (exec (.tret .always 0) (tIss none none none)) = some (0x11, 0x12) ∧ tExits (exec (.tret .always 0) (tHandler none)) = [.tret]
    ∧ tExits (exec (.halt .always 0) (tIss none none none)) = [.halt] := by decide +kernel

/-- The hypotheses of SystemRegisterInstructions: the oldest block and a younger one, both modes, a register only handlers reach, one only read. -/
theorem test_meets_system_registers : (∃ s f b p, Ready s f b p ∧ isOldest (ctxOf s f.ctx) f.tag = true ∧ (ctxOf s f.ctx).trap.hm = false)
    ∧ (∃ s f b p, Ready s f b p ∧ isOldest (ctxOf s f.ctx) f.tag = false)
    ∧ (∃ s f b p, ∃ v : W64, Ready s f b p ∧ f.left = some (.s v) ∧ isOldest (ctxOf s f.ctx) f.tag = true ∧ (ctxOf s f.ctx).trap.hm = true)
    ∧ (∃ s f b p, ∃ v : W64, Ready s f b p ∧ f.left = some (.s v) ∧ (ctxOf s f.ctx).trap.hm = false) ∧ (∃ r : SysReg, ∃ n, r = .h n) ∧ (SysReg.tval ≠ .tcause) :=
  ⟨⟨_, _, _, .always, (test_ready none none none).1, by decide +kernel, rfl⟩, ⟨_, _, _, .always, ⟨test_issued_two [] [], trivial⟩, by decide +kernel⟩,
   ⟨_, _, _, .always, 3, ⟨test_issued_handler (some (.s 3)), trivial⟩, rfl, by decide +kernel, rfl⟩,
   ⟨_, _, _, .always, 3, (test_ready (some (.s 3)) none none).1, rfl, rfl⟩, ⟨.h 0, 0, rfl⟩, by decide⟩

/-- R175 to R179: TRAP's code, GETS of TEPC, a handler register from a task, SETS of TVAL in both modes, PGET of PPR's reset value. -/
theorem test_system_registers :
    tFault (exec (.trap .always 0x1FF) (tIss none none none)) = some (0x10, 0x1FF) ∧ tOut (exec (.gets .always .tepc (tl 1)) (tHandler none)) = some (.s 0x40)
    ∧ tFault (exec (.gets .always (.h 2) (tl 1)) (tIss none none none)) = some (0x11, 0xA) ∧ tFault (exec (.sets .always .tval) (tIss (some (.s 1)) none none)) = some (0x11, 0x11)
    ∧ tFault (exec (.sets .always .tval) (tHandler (some (.s 1)))) = none ∧ tFault (exec (.sets .always .tvec) (tHandler (some (.s 1)))) = some (0x11, 0x18)
    ∧ tOut (exec (.pget .always (tl 1)) (tIss none none none)) = some (.s 0xFFFF00) := by decide +kernel

/-- The hypotheses of SystemRegisterAndIdentityValues: a task with a rank and without, with a parent and without; each selector. -/
theorem test_meets_identity : (∃ s f b p t, Ready s f b p ∧ (ctxOf s f.ctx).task = some t ∧ t.rank = some 0 ∧ t.parent = none ∧ isOldest (ctxOf s f.ctx) f.tag = true)
    ∧ (∃ t : Task, t.rank = none ∧ t.parent = some 7) ∧ (∃ s f b p, Ready s f b p ∧ isOldest (ctxOf s f.ctx) f.tag = false) ∧ (0 : BitVec 9).toNat = 0 ∧ (20 : BitVec 9).toNat = 20 :=
  ⟨⟨_, _, _, .always, _, (test_ready none none none).1, rfl, rfl, rfl, by decide +kernel⟩, ⟨{ launch := 0, id := 0, x := 0, y := 0, z := 0, parent := some 7 }, rfl, rfl⟩,
   ⟨_, _, _, .always, ⟨test_issued_two [] [], trivial⟩, by decide +kernel⟩, rfl, rfl⟩

/-- R257, R258: the comb count, the parent of a task without one, and the barrier word's reset value 3. -/
theorem test_identity :
    tRun (.geti .always 11 (tl 1)) none none none = some (.s 1) ∧ tRun (.geti .always 18 (tl 1)) none none none = some (.s (-1)) ∧ tRun (.geti .always 17 (tl 1)) none none none = some (.s 3)
    ∧ tRun (.geti .always 4 (tl 1)) none none none = some (.s 1) := by decide +kernel

/-- Context 0 with unfinished batches and a batch fault. -/
def tBatches (n : Nat) : State := modCtx (tIss none none none) 0 (fun x => { x with batches := List.replicate n { num := 0, reqs := [] }, batFault := 0x14 })

theorem test_issued_batches (n : Nat) : Issued (tBatches n) (tF none none none) tB := ⟨rfl, rfl⟩

/-- The hypotheses of BatchAndChildWaitsCompleteAsAcquires: batches at and above the bound, children at the bound, a younger block. -/
theorem test_meets_batches : (∃ s f b p, Ready s f b p ∧ isOldest (ctxOf s f.ctx) f.tag = true ∧ (ctxOf s f.ctx).batches.length = 2)
    ∧ (∃ s f b p, Ready s f b p ∧ isOldest (ctxOf s f.ctx) f.tag = true ∧ childrenOf s (ctxOf s f.ctx) = 0) ∧ (∃ s f b p, Ready s f b p ∧ isOldest (ctxOf s f.ctx) f.tag = false) :=
  ⟨⟨_, _, _, .always, ⟨test_issued_batches 2, trivial⟩, by decide +kernel, rfl⟩, ⟨_, _, _, .always, (test_ready none none none).1, by decide +kernel, by decide +kernel⟩,
   ⟨_, _, _, .always, ⟨test_issued_two [] [], trivial⟩, by decide +kernel⟩⟩

/-- R246: WAITB with N = 2 completes with the fault word, with N = 1 it waits; R250: JOIN 0 without children. -/
theorem test_batches : tOut (exec (.waitb .always 2 (tl 1)) (tBatches 2)) = some (.s 0x14) ∧ tOut (exec (.waitb .always 1 (tl 1)) (tBatches 2)) = none
    ∧ tOut (exec (.join .always 0 (tl 1)) (tIss none none none)) = some (.s 0) := by decide +kernel


/-! ## Vector instructions -/

/-- A V token whose first lanes are listed and whose mask is given. -/
def tLanes (l : List Nat) : Lanes := mkLanes (fun i => BitVec.ofNat 32 (l.getD i 0))
def tV (l : List Nat) (m : Mask) : Option Token := some (.v (tLanes l) m)

/-- Lane i of what an instruction sends, where it is valid. -/
def tLane (t : Option Token) (i : Nat) : Option Nat := match t with | some (.v l m) => if m.getLsbD i then some (lane l i).toNat else none | _ => none

/-- The hypotheses of IntegerLanesWrapWithinTheirSubElements, FloatLanesRoundTheExactResultOnce, LaneLogicComparisonsAndMasks and PermutedAndSwizzledLanes
TakeTheirSources: two V tokens, a third, each class of type, and an S token in either slot. -/
theorem test_meets_vectors :
    (∃ s f b p la ma lb mb, Ready s f b p ∧ f.left = some (.v la ma) ∧ f.right = some (.v lb mb))
    ∧ (∃ s f b la ma lb mb lc mc, Issued s f b ∧ f.left = some (.v la ma) ∧ f.right = some (.v lb mb) ∧ f.third = some (.v lc mc))
    ∧ (∃ s f b p la ma, ∃ x : W64, Ready s f b p ∧ f.left = some (.v la ma) ∧ f.right = some (.s x)) ∧ (∃ s f b p, ∃ x : W64, Ready s f b p ∧ f.left = some (.s x))
    ∧ ElemTy.isLaneInt .i16x2 = true ∧ ElemTy.isLaneFloat .bf16x2 = true ∧ ElemTy.isLane .f32 = true :=
  ⟨⟨_, _, _, .always, 0, 1, 0, 3, (test_ready (some (.v 0 1)) (some (.v 0 3)) none).1, rfl, rfl⟩,
   ⟨_, _, _, 0, 1, 0, 3, 0, 7, test_issued (some (.v 0 1)) (some (.v 0 3)) (some (.v 0 7)), rfl, rfl, rfl⟩,
   ⟨_, _, _, .always, 0, 1, 5, (test_ready (some (.v 0 1)) (some (.s 5)) none).1, rfl, rfl⟩, ⟨_, _, _, .always, 5, (test_ready (some (.s 5)) none none).1, rfl⟩, rfl, rfl, rfl⟩

/-- R71, R72, R195: no carry crosses a sub-element, counts are taken modulo the width, and a lane is valid where both are. -/
theorem test_integer_lanes :
    tLane (tRun (.vadd .always .i16x2 .none (tl 1)) (tV [0x0001FFFF] 1) (tV [1] 3) none) 0 = some 0x00010000
    ∧ tLane (tRun (.vadd .always .i16x2 .none (tl 1)) (tV [0x0001FFFF] 1) (tV [1] 3) none) 1 = none
    ∧ tLane (tRun (.vsub .always .u8x4 .none (tl 1)) (tV [0x00010203] 1) (tV [0x01010101] 1) none) 0 = some 0xFF000102
    ∧ tLane (tRun (.vmul .always .i32 .none (tl 1)) (tV [0xFFFFFFFF] 1) (tV [2] 1) none) 0 = some 0xFFFFFFFE
    ∧ tLane (tRun (.vmin .always .i8x4 .none (tl 1)) (tV [0x80] 1) (tV [0x7F] 1) none) 0 = some 0x80 ∧ tLane (tRun (.vmin .always .u8x4 .none (tl 1)) (tV [0x80] 1) (tV [0x7F] 1) none) 0 = some 0x7F
    ∧ tLane (tRun (.vshl .always .i16x2 .none (tl 1)) (tV [0x80018001] 1) (tV [0x00110001] 1) none) 0 = some 0x00020002
    ∧ tLane (tRun (.vsar .always .i16x2 .none (tl 1)) (tV [0x80000000] 1) (tV [0x000F0000] 1) none) 0 = some 0xFFFF0000
    ∧ tLane (tRun (.vsar .always .u16x2 .none (tl 1)) (tV [0x80000000] 1) (tV [0x000F0000] 1) none) 0 = some 0x00010000 := by decide +kernel

/-- R61, R63, R73: 1 + 2^-24 rounds to even, 0x7F7FFFFF doubled overflows, subnormals stay, MIN takes the number beside a NaN; VFMA rounds once. -/
theorem test_float_lanes :
    tLane (tRun (.vadd .always .f32 .none (tl 1)) (tV [0x3F800000] 1) (tV [0x33800000] 1) none) 0 = some 0x3F800000
    ∧ tLane (tRun (.vadd .always .f32 .none (tl 1)) (tV [0x3F800001] 1) (tV [0x33800000] 1) none) 0 = some 0x3F800002
    ∧ tLane (tRun (.vmul .always .f32 .none (tl 1)) (tV [0x7F7FFFFF] 1) (tV [0x40000000] 1) none) 0 = some 0x7F800000
    ∧ tLane (tRun (.vsub .always .f32 .none (tl 1)) (tV [0x00000003] 1) (tV [0x00000001] 1) none) 0 = some 0x00000002
    ∧ tLane (tRun (.vfma .f32 .none (tl 1)) (tV [0x3F800001] 1) (tV [0x3F800001] 1) (tV [0xBF800002] 1)) 0 = some 0x28800000
    ∧ tLane (tRun (.vadd .always .bf16x2 .none (tl 1)) (tV [0x3F803F80] 1) (tV [0x40003F80] 1) none) 0 = some 0x40404000 := by decide +kernel

/-- R198, R213, R214: a compare fills its sub-element; MTOS takes nonzero valid lanes; STOM and FIRST read bits of an S token. -/
theorem test_lane_masks :
    tLane (tRun (.vcmp .always .i16x2 .lt (tl 1)) (tV [0xFFFF0001] 1) (tV [0x00000000] 1) none) 0 = some 0xFFFF0000
    ∧ tRun (.vmask .always .mtos .none (tl 1)) (tV [1, 2, 0, 4] 0x7) none none = some (.s 3) ∧ tRun (.vmask .always .getv .none (tl 1)) (tV [] 0x5) none none = some (.s 5)
    ∧ tLane (tRun1 (.vmask .always .stom .none (tl 1)) 2) 1 = some 0xFFFFFFFF ∧ tLane (tRun1 (.vmask .always .stom .none (tl 1)) 2) 0 = some 0
    ∧ tRun1 (.vmask .always .first .none (tl 1)) 0 = some (.s 16) ∧ tRun1 (.vmask .always .first .none (tl 1)) 8 = some (.s 3)
    ∧ tLane (tRun (.vlop3 .always 0 0xC0 .none (tl 1)) (tV [0xC] 1) (tV [0xA] 1) none) 0 = some 0x8 := by decide +kernel

/-- R203: index lanes use four bits, and both valid bits count; R204: `.shu` leaves lane 0 invalid, `.rotd` brings lane 0 to lane 15. -/
theorem test_permutes :
    tLane (tRun (.vperm .always .none (tl 1)) (tV [10, 11, 12] 3) (tV [0x11, 2, 0] 7) none) 0 = some 11
    ∧ tLane (tRun (.vperm .always .none (tl 1)) (tV [10, 11, 12] 3) (tV [0x11, 2, 0] 7) none) 1 = none
    ∧ tLane (tRun (.vswz .always .shu .none (tl 1)) (tV [10, 11] 3) none none) 0 = none ∧ tLane (tRun (.vswz .always .shu .none (tl 1)) (tV [10, 11] 3) none none) 2 = some 11
    ∧ tLane (tRun (.vswz .always .rotd .none (tl 1)) (tV [10, 11] 3) none none) 15 = some 10 ∧ tLane (tRun (.vswz .always .x8 .none (tl 1)) (tV [10, 11] 3) none none) 9 = some 11 := by
  decide +kernel

/-- The hypotheses of LaneSelectionInsertionAndExtraction, with a valid and an invalid lane extracted. -/
theorem test_meets_lane_selection :
    (∃ s f b la ma lb mb, ∃ x : W64, Issued s f b ∧ f.left = some (.v la ma) ∧ f.right = some (.v lb mb) ∧ f.third = some (.s x))
    ∧ (∃ s f b la ma, ∃ v x : W64, Issued s f b ∧ f.left = some (.v la ma) ∧ f.right = some (.s v) ∧ f.third = some (.s x))
    ∧ (∃ s f b p la, ∃ ma : Mask, ∃ x : W64, Ready s f b p ∧ f.left = some (.v la ma) ∧ f.right = some (.s x) ∧ ma.getLsbD (x.toNat % 16) = false)
    ∧ (∃ s f b p la, ∃ ma : Mask, ∃ x : W64, Ready s f b p ∧ f.left = some (.v la ma) ∧ f.right = some (.s x) ∧ ma.getLsbD (x.toNat % 16) = true) :=
  ⟨⟨_, _, _, 0, 1, 0, 3, 1, test_issued (some (.v 0 1)) (some (.v 0 3)) (some (.s 1)), rfl, rfl, rfl⟩,
   ⟨_, _, _, 0, 1, 2, 31, test_issued (some (.v 0 1)) (some (.s 2)) (some (.s 31)), rfl, rfl, rfl⟩,
   ⟨_, _, _, .always, 0, 1, 15, (test_ready (some (.v 0 1)) (some (.s 15)) none).1, rfl, rfl, by decide⟩,
   ⟨_, _, _, .always, 0, 1, 16, (test_ready (some (.v 0 1)) (some (.s 16)) none).1, rfl, rfl, by decide⟩⟩

/-- R199 to R202: selection by bits, splat, a sign-extended and a zero-extended element, the ternary clamp, an index beyond the last. -/
theorem test_lane_selection :
    tLane (tRun (.vsel .none (tl 1)) (tV [1, 2] 3) (tV [5, 6] 1) (some (.s 2))) 0 = some 5 ∧ tLane (tRun (.vsel .none (tl 1)) (tV [1, 2] 3) (tV [5, 6] 1) (some (.s 1))) 1 = none
    ∧ tLane (tRun (.vsel .none (tl 1)) (tV [0x1234] 1) (tV [0x5678] 1) (tV [0xFF00] 1)) 0 = some 0x1278
    ∧ tLane (tRun1 (.vsplat .always .i8x4 .none (tl 1)) 0x1FE) 7 = some 0xFEFEFEFE ∧ tLane (tRun1 (.vsplat .always .tern2x16 .none (tl 1)) (-9)) 7 = some 0xFFFFFFFF
    ∧ tRun (.vext .always .i8x4 .none (tl 1)) (tV [0x80FF] 1) (some (.s 1)) none = some (.s (-128)) ∧ tRun (.vext .always .u8x4 .none (tl 1)) (tV [0x80FF] 1) (some (.s 65)) none = some (.s 0x80)
    ∧ tRun (.vext .always .i32 .none (tl 1)) (tV [1] 1) (some (.s 1)) none = some .n
    ∧ tLane (tRun (.vins .i16x2 .none (tl 1)) (tV [0x11112222] 1) (some (.s 0x1ABCD)) (some (.s 3))) 1 = some 0xABCD0000 := by decide +kernel

/-- The hypotheses of ReductionsFollowTheTreeAndScansTheSteps and LaneConversionsAndDotProducts: valid lanes and none, equal counts, packed types. -/
theorem test_meets_reductions : (∃ s f b p l m, Ready s f b p ∧ f.left = some (.v l m) ∧ m = 0) ∧ (∃ s f b p l m, Ready s f b p ∧ f.left = some (.v l m) ∧ m ≠ 0)
    ∧ (∃ s f b p la ma lb mb, Ready s f b p ∧ f.left = some (.v la ma) ∧ f.right = some (.v lb mb))
    ∧ (∃ s f b la ma lb mb lc mc, Issued s f b ∧ f.left = some (.v la ma) ∧ f.right = some (.v lb mb) ∧ f.third = some (.v lc mc))
    ∧ ElemTy.count .f32 = ElemTy.count .i32 ∧ 3 ≤ ElemTy.code .i16x2 ∧ 3 ≤ ElemTy.code .tern2x16 :=
  ⟨⟨_, _, _, .always, 0, 0, (test_ready (some (.v 0 0)) none none).1, rfl, rfl⟩, ⟨_, _, _, .always, 0, 1, (test_ready (some (.v 0 1)) none none).1, rfl, by decide⟩,
   test_meets_vectors.1, test_meets_vectors.2.1, rfl, by decide, by decide⟩

/-- R82, R83: sums over valid lanes, the inclusive prefix, and the minimum of no lane at all, the identity. -/
theorem test_reductions :
    tRun (.vred .always .i32 .add (tl 1)) (tV [1, 2, 3, 4] 0xB) none none = some (.s 7) ∧ tRun (.vred .always .u32 .min (tl 1)) (tV [] 0) none none = some (.s 0xFFFFFFFF)
    ∧ tLane (tRun (.vscan .always .i32 .add (tl 1)) (tV [1, 2, 3, 4] 0xB) none none) 3 = some 7 ∧ tLane (tRun (.vscan .always .i32 .add (tl 1)) (tV [1, 2, 3, 4] 0xB) none none) 2 = none := by
  decide +kernel

/-- R207's worked lanes for `.sat.rz`, R208's saturation, R209, and R210's exact sum. -/
theorem test_conversions :
    (List.range 5).map (tLane (tRun (.vcvt .always .f32 .i32 true .tz (tl 1)) (tV [0x402CCCCD, 0xC02CCCCD, 0x4F32D05E, 0x7FC00000, 0xFF800000] 0x1F) none none))
      = [some 2, some 0xFFFFFFFE, some 0x7FFFFFFF, some 0, some 0x80000000]
    ∧ tLane (tRun (.vcvt .always .f32 .i32 false .tz (tl 1)) (tV [0x4F32D05E] 1) none none) 0 = some 0xB2D05E00
    ∧ tLane (tRun (.vpack .always .i16x2 .none (tl 1)) (tV [0x00012345] 1) (tV [0xFFFFFFFF] 1) none) 0 = some 0xFFFF7FFF
    ∧ tLane (tRun (.vunpk .always .i16x2 .none (tl 1)) (tV [0xFFFF0001] 1) none none) 0 = some 1 ∧ tLane (tRun (.vunpk .always .i16x2 (tl 1) .none) (tV [0xFFFF0001] 1) none none) 0 = some 0xFFFFFFFF
    ∧ tLane (tRun (.vdot .i8x4 .none (tl 1)) (tV [0x02FF0304] 1) (tV [0x01020304] 1) (tV [10] 1)) 0 = some 35 := by decide +kernel

/-- R211, R212: exact powers of two, √2 rounded, and the special inputs. -/
theorem test_sfu :
    tLane (tRun (.vsfu .always .rcp .none (tl 1)) (tV [0x40000000] 1) none none) 0 = some 0x3F000000 ∧ tLane (tRun (.vsfu .always .sqrt .none (tl 1)) (tV [0x40000000] 1) none none) 0 = some 0x3FB504F3
    ∧ tLane (tRun (.vsfu .always .exp2 .none (tl 1)) (tV [0xC2000000] 1) none none) 0 = some 0x2F800000 ∧ tLane (tRun (.vsfu .always .log2 .none (tl 1)) (tV [0x80000000] 1) none none) 0 = some 0xFF800000
    ∧ tLane (tRun (.vsfu .always .cos .none (tl 1)) (tV [0x80000000] 1) none none) 0 = some 0x3F800000 ∧ tLane (tRun (.vsfu .always .sin .none (tl 1)) (tV [0x3F800000] 1) none none) 0 = some 0x3F576AA4 := by
  decide +kernel


/-! ## Memory instructions -/

theorem test_error {ε α : Type} {x : Except ε α} (h : x.isOk = false) : ∃ e, x = .error e := by
  cases x with
  | error e => exact ⟨e, rfl⟩
  | ok a => exact absurd h (by simp [Except.isOk, Except.toBool])

theorem test_ok {ε α : Type} {x : Except ε α} (h : x.isOk = true) : ∃ a, x = .ok a := by
  cases x with
  | error e => exact absurd h (by simp [Except.isOk, Except.toBool])
  | ok a => exact ⟨a, rfl⟩

/-- Tables at 0x10000, 0x20000 and 0x30000 (R123): pages 1 (local), 2 (comb 0's on-chip window), 3 (configuration, uncached), 4 (sealed), 5 (a
fabric aperture), 6 (read-only), 8 (page 1's memory, uncached). -/
def tMem : List Host.Cell :=
  [(0x10000, 0x01), (0x10001, 0x20), (0x20000, 0x01), (0x20001, 0x30), (0x30008, 0x1F), (0x3000A, 0x01), (0x30010, 0x0F), (0x30014, 0x40),
   (0x30018, 0xCF), (0x3001A, 0x10), (0x3001C, 0x80), (0x30020, 0x47), (0x30021, 0x10), (0x30022, 0x01), (0x30026, 0x01), (0x30028, 0x0F),
   (0x3002D, 0x80), (0x30030, 0x07), (0x30031, 0x20), (0x30032, 0x01), (0x30040, 0xDF), (0x30042, 0x01)]

/-- The translations of pages 1 and 6, used before. -/
def tTlb : List TlbEntry := [⟨0, 0x10000, 0x10000, some 0x1001F, 0x100000⟩, ⟨0, 0x60000, 0x10000, some 0x12007, 0x120000⟩]

/-- A state whose partition 0 is enabled with frame 0, these tables and aperture 0 to module 1. -/
def tMap (s : State) : State :=
  modPart { s with ms := { s.ms with mem := tMem }, frames := [(0, { owner := some 0 })], combs := [(0, { tlb := tTlb })], apertures := [(0, BitVec.ofNat 64 (2 ^ 63 + 2 ^ 32 + 2 ^ 20))] } 0
    (fun p => { p with en := true, frames := 1, root := 0x10000 })

def tPaged (l r : Option Token) : State := tMap (tIss l r none)

theorem test_issued_paged (l r : Option Token) : Issued (tPaged l r) (tF l r none) tB := ⟨rfl, rfl⟩

theorem test_ready_paged (l r : Option Token) : Ready (tPaged l r) (tF l r none) tB .always := ⟨test_issued_paged l r, trivial⟩

/-- The translation of an access of n bytes in the paged state. -/
def tTrans (k : Plain) (a n : Nat) : Except AccErr (List LPiece) := transRanges (taken (tPaged none none)) 0 (ctxOf (tPaged none none) 0) 0 .rd k [(a, n, 0)]

/-- The load an instruction has begun: kind, first piece's address and length, and pieces. -/
def tLoad (o : Out) : Option (LoadKind × Nat × Nat × Nat) :=
  match o with
  | .next s => s.ms.loads.head?.bind (fun p => p.2.pieces.head?.map (fun q => (p.2.kind, q.pa, q.n, p.2.pieces.length)))
  | _ => none

/-- The hypotheses of ScalarLoadsAccessTheirEffectiveAddress: addresses just below and at 2^55, aligned and not, translated and not. -/
theorem test_meets_scalar_loads :
    (∃ s f b p, ∃ x : W64, Ready s f b p ∧ f.left = some (.s x) ∧ 2 ^ 55 ≤ x.toNat) ∧ (∃ s f b p, ∃ x : W64, Ready s f b p ∧ f.left = some (.s x) ∧ x.toNat < 2 ^ 55 ∧ x.toNat % 8 ≠ 0)
    ∧ (∃ s f b p, ∃ x : W64, Ready s f b p ∧ f.left = some (.s x) ∧ x.toNat < 2 ^ 55 ∧ x.toNat % 8 = 0)
    ∧ (∃ e, tTrans (.plain 8) 0x70000 8 = .error e) ∧ (∃ ps, tTrans (.plain 8) 0x10000 8 = .ok ps) :=
  ⟨⟨_, _, _, .always, 0x80000000000000, test_ready_paged (some (.s 0x80000000000000)) none, rfl, by decide⟩,
   ⟨_, _, _, .always, 0x7FFFFFFFFFFFFF, test_ready_paged (some (.s 0x7FFFFFFFFFFFFF)) none, rfl, by decide, by decide⟩,
   ⟨_, _, _, .always, 0x10000, test_ready_paged (some (.s 0x10000)) none, rfl, by decide, by decide⟩,
   test_error (by decide +kernel), test_ok (by decide +kernel)⟩

/-- R121, R125, R216, R219: a page's data, an unmapped page, an offset's scale, LDA's alignment, the end of the address space, a piece for each word. -/
theorem test_scalar_loads :
    tLoad (exec (.ld .always 0 .d .predict 1 (tl 1)) (tPaged (some (.s 0x10000)) none)) = some (.scalar 8 false false, 0x100008, 8, 1)
    ∧ tLoad (exec (.ld .always 0 .sw .predict 0xF (tl 1)) (tPaged (some (.s 0x10002)) none)) = none ∧ tLoad (exec (.ld .always 0 .sw .predict 0 (tl 1)) (tPaged (some (.s 0x10006)) none)) = some (.scalar 4 true false, 0x100006, 2, 2)
    ∧ tFault (exec (.ld .always 0 .sw .predict 0xF (tl 1)) (tPaged (some (.s 0x10002)) none)) = some (0x0B, 0xFFFE)
    ∧ tFault (exec (.lda .always 0 .w .predict 0 (tl 1)) (tPaged (some (.s 0x10002)) none)) = some (0x0A, 0x10002)
    ∧ tFault (exec (.ld .always 0 .b .predict 0 (tl 1)) (tPaged (some (.s 0x80000000000000)) none)) = some (0x0B, 0x80000000000000) := by decide +kernel

/-- The hypotheses of VectorLoadsAccessTheirLanes: addresses, a mask of every lane and of fewer, index lanes. -/
theorem test_meets_vector_loads :
    (∃ s f b p, ∃ x y : W64, Ready s f b p ∧ f.left = some (.s x) ∧ f.right = some (.s y) ∧ 2 ^ 55 ≤ x.toNat ∧ y.extractLsb' 0 16 = 0xFFFF)
    ∧ (∃ s f b p, ∃ x y : W64, Ready s f b p ∧ f.left = some (.s x) ∧ f.right = some (.s y) ∧ 2 ^ 55 ≤ x.toNat ∧ y.extractLsb' 0 16 ≠ 0xFFFF)
    ∧ (∃ s f b p, ∃ x : W64, ∃ l m, Ready s f b p ∧ f.left = some (.s x) ∧ f.right = some (.v l m) ∧ x.toNat < 2 ^ 55) :=
  ⟨⟨_, _, _, .always, 0x80000000000000, 0xFFFF, test_ready_paged (some (.s 0x80000000000000)) (some (.s 0xFFFF)), rfl, rfl, by decide, by decide⟩,
   ⟨_, _, _, .always, 0x80000000000000, 1, test_ready_paged (some (.s 0x80000000000000)) (some (.s 1)), rfl, rfl, by decide, by decide⟩,
   ⟨_, _, _, .always, 0x10000, 0, 1, test_ready_paged (some (.s 0x10000)) (some (.v 0 1)), rfl, rfl, by decide⟩⟩

/-- R222, R223: LDV's sixteen words and the words of a mask; LDG's element of a negative index, scaled. -/
theorem test_vector_loads :
    tLoad (exec (.ldv .always 0 false .predict 1 (tl 1)) (tPaged (some (.s 0x10000)) none)) = some (.vec 0xFFFF, 0x100040, 4, 16)
    ∧ tLoad (exec (.ldv .always 0 true .predict 0 (tl 1)) (tPaged (some (.s 0x10000)) (some (.s 0xC)))) = some (.vec 0xC, 0x100008, 4, 2)
    ∧ tLoad (exec (.ldg .always 0 .h .predict 0 (tl 1)) (tPaged (some (.s 0x10010)) (tV [0, 0xFFFFFFFF] 2))) = some (.gather 2 false 2, 0x10000E, 2, 1) := by decide +kernel

/-- The hypotheses of WatchesAndSpansAccessTheirWords: addresses beyond the end, misaligned, in scratch and at both its ends; pages of memory and of a window; spans in scratch, uncached, cached and without a translation. -/
theorem test_meets_watches_and_spans :
    (∃ s f b p, ∃ x y : W64, Ready s f b p ∧ f.left = some (.s x) ∧ f.right = some (.s y) ∧ 2 ^ 55 ≤ x.toNat)
    ∧ (∃ x : W64, x.toNat < 2 ^ 55 ∧ x.toNat % 8 ≠ 0) ∧ (∃ x : W64, x.toNat % 8 = 0 ∧ 0x007FFF0000000000 ≤ x.toNat ∧ x.toNat < 0x0080000000000000)
    ∧ (∃ e, tTrans .other 0x70000 8 = .error e) ∧ (∃ ps, tTrans .other 0x20000 8 = .ok ps ∧ ps.any (fun q => isWindow q.pa) = true)
    ∧ (∃ ps, tTrans .other 0x10000 8 = .ok ps ∧ ps.all (fun q => !q.scratch && !isWindow q.pa && !isCfg q.pa) = true)
    ∧ (∃ e, tTrans .other 0x70000 1 = .error e) ∧ (∃ q, tTrans .other 0x10000 1 = .ok [q] ∧ q.scratch = false ∧ q.mode ≠ 3 ∧ isLocal q.pa = true)
    ∧ (∃ q, tTrans .other 0x80000 1 = .ok [q] ∧ q.mode = 3) ∧ ∃ q, tTrans .other 0x007FFF0000000000 1 = .ok [q] ∧ q.scratch = true :=
  ⟨⟨_, _, _, .always, 0x80000000000000, 1, test_ready_paged (some (.s 0x80000000000000)) (some (.s 1)), rfl, rfl, by decide⟩, ⟨0x7FFFFFFFFFFFFF, by decide⟩, ⟨0x007FFF0000000000, by decide⟩,
   test_error (by decide +kernel), ⟨_, rfl, by decide +kernel⟩, ⟨_, rfl, by decide +kernel⟩,
   test_error (by decide +kernel), ⟨_, rfl, rfl, by decide, by decide +kernel⟩, ⟨_, rfl, rfl⟩, ⟨_, rfl, rfl⟩⟩

/-- Context 0's task with one child, which lies in its comb's deque or nowhere, and a spill area of n units at an address. -/
def tKid : Child := { launch := 0, id := 7, parent := 0, forkCtx := 0, entry := 0x40, arg := 0, x := 0, y := 0, z := 0 }
def tJoin (near : Bool) (a n : Nat) : State :=
  modComb (modLaunch (tPaged none none) 0 (fun l => { l with hdr := [0, 0x1000002002180000, 16, 0, 0, 0, 0, 0], spill := a, spillu := n, kids := [(0, 1)] })) 0 (fun k => { k with deque := if near then [tKid] else [] })

/-- The clauses of BatchAndChildWaitsCompleteAsAcquires for JOIN with a child: none that its context may take, and one, with a spill area that lacks room, cannot be written, and
takes the record. -/
theorem test_meets_join :
    (∀ near, Issued (tJoin near 0x10000 1) (tF none none none) tB) ∧ isOldest (ctxOf (tJoin true 0x10000 1) 0) 0 = true ∧ childrenOf (tJoin true 0x10000 1) (ctxOf (tJoin true 0x10000 1) 0) = 1
    ∧ (ctxOf (tJoin true 0x10000 1) 0).task.map (fun t => (t.launch, t.id)) = some (0, 0) ∧ (mget {} 0 (tJoin true 0x10000 1).combs : Comb).deque = [tKid] ∧ kSteal (launchOf (tJoin true 0x10000 1) 0).hdr = 0
    ∧ (mget {} 0 (tJoin false 0x10000 1).combs : Comb).deque = [] ∧ (newestSpilled (tJoin false 0x10000 1) 0 (mayTake (tJoin false 0x10000 1) 0 { launch := 0, id := 0, x := 0, y := 0, z := 0 })).isSome = false
    ∧ recordUnits (ctxOf (tJoin true 0 0) 0) (kernelOf (tJoin true 0 0) (ctxOf (tJoin true 0 0) 0)) (fullSave (ctxOf (tJoin true 0 0) 0)) = 1
    ∧ unitRun (tJoin true 0x10000 0) 0 1 = none ∧ unitRun (tJoin true 0x60000 1) 0 1 = some 0 ∧ (devRange (tJoin true 0x60000 1) 0 0x60000 65536 .wr).isSome = true
    ∧ unitRun (tJoin true 0x10000 1) 0 1 = some 0 ∧ devRange (tJoin true 0x10000 1) 0 0x10000 65536 .wr = none :=
  ⟨fun _ => ⟨rfl, rfl⟩, by decide +kernel⟩

/-- R47, R250: the task is set aside, or JOIN traps with the spill area's address. -/
theorem test_join :
    (match exec (.join .always 0 (tl 1)) (tJoin true 0x10000 1) with | .next s => (ctxOf s 0).saveAt | _ => none) = some (0, 1)
    ∧ tFault (exec (.join .always 0 (tl 1)) (tJoin true 0x60000 1)) = some (0x12, 0x60000) ∧ tFault (exec (.join .always 0 (tl 1)) (tJoin true 0x10000 0)) = some (0x12, 0) := by decide +kernel

/-- R230: a WATCH on an on-chip window; R235: SPAN fills to its region's end, and nothing in scratch. -/
theorem test_watches_and_spans :
    tFault (exec (.watch .always 0 .ne .d 0 (tl 1)) (tPaged (some (.s 0x20000)) (some (.s 0)))) = some (0x0E, 0x20000)
    ∧ tLoad (exec (.watch .always 0 .ne .w 1 (tl 1)) (tPaged (some (.s 0x10000)) (some (.s 7)))) = some (.watch .ne .w 7, 0x100004, 4, 1)
    ∧ tLoad (exec (.span .always 0 false 0 (tl 1)) (tPaged (some (.s 0x100E0)) (some (.s 200)))) = some (.span false, 0x1000E0, 8, 36)
    ∧ tOut (exec (.span .always 0 false 0 (tl 1)) (tPaged (some (.s 0x007FFF0000000000)) (some (.s 8)))) = some (.s 0) := by decide +kernel

/-- The store an instruction has recorded. -/
def tStored (o : Out) : Option StoreOp :=
  match o with
  | .next s => (blockOf (ctxOf s 0) 0).bind (fun b => (mfind 0 b.stores).bind (·.op))
  | _ => none

/-- The byte that a recorded data store leaves at an address. -/
def tByte (o : Out) (a : Nat) : Option Byte := match tStored o with | some (.data _ ps) => storedByte ps a | _ => none

/-- The hypotheses of StoresAndScattersRecordTheirBytes: an S token stored, and V tokens with lanes valid and not. -/
theorem test_meets_stores : (∃ s f b p, ∃ x y : W64, Ready s f b p ∧ f.left = some (.s x) ∧ f.right = some (.s y))
    ∧ (∃ s f b p, ∃ x : W64, ∃ l, ∃ m : Mask, Ready s f b p ∧ f.left = some (.s x) ∧ f.right = some (.v l m) ∧ m.getLsbD 0 = true ∧ m.getLsbD 8 = true ∧ m.getLsbD 1 = false) :=
  ⟨⟨_, _, _, .always, 1, 2, (test_ready (some (.s 1)) (some (.s 2)) none).1, rfl, rfl⟩,
   ⟨_, _, _, .always, 1, 0, 0x101, (test_ready (some (.s 1)) (some (.v 0 0x101)) none).1, rfl, rfl, by decide⟩⟩

/-- R224 to R226: little-endian bytes, STV's valid lanes, and of two STS elements for one byte the higher. -/
theorem test_stores :
    tByte (exec (.st .always 0 .w .predict 1) (tIss (some (.s 0x1000)) (some (.s 0x0A0B0C0D)) none)) 0x1004 = some 0x0D
    ∧ tByte (exec (.st .always 0 .w .predict 1) (tIss (some (.s 0x1000)) (some (.s 0x0A0B0C0D)) none)) 0x1007 = some 0x0A
    ∧ tByte (exec (.st .always 0 .w .predict 1) (tIss (some (.s 0x1000)) (some (.s 0x0A0B0C0D)) none)) 0x1008 = none
    ∧ tByte (exec (.stv .always 0 .predict 0) (tIss (some (.s 0x1000)) (tV [1, 2, 3] 5) none)) 0x1008 = some 3 ∧ tByte (exec (.stv .always 0 .predict 0) (tIss (some (.s 0x1000)) (tV [1, 2, 3] 5) none)) 0x1004 = none
    ∧ tByte (exec (.sts .always 0 .b .predict 0) (tIss (some (.s 0x1000)) (tV [4, 4, 0, 0, 0, 0, 0, 0, 0x11, 0x22] 0x303) none)) 0x1004 = some 0x22
    ∧ (match tStored (exec (.stl .always 0 .d .stream 0) (tIss (some (.s 0x1000)) (some (.s 1)) none)) with | some (.data k _) => some k | _ => none) = some .relStream := by decide +kernel

/-- The hypotheses of AtomicsAreRecordedWithTheirOperands: an S operand, and V operands with the lanes that CAS needs and without. -/
theorem test_meets_atomics : (∃ s f b p, ∃ x v : W64, Ready s f b p ∧ f.left = some (.s x) ∧ f.right = some (.s v))
    ∧ (∃ s f b p, ∃ x : W64, ∃ l, ∃ m : Mask, Ready s f b p ∧ f.left = some (.s x) ∧ f.right = some (.v l m) ∧ m.getLsbD 0 = true ∧ m.getLsbD 2 = true ∧ m.extractLsb' 0 4 ≠ 0xF)
    ∧ (∃ s f b p, ∃ x : W64, ∃ l, ∃ m : Mask, Ready s f b p ∧ f.left = some (.s x) ∧ f.right = some (.v l m) ∧ m.extractLsb' 0 4 = 0xF)
    ∧ (∃ s f b p, ∃ x : W64, ∃ l, ∃ m : Mask, Ready s f b p ∧ f.left = some (.s x) ∧ f.right = some (.v l m) ∧ ¬(m.getLsbD 0 = true ∧ m.getLsbD 2 = true)) :=
  ⟨⟨_, _, _, .always, 1, 2, (test_ready (some (.s 1)) (some (.s 2)) none).1, rfl, rfl⟩,
   ⟨_, _, _, .always, 1, 0, 5, (test_ready (some (.s 1)) (some (.v 0 5)) none).1, rfl, rfl, by decide⟩,
   ⟨_, _, _, .always, 1, 0, 0xF, (test_ready (some (.s 1)) (some (.v 0 0xF)) none).1, rfl, rfl, by decide⟩,
   ⟨_, _, _, .always, 1, 0, 1, (test_ready (some (.s 1)) (some (.v 0 1)) none).1, rfl, rfl, by decide⟩⟩

/-- R227, R229: the EA of AMO's offset, CAS's lanes, and an invalid one. -/
theorem test_atomics :
    tStored (exec (.amo .always 0 .add .w 0xF (.reg 3)) (tIss (some (.s 0x1000)) (some (.s 5)) none)) = some (.amo .add .w 0xFFC 5 (.reg 3))
    ∧ tStored (exec (.cas .always 0 .w 0 .none) (tIss (some (.s 0x1000)) (tV [1, 2, 3, 4] 5) none)) = some (.cas .w 0x1000 1 3 .none)
    ∧ tStored (exec (.cas .always 0 .d 0 .none) (tIss (some (.s 0x1000)) (tV [1, 2, 3, 4] 0xF) none)) = some (.cas .d 0x1000 0x200000001 0x400000003 .none)
    ∧ tFault (exec (.cas .always 0 .d 0 .none) (tIss (some (.s 0x1000)) (tV [1, 2, 3, 4] 7) none)) = some (4, 0) := by decide +kernel

/-- The hypotheses of FencesAndRangeInstructionsAreRecorded: the oldest block, whose earlier loads have performed, a younger one; a length of 0 and
above, in task mode and in a handler. -/
theorem test_meets_fences :
    (∃ s f b p, Ready s f b p ∧ isOldest (ctxOf s f.ctx) f.tag = true ∧ loadsDone b 0 = true) ∧ (∃ s f b p, Ready s f b p ∧ isOldest (ctxOf s f.ctx) f.tag = false)
    ∧ (∃ s f b p, ∃ a n : W64, Ready s f b p ∧ f.left = some (.s a) ∧ f.right = some (.s n) ∧ n.toNat % 2 ^ 32 = 0)
    ∧ (∃ s f b p, ∃ a n : W64, Ready s f b p ∧ f.left = some (.s a) ∧ f.right = some (.s n) ∧ n.toNat % 2 ^ 32 ≠ 0 ∧ (ctxOf s f.ctx).trap.hm = false) :=
  ⟨⟨_, _, _, .always, (test_ready none none none).1, by decide +kernel, by decide +kernel⟩, ⟨_, _, _, .always, ⟨test_issued_two [] [], trivial⟩, by decide +kernel⟩,
   ⟨_, _, _, .always, 1, 0x100000000, (test_ready (some (.s 1)) (some (.s 0x100000000)) none).1, rfl, rfl, by decide⟩,
   ⟨_, _, _, .always, 1, 0xFFFFFFFF, (test_ready (some (.s 1)) (some (.s 0xFFFFFFFF)) none).1, rfl, rfl, by decide, rfl⟩⟩

/-- R232, R234, R236: a fence recorded, CLAIM's bound, `.dinv` refused to a task and of no length allowed it. -/
theorem test_fences :
    tStored (exec (.fence .always 0 .acq) (tIss none none none)) = some (.fence .acq) ∧ tStored (exec (.claim .always 0) (tIss (some (.s 1)) (some (.s 5000)) none)) = some (.claim 1 4096)
    ∧ tFault (exec (.flushr .always 0 .dinv) (tIss (some (.s 8)) (some (.s 8)) none)) = some (0x11, 8) ∧ tStored (exec (.flushr .always 0 .dinv) (tIss (some (.s 8)) (some (.s 0)) none)) = some (.flushr .dinv 8 0) := by
  decide +kernel

/-- The hypotheses of CopiesChildrenAndBarriersAreRecorded: every lane valid and one not; a member's channel below BARS, and a kernel without
barriers. -/
theorem test_meets_copies : (∃ s f b p l m, ∃ e : W64, Ready s f b p ∧ f.left = some (.v l m) ∧ m = 0xFFFF ∧ f.right = some (.s e)) ∧ (∃ s f b p l m, Ready s f b p ∧ f.left = some (.v l m) ∧ m ≠ 0xFFFF)
    ∧ (∃ s f b p, ∃ n : W64, Ready s f b p ∧ f.left = some (.s n)
        ∧ (∃ t r, (ctxOf s f.ctx).task = some t ∧ t.rank = some r) ∧ 15 < kBars (kernelOf s (ctxOf s f.ctx)))
    ∧ (∃ s f b p, ∃ n : W64, Ready s f b p ∧ f.left = some (.s n) ∧ ¬0 < kBars (kernelOf s (ctxOf s f.ctx))) :=
  ⟨⟨_, _, _, .always, 0, 0xFFFF, 1, (test_ready (some (.v 0 0xFFFF)) (some (.s 1)) none).1, rfl, rfl, rfl⟩, ⟨_, _, _, .always, 0, 0xFFFE, (test_ready (some (.v 0 0xFFFE)) none none).1, rfl, by decide⟩,
   ⟨_, _, _, .always, 3, (test_ready (some (.s 3)) none none).1, rfl, ⟨_, _, rfl, rfl⟩, by decide +kernel⟩,
   ⟨{ tIss (some (.s 3)) none none with launches := [] }, _, _, .always, 3, ⟨test_issued (some (.s 3)) none none, trivial⟩, rfl, by decide +kernel⟩⟩

/-- R238, R249, R251: a descriptor with an invalid lane, a child's invalid argument lanes, a channel at BARS. -/
theorem test_copies :
    tFault (exec (.copy .always false .lin 0 .none) (tIss (some (.v 0 0xFFFE)) none none)) = some (4, 0)
    ∧ (match tStored (exec (.fork .always 0 .none) (tIss (tV [1, 2] 2) (some (.s 0x40)) none)) with | some (.fork a e _) => some (lane a 0, lane a 1, e) | _ => none) = some (0, 2, 0x40)
    ∧ tStored (exec (.bar .always 0 0 .arr) (tIss none none none)) = some (.bar 0 .arr 0) ∧ tFault (exec (.bar .always 15 0 .arr) { tIss none none none with launches := [] }) = some (8, 15) := by decide +kernel


/-! ## Tensor instructions -/

/-- An instruction's own words in their block, issued with operands. -/
def tTile (i : Instr) (l r : Option Token) : State := { placeWord State.reset (encode i).1 (encode i).2 with issue := some (tF l r none) }
def tTb (i : Instr) : Block := placedBlock (encode i).1 (encode i).2

theorem test_issued_tile (i : Instr) (l r : Option Token) : Issued (tTile i l r) (tF l r none) (tTb i) := ⟨rfl, rfl⟩
theorem test_ready_tile (i : Instr) (l r : Option Token) : Ready (tTile i l r) (tF l r none) (tTb i) .always := ⟨test_issued_tile i l r, trivial⟩

/-- Whether the waits of an instruction's block are over, its operands are whole and its words decode to it. -/
def tTileOk (i : Instr) (l r : Option Token) : Bool :=
  instrAt (tTb i).words 0 == some i && !tileWaits (ctxOf (tTile i l r) 0) (tTb i) 0 i && (tilePoison (taken (tTile i l r)) 0 (ctxOf (tTile i l r) 0) (tTb i) i).isNone

/-- The same where a TST's capture ends at a cycle. -/
def tTc (i : Instr) (t : Nat) : Block := { tTb i with captures := [(0, t)] }
def tCap (i : Instr) (t : Nat) (l r : Option Token) : State := modCtx (tTile i l r) 0 (fun x => { x with blocks := [tTc i t] })

theorem test_tile_ready (i : Instr) (l r : Option Token) (h : tTileOk i l r = true) : TileReady i (tTile i l r) (tF l r none) (tTb i) := by
  simp only [tTileOk, Bool.and_eq_true, beq_iff_eq, Bool.not_eq_true', Option.isNone_iff_eq_none] at h
  exact ⟨h.1.1, h.1.2, h.2⟩

def tScr : Option Token := some (.s 0x007FFF0000000000)
def tZero : Option Token := some (.s 0)
def tVec (l : List Nat) : Option Token := tV l 0xFFFF

/-- A row that a TLD of scratch asks for. -/
def tRow (i : Instr) (ra : W64) (len : Nat) : Except AccErr (List LPiece) :=
  tldRow (taken (tTile i tScr tZero)) 0 (ctxOf (tTile i tScr tZero) 0) 0 none .i8x4 len 0 ra 0

/-- The hypotheses of TileLoadsAndStoresAccessTheirRows: a named format, automatic format without a window and with one, rows that may be read and not, and
TST of a buffer and of an accumulator. -/
theorem test_meets_tile_loads :
    (∃ s f b p, ∃ base pitch : W64, Ready s f b p ∧ f.left = some (.s base) ∧ f.right = some (.s pitch) ∧ TileReady (.tld .always false false (.fmt .i8x4) 0 0 0 .none (tl 1)) s f b)
    ∧ (∃ s f b p, ∃ base pitch : W64, Ready s f b p ∧ f.left = some (.s base) ∧ f.right = some (.s pitch) ∧ TileReady (.tld .always false false .auto 0 0 0 .none (tl 1)) s f b
        ∧ windowAt (partOf s (ctxOf s f.ctx).part) base.toNat = none)
    ∧ (∃ p : Partition, ∃ w, windowAt p 0x10000 = some w ∧ windowFmt w = (.i8x4, false))
    ∧ (∃ q, tRow (.tld .always false false (.fmt .i8x4) 0 0 0 .none (tl 1)) 0x007FFF0000000000 1024 = .ok q)
    ∧ (∃ e, tRow (.tld .always false false (.fmt .i8x4) 0 0 0 .none (tl 1)) 0x007FFF0000001000 1024 = .error e)
    ∧ (∃ s f b, Issued s f b ∧ TileReady (.tst .always false false 0 0 0) s f b ∧ mfind f.idx b.captures = none)
    ∧ (∃ s f b t, Issued s f b ∧ TileReady (.tst .always true true 0 0 0) s f b ∧ mfind f.idx b.captures = some t ∧ s.cycles < t)
    ∧ (∃ s f b t, Issued s f b ∧ TileReady (.tst .always true true 0 0 0) s f b ∧ mfind f.idx b.captures = some t ∧ t ≤ s.cycles) :=
  ⟨⟨_, _, _, .always, _, _, test_ready_tile (.tld .always false false (.fmt .i8x4) 0 0 0 .none (tl 1)) tScr tZero, rfl, rfl, test_tile_ready _ _ _ (by decide +kernel)⟩,
   ⟨_, _, _, .always, _, _, test_ready_tile (.tld .always false false .auto 0 0 0 .none (tl 1)) tScr tZero, rfl, rfl, test_tile_ready _ _ _ (by decide +kernel), by decide +kernel⟩,
   ⟨{ fwin := [(3, { base := 0x10000, fin := 0x20000, ctl := BitVec.ofNat 64 (128 + ElemTy.code .i8x4) })] }, _, rfl, by decide +kernel⟩,
   test_ok (by decide +kernel), test_error (by decide +kernel),
   ⟨_, _, _, test_issued_tile (.tst .always false false 0 0 0) tScr tZero, test_tile_ready _ _ _ (by decide +kernel), rfl⟩,
   ⟨tCap (.tst .always true true 0 0 0) 4 tScr tZero, tF tScr tZero none, tTc (.tst .always true true 0 0 0) 4, 4, ⟨rfl, rfl⟩, ⟨by decide +kernel, by decide +kernel, by decide +kernel⟩, rfl, by decide +kernel⟩,
   ⟨tCap (.tst .always true true 0 0 0) 0 tScr tZero, tF tScr tZero none, tTc (.tst .always true true 0 0 0) 0, 0, ⟨rfl, rfl⟩, ⟨by decide +kernel, by decide +kernel, by decide +kernel⟩, rfl, by decide +kernel⟩⟩

/-- R127, R267, R268, R270: no window at the base, a row that runs past scratch, the bytes that a row of an accumulator stores. -/
theorem test_tile_loads :
    tFault (exec (.tld .always false false .auto 0 0 0 .none (tl 1)) (tTile (.tld .always false false .auto 0 0 0 .none (tl 1)) tScr tZero)) = some (0x0E, 0x007FFF0000000000)
    ∧ tFault (exec (.tld .always false false (.fmt .i8x4) 0 0 0 .none (tl 1)) (tTile (.tld .always false false (.fmt .i8x4) 0 0 0 .none (tl 1)) tScr (some (.s 0x110)))) = some (0x09, 0x007FFF0000001000)
    ∧ (match tLoad (exec (.tld .always false false (.fmt .i8x4) 0 0 0 .none (tl 1)) (tTile (.tld .always false false (.fmt .i8x4) 0 0 0 .none (tl 1)) tScr tZero)) with
       | some (.tile ty sc tr bc cell buf _, _) => some (ty, sc, tr, bc, cell, buf) | _ => none) = some (.i8x4, false, false, false, 0, 0)
    ∧ tByte (exec (.tst .always true false 0 0 0) (tCap (.tst .always true false 0 0 0) 0 tScr (some (.s 64)))) 0x007FFF00000003FF = some 0
    ∧ tByte (exec (.tst .always true false 0 0 0) (tCap (.tst .always true false 0 0 0) 0 tScr (some (.s 64)))) 0x007FFF0000000400 = none := by decide +kernel

def tMma : Instr := .mma .always .f 0 0 0 1 0 false false .none (tl 1)
def tMmaT : Instr := .mma .always .t 0 0 0 1 0 false false .none (tl 1)

/-- Context 0 with an older block that has a PSET still to perform. -/
def tPset : State := modCtx (tTile tMma (some (.s 1)) none) 0 (fun x =>
  { x with blocks := [{ placedBlock (encode (.pset .always 1)).1 0 with tag := 1 }, tTb tMma] })

/-- The hypotheses of MatrixProductsJoinTheirUnitsQueue: operands that its mode takes and not, and a wait for PPR. -/
theorem test_meets_products :
    (∃ s f b p t, Ready s f b p ∧ f.left = some t ∧ t ≠ .n ∧ pprWaits (ctxOf s f.ctx) f.tag = false ∧ TileReady tMma s f b ∧ (bufSeen s f.ctx (ctxOf s f.ctx) b 0 0).fmt.isStoredFloat = true)
    ∧ (∃ s f b p t, Ready s f b p ∧ f.left = some t ∧ t ≠ .n ∧ pprWaits (ctxOf s f.ctx) f.tag = false ∧ TileReady tMmaT s f b
        ∧ (bufSeen s f.ctx (ctxOf s f.ctx) b 0 0).fmt ≠ .tern2x16 ∧ (bufSeen s f.ctx (ctxOf s f.ctx) b 0 0).fmt ≠ .i8x4)
    ∧ (∃ s f b p t, Ready s f b p ∧ f.left = some t ∧ t ≠ .n ∧ pprWaits (ctxOf s f.ctx) f.tag = true) :=
  ⟨⟨_, _, _, .always, .s 1, test_ready_tile tMma (some (.s 1)) none, rfl, by decide, by decide +kernel, test_tile_ready _ _ _ (by decide +kernel), by decide +kernel⟩,
   ⟨_, _, _, .always, .s 1, test_ready_tile tMmaT (some (.s 1)) none, rfl, by decide, by decide +kernel, test_tile_ready _ _ _ (by decide +kernel), by decide +kernel, by decide +kernel⟩,
   ⟨tPset, tF (some (.s 1)) none none, tTb tMma, .always, .s 1, ⟨⟨rfl, rfl⟩, trivial⟩, rfl, by decide, by decide +kernel⟩⟩

/-- R278, R279, R284: bf16 in ternary mode faults; an adaptive product starts at its RUNG's rank in its unit's queue. -/
theorem test_products :
    tFault (exec tMmaT (tTile tMmaT (some (.s 1)) none)) = some (4, 2)
    ∧ (match exec tMma (tTile tMma (some (.s 1)) none) with | .next s => (mget [] 0 s.jobs).map (fun j => (j.rung, j.adaptive, j.a, j.b, j.acc)) | _ => []) = [(1, true, 0, 1, 0)] := by decide +kernel

def tTop (o : TopOp) : Instr := .top .always o 0 .none (tl 1)

/-- The hypotheses of TileOperationsWriteTheirDestinations for every operation. -/
theorem test_meets_tile_operations :
    (∀ o ∈ [TopOp.zeroBuf 1, .zeroAcc 1 .ninf, .trans 1 2, .rmax 2, .rsum 2, .rscale 1 2, .rsub 1 2, .exp2 1 2, .conv 1 2 .i8x4 true false, .a2b 1 2 .bf16x2 false false 0],
      tTileOk (tTop o) (tVec [1]) (tVec [2]) = true)
    ∧ ∃ s f b p t l m, Ready s f b p ∧ f.left = some t ∧ t ≠ .n ∧ f.right = some (.v l m) ∧ TileReady (tTop (.rscale 1 2)) s f b :=
  ⟨by decide +kernel, ⟨_, _, _, .always, _, _, _, test_ready_tile (tTop (.rscale 1 2)) (tVec [1]) (tVec [2]), rfl, by simp, rfl, test_tile_ready _ _ _ (by decide +kernel)⟩⟩

/-- The accumulator or buffer that an instruction leaves to its block's commit. -/
def tShadow (o : Out) (k : Nat) : Option TAcc := match o with | .next s => (blockOf (ctxOf s 0) 0).bind (fun b => mfind k b.shadow) | _ => none
def tStaged (o : Out) (k : Nat) : Option TBuf := match o with | .next s => (blockOf (ctxOf s 0) 0).bind (fun b => mfind k b.staging) | _ => none

/-- R286: an accumulator of −∞ with rung 1; the row maxima and sums of zeros, whose sign is +; EXP2 of zeros; a cleared buffer's tag and scales. -/
theorem test_tile_operations :
    (tShadow (exec (tTop (.zeroAcc 1 .ninf)) (tTile (tTop (.zeroAcc 1 .ninf)) (tVec [1]) none)) 1).map (fun u => (accElem u 15 15, u.sr)) = some (0xFF800000, 1)
    ∧ tLane (tOut (exec (tTop (.rsum 2)) (tTile (tTop (.rsum 2)) (tVec [1]) none))) 15 = some 0
    ∧ (tShadow (exec (tTop (.exp2 1 2)) (tTile (tTop (.exp2 1 2)) (tVec [1]) none)) 1).map (fun u => accElem u 0 0) = some 0x3F800000
    ∧ (tStaged (exec (tTop (.zeroBuf 1)) (tTile (tTop (.zeroBuf 1)) (tVec [1]) none)) 1).map (fun u => (u.fmt, u.sc, u.scales.extractLsb' 1016 8)) = some (.bf16x2, false, 0x7F) := by decide +kernel

def tTrow (o : TrowOp) (row : BitVec 4) : Instr := .trow .always o 0 1 row 0 .none (tl 1)

/-- The hypotheses of TileRowsMoveSixtyFourBytes for each operation. -/
theorem test_meets_tile_rows : (∀ o ∈ [TrowOp.rb, .ra, .wb, .wa], tTileOk (tTrow o 15) (tV [1, 2] 2) none = true)
    ∧ ∃ s f b p l m, Ready s f b p ∧ f.left = some (.v l m) ∧ TileReady (tTrow .wa 15) s f b :=
  ⟨by decide +kernel, ⟨_, _, _, .always, _, _, test_ready_tile (tTrow .wa 15) (tV [1, 2] 2) none, rfl, test_tile_ready _ _ _ (by decide +kernel)⟩⟩

/-- R287: a write leaves an invalid lane's bytes and changes the valid one's. -/
theorem test_tile_rows :
    (tShadow (exec (tTrow .wa 15) (tTile (tTrow .wa 15) (tV [1, 2] 2) none)) 1).map (fun u => (accElem u 15 0, accElem u 15 1, accElem u 14 1)) = some (0, 2, 0)
    ∧ tLane (tOut (exec (tTrow .rb 0) (tTile (tTrow .rb 0) (tVec [1]) none))) 0 = some 0 := by decide +kernel


/-! ## Statements about every word and every step -/

/-- The hypotheses of EveryWordDecodesToItsInstruction and DecodedWordsEncodeBack, for words of one and of two. -/
theorem test_meets_encoding : (∃ i : Instr, i.isWord = true ∧ i.wf = true) ∧ (∃ w x i, decode w x = .ok i ∧ isPairedWord w = false) ∧ ∃ w x i, decode w x = .ok i ∧ isPairedWord w = true :=
  ⟨⟨.add .ifZero (tl 127) (tr 0), rfl, rfl⟩, ⟨0x40000085, 0, _, rfl, rfl⟩, ⟨0xF0000087, 0x00012000, _, rfl, rfl⟩⟩

/-- Words with every field at its greatest value are read back. -/
theorem test_round_trip : ([Instr.mov4 .ifNonzero (tp 127) (tp 126) (tr 125) (tl 124), .lop3 .ifZero 0xFFFFFF 0xFF (tr 127) (tl 127), .shli .always 63 (tl 127), .exit .ifNonzero 7 0xFFFFF,
      .ldg .ifZero 31 .sh .stream 15 (tp 127), .cas .ifNonzero 31 .d 15 (.reg 63), .mma .ifNonzero .f 31 7 15 15 2 true true (tr 127) (tl 127)].filter Instr.wf).map
        (fun i => (decode (encode i).1 (encode i).2).toOption == some i) = [true, true, true, true, true, true, true] := by decide +kernel

/-- The hypotheses of EachStepIsOneInstructionOrEvent: a word that decodes and one that does not, a plan, an event due, nothing due. -/
theorem test_meets_steps :
    (∃ s f b i, Issued s f b ∧ decodeAt b f.idx = .ok i) ∧ (∃ s f b e, Issued s f b ∧ decodeAt b f.idx = .error e)
    ∧ (∃ (s : State) (p : Planned) (r : List Planned), s.issue = none ∧ s.agenda = p :: r ∧ p.op.isWord = false)
    ∧ (∃ (s : State) (i : Instr), s.issue = none ∧ s.agenda = [] ∧ auto s = some i) ∧ (∃ s : State, s.issue = none ∧ s.agenda = [] ∧ auto s = none)
    ∧ ∃ (w x : Word) (i : Instr), decode w x = .ok i :=
  ⟨⟨placeWord State.reset 0x40000085 0, _, _, _, ⟨rfl, rfl⟩, rfl⟩, ⟨placeWord State.reset 0x00000001 0, _, _, _, ⟨rfl, rfl⟩, rfl⟩,
   ⟨{ State.reset with agenda := [⟨5, .powerLoss⟩] }, _, _, rfl, rfl, rfl⟩,
   ⟨{ State.reset with md := { State.reset.md with healthy := true }, gtime := 1000001 }, _, rfl, rfl, rfl⟩, ⟨State.reset, rfl, rfl, by decide +kernel⟩, ⟨0x40000085, 0, _, rfl⟩⟩

/-- The word placed by withFetchWord is what step runs: its fault of R91's reserved encoding, and a constant of R180 on its way. -/
theorem test_steps : tFault (step (State.reset.withFetchWord 64 0x40800085)) = some (1, 0x40800085) ∧ tOut (step (State.reset.withFetchWord 32 0x10001502)) = some (.s 10) := by decide +kernel

/-- The hypotheses of EveryStepKeepsMemoryCanonical, EveryStepAnswersANextState and WordsChangeOnlyTheirBlockAndMessages: a canonical memory that lists bytes, a
word of each class. -/
theorem test_meets_frames : (∃ s t, MemoryCanonical s ∧ s.ms.mem ≠ [] ∧ step s = .next t)
    ∧ (∃ i s t f b, i.isWord = true ∧ Issued s f b ∧ exec i s = .next t ∧ acquireWord i = false ∧ tokenWord i = true ∧ ∀ p n t0, i ≠ .join p n t0)
    ∧ (∃ i s t f b, i.isWord = true ∧ Issued s f b ∧ exec i s = .next t ∧ acquireWord i = true) :=
  ⟨⟨tPaged none none, _, (by decide +kernel : Memory.wf tMem = true), by decide +kernel, rfl⟩, ⟨.mov .always .none (tl 1), _, _, _, _, rfl, test_issued (some .n) none none, rfl, rfl, rfl, by simp⟩,
   ⟨.fence .always 0 .acq, _, _, _, _, rfl, test_issued none none none, rfl, rfl⟩⟩

/-- The hypotheses of UnmatchedPredicatesResolve: each sense with each token that does not match it, and a V token. -/
theorem test_meets_predicates : (∃ i s f b, ∃ v : W64, i.isWord = true ∧ isThree i = false ∧ predOf i = .ifZero ∧ Issued s f b ∧ f.third = some (.s v) ∧ Mismatches (predOf i) (.s v))
    ∧ (∃ i s f b, i.isWord = true ∧ isThree i = false ∧ predOf i = .ifNonzero ∧ Issued s f b ∧ f.third = some (.s 0) ∧ Mismatches (predOf i) (.s 0))
    ∧ (∃ i s f b, i.isWord = true ∧ isThree i = false ∧ predOf i = .ifNonzero ∧ Issued s f b ∧ f.third = some .n ∧ Mismatches (predOf i) .n)
    ∧ (∃ i s f b l m, i.isWord = true ∧ isThree i = false ∧ predOf i ≠ .always ∧ Issued s f b ∧ f.third = some (.v l m)) :=
  ⟨⟨.null .ifZero .none (tl 1), _, _, _, 1, rfl, rfl, rfl, test_issued none none (some (.s 1)), rfl, .inr ⟨1, by decide, rfl⟩⟩,
   ⟨.null .ifNonzero .none (tl 1), _, _, _, rfl, rfl, rfl, test_issued none none (some (.s 0)), rfl, .inr rfl⟩,
   ⟨.null .ifNonzero .none (tl 1), _, _, _, rfl, rfl, rfl, test_issued none none (some .n), rfl, .inl rfl⟩,
   ⟨.null .ifNonzero .none (tl 1), _, _, _, 0, 0, rfl, rfl, by decide, test_issued none none (some (.v 0 0)), rfl⟩⟩

/-- R91: nothing is sent, and a V predicate faults. -/
theorem test_predicates : tRun (.null .ifZero .none (tl 1)) none none (some (.s 1)) = none ∧ tRun (.null .ifZero .none (tl 1)) none none (some (.s 0)) = some .n
    ∧ tFault (exec (.null .ifZero .none (tl 1)) (tIss none none (some (.v 0 0)))) = some (4, 0) := by decide +kernel

/-- Bool forms of the hypotheses below. -/
theorem test_null_operands (l : List Instr) (a c : Option Token)
    (h : l.all (fun i => i.isWord && (dataSlots i).all (fun k => (slotOfIssue (tF a c none) k).isSome) && (dataSlots i).any (fun k => slotOfIssue (tF a c none) k == some .n)) = true) :
    ∀ i ∈ l, i.isWord = true ∧ SlotsFilled i (tF a c none) ∧ NullIn i (tF a c none) := by
  simpa [SlotsFilled, NullIn, and_assoc] using h

theorem test_wrong_operands (l : List Instr) (a c : Option Token)
    (h : l.all (fun i => (dataSlots i).all (fun k => (slotOfIssue (tF a c none) k).isSome && slotOfIssue (tF a c none) k != some .n)
      && (dataSlots i).any (fun k => match slotOfIssue (tF a c none) k with | some (.s _) => !acceptsS i k | some (.v _ _) => !acceptsV i k | _ => false)) = true) :
    ∀ i ∈ l, SlotsFilled i (tF a c none) ∧ ¬NullIn i (tF a c none) ∧ WrongKind i (tF a c none) := by
  intro i hi
  have h := List.all_eq_true.mp h i hi
  simp only [Bool.and_eq_true, List.all_eq_true, List.any_eq_true, bne_iff_ne] at h
  refine ⟨fun k hk => (h.1 k hk).1, fun ⟨k, hk, e⟩ => (h.1 k hk).2 e, ?_⟩
  obtain ⟨k, hk, e⟩ := h.2
  refine ⟨k, hk, ?_⟩
  revert e
  cases slotOfIssue (tF a c none) k with
  | none => simp
  | some t => cases t <;> simp

/-- The hypotheses of NullAndWrongOperandsDoNotPerform for each clause: a store, an exit, SETS, PSET, PHINT and another instruction with an N operand; an operand of another
kind, and an S operand beside an N. -/
theorem test_meets_null :
    (∀ i ∈ [Instr.st .always 0 .d .predict 0, .exitr .always 0, .sets .always .ppr, .pset .always 1, .phint .always .reg, .add .always .none (tl 1), .vadd .always .f32 .none (tl 1)],
      i.isWord = true ∧ SlotsFilled i (tF (some .n) (some (.s 1)) none) ∧ NullIn i (tF (some .n) (some (.s 1)) none))
    ∧ (∀ i ∈ [Instr.add .always .none (tl 1), .st .always 0 .d .predict 0, .sets .always .ppr],
        SlotsFilled i (tF (some (.v 0 1)) (some (.s 1)) none) ∧ ¬NullIn i (tF (some (.v 0 1)) (some (.s 1)) none) ∧ WrongKind i (tF (some (.v 0 1)) (some (.s 1)) none))
    ∧ Issued (tIss (some .n) (some (.s 1)) none) (tF (some .n) (some (.s 1)) none) tB ∧ Issued (tIss (some (.v 0 1)) (some (.s 1)) none) (tF (some (.v 0 1)) (some (.s 1)) none) tB :=
  ⟨test_null_operands _ _ _ (by decide +kernel), test_wrong_operands _ _ _ (by decide +kernel), test_issued .., test_issued ..⟩

/-- R92, R90: N to the target, a nullified store, an exit that does not fire, and a V operand of ADD. -/
theorem test_null : tRun (.add .always .none (tl 1)) (some .n) (some (.s 1)) none = some .n ∧ tStored (exec (.st .always 0 .d .predict 0) (tIss (some .n) (some (.s 1)) none)) = none
    ∧ tExits (exec (.exitr .always 0) (tIss (some .n) none none)) = [] ∧ tFault (exec (.add .always .none (tl 1)) (tIss (some (.v 0 1)) (some (.s 1)) none)) = some (4, 0)
    ∧ tFault (exec (.add .always .none (tl 1)) (tIss (some (.v 0 1)) (some .n) none)) = none := by decide +kernel

/-- Context 0 with three blocks in flight. -/
def tThree : State := modCtx (tIss none none none) 0 (fun x => { x with blocks := [tB, { tB with tag := 1, addr := 32 }, { tB with tag := 2, addr := 64 }] })

/-- The hypotheses of TrapsFreezeTheContextForItsFaultDecision (a double fault and not) and DiscardsCountAndLeaveNoEffect (an exit to the next block and elsewhere). -/
theorem test_meets_traps : (∃ x : Ctx, (x.trap.hm && !x.trap.trd) = false) ∧ (∃ x : Ctx, (x.trap.hm && !x.trap.trd) = true)
    ∧ ∃ (s : State) (c tag : Nat) (y : Block), (youngerThan (ctxOf s c) tag).head? = some y ∧ exitAddr (.goto 32) = some y.addr ∧ exitAddr (.goto 96) ≠ some y.addr ∧ exitAddr .halt ≠ some y.addr :=
  ⟨⟨{}, rfl⟩, ⟨{ trap := { hm := true } }, rfl⟩, ⟨tThree, 0, 0, _, rfl, rfl, by decide, by decide⟩⟩

/-- R105, R110, R322, R328: a trap's registers, a double fault's, and a wrong path's younger blocks counted. -/
theorem test_traps : (let x := ctxOf (takeTrap tThree 0 0x10 5 64 3) 0; (x.blocks.length, x.trap.cause, x.trap.tval, x.trap.tepc, x.trap.tidx, x.sqc)) = (0, 0x10, 5, 64, 3, 3)
    ∧ (let x := ctxOf (takeTrap (tHandler none) 0 0x10 5 64 3) 0; (x.trap.cause, x.trap.cause2, x.trap.tval2, x.trap.tepc, x.trap.df)) = (0, 0x10, 5, 0x40, true)
    ∧ (let x := ctxOf (checkPath tThree 0 0 (.goto 96)) 0; (x.blocks.map (·.tag), x.sqc)) = ([0], 2) ∧ (let x := ctxOf (checkPath tThree 0 0 (.goto 32)) 0; (x.blocks.map (·.tag), x.sqc)) = ([0, 1, 2], 0) := by decide +kernel


/-! ## Cells, blocks and passes -/

def tNext (o : Out) : State := match o with | .next s => s | _ => State.reset

/-- An instruction's words in context 0's block, whose first node is as given, with nothing issued. -/
def tNode (i : Instr) (n : Node) : State :=
  modCtx { tTile i none none with issue := none } 0 (fun x => { x with blocks := [{ tTb i with nodes := [(0, n)] }] })

/-- The same with a token on its way to the first node. -/
def tFly (i : Instr) (n : Node) (k : Slot) (t : Token) : State := { tNode i n with net := [(4, ⟨0, 0, k, 0, t, 0, 0, 0⟩)] }

/-- What the first node holds once the token is there. -/
def tFlown (i : Instr) (n : Node) (k : Slot) (t : Token) : Option Node := (blockOf (ctxOf (tNext (exec (.tokenDelivery 4) (tFly i n k t))) 0) 0).map (fun b => nodeOf b 0)

/-- The hypotheses of ReadyInstructionsIssueAndTokensFillSlots: a held instruction whose wait is over, a ready one, none, weights due; a slot that is full, a
predicate that does not match, all slots filled and not. -/
theorem test_meets_issue :
    (∃ (s : State) (a : Cand), wakeOf s 0 0 = some a) ∧ (∃ s : State, wakeOf s 0 0 = none ∧ heldReady (readyList s 0 0) = [])
    ∧ (∃ s : State, wakeOf s 0 0 = none ∧ heldReady (readyList s 0 0) ≠ [] ∧ (mget {} 0 s.cells : Cell).issuedAt ≠ some s.cycles)
    ∧ (∃ s : State, wakeOf s 0 0 = none ∧ (mget {} 0 s.cells : Cell).issuedAt = some s.cycles) ∧ (∃ s : State, s.cycles < (mget {} 0 s.cells : Cell).weightAt + 1024)
    ∧ (∃ s : State, (mget {} 0 s.cells : Cell).weightAt + 1024 ≤ s.cycles ∧ ((mget {} 0 s.cells : Cell).sums.map (·.1)).Nodup) ∧ (∃ (s : State) (a : Cand) (b : Block), blockOf (ctxOf s a.ctx) a.tag = some b)
    ∧ (∃ (s : State) (n : Nat) (p : NetTok) (b : Block), mfind n s.net = some p ∧ p.due ≤ s.cycles ∧ blockOf (ctxOf s p.ctx) p.tag = some b ∧ slotTok (nodeOf b p.idx) p.slot ≠ none)
    ∧ (∃ (s : State) (n : Nat) (p : NetTok) (b : Block) (i : Instr), mfind n s.net = some p ∧ p.due ≤ s.cycles ∧ blockOf (ctxOf s p.ctx) p.tag = some b ∧ slotTok (nodeOf b p.idx) p.slot = none
        ∧ (nodeOf b p.idx).st = .waiting ∧ instrAt b.words p.idx = some i ∧ isThree i = false ∧ p.slot = .third ∧ Mismatches (predOf i) p.tok)
    ∧ (∃ (s : State) (n : Nat) (p : NetTok) (b : Block) (i : Instr), mfind n s.net = some p ∧ p.due ≤ s.cycles ∧ blockOf (ctxOf s p.ctx) p.tag = some b ∧ slotTok (nodeOf b p.idx) p.slot = none
        ∧ (nodeOf b p.idx).st = .waiting ∧ instrAt b.words p.idx = some i ∧ ∀ k, usesSlot i k = true → slotTok (putTok (nodeOf b p.idx) p.slot p.tok) k ≠ none) :=
  ⟨⟨tNode (.rd 1 .none (tl 1)) { st := .held }, _, rfl⟩, ⟨State.reset, rfl, rfl⟩, ⟨tNode (.add .always .none (tl 1)) { st := .ready 0 }, by decide +kernel, by decide +kernel, by decide +kernel⟩,
   ⟨{ State.reset with cells := [(0, { issuedAt := some 0 })] }, rfl, by decide +kernel⟩, ⟨State.reset, by decide +kernel⟩,
   ⟨{ State.reset with cycles := 1024 }, by decide +kernel, by decide +kernel⟩, ⟨tNode .nop {}, ⟨0, 0, 0, 0⟩, _, rfl⟩,
   ⟨tFly (.add .always .none (tl 1)) { left := some .n } .left (.s 1), 4, _, _, rfl, by decide +kernel, rfl, by decide +kernel⟩,
   ⟨tFly (.add .ifZero .none (tl 1)) {} .third (.s 1), 4, _, _, .add .ifZero .none (tl 1), rfl, by decide +kernel, rfl, rfl, rfl, rfl, rfl, rfl, .inr ⟨1, by decide, rfl⟩⟩,
   ⟨tFly (.add .always .none (tl 1)) { right := some .n } .left (.s 1), 4, _, _, .add .always .none (tl 1), rfl, by decide +kernel, rfl, rfl, rfl, rfl, by intro k; cases k <;> decide +kernel⟩⟩

/-- R89 to R91: the second operand makes a node ready, a mismatching predicate resolves it, and a second token for a slot faults with TVAL 1. -/
theorem test_issue :
    (tFlown (.add .always .none (tl 1)) { right := some .n } .left (.s 1)).map (·.st) = some (.ready 0) ∧ (tFlown (.add .ifZero .none (tl 1)) {} .third (.s 1)).map (·.st) = some .resolved
    ∧ (tFlown (.add .always .none (tl 1)) {} .left (.s 1)).map (·.st) = some .waiting
    ∧ tFault (exec (.tokenDelivery 4) (tFly (.add .always .none (tl 1)) { left := some .n } .left (.s 1))) = some (4, 1)
    ∧ (tNext (exec (.cellIssue 0 0) (tNode (.add .always .none (tl 1)) { left := some (.s 1), right := some (.s 2), st := .ready 0 }))).issue = some (tF (some (.s 1)) (some (.s 2)) none) := by decide +kernel

/-- Context 0 to fetch its next block from an address. -/
def tFetch (a : W64) : State := modCtx { tPaged none none with issue := none } 0 (fun x => { x with blocks := [], next := a })

/-- Context 0 with one settled block. -/
def tSettled (f : Block → Block) (g : Ctx → Ctx) : State :=
  modCtx { tPaged none none with issue := none } 0 (fun x => g { x with blocks := [f { tB with nodes := [], exits := [(1, .goto 0x40)] }] })

/-- What the fetched block's commit finds: the block. -/
def tOldest (s : State) : Option Block := (ctxOf s 0).blocks.head?

/-- A store-class record in a settled block. -/
def tWith (op : StoreOp) (b : Block) : Block := { b with stores := [(0, ⟨0, some op, 0⟩)] }

/-- The hypotheses of BlocksAreFetchedAndCommitInOrder: addresses that may not be fetched, are misaligned, unmapped and mapped; settled blocks that trap for
each reason, are held, and commit by each exit. -/
theorem test_meets_commits :
    (mayFetch (tFetch 0x10000) (ctxOf (tFetch 0x10000) 0) 0x10020 = false) ∧ (mayFetch (tFetch 0x10008) (ctxOf (tFetch 0x10008) 0) 0x10008 = true ∧ blockAddrOk 0x10008 = false)
    ∧ (mayFetch (tFetch 0x70000) (ctxOf (tFetch 0x70000) 0) 0x70000 = true ∧ blockAddrOk 0x70000 = true ∧ ∃ e, fetchWords (tFetch 0x70000) 0 (ctxOf (tFetch 0x70000) 0) 0x70000 4 = .error e)
    ∧ (mayFetch (tFetch 0x10000) (ctxOf (tFetch 0x10000) 0) 0x10000 = true ∧ blockAddrOk 0x10000 = true
        ∧ ∃ h l, fetchWords (tFetch 0x10000) 0 (ctxOf (tFetch 0x10000) 0) 0x10000 4 = .ok (some h) ∧ (mget {} (homeOf 0) (tFetch 0x10000).combs : Comb).images = []
          ∧ fetchWords (tFetch 0x10000) 0 (ctxOf (tFetch 0x10000) 0) 0x10020 (8 * tiersOf (halves (h.map (·.1)))) = .ok (some l))
    ∧ (∃ s b q, tOldest s = some b ∧ (ctxOf s 0).phase = .running ∧ settled s 0 b = true ∧ blockTrap b = some q)
    ∧ (∃ s b q, tOldest s = some b ∧ (ctxOf s 0).phase = .running ∧ settled s 0 b = true ∧ blockTrap b = none ∧ checkStores s s 0 (ctxOf s 0) b b.stores = some q)
    ∧ (∃ s b q, tOldest s = some b ∧ (ctxOf s 0).phase = .running ∧ settled s 0 b = true ∧ blockTrap b = none ∧ checkStores s s 0 (ctxOf s 0) b b.stores = none ∧ checkComposition s (ctxOf s 0) b = some q)
    ∧ (∃ s b, tOldest s = some b ∧ (ctxOf s 0).phase = .running ∧ settled s 0 b = true ∧ blockTrap b = none ∧ checkStores s s 0 (ctxOf s 0) b b.stores = none ∧ checkComposition s (ctxOf s 0) b = none
        ∧ stallsFirst (ctxOf s 0) b = true)
    ∧ (∃ s b i e t, tOldest s = some b ∧ (ctxOf s 0).phase = .running ∧ settled s 0 b = true ∧ blockTrap b = none ∧ b.exits = [(i, e)] ∧ e ≠ .halt ∧ b.stores = [] ∧ (b.wr.map (·.1)).Nodup
        ∧ swreqOf b.hdr = 0 ∧ (ctxOf s 0).lateFaults = [] ∧ (ctxOf s 0).preempt = none ∧ (ctxOf s 0).barWait = [] ∧ (ctxOf s 0).releases = [] ∧ (ctxOf s 0).batches = []
        ∧ stallsFirst (ctxOf s 0) b = false ∧ commitPoint s 0 b i e = some t)
    ∧ (∃ b : Block, blockTrap b = none ∧ b.exits = [(1, .call 0x40 0x60)]) ∧ ∃ b : Block, blockTrap b = none ∧ b.exits = [(1, .tret)] :=
  ⟨by decide +kernel, ⟨by decide +kernel, by decide +kernel⟩, ⟨by decide +kernel, by decide +kernel, test_error (by decide +kernel)⟩,
   ⟨by decide +kernel, by decide +kernel, _, _, rfl, rfl, rfl⟩,
   ⟨tSettled (fun b => { b with exits := [] }) id, _, _, rfl, rfl, by decide +kernel, rfl⟩,
   ⟨tSettled (tWith (.data .plain [⟨0x70000, 8, 0⟩])) id, _, _, rfl, rfl, by decide +kernel, rfl, rfl⟩,
   ⟨tSettled (fun b => { b with hdr := [BitVec.ofNat 32 (2 ^ 18), 0, 0, 0, 0, 0, 0, 0] }) id, _, _, rfl, rfl, by decide +kernel, rfl, by decide +kernel, rfl⟩,
   ⟨tSettled id (fun x => { x with fifo := List.replicate 200 0 }), _, rfl, rfl, by decide +kernel, rfl, rfl, by decide +kernel, by decide +kernel⟩,
   ⟨tSettled id id, _, 1, .goto 0x40, _, rfl, rfl, by decide +kernel, rfl, rfl, by decide, rfl, by decide, by decide +kernel, rfl, rfl, rfl, rfl, rfl, by decide +kernel, rfl⟩,
   ⟨{ tB with nodes := [], exits := [(1, .call 0x40 0x60)] }, rfl, rfl⟩, ⟨{ tB with nodes := [], exits := [(1, .tret)] }, rfl, rfl⟩⟩

/-- R107, R108, R110, R172: the next block, a CALL's link in g62, a missing exit's cause, and a store's fault at its instruction. -/
theorem test_commits :
    (let x := ctxOf (tNext (exec (.blockCommit 0) (tSettled id id))) 0; (x.blocks.length, x.next)) = (0, 0x40)
    ∧ (let x := ctxOf (tNext (exec (.blockCommit 0) (tSettled (fun b => { b with exits := [(1, .call 0x40 0x60)] }) id))) 0; (x.next, mget (.s 0) 62 x.regs)) = (0x40, .s 0x60)
    ∧ (ctxOf (tNext (exec (.blockCommit 0) (tSettled (fun b => { b with exits := [] }) id))) 0).trap.cause = 5
    ∧ (let x := ctxOf (tNext (exec (.blockCommit 0) (tSettled (tWith (.data .plain [⟨0x70000, 8, 0⟩])) id))) 0; (x.trap.cause, x.trap.tval, x.trap.tidx)) = (0x0C, 0x70000, 0)
    ∧ (let s := tNext (exec (.blockCommit 0) (tSettled (tWith (.data .plain [⟨0x007FFF0000000008, 8, 7⟩])) id)); (ctxOf s 0).blocks.length) = 0 := by decide +kernel

/-- A RET's own words in a block that has fired nothing. -/
def tRetBlock : Block := { tTb (.ret .always 0) with nodes := [], addr := 0x40 }

/-- The block cache of comb 0 with the header and words at 0x10000. -/
def tCached : State := modComb (tFetch 0x10000) 0 (fun k => { k with images := [(0x10000, 0, List.replicate 24 0)] })

/-- The hypotheses of BlocksAreFetchedAndCommitInOrder for the rest of its clauses: a predicted return, words withheld, an image, a block run in order, a poisoned and a
sound uncached word. -/
theorem test_meets_fetches :
    (let s := modCtx (tFetch 0x10000) 0 (fun x => { x with k := 2, blocks := [tRetBlock], rstack := [0x10000] })
     predictedRet (ctxOf s 0) = some 0x10000 ∧ mayFetch s (ctxOf s 0) 0x10000 = true ∧ mayFetch s (ctxOf s 0) 0x10020 = false)
    ∧ (let s := modCtx { tFetch 0x10000 with ms := { (tFetch 0x10000).ms with uwrites := [(4, { ctx := 0, pa := 0x100000, va := 0x10000, n := 8, data := 7, sent := true, since := 0 })] } } 0 id
       mayFetch s (ctxOf s 0) 0x10000 = true ∧ (match fetchWords s 0 (ctxOf s 0) 0x10000 4 with | .ok none => true | _ => false) = true)
    ∧ (mayFetch tCached (ctxOf tCached 0) 0x10000 = true ∧ blockAddrOk 0x10000 = true ∧ (match fetchWords tCached 0 (ctxOf tCached 0) 0x10000 4 with
        | .ok (some h) => ((mget {} (homeOf 0) tCached.combs : Comb).images.find? (fun i => i.1 == 0x10000 && i.2.1 == (halves (h.map (·.data))).getD 6 0)).isSome
        | _ => false) = true)
    ∧ (∃ x : Ctx, (0x40 : W64) ∈ x.strictAt)
    ∧ (let s := tFetch 0x80000
       (match translate s 0 0 0x80000 .fetch with | .ok t => t.place == .home 0x100000 && t.mode == 3 && !writeAhead s 0 { va := 0x80000, pa := t.pa, n := 8, pos := 0, scratch := false, mode := t.mode, sver := t.sver } | _ => false) = true
       ∧ withheld s.ms (0x100000 / 8) = false ∧ (coherentWord s.ms (0x100000 / 8)).2 = false ∧ (coherentWord { s.ms with poison := [0x20000] } (0x100000 / 8)).2 = true) := by
  refine ⟨by decide +kernel, by decide +kernel, by decide +kernel, ⟨{ strictAt := [0x40] }, by decide⟩, by decide +kernel⟩

/-- What every clause of a block without store-class instructions asks. -/
def tPlain (s : State) : Bool :=
  let x := ctxOf s 0
  match x.blocks with
  | b :: _ => x.phase == .running && settled s 0 b && (blockTrap b).isNone && b.stores.isEmpty && x.lateFaults.isEmpty && x.preempt.isNone && !stallsFirst x b
      && swreqOf b.hdr == 0 && x.barWait.isEmpty && x.releases.isEmpty && x.batches.isEmpty
  | _ => false

/-- A settled block with system registers to write, an MMA of rank 1, a read of TCAUSE, a staged buffer and a shadow. -/
def tRich (b : Block) : Block :=
  { b with sys := [(0, .sets (.rpc 3) 5), (1, .sets .tval 7), (2, .pset 1 0xAB)], got := [3], staging := [(2, { fmt := .i8x4 })], shadow := [(9, { sr := 2 })] }
def tRanked (b : Block) : Block := { b with ranks := [(4, (2, 0)), (5, (1, 3))] }

/-- The hypotheses of BlocksAreFetchedAndCommitInOrder for commits: a write that timed out, held translations, each part of the state a block may leave, HALT, and a task that
retires or must wait. -/
theorem test_meets_commit_state :
    (let s := tSettled id (fun x => { x with lateFaults := [5] })
     (ctxOf s 0).xlat = none ∧ (ctxOf s 0).lateFaults = [5] ∧ (ctxOf s 0).blocks.all (fun b => settled s 0 b && (blockTrap b).isNone) = true)
    ∧ (∃ s : State, (ctxOf s 0).xlat ≠ none) ∧ (∀ f ∈ [id, tRich, tRanked], tPlain (tSettled f id) = true)
    ∧ (tPlain (tSettled (fun b => { b with exits := [(1, .halt)] }) id) = true ∧ (ctxOf (tSettled id id) 0).task.isSome = true)
    ∧ ((tRich tB).sys = [] ++ (0, .sets (.rpc 3) 5) :: [(1, .sets .tval 7), (2, .pset 1 0xAB)] ∧ (∀ w ∈ [(1, SysWr.sets .tval 7), (2, .pset 1 0xAB)], writesSys w.2 (.rpc 3) = false) ∧ (tRich tB).ranks = [])
    ∧ ((0, 0, 8) ∈ pprFields ∧ (1 : BitVec 6).getLsbD 0 = true ∧ (1 : BitVec 6).getLsbD 3 = false ∧ (ctxOf (tSettled tRanked id) 0).rpc.length = 4 ∧ ∀ p ∈ (tRanked tB).ranks, p.2.1 < 4)
    ∧ (let s := modCtx (tSettled id id) 0 (fun x => { x with phase := .retiring, blocks := [] })
       (ctxOf s 0).phase = .retiring ∧ (ctxOf s 0).releases = [] ∧ (ctxOf s 0).batches = [] ∧ copiesDrained s 0 = true ∧ (ctxOf s 0).batFault = 0 ∧ (ctxOf s 0).k = kSwarm (kernelOf s (ctxOf s 0)))
    ∧ (∃ x : Ctx, x.releases ≠ []) ∧ mustLeave (tSettled id id) 0 (ctxOf (tSettled id id) 0) = false := by
  refine ⟨by decide +kernel, ⟨modCtx State.reset 0 (fun x => { x with xlat := some (0, []) }), by decide +kernel⟩, ?_, by decide +kernel, by decide +kernel, by decide +kernel, by decide +kernel, ⟨{ releases := [{ id := 0, fence := true }] }, by decide⟩, by decide +kernel⟩
  intro f hf
  simp only [List.mem_cons, List.not_mem_nil, or_false] at hf
  rcases hf with rfl | rfl | rfl <;> decide +kernel

/-- R104, R179, R263, R279, R288, R322: what SETS and PSET leave, TRD, the counts of committed MMAs, the buffer and the accumulator; and HALT's retirement, which ends at once. -/
theorem test_commit_state :
    (let s := tNext (exec (.blockCommit 0) (tSettled tRich id)); let x := ctxOf s 0
     (x.rpc.getD 3 0, x.trap.tval, x.ppr, x.trap.trd, (mget {} 2 s.tbufs : TBuf).fmt, (mget {} 9 s.taccs : TAcc).sr)) = (5, 7, 0xFFFFAB, true, .i8x4, 2)
    ∧ (ctxOf (tNext (exec (.blockCommit 0) (tSettled tRanked id))) 0).rpc = [1, 1, 0, 3]
    ∧ (let s := tNext (exec (.blockCommit 0) (tSettled (fun b => { b with exits := [(1, .halt)] }) id)); ((ctxOf s 0).blocks.length, (ctxOf s 0).phase, (launchOf s 0).departed)) = (0, .free, [0]) := by decide +kernel

/-- Context 0 waiting for growth to two combs. -/
def tGrow (halting : Bool) (t : Nat) (combs : SMap Comb) : State :=
  modCtx { tPaged none none with issue := none, gtime := t, combs := combs } 0 (fun x => { x with phase := .growing, growth := some { k := 2, since := 0, halting := halting }, blocks := [] })

/-- A pass at rank 1 of a buffer that holds 2^127 and 2^-126, of which rank 1 keeps the first only, against the thresholds of a PPR. -/
def tJob (adaptive : Bool) (ppr : W64) : MmaJob :=
  { ctx := 0, tag := 0, idx := 0, mode := .f, acc := 0, a := 0, b := 1, cell := 0, zc := true, sticky := false, adaptive := adaptive, ppr := ppr, rung := 1, top := 2, start := 1, replays := 0,
    ends := some 0, t1 := .none, t0 := tl 1 }

def tPass (adaptive : Bool) (ppr : W64) : State :=
  { tTile tMma (some (.s 1)) none with issue := none, jobs := [(0, [tJob adaptive ppr])], tbufs := [(0, { data := BitVec.ofNat 65536 0x00807F00 })] }

/-- The hypotheses of GrowthsAndMatrixPassesEnd: combs with room and without, before and at each time, after a HALT; passes that end and are squashed. -/
theorem test_meets_growths :
    (∃ r, growthRoom (tGrow false 0 []) 0 2 = some r) ∧ growthRoom (tGrow false 0 [(1, { isSealed := true })]) 0 2 = none
    ∧ (∀ h, (ctxOf (tGrow h 0 []) 0).phase = .growing ∧ (ctxOf (tGrow h 0 []) 0).growth = some { k := 2, since := 0, halting := h })
    ∧ 1000 * (partOf (tGrow false 0 []) 0).tcomp = 5000000 ∧ (tGrow false 5000000 []).gtime = 5000000 ∧ (tGrow false 4999999 []).gtime < 5000000 ∧ 2 * 5000000 ≤ (tGrow false 10000000 []).gtime
    ∧ (∃ s j b e, mget [] 0 s.jobs = [j] ∧ blockOf (ctxOf s j.ctx) j.tag = some b ∧ j.ends = some e ∧ e ≤ s.cycles ∧ replays j (passOf s (ctxOf s j.ctx) b j) = false)
    ∧ (∃ s j b e, mget [] 0 s.jobs = [j] ∧ blockOf (ctxOf s j.ctx) j.tag = some b ∧ j.ends = some e ∧ e ≤ s.cycles ∧ replays j (passOf s (ctxOf s j.ctx) b j) = true)
    ∧ (let s := modCtx (tGrow false 10000000 []) 0 (fun x => { x with growth := some { k := 2, since := 0, resume := true } })
       (ctxOf s 0).phase = .growing ∧ (ctxOf s 0).growth = some { k := 2, since := 0, resume := true } ∧ 2 * (1000 * (partOf s 0).tcomp) ≤ s.gtime)
    ∧ ∃ r : PassResult, r.canc < 2 ^ 9 :=
  ⟨⟨_, rfl⟩, by decide +kernel, fun _ => ⟨rfl, rfl⟩, by decide +kernel, rfl, by decide, by decide,
   ⟨tPass false 0xFFFF00, _, _, 0, rfl, rfl, rfl, by decide +kernel, by decide +kernel⟩, ⟨tPass true 0xFF00FF, _, _, 0, rfl, rfl, rfl, by decide +kernel, by decide +kernel⟩, by decide +kernel, ⟨⟨0, 3, 5, 7⟩, by decide⟩⟩

/-- R40, R280, R281: growth takes effect, is refused with trap 0x15, and a status token's fields. -/
theorem test_growths :
    (let x := ctxOf (tNext (exec (.growthComplete 0) (tGrow false 0 []))) 0; (x.k, x.phase)) = (2, .running)
    ∧ (let x := ctxOf (tNext (exec (.compositionRefused 0) (tGrow false 10000000 [(1, { isSealed := true })]))) 0; (x.trap.cause, x.trap.tval)) = (0x15, 2)
    ∧ (let x := ctxOf (tNext (exec (.compositionRefused 0) (tGrow true 10000000 [(1, { isSealed := true })]))) 0; (x.trap.cause, x.phase)) = (0, .growing)
    ∧ mmaStatus ⟨0, 70000, 5, 7⟩ 1 1 2 = 0x070005FFFF16 := by decide +kernel


/-! ## The memory system's messages -/

/-- A doubleword of page 1 in its home, as a load's piece. -/
def tPiece : LPiece := ⟨0x10000, 0x100000, 8, 0, false, 0, 0⟩

/-- A store-class instruction's record. -/
def tRec (op : StoreOp) : StoreRec := { idx := 0, op := some op, comb := 0 }

/-- A load of context 0 outstanding. -/
def tLoadReq (k : LoadKind) (p : LPiece) (got : SMap (W64 × Bool)) : LoadReq :=
  { ctx := 0, tag := 0, idx := 0, lsid := 0, kind := k, comb := 0, hint := .predict, pieces := [p], got := got, t1 := .none, t0 := tl 1, since := 0, due := 0 }

/-- Context 0 with such a load, its instruction busy. -/
def tWaiting (r : LoadReq) : State :=
  let s := modCtx { tPaged none none with issue := none } 0 (fun x => { x with blocks := [{ tB with nodes := [(0, { st := .busy })], loads := [(0, { idx := 0, ranges := [], acq := false, finished := false })] }] })
  { s with ms := { s.ms with loads := [(0, r)] }, seq := 8, gtime := 5000000 }

/-- What is common to every clause of LoadsReadTheirWordsAndDeliverThem. -/
def tLoadOk (r : LoadReq) : Bool := r.armed.isNone && !loadWaits (tWaiting r) r && decide (r.due ≤ (tWaiting r).cycles)

/-- The hypotheses of LoadsReadTheirWordsAndDeliverThem: a word missing at home and in an on-chip window, a lease wanted, data missing, poisoned and whole of each
kind, and a load performed again. -/
theorem test_meets_loads :
    (let r := tLoadReq (.scalar 8 false false) tPiece []
     tLoadOk r = true ∧ (regionPiece r (0x20000 / 64)).isSome = true ∧ 0x20000 ∈ missingWords (tWaiting r) r ∧ placeOfPa (tWaiting r) 0 (8 * 0x20000) = some (.home 0x100000)
       ∧ readBusy (tWaiting r) 0x20000 = false ∧ loadData (tWaiting r) r = none)
    ∧ (let p : LPiece := { tPiece with va := 0x20000, pa := 0x040000000000, mode := 3 }
       let r := tLoadReq (.scalar 8 false false) p []
       tLoadOk r = true ∧ p.pa / 8 ∈ missingWords (tWaiting r) r ∧ isWindow (8 * (p.pa / 8)) = true ∧ placeOfPa (tWaiting r) 0 (8 * (p.pa / 8)) = some (.window 0 0))
    ∧ (let p : LPiece := { tPiece with pa := 0x8000000000000, mode := 2 }
       let r := tLoadReq (.scalar 8 false false) p []
       let s := { tWaiting r with md := { (tWaiting r).md with healthy := true } }
       loadWaits s r = false ∧ wantsLease s r p = true ∧ p.pa / 8 ∈ missingWords s r ∧ proxyFor s r p (p.pa / 8) = none ∧ s.md.ports ≠ 0)
    ∧ (let r := tLoadReq (.scalar 8 false false) tPiece [(0x20000, (5, true))]
       tLoadOk r = true ∧ loadData (tWaiting r) r = some (5, some 0x10000))
    ∧ (∀ k ∈ [LoadKind.scalar 8 false false, .scalar 8 true true, .vec 3, .gather 4 true 1, .tile .i8x4 false false false 0 0 0], ∃ u,
        let r := tLoadReq k tPiece [(0x20000, (5, false))]
        tLoadOk r = true ∧ r.recheck = none ∧ loadData (tWaiting r) r = some (5, none) ∧ fillAll (tWaiting r) r = some u)
    ∧ ∃ (r : LoadReq) (tok old : Token), r.recheck = some old ∧ old ≠ tok :=
  ⟨by decide +kernel, by decide +kernel, by decide +kernel, by decide +kernel,
   by intro k hk; simp only [List.mem_cons, List.not_mem_nil, or_false] at hk; rcases hk with rfl | rfl | rfl | rfl | rfl <;> exact ⟨_, by decide +kernel, rfl, by decide +kernel, rfl⟩,
   ⟨{ tLoadReq (.vec 3) tPiece [] with recheck := some .n }, .s 1, .n, rfl, by decide⟩⟩

/-- R140, R219, R223: a sign-extended word, a poisoned one's fault, two lanes of a vector load. -/
theorem test_loads :
    tOut (exec (.loadReply 0) (tWaiting (tLoadReq (.scalar 4 true false) { tPiece with n := 4 } [(0x20000, (0x80000001, false))]))) = some (.s 0xFFFFFFFF80000001)
    ∧ tFault (exec (.loadReply 0) (tWaiting (tLoadReq (.scalar 8 false false) tPiece [(0x20000, (5, true))]))) = some (0x0F, 0x10000)
    ∧ tLane (tOut (exec (.loadReply 0) (tWaiting (tLoadReq (.vec 3) tPiece [(0x20000, (0x700000009, false))])))) 1 = some 7
    ∧ ((tNext (exec (.homeRead 0 0x20000 0x20000) (tWaiting (tLoadReq (.scalar 8 false false) tPiece [])))).ms.loads.head?.map (fun p => p.2.got)) = some [(0x20000, (0, false))] := by decide +kernel

/-- A registration of comb 0 for word 0x20000, in a memory system as given. -/
def tReg : Reg := { ctx := 0, comb := 0, word := 0x20000, data := none, grant := false, since := 0 }
def tRegs (f : MemSys → MemSys) : State := { tPaged none none with issue := none, gtime := 5000000, seq := 8, ms := f { (tPaged none none).ms with regs := [(3, tReg)] } }

/-- Comb 0's copy of the word, owned. -/
def tOwned (m : MemSys) : MemSys :=
  { m with caches := [(combSet 0 (0x20000 / 64), [{ region := 0x20000 / 64, s := 0, words := [{ data := 9, valid := 0xFF, dirty := true, owned := true }] }])] }

def tHost (m : MemSys) : MemSys := { m with hostLines := [(homeSlice 0x100000, [0x20000 / 8])] }
/-- The line of a copy's destination held by the host. -/
def tHost2 (m : MemSys) : MemSys := { m with hostLines := [(homeSlice 0x100100, [0x100100 / 64])] }
def tLeased (m : MemSys) : MemSys := { m with leases := [(0x20000 / 64, 5000000)] }

def tAmo : AmoReq := { ctx := 0, op := .amo .add .d 0x10000 5 (.reg 3), pa := 0x100000, sent := true, since := 0 }
def tUWrite : UWrite := { ctx := 0, pa := 0x8000000000008, va := 0x50008, n := 8, data := 7, sent := true, since := 0 }

/-- A release of context 0 with a probe that went out as message m to the word's slice, and registration 3. -/
def tEcho (m : Nat) : State := modCtx (tRegs id) 0 (fun x => { x with releases := [{ id := 2, fence := false, started := true, at_ := m, probes := [homeSlice 0x100000] }] })

/-- The hypotheses of WritesAndAtomicsReachTheirHomes: a word whose line the host holds, a leased one, one free to be registered; a lease that has ended; a slice's
probe; a write to another module; an atomic at its home; and its operands in each order. -/
theorem test_meets_writes :
    (∀ f ∈ [id, tHost, tLeased, tOwned], mfind 3 (tRegs f).ms.regs = some tReg ∧ regBehind (tRegs f) 3 tReg = false ∧ mfind 3 (tRegs f).ms.delayed = none)
    ∧ hostHas (tRegs tHost).ms (lineOf tReg.word) = true ∧ (hostHas (tRegs tLeased).ms (lineOf tReg.word) = false ∧ leased (tRegs tLeased) tReg.word = true)
    ∧ (hostHas (tRegs id).ms (lineOf tReg.word) = false ∧ leased (tRegs id) tReg.word = false)
    ∧ (∃ (s : State) (n : Nat) (d : Delayed) (r : Reg) (k : Nat), mfind n s.ms.delayed = some d ∧ d.until_ < s.gtime ∧ d.msg = k ∧ mfind k s.ms.regs = some r ∧ regBehind s k r = false
        ∧ hostHas s.ms (lineOf r.word) = false ∧ leased s r.word = false)
    ∧ (∃ c, combWord { (tRegs tOwned).ms with regs := mdel 3 (tRegs tOwned).ms.regs, delayed := mdel 3 (tRegs tOwned).ms.delayed } 0 0x20000 = some c ∧ c.owned = true ∧ c.pend = none)
    ∧ (∃ (s : State) (n : Nat) (d : Delayed) (r : Reg), mfind n s.ms.delayed = some d ∧ d.msg = 3 ∧ d.region = r.word / 64 ∧ s.gtime ≤ d.until_ ∧ mfind 3 s.ms.regs = some r
        ∧ regBehind s 3 r = false ∧ hostHas s.ms (lineOf r.word) = false ∧ leased s r.word = true)
    ∧ (∀ m ∈ [2, 4], (probed (tEcho m) 0 (homeSlice 0x100000)).any (fun r => sliceBusy (tEcho m) 0 (homeSlice 0x100000) r.at_ r.id == decide (m = 4)) = true)
    ∧ (∃ (s : State) (u : UWrite) (m a : Nat), mfind 4 s.ms.uwrites = some u ∧ u.sent = true ∧ writeBehind s 4 u = false ∧ placeOfPa s (ctxOf s u.ctx).part u.pa = some (.remote m a))
    ∧ (∃ (s : State) (a : AmoReq) (pa : Nat), mfind 4 s.ms.amos = some a ∧ a.sent = true ∧ placeOfPa s (ctxOf s a.ctx).part a.pa = some (.home pa) ∧ amoBehind s 4 a pa = false) :=
  ⟨by intro f hf; simp only [List.mem_cons, List.not_mem_nil, or_false] at hf; rcases hf with rfl | rfl | rfl | rfl <;> exact ⟨rfl, by decide +kernel, rfl⟩,
   by decide +kernel, by decide +kernel, by decide +kernel,
   ⟨tRegs (fun m => { m with delayed := [(6, { region := 0x20000 / 64, until_ := 4999999, msg := 3 })] }), 6, _, tReg, 3, rfl, by decide, rfl, rfl, by decide +kernel, by decide +kernel, by decide +kernel⟩,
   ⟨_, rfl, rfl, rfl⟩, ⟨tRegs (fun m => { tLeased m with delayed := [(6, { region := 0x20000 / 64, until_ := 5002000, msg := 3 })] }), 6, _, tReg, rfl, rfl, rfl, by decide, rfl, by decide +kernel, by decide +kernel, by decide +kernel⟩,
   by decide +kernel,
   ⟨tRegs (fun m => { m with uwrites := [(4, tUWrite)] }), tUWrite, 1, _, rfl, rfl, by decide +kernel, rfl⟩,
   ⟨tRegs (fun m => { m with amos := [(4, tAmo)], regs := [] }), tAmo, _, rfl, rfl, rfl, by decide +kernel⟩⟩

/-- R143, R228, R229: the owner recorded, an atomic's old value in its register and its new one at home, and the signed and unsigned orders. -/
theorem test_writes :
    mfind 0x20000 (tNext (exec (.registration 3) (tRegs tOwned))).ms.owners = some (.comb 0)
    ∧ (let s := tNext (exec (.amoAtHome 4) (modCtx (tRegs (fun m => { m with amos := [(4, tAmo)], regs := [], mem := memWrite m.mem 0x100000 8 37 })) 0 (fun x => { x with regs := [(3, .reply 4 0x10000)] })))
       ((coherentWord s.ms 0x20000).1, mget (.s 0) 3 (ctxOf s 0).regs)) = (42, .s 37)
    ∧ atomicApply (.amo .min .w 0 1 .none) 0x80000000 = (0x80000000, 0xFFFFFFFF80000000) ∧ atomicApply (.amo .min .wu 0 1 .none) 0x80000000 = (1, 0x80000000)
    ∧ atomicApply (.cas .w 0 0x80000000 7 .none) 0x80000000 = (7, 0x80000000) := by decide +kernel

/-- A WATCH for 5 on a doubleword of a page of the given mode. -/
def tWatch (mode : Nat) : LoadReq := tLoadReq (.watch .eq .d 5) { tPiece with mode := mode } []
def tWatching (mode : Nat) (f : MemSys → MemSys) : State := let s := tWaiting (tWatch mode); { s with ms := f s.ms }

/-- What is common to the clauses of a WATCH at its home. -/
def tWatchOk (s : State) (r : LoadReq) : Bool :=
  r.armed.isNone && !loadWaits s r && decide (r.due ≤ s.cycles) && r.pieces.all (fun p => (ownWord s r p).isNone && isLocal p.pa && !readBusy s (p.pa / 8)
    && (overlay s r.ctx (ctxOf s r.ctx) (earlierStores (ctxOf s r.ctx) r.tag r.lsid) p 0).2 == 0)

/-- A copy of context 0 from page 1 to page 1 with its lanes, and whether its plan waits or faults. -/
def tCopy (mode : CopyMode) (l : List Nat) (chunk : Nat) : CopyReq :=
  { who := .ctx 0, part := 0, comb := 0, mode := mode, desc := tLanes l, sent := true, chunk := chunk, started := false, fault := 0, finished := false, scrOff := 0, scrSize := 4096, net := none }
def tCopying (q : CopyReq) (f : MemSys → MemSys) : State := { tPaged none none with issue := none, ms := f { (tPaged none none).ms with copies := [(2, q)] }, seq := 8 }
def tCopyIs (q : CopyReq) : Bool × Bool × Nat := (badDesc (partOf (tCopying q id) 0) q.mode (descOf q), emptyCopy q.mode (descOf q), chunkCount (cutBits (partOf (tCopying q id) 0) q (descOf q)) q.mode (descOf q))

def tWalk (n : Nat) : Walk := { ctx := some 0, kind := .clean, ranges := [], at_ := n, pkt := none }

/-- A gang of two whose member 0 arrives on channel 1 or waits there. -/
def tGang (here : List Nat) : State :=
  let s := tPaged none none
  { s with
    issue := none
    arrivals := [(7, { launch := 0, rank := 0, ctx := 0, ch := 1, due := 0 })]
    launches := s.launches.map (fun p => (p.1, { p.2 with x := 2, channels := [(1, { phase := 4, arrived := here })] })) }

/-- The hypotheses of WatchesWalksCopiesAndBarriersGoOn for a watch: poisoned, met, sealed, with its table full and not, armed and its time run out; a walk. -/
theorem test_meets_watches :
    (∀ m ∈ [0, 1], tWatchOk (tWatching m id) (tWatch m) = true ∧ watchValue (tWatching m id) (tWatch m) { tPiece with mode := m } = (0, false)) ∧ watchHolds .eq .d 0 5 = false
    ∧ (watchValue (tWatching 0 (fun m => { m with mem := memWrite m.mem 0x100000 8 5 })) (tWatch 0) tPiece = (5, false) ∧ watchHolds .eq .d 5 5 = true)
    ∧ (watchValue (tWatching 0 (fun m => { m with poison := [0x20000] })) (tWatch 0) tPiece).2 = true
    ∧ (256 ≤ ((tWatching 0 (fun m => { m with watches := (upTo 256).map (fun k => (k, ⟨9, homeSlice 0x100000, 0, 0⟩)) })).ms.watches.filter (fun w => w.2.slice == watchTable (tWatching 0 id) (tWatch 0) tPiece)).length)
    ∧ (∃ (s : State) (k : Nat) (e : Watch), mfind k s.ms.watches = some e ∧ e.req = 0 ∧ e.since + 1000000 ≤ s.gtime) ∧ (∃ (s : State) (k : Nat) (e : Watch), mfind k s.ms.watches = some e ∧ e.req = 0 ∧ s.gtime < e.since + 1000000)
    ∧ (∀ n ∈ [0, 254, 255], mfind 2 (tRegs (fun m => { m with walks := [(2, tWalk n)] })).ms.walks = some (tWalk n) ∧ walkReady (tRegs (fun m => { m with walks := [(2, tWalk n)] })) 2 (tWalk n) = true)
    ∧ ∃ (s : State) (k : Walk), mfind 6 s.ms.walks = some k ∧ walkReady s 6 k = false :=
  ⟨by decide +kernel, by decide +kernel, by decide +kernel, by decide +kernel, by decide +kernel,
   ⟨tWatching 0 (fun m => { m with watches := [(1, ⟨0, 0, 0, 4000000⟩)] }), 1, _, rfl, rfl, by decide⟩, ⟨tWatching 0 (fun m => { m with watches := [(1, ⟨0, 0, 0, 4000001⟩)] }), 1, _, rfl, rfl, by decide⟩,
   by decide +kernel, ⟨tRegs (fun m => tOwned { m with walks := [(6, { tWalk 0 with ranges := [(0x20000, 0x20008)], at_ := combSet 0 (0x20000 / 64) % 64 })] }), _, rfl, by decide +kernel⟩⟩

/-- The hypotheses of WatchesWalksCopiesAndBarriersGoOn for copies: bad and empty descriptors, a destination line that the host holds, a fault, one chunk, two, and three. -/
theorem test_meets_copy_chunks :
    (∀ l ∈ [[0x10000, 0, 0x10100, 0, 8], [0x70000, 0, 0x10100, 0, 8]], tCopyIs (tCopy .lin l 0) = (false, false, 1)) ∧ (tCopyIs (tCopy .lin [0x10000, 0, 0x10100, 0, 0] 0)).2.1 = true
    ∧ (tCopyIs (tCopy .fill [0x10000, 0, 0x10100, 0, 8, 1, 1] 0)).1 = true ∧ (tCopyIs (tCopy .lin [0x10000, 0, 0x10100, 0, 0x40000] 0)).2.2 = 4
    ∧ (∃ q : CopyReq, chunkCount (cutBits (partOf (tCopying q id) 0) q (descOf q)) q.mode (descOf q) = q.chunk + 2)
    ∧ (let q := tCopy .lin [0x10000, 0, 0x10100, 0, 8] 0
       copyBehind (tCopying q id) 2 q = false ∧ (chunkPlan (tCopying q tHost2) q (descOf q) 0).wait = true ∧ (chunkPlan (tCopying q id) q (descOf q) 0).wait = false ∧ (chunkPlan (tCopying q id) q (descOf q) 0).err = none)
    ∧ (let q := tCopy .lin [0x70000, 0, 0x10100, 0, 8] 0
       (chunkPlan (tCopying q id) q (descOf q) 0).wait = false ∧ (chunkPlan (tCopying q id) q (descOf q) 0).err ≠ none) := by
  refine ⟨by decide +kernel, by decide +kernel, by decide +kernel, by decide +kernel, ⟨tCopy .lin [0x10000, 0, 0x10100, 0, 0x40000] 2, by decide +kernel⟩, by decide +kernel, by decide +kernel⟩

/-- The hypotheses of WatchesWalksCopiesAndBarriersGoOn for barriers and for requests without a reply. -/
theorem test_meets_barriers :
    (∃ a l, mfind 7 (tGang []).arrivals = some a ∧ a.due ≤ (tGang []).cycles ∧ mfind a.launch (tGang []).launches = some l ∧ l.x * l.y * l.z = 2 ∧ 1 ∉ sinsert a.rank (mget {} a.ch l.channels : Channel).arrived)
    ∧ (∃ a l, mfind 7 (tGang [1]).arrivals = some a ∧ mfind a.launch (tGang [1]).launches = some l ∧ ∀ r, r < l.x * l.y * l.z → r ∈ sinsert a.rank (mget {} a.ch l.channels : Channel).arrived ∨ r ∈ l.departed)
    ∧ (∃ (s : State) (w : BarWait), (ctxOf s 0).phase = .barrier ∧ timedOut s (ctxOf s 0) = some w)
    ∧ (∃ (s : State) (r : LoadReq) (p : LPiece), mfind 0 s.ms.loads = some r ∧ farWord s r = some p ∧ r.asked = some 0 ∧ 0 + 2000000 ≤ s.gtime ∧ loadWaits s r = false)
    ∧ (∃ (s : State) (a : AmoReq), mfind 4 s.ms.loads = none ∧ mfind 4 s.ms.amos = some a ∧ a.sent = true ∧ a.since + 2000000 ≤ s.gtime ∧ isFar (homeOf a.ctx) a.pa = true)
    ∧ (∃ (s : State) (u : UWrite), mfind 4 s.ms.loads = none ∧ mfind 4 s.ms.amos = none ∧ mfind 4 s.ms.uwrites = some u ∧ u.sent = true ∧ u.since + 2000000 ≤ s.gtime ∧ isFar (homeOf u.ctx) u.pa = true)
    ∧ (∃ (s : State) (r : Reg), mfind 3 s.ms.loads = none ∧ mfind 3 s.ms.amos = none ∧ mfind 3 s.ms.uwrites = none ∧ mfind 3 s.ms.regs = some r ∧ r.since + 2000000 ≤ s.gtime ∧ isFar r.comb (8 * r.word) = true)
    ∧ (let q := { tCopy .lin [0x10000, 0, 0x10100, 0, 8] 0 with comb := 128, asked := some 0 }
       let s := { tCopying q tHost2 with gtime := 2000000 }
       mfind 2 s.ms.copies = some q ∧ q.sent = true ∧ q.finished = false ∧ copyBehind s 2 q = false ∧ copyFar s q = some 0x10100 ∧ s.ms.loads = [] ∧ s.ms.amos = [] ∧ s.ms.uwrites = [] ∧ s.ms.regs = []) :=
  ⟨⟨_, _, rfl, by decide +kernel, rfl, by decide +kernel, by decide +kernel⟩, ⟨_, _, rfl, rfl, by decide +kernel⟩,
   ⟨modCtx State.reset 0 (fun x => { x with phase := .barrier, barWait := [{ ch := 1, phase := 4, left := some 0 }] }), _, rfl, rfl⟩,
   ⟨tWaiting { tLoadReq (.scalar 8 false false) { tPiece with pa := 0x8000000000000, mode := 3 } [] with asked := some 0 }, _, _, rfl, rfl, rfl, by decide, by decide +kernel⟩,
   ⟨tRegs (fun m => { m with amos := [(4, { tAmo with pa := 0x8000000000000 })] }), _, rfl, rfl, rfl, by decide, by decide +kernel⟩,
   ⟨tRegs (fun m => { m with uwrites := [(4, tUWrite)] }), _, rfl, rfl, rfl, rfl, by decide, by decide +kernel⟩,
   ⟨tRegs (fun m => { m with regs := [(3, { tReg with comb := 128 })] }), _, rfl, rfl, rfl, rfl, by decide, by decide +kernel⟩, by decide +kernel⟩

/-- R230, R231, R244, R252, R254: a met WATCH's token, one on a sealed page, a copied doubleword, a released phase. -/
theorem test_watches :
    (List.range 3).map (tLane (tOut (exec (.loadReply 0) (tWatching 0 (fun m => { m with mem := memWrite m.mem 0x100000 8 5 }))))) = [some 5, some 0, some 0]
    ∧ (List.range 3).map (tLane (tOut (exec (.loadReply 0) (tWatching 1 id)))) = [some 0, some 0, some 2]
    ∧ (coherentWord (tNext (exec (.copyChunk 2) (tCopying (tCopy .lin [0x10000, 0, 0x10100, 0, 8] 0) (fun m => { m with mem := memWrite m.mem 0x100000 8 77 })))).ms 0x20020).1 = 77
    ∧ (mget {} 1 (launchOf (tNext (exec (.barrierArrival 7) (tGang [1]))) 0).channels : Channel) = { phase := 5, arrived := [] }
    ∧ (mget {} 1 (launchOf (tNext (exec (.barrierArrival 7) (tGang []))) 0).channels : Channel) = { phase := 4, arrived := [0] } := by decide +kernel


/-! ## Commit points -/

/-- The paged state with nothing issued, its memory system and context 0 as given. -/
def tCommit (f : MemSys → MemSys) (g : Ctx → Ctx) : State := modCtx { tPaged none none with issue := none, seq := 8, ms := f (tPaged none none).ms } 0 g

def tStored1 (k : StKind) (va : Nat) : StoreRec := tRec (.data k [⟨va, 8, 0x77⟩])

/-- The state that a record's effect at the commit point leaves. -/
def tPerform (s : State) (op : StoreOp) : State := (performStore s 0 tB 0 (tRec op)).getD State.reset

/-- A fence of context 0 in progress. -/
def tFenced (eng : Bool) (x : Ctx) : Ctx := { x with releases := [{ id := 2, fence := true, eng := eng }] }

/-- The mode, place and length of a stored piece. -/
def tLp (s : State) (va : Nat) : Option (Nat × Bool × Bool × Nat × Nat) :=
  (transPiece s 0 (ctxOf s 0) 0 .wr (storePlain (storeInstr tB (tStored1 .plain va))) va 8 0).toOption.map (fun p => (p.mode, p.scratch, isLocal p.pa, p.pa, p.n))

/-- Context 0 with three blocks, of which the second has read the doubleword at 0x100000. -/
def tReader : State :=
  modCtx (tMap tThree) 0 (fun x => { x with blocks := x.blocks.map (fun b => if b.tag = 1 then { b with loads := [(0, { idx := 0, ranges := [(0x100000, 8)], acq := false, finished := true })] } else b) })

/-- The hypotheses of StoresAndScattersRecordTheirBytes at the commit point: a block that has read the stored bytes, whose neighbours have not; a
piece of scratch at its end; a word of local memory whose copy the comb owns, one for a stream, uncached ones, each with no fence and after one. -/
theorem test_meets_store_commits :
    (∃ b young l, (ctxOf tReader 0).blocks = [tB] ++ b :: young ∧ b.loads = [l] ∧ l.2.finished = true ∧ laterThan (ctxOf tReader 0) 0 1 b.tag l.1 = true ∧ l.2.ranges = [(0x100000, 8)]
        ∧ tB.loads = [] ∧ tB.tag ≠ b.tag)
    ∧ byteKey (tCommit id id) 0 (ctxOf (tCommit id id) 0) 0 0x10000 = 0x100000
    ∧ (∀ q ∈ [(⟨Config.scratchBase, 8, 1⟩ : Piece), ⟨Config.scratchBase + 4095, 1, 2⟩], inScratch q.va = true ∧ 1 ≤ q.n ∧ q.va % 8 + q.n ≤ 8 ∧ q.va + q.n ≤ Config.scratchBase + (ctxOf (tCommit id id) 0).scrSize)
    ∧ MemoryCanonical (tCommit id id)
    ∧ (tLp (tCommit id id) 0x10000 = some (0, false, true, 0x100000, 8) ∧ tlbHit (tCommit id id) 0 0 0x10000 = true ∧ (ctxOf (tCommit id id) 0).releases = []
        ∧ membersOf 0 (ctxOf (tCommit id id) 0).k = [0] ∧ combWord (tCommit id id).ms 0 0x20000 = none ∧ (performStore (tCommit id id) 0 tB 0 (tStored1 .plain 0x10000)).isSome = true)
    ∧ (∃ old, combWord (tCommit tOwned id).ms 0 0x20000 = some old ∧ old.owned = true ∧ old.pend = none
        ∧ ∀ sp ∈ mget [] (combSet 0 (0x20000 / 64)) (tCommit tOwned id).ms.caches, sp.sver = 0 ∧ sp.lease = 0)
    ∧ (tLp (tCommit id id) 0x80000 = some (3, false, true, 0x100000, 8) ∧ lastFence (ctxOf (tCommit id id) 0) = none ∧ lastFence (ctxOf (tCommit id (tFenced false)) 0) = some 2)
    ∧ (performStore (tCommit id (tFenced false)) 0 tB 0 (tStored1 .rel 0x10000)).isSome = true :=
  ⟨⟨_, _, _, rfl, rfl, rfl, by decide +kernel, rfl, rfl, by decide +kernel⟩, by decide +kernel, by decide +kernel, (by decide +kernel : Memory.wf tMem = true),
   by decide +kernel, ⟨_, rfl, rfl, rfl, by decide +kernel⟩, by decide +kernel, by decide +kernel⟩

/-- R102, R127, R139, R143, R146: the reader's block and the one younger discarded, the bytes in scratch, in the cache, in a stream and behind a fence. -/
theorem test_store_commits :
    (ctxOf (orderCheck tReader 0 0 0 0 [⟨0x10004, 1, 0⟩]) 0).blocks.map (·.tag) = [0] ∧ (ctxOf (orderCheck tReader 0 0 0 0 [⟨0x10008, 1, 0⟩]) 0).blocks.map (·.tag) = [0, 1, 2]
    ∧ (let s := tPerform (tCommit id id) (.data .plain [⟨Config.scratchBase + 8, 8, 0x77⟩]); memGet s.ms.mem (scratchPa (ctxOf s 0) 0 + 8) = 0x77)
    ∧ (combWord (tPerform (tCommit tOwned id) (.data .plain [⟨0x10001, 1, 0x77⟩])).ms 0 0x20000).map (fun w => (w.data, w.owned, w.pend)) = some (0x7709, true, none)
    ∧ ((combWord (tPerform (tCommit id (tFenced false)) (.data .plain [⟨0x10000, 8, 0x77⟩])).ms 0 0x20000).bind (·.pend)).isSome = true
    ∧ (let s := tPerform (tCommit id id) (.data .stream [⟨0x10000, 8, 0x77⟩]); (s.ms.regs.map (fun r => (r.1, r.2.word, r.2.data == some (0x77, 0xFF, false))), (combWord s.ms 0 0x20000).isSome)) = ([(8, 0x20000, true)], false)
    ∧ (tPerform (tCommit id id) (.data .plain [⟨0x80000, 8, 0x77⟩])).ms.uwrites.map (fun u => (u.1, u.2.pa, u.2.sent)) = [(8, 0x100000, true)]
    ∧ (tPerform (tCommit id (tFenced false)) (.data .plain [⟨0x80000, 8, 0x77⟩])).ms.uwrites.map (fun u => (u.1, u.2.pa, u.2.sent)) = [(8, 0x100000, false)] := by decide +kernel

/-- The hypotheses of AtomicsAreRecordedWithTheirOperands at the commit point: a doubleword of scratch and one of memory, with no fence and after one. -/
theorem test_meets_atomic_commits :
    (inScratch 0x007FFF0000000FF8 = true ∧ 0x007FFF0000000FF8 + 8 ≤ Config.scratchBase + (ctxOf (tCommit id id) 0).scrSize)
    ∧ (∀ g ∈ [id, tFenced false], (transPiece (tCommit id g) 0 (ctxOf (tCommit id g) 0) 0 .rw .other 0x10000 8 0).toOption.map (·.scratch) = some false)
    ∧ MemoryCanonical (tCommit id id) :=
  ⟨by decide +kernel, by intro g hg; simp only [List.mem_cons, List.not_mem_nil, or_false] at hg; rcases hg with rfl | rfl <;> decide +kernel, (by decide +kernel : Memory.wf tMem = true)⟩

/-- R146, R216, R228: an addition in scratch, one sent to its home, one behind a fence. -/
theorem test_atomic_commits :
    (let s := tPerform (tCommit id id) (.amo .add .d 0x007FFF0000000FF8 5 (.reg 3)); (memGet s.ms.mem (scratchPa (ctxOf s 0) 0 + 0xFF8), mget (.s 1) 3 (ctxOf s 0).regs)) = (5, .s 0)
    ∧ (let s := tPerform (tCommit id id) (.amo .add .d 0x10000 5 (.reg 3)); (s.ms.amos.map (fun a => (a.1, a.2.pa, a.2.sent)), mget (.s 1) 3 (ctxOf s 0).regs)) = ([(8, 0x100000, true)], .reply 8 0x10000)
    ∧ (tPerform (tCommit id (tFenced false)) (.amo .add .d 0x10000 5 .none)).ms.amos.map (fun a => (a.1, a.2.sent)) = [(8, false)] := by decide +kernel

/-- Comb 0's copy of the word, clean, and a block image beside it. -/
def tClean (m : MemSys) : MemSys :=
  { m with caches := [(combSet 0 (0x20000 / 64), [{ region := 0x20000 / 64, s := 0, words := [{ data := 9, valid := 0xFF }] }])] }
def tImaged (s : State) : State := modComb s 0 (fun k => { k with images := [(0x10000, 0, []), (0x60000, 0, [])] })

/-- Comb 0's copy of the word, whose release gives it to its home. -/
def tHomeward (m : MemSys) : MemSys :=
  { m with caches := [(combSet 0 (0x20000 / 64), [{ region := 0x20000 / 64, s := 0, words := [{ data := 9, valid := 0xFF, owned := true, home := true, pend := some 2 }] }])] }

/-- The hypotheses of FencesAndRangeInstructionsAreRecorded at the commit point: a range of one page and in scratch, a claimed word, and words that their releases let go. -/
theorem test_meets_fence_commits :
    (0x10000 % 65536 + 64 ≤ 65536 ∧ (transPiece (tCommit id id) 0 (ctxOf (tCommit id id) 0) 0 .rd .other 0x10000 64 0).isOk = true)
    ∧ (rangeWords (tCommit id id) 0 (ctxOf (tCommit id id) 0) 0 .wr 0x10000 8 = [(0x20000, 0x20001, 0)] ∧ isLocal (8 * 0x20000) = true ∧ (performStore (tCommit id id) 0 tB 0 (tRec (.claim 0x10000 8))).isSome = true)
    ∧ (inScratch (0x007FFF0000000000 : W64).toNat = true ∧ inScratch ((0x007FFF0000000000 : W64).toNat + 8 - 1) = true ∧ inScratch (0x10000 : W64).toNat = false)
    ∧ (∃ g w, g ∈ rangeWords (tCommit tClean id) 0 (ctxOf (tCommit tClean id) 0) 0 .rd 0x10000 64 ∧ g.1 ≤ w ∧ w < g.2.1 ∧ w = 0x20000)
    ∧ (∃ cw, combWord (tCommit tOwned id).ms 0 0x20000 = some cw ∧ cw.owned = true ∧ cw.home = false ∧ needsReg (tCommit tOwned id).ms 0 0 0x20000 = true)
    ∧ ∃ cw, combWord (tCommit tHomeward id).ms 0 0x20000 = some cw ∧ cw.owned = true ∧ cw.home = true :=
  ⟨by decide +kernel, by decide +kernel, by decide +kernel, ⟨_, 0x20000, List.mem_singleton.mpr rfl, by decide +kernel, by decide +kernel, rfl⟩, ⟨_, rfl, rfl, rfl, by decide +kernel⟩, ⟨_, rfl, rfl, rfl⟩⟩

/-- R146, R153, R232 to R237: a release begun, a walk of the range's words, images and clean words gone, a claimed word owned, a word let go registered. -/
theorem test_fence_commits :
    (ctxOf (tPerform (tCommit id id) (.fence .eng)) 0).releases = [{ id := 8, fence := true, eng := true }] ∧ (ctxOf (tPerform (tCommit id id) (.fence .acq)) 0).releases = []
    ∧ (tPerform (tCommit id id) (.flushr .clean 0x10000 64)).ms.walks.map (fun w => w.2.ranges) = [[(0x20000, 0x20008)]]
    ∧ (let s := tPerform (tImaged (tCommit tClean id)) (.isync 0x10000 64); ((mget {} 0 s.combs : Comb).images.map (·.1), combWord s.ms 0 0x20000)) = ([0x60000], none)
    ∧ (mget {} 0 (tPerform (tImaged (tCommit id id)) (.fence .code)).combs : Comb).images = [] ∧ (combWord (tPerform (tCommit id id) (.claim 0x10000 8)).ms 0 0x20000).map (·.owned) = some true
    ∧ (unpend (tCommit tOwned id) 0 0 0x20000).ms.regs.map (fun r => (r.1, r.2.word, r.2.data)) = [(8, 0x20000, none)] := by decide +kernel

/-- The hypotheses of CopiesChildrenAndBarriersAreRecorded at the commit point: a FIFO with room and without, a fence that holds a COPY back and none, a task. -/
theorem test_meets_copy_commits :
    (Config.fifoEntries ≤ (ctxOf (tCommit id (fun x => { x with fifo := List.range 8 })) 0).fifo.length + 0 ∧ (ctxOf (tCommit id id) 0).fifo.length + 0 < Config.fifoEntries)
    ∧ (lastCopyFence (ctxOf (tCommit id id) 0) = none ∧ lastCopyFence (ctxOf (tCommit id (tFenced true)) 0) = some 2) ∧ (ctxOf (tCommit id id) 0).task.isSome = true := by decide +kernel

/-- R43, R243, R245, R249, R255: a TRY with no entry free, a request held behind an eng fence, a batch number, a child's identifier and place, a timed BAR. -/
theorem test_copy_commits :
    (let s := tPerform (tCommit id (fun x => { x with fifo := List.range 8 })) (.copy true .lin 0 (.reg 3)); (mget (.s 9) 3 (ctxOf s 0).regs, s.ms.copies.length)) = (.s 1, 0)
    ∧ (let s := tPerform (tCommit id (tFenced true)) (.copy true .lin 0 (.reg 3)); (mget (.s 9) 3 (ctxOf s 0).regs, s.ms.copies.map (fun q => (q.1, q.2.sent)))) = (.s 0, [(8, false)])
    ∧ (let x := ctxOf (tPerform (tCommit id (fun x => { x with unsealed := [4] })) (.batch (.reg 3))) 0; (mget (.s 9) 3 x.regs, x.unsealed, x.batches.map (·.reqs))) = (.s 1, [], [[4]])
    ∧ (let x := ctxOf (tPerform (tCommit id id) (.fork 0 0x40 (.reg 3))) 0; (mget (.s 9) 3 x.regs, x.releases.map (fun r => r.held.length))) = (.s 0x10000000000, [1])
    ∧ (let x := ctxOf (tPerform (tCommit id id) (.bar 5 .tmd 100)) 0; (x.barWait, x.arrived, x.releases.map (·.held))) = ([{ ch := 5, phase := 0, left := some 100 }], [5], [[.arrive 5]]) := by decide +kernel

/-- A doubleword's load of LSID 1 whose word has come as 0x0807060504030201, behind a store of LSID 0 in its block that has fired or not, under an ordering mode. -/
def tLater (got : SMap (W64 × Bool)) : LoadReq := { tLoadReq (.scalar 8 false false) tPiece got with lsid := 1 }
def tBehind (fired om : Bool) : State :=
  let i : Instr := .st .always 0 .b .predict 0
  modCtx (tWaiting (tLater [(0x20000, (0x0807060504030201, false))])) 0 (fun x => { x with
    blocks := x.blocks.map (fun b => { b with words := (tTb i).words, nodes := [], om := om, stores := if fired then [(0, tRec (.data .plain [⟨0x10002, 1, 0x77⟩]))] else [] }) })
def tGot : LoadReq := tLater [(0x20000, (0x0807060504030201, false))]

/-- The hypotheses of LoadsReadTheirWordsAndDeliverThem for a load's bytes and waits: bytes that an earlier store gives and not, a poisoned word, pieces apart, each place of a word;
a store that has resolved and not, with OM = 0 and OM = 1, and an uncached piece. -/
theorem test_meets_load_bytes :
    (let s := tBehind true false; let x := ctxOf s 0; let rs := earlierStores x 0 1
     (List.range 4).map (fun k => forwardedByte s 0 x rs (0x100000 + k)) = [none, none, some 0x77, none])
    ∧ (let s := tBehind false false; loadWord s tGot (ctxOf s 0) tPiece = .have_ 0x0807060504030201 false ∧ loadWord s { tGot with got := [(0x20000, (5, true))] } (ctxOf s 0) tPiece = .have_ 5 true)
    ∧ (tGot.pieces.all (fun lp => decide (lp.pa % 8 + lp.n ≤ 8) && decide (lp.va + lp.n ≤ 2 ^ 64)) = true ∧ ({ tPiece with n := 4 } : LPiece).pos + 4 ≤ ({ tPiece with pos := 4, n := 4 } : LPiece).pos)
    ∧ (tPiece.scratch = false ∧ tPiece.mode ≠ 3 ∧ tPiece.pa % 8 + tPiece.n ≤ 8 ∧ (∀ m ∈ membersOf 0 1, combWord (tBehind true false).ms m 0x20000 = none))
    ∧ (∃ c, combWord (tRegs tOwned).ms 0 0x20000 = some c ∧ c.owned = true ∧ c.pend = none ∧ c.valid = 0xFF)
    ∧ (∃ c k, combWord (tCommit tHomeward id).ms 0 0x20000 = some c ∧ c.owned = true ∧ c.pend = some k ∧ ∀ q ∈ (ctxOf (tCommit tHomeward id) 0).releases, q.id ≠ k)
    ∧ (∃ b, blockOf (ctxOf (tBehind false true) 0) 0 = some b ∧ b.om = true ∧ instrAt b.words 0 = some (.st .always 0 .b .predict 0) ∧ storeLsid (.st .always 0 .b .predict 0) = some 0 ∧ b.stores = []
        ∧ (nodeOf b 0).st = .waiting)
    ∧ (∃ b, blockOf (ctxOf (tBehind false false) 0) 0 = some b ∧ b.om = false ∧ acquirePending (ctxOf (tBehind false false) 0) b 1 = false
        ∧ (let s := tBehind false false; let x := ctxOf s 0
           atomicAhead s 0 x (earlierStores x 0 1) tPiece = false ∧ writeAhead s 0 tPiece = false ∧ earlierLoad s x tGot tPiece = false)) :=
  ⟨by decide +kernel, by decide +kernel, by decide +kernel, by decide +kernel, ⟨_, rfl, rfl, rfl, rfl⟩, ⟨_, _, rfl, rfl, rfl, by decide +kernel⟩, ⟨_, rfl, rfl, rfl, rfl, rfl, rfl⟩,
   ⟨_, rfl, rfl, by decide +kernel, by decide +kernel⟩⟩

/-- R101, R103: a load takes the store's byte and the rest of its word; with OM = 1 it waits for a store that has not resolved. -/
theorem test_load_bytes :
    loadData (tBehind true false) tGot = some (0x0807060504770201, none) ∧ loadWaits (tBehind false true) tGot = true ∧ loadWaits (tBehind true true) tGot = false ∧ loadWaits (tBehind false false) tGot = false := by decide +kernel


/-! ## Queues and packets -/

/-- Partition 0 with queue 0 bound to thread 0, one packet at address 0x10000 admitted by its doorbell; its words are
in their home slice's cache. -/
def tPack (ws : List Nat) (f : Partition → Partition) : State :=
  let s := tPaged none none
  modPart { s with issue := none, seq := 8, gtime := 20000000, ms := { s.ms with hives := [(hiveSet 0x800, [{ region := 0x800, s := 0, words := ws.map (fun v => { data := BitVec.ofNat 64 v, valid := 0xFF }) }])] } } 0
    (fun p => f { p with qpriv := 1, queues := [(0, { base := 0x10000, en := true, wr := 1, thread := some 0 })] })

/-- The first eight words. -/
def tWords (ws : List Nat) : List W64 := (ws.take 8).map (BitVec.ofNat 64)

/-- Whether the packet's bytes are read as these words. -/
def tRead (ws : List Nat) (f : Partition → Partition) : Bool := match devWords (tPack ws f) 0 (nextSlot (tPack ws f) 0 0) 8 with | .ok l => l == tWords ws | _ => false

/-- Whether the packet is its queue's next. -/
def tIsNext (ws : List Nat) (f : Partition → Partition) : Bool :=
  mayStart (tPack ws f) 0 0 && (readWaits (tPack ws f) 0 (nextMsg (tPack ws f) 0 0) [(nextSlot (tPack ws f) 0 0, 64)]).isNone && tRead ws f && startNow (tPack ws f) 0 0 (tWords ws)

/-- Whether it need not wait for a home word. -/
def tFree (ws : List Nat) (f : Partition → Partition) : Bool :=
  let s := packetRead (tPack ws f) 0 0
  (readWaits s 0 (nextMsg (tPack ws f) 0 0) (packetReads s 0 (tWords ws))).isNone && (waitHomes s 0 (nextMsg (tPack ws f) 0 0) (storeAddrs (tWords ws))).isNone

def tStarts (ws : List Nat) (f : Partition → Partition) : Bool :=
  tIsNext ws f && pkHeadOk (tWords ws) && pkBodyOk (tWords ws) && tFree ws f
    && (!(decide (5 ≤ pkType (tWords ws)) && decide (pkType (tWords ws) ≤ 10)) || (partOf (tPack ws f) 0).qpriv.getLsbD 0)

theorem test_is_next (ws : List Nat) (f : Partition → Partition) (h : tIsNext ws f = true) : NextPacket (tPack ws f) 0 0 (tWords ws) := by
  simp only [tIsNext, Bool.and_eq_true, tRead, Option.isNone_iff_eq_none] at h
  refine ⟨h.1.1.1, h.1.1.2, ?_, h.2⟩
  have h := h.1.2
  split at h
  · next l e => rw [e, beq_iff_eq.mp h]
  · exact absurd h (by simp)

theorem test_free (ws : List Nat) (f : Partition → Partition) (h : tFree ws f = true) : PacketFree (tPack ws f) 0 0 (tWords ws) := by
  simp only [tFree, Bool.and_eq_true, Option.isNone_iff_eq_none] at h
  exact fun _ => h

theorem test_starts (ws : List Nat) (f : Partition → Partition) (h : tStarts ws f = true) : PacketStarts (tPack ws f) 0 0 (pkType (tWords ws)) (tWords ws) := by
  simp only [tStarts, Bool.and_eq_true] at h
  obtain ⟨⟨⟨⟨a, b⟩, c⟩, d⟩, e⟩ := h
  refine ⟨test_is_next ws f a, rfl, b, c, fun g => ?_, test_free ws f d⟩
  rw [decide_eq_true g.1, decide_eq_true g.2.1, g.2.2] at e
  exact absurd e (by decide)

/-- A SIGNAL of 5 at 0x10200. -/
def tSignal : List Nat := [3, 0x10200, 5, 0, 0, 0, 0, 0]

/-- A packet that has started and stands with a status or with its wait. -/
def tPkt (ws : List Nat) (st w : Option Nat) (eff : Bool) (note : Nat) : Packet := { idx := 0, words := tWords ws, status := st, effect := eff, wait := w, note := note, slot := 0x10000 }
def tOpen (k : Packet) (blocked : Bool) (p : Partition) : Partition := { p with queues := p.queues.map (fun q => (q.1, { q.2 with start := 1, pkts := [(0, k)], blocked := blocked })) }

theorem test_some {α : Type} {x : Option α} (q : α → Bool) (h : x.any q = true) : ∃ a, x = some a ∧ q a = true := by
  cases x with
  | none => exact absurd h (by simp)
  | some a => exact ⟨a, rfl, by simpa using h⟩

def tQueues (f : Queue → Queue) (p : Partition) : Partition := { p with queues := p.queues.map (fun q => (q.1, f q.2)) }
def tBound (s : State) : State := { s with dies := [(0, { threads := [(0, (0, 0))] })] }

/-- The hypotheses of PacketsStartAndCompleteInOrder for packets that start: a disabled partition, an unreadable packet, one that waits for its turn, another type, one without
privilege, malformed words. -/
theorem test_meets_packets :
    ((queueOf State.reset 0 0).wr < 2 ^ 32 ∧ (queueOf State.reset 0 0).start < 2 ^ 32 ∧ mayStart State.reset 0 0 = false)
    ∧ (mayStart (tPack tSignal (tQueues (fun x => { x with base := 0x70000 }))) 0 0 = true ∧ ∃ e, devWords (tPack tSignal (tQueues (fun x => { x with base := 0x70000 }))) 0 0x70000 8 = .error e)
    ∧ (let l := [0x10003, 0x10200, 5, 0, 0, 0, 0, 0]
       let f := tQueues (fun x => { x with wr := 2, pkts := [(0, tPkt tSignal none none false 0)] })
       mayStart (tPack l f) 0 0 = true ∧ tRead l f = true ∧ startNow (tPack l f) 0 0 (tWords l) = false)
    ∧ (readWaits { tPack tSignal id with ms := { tHost (tPack tSignal id).ms with owners := [(0x20000, .host)] } } 0 0 [(0x10000, 64)]).isSome = true
    ∧ (let l := [2, 0x10100, 0, 0, 0, 0, 0, 0]
       let s := packetRead { tPack l id with ms := { tHost2 (tPack l id).ms with owners := [(0x20020, .host)] } } 0 0
       (readWaits s 0 0 (packetReads s 0 (tWords l))).isSome = true)
    ∧ (let l := [3, 0x10100, 0, 0, 0, 0, 0, 0]
       let s := packetRead { tPack l id with ms := tHost2 (tPack l id).ms } 0 0
       (readWaits s 0 0 (packetReads s 0 (tWords l))).isNone = true ∧ (waitHomes s 0 0 (storeAddrs (tWords l))).isSome = true)
    ∧ (∃ s ws, NextPacket s 0 0 ws ∧ typeOf ws ≠ 4) ∧ (∃ s ws, NextPacket s 0 0 ws ∧ typeOf ws = 6 ∧ PacketFree s 0 0 ws ∧ Denied s 0 0 ws)
    ∧ (∃ s ws, NextPacket s 0 0 ws ∧ typeOf ws = 3 ∧ ¬Denied s 0 0 ws ∧ pkHeadOk ws = false) ∧ (∃ s ws, NextPacket s 0 0 ws ∧ typeOf ws = 3 ∧ ¬Denied s 0 0 ws ∧ pkBodyOk ws = false)
    ∧ (∃ s ws, PacketStarts s 0 0 3 ws) :=
  ⟨by decide +kernel, ⟨by decide +kernel, test_error (by decide +kernel)⟩, by decide +kernel,
   by decide +kernel, by decide +kernel, by decide +kernel,
   ⟨_, _, test_is_next tSignal id (by decide +kernel), by decide +kernel⟩,
   ⟨_, _, test_is_next [6, 0, 0, 0, 0, 16, 0, 0] (fun p => { p with qpriv := 0 }) (by decide +kernel), by decide +kernel, test_free _ _ (by decide +kernel), by decide +kernel, by decide +kernel, by decide +kernel⟩,
   ⟨_, _, test_is_next [0x20003, 0x10200, 5, 0, 0, 0, 0, 0] id (by decide +kernel), by decide +kernel, fun h => absurd h.1 (by decide +kernel), by decide +kernel⟩,
   ⟨_, _, test_is_next [3, 0x10201, 5, 0, 0, 0, 0, 0] id (by decide +kernel), by decide +kernel, fun h => absurd h.1 (by decide +kernel), by decide +kernel⟩,
   ⟨_, _, test_starts tSignal id (by decide +kernel)⟩⟩

/-- A state with one packet that has started. -/
def tStood (k : Packet) (blocked : Bool) : State := tPack (tSignal ++ [2]) (tOpen k blocked)

/-- The hypotheses of PacketsStartAndCompleteInOrder for packets that end: a wait over, an effect ended whose homes must wait or not and whose header can be written or not; a signal at 0,
above and read-only; a DEPWAIT before its re-read and at it, its counter 0 and above. -/
theorem test_meets_completions :
    (∃ k, completing (tStood (tPkt [7, 0, 0, 0, 0, 0, 0, 0] none (some 4) false 0) false) 0 0 = some k ∧ (!k.effect) = true)
    ∧ (let s := { tStood (tPkt tSignal (some 1) none true 0) false with ms := tHost (tStood (tPkt tSignal (some 1) none true 0) false).ms }
       ∃ k, completing s 0 0 = some k ∧ (k.effect && (waitHomes s 0 (devMsg 0 0 0) ([k.slot, dw k.words 6, dw k.words 7].filter (· != 0))).isSome) = true)
    ∧ (let s := tStood (tPkt tSignal (some 1) none true 0) false
       (∃ k, completing s 0 0 = some k ∧ (k.effect && (waitHomes s 0 (devMsg 0 0 0) ([k.slot, dw k.words 6, dw k.words 7].filter (· != 0))).isNone && decide (k.status.getD 1 < 256)) = true)
       ∧ (∃ u, devPut s 0 0x10005 1 1 = .ok u) ∧ (∃ e, devPut s 0 0x60005 1 1 = .error e)
       ∧ (devReadIn s 0 0x60000 8).toOption = some 0 ∧ (∃ e, devAddr s 0 0x60000 .rw = .error e) ∧ (devReadIn s 0 0x10300 8).toOption = some 0 ∧ (∃ pl, devAddr s 0 0x10300 .rw = .ok pl)
       ∧ (devReadIn s 0 0x10040 8).toOption = some 2 ∧ (∃ u, devPut s 0 0x10040 8 1 = .ok u) ∧ ∃ key, counterKey s 0 0x10040 = some key ∧ true = true)
    ∧ (∀ e ∈ [(0x10300, 20000001, 0), (0x10300, 20000000, 0), (0x10040, 20000000, 2)],
        let s := tStood (tPkt [2, e.1, 0, 0, 0, 0, 0, 0] none none false e.2.1) true
        s.gtime = 20000000 ∧ (blockedWait s 0 0).any (fun k => k.note == e.2.1 && (readWaits s 0 (devMsg 0 0 0) [(dw k.words 1, 8)]).isNone && (devReadIn (seenAll s 0 [(dw k.words 1, 8)]) 0 (dw k.words 1) 8).toOption == some e.2.2) = true) :=
  ⟨test_some _ (by decide +kernel), test_some _ (by decide +kernel),
   ⟨test_some _ (by decide +kernel), test_ok (by decide +kernel), test_error (by decide +kernel), by decide +kernel, test_error (by decide +kernel), by decide +kernel, test_ok (by decide +kernel),
    by decide +kernel, test_ok (by decide +kernel), test_some (fun _ => true) (by decide +kernel)⟩, by decide +kernel⟩

/-- The hypotheses of PacketsStartAndCompleteInOrder for bindings: a queue to bind and a free thread, none, a bound queue idle and not; and a thread without progress. -/
theorem test_meets_bindings :
    (let s := tPack tSignal (tQueues (fun x => { x with thread := none })); nextToBind s 0 = some (0, 0) ∧ freeThread s 0 = some 0) ∧ nextToBind State.reset 0 = none
    ∧ (let s := tBound (tStood (tPkt tSignal (some 1) none true 0) false)
       mfind 0 (mget {} 0 s.dies : Die).threads = some (0, 0) ∧ (queueOf s 0 0).thread = some 0 ∧ unstarted (queueOf s 0 0) = false ∧ (queueOf s 0 0).blocked = false ∧ (queueOf s 0 0).idle + 100000 ≤ s.gtime)
    ∧ (let s := tBound (tPack tSignal id); mfind 0 (mget {} 0 s.dies : Die).threads = some (0, 0) ∧ (queueOf s 0 0).thread = some 0 ∧ unstarted (queueOf s 0 0) = true ∧ stuckQueues s 0 = [(0, 0)])
    ∧ stuckQueues State.reset 0 = [] := by decide +kernel

/-- Die 0 with queue 0's start recorded since its checkpoint, or not, and a blocked DEPWAIT in the queue. -/
def tJournal (l : List JournalRec) : State :=
  { tStood (tPkt [2, 0x10040, 0, 0, 0, 0, 0, 0] none (some 5) false 0) true with dies := [(0, { threads := [(0, (0, 0))], journal := l, since := l.length, marks := [{ part := 0, queue := 0, gen := 0, start := 9, thread := some 0 }] })] }

/-- The hypotheses of PacketsStartAndCompleteInOrder for replay: starts recorded since the checkpoint and none, and a DEPWAIT that stands registered. -/
theorem test_meets_replay :
    (let d : Die := mget {} 0 (tJournal [⟨0, 0, 0, 4, some 0⟩]).dies
     ((sinceCheckpoint d).filter (fun r => r.part == 0 && r.queue == 0 && r.kind == 0 && r.idx / 2 ^ 32 == 0)).getLast? = some ⟨0, 0, 0, 4, some 0⟩)
    ∧ sinceCheckpoint (mget {} 0 (tJournal []).dies : Die) = [] ∧ (∃ k ∈ (queueOf (tJournal []) 0 0).pkts, pkType k.2.words = 2 ∧ k.2.wait ≠ none ∧ k.2.effect = false ∧ k.2.written = false) :=
  ⟨by decide +kernel, by decide +kernel, ⟨_, List.mem_singleton.mpr rfl, by decide +kernel, by decide +kernel, rfl, rfl⟩⟩

/-- R302: replay gives the start index after the last start recorded, else the checkpoint's, and the DEPWAIT's registration. -/
theorem test_replay :
    (let q := replayQueue (mget {} 0 (tJournal [⟨0, 0, 0, 4, some 0⟩]).dies) 0 0 (queueOf (tJournal []) 0 0); (q.start, q.blocked)) = (5, true)
    ∧ (replayQueue (mget {} 0 (tJournal []).dies) 0 0 (queueOf (tJournal []) 0 0)).start = 9 := by decide +kernel

/-- What stands in a doubleword of page 1, and a queue's packet. -/
def tAt (s : State) (va : Nat) : Nat := match devReadIn s 0 va 8 with | .ok v => v | _ => 0
def tStatus (s : State) : Option Nat := (mfind 0 (queueOf s 0 0).pkts).bind (·.status)

/-- R293, R294, R298, R299: a signal's store, its status and DONE, a signal address counted down, a packet without privilege and a malformed one. -/
theorem test_packets :
    (let s := tNext (exec (.signal 0 0) (tPack tSignal id)); (tAt s 0x10200, tStatus s)) = (5, some 1)
    ∧ (let s := tNext (exec (.packetComplete 0 0) (tPack [3, 0x10200, 5, 0, 0, 0, 0x10208, 0, 0, 0] (tOpen (tPkt [3, 0x10200, 5, 0, 0, 0, 0x10200, 0] (some 1) none true 0) false))); tAt s 0x10000) = 2 ^ 40 + 2 ^ 15 + 3
    ∧ tAt (tNext (exec (.packetComplete 0 0) (tPack tSignal (tOpen (tPkt [3, 0x10200, 5, 0, 0, 0, 0x10010, 0] (some 1) none true 0) false)))) 0x10010 = 4
    ∧ tStatus (tNext (exec (.fwin 0 0) (tPack [6, 0, 0, 0, 0, 0, 0, 0] (fun p => { p with qpriv := 0 })))) = some 3 ∧ tStatus (tNext (exec (.signal 0 0) (tPack [3, 0x10201, 5, 0, 0, 0, 0, 0] id))) = some 2 := by decide +kernel


/-! ## The effects of packets -/

def tBegun (ws : List Nat) (f : Partition → Partition) : State := started (tPack ws f) 0 0 (tWords ws)

/-- Whether a started packet's device may read n words, and write one. -/
def tCanRead (ws : List Nat) (f : Partition → Partition) (a n : Nat) : Bool := (devWords (tBegun ws f) 0 a n).isOk
def tCanWrite (ws : List Nat) (a : Nat) : Bool := (devPut (tBegun ws id) 0 a 8 1).isOk

/-- A LAUNCH of x tasks with its header at word 16, and that header with a version and GANG or not. -/
def tLaunch (x hdr ver gang : Nat) : List Nat :=
  [1, hdr, x + 2 ^ 32, 1, 0, 0, 0, 0, 0, 0, 0, 0, 0, 0, 0, 0, 0, 64 * 2 ^ 13 + 2 ^ 20 + 2 ^ 25 + 2 ^ 37 + gang * 2 ^ 40 + ver * 2 ^ 60, 16, 0, 0, 0, 0, 0]

/-- A LAUNCH with one argument word at an address. -/
def tArgs (a : Nat) : List Nat := [1, 0x10080, 1 + 2 ^ 32, 1 + 2 ^ 32, a] ++ (tLaunch 1 0x10080 1 0).drop 5

/-- A COPYB to endpoint entry `peer`, whose word 4 and limits stand at word 16. -/
def tCopyb (net peer qp : Nat) : List Nat :=
  [4, 0x10000, 0x10100, 8, net + peer * 2 ^ 8, 0, 0, 0, 0, 0, 0, 0, 0, 0, 0, 0, 0, 0, 0, 0, qp, 0x10000, 0x1000, 0]

/-- A POLICY of n words that stand at word 16. -/
def tPolicy (n word : Nat) : List Nat := [5, 0x10080, n, 7, 0, 0, 0, 0, 0, 0, 0, 0, 0, 0, 0, 0, word]

def tEndpoints (b : W64) (p : Partition) : Partition := { p with epcnt := 1, epbase := b }

/-- The hypotheses of PacketsOfAnyQueueHaveTheirEffects: each packet starts with each outcome of its accesses and checks. -/
theorem test_meets_packet_effects :
    (∀ ws ∈ [tLaunch 1 0x70000 1 0, tLaunch 1 0x10080 1 0, tLaunch 1 0x10080 2 0, tLaunch 65 0x10080 1 1, tLaunch 1 0x10080 1 1, tArgs 0x70000, tArgs 0x10000], tStarts ws id = true ∧ pkType (tWords ws) = 1)
    ∧ (tCanRead (tLaunch 1 0x70000 1 0) id 0x70000 8 = false ∧ tCanRead (tArgs 0x70000) id 0x10080 8 = true ∧ tCanRead (tArgs 0x70000) id 0x70000 1 = false ∧ tCanRead (tArgs 0x10000) id 0x10000 1 = true)
    ∧ (headerOk (tWords ((tLaunch 1 0x10080 2 0).drop 16)) = false ∧ headerOk (tWords ((tLaunch 1 0x10080 1 1).drop 16)) = true ∧ kGang (tWords ((tLaunch 65 0x10080 1 1).drop 16)) = true)
    ∧ (∀ a ∈ [0x70000, 0x10300, 0x10000], tStarts [2, a, 0, 0, 0, 0, 0, 0] id = true) ∧ (tCanRead [2, 0x70000, 0, 0, 0, 0, 0, 0] id 0x70000 1 = false)
    ∧ ((devReadIn (tBegun [2, 0x10300, 0, 0, 0, 0, 0, 0] id) 0 0x10300 8).toOption = some 0 ∧ (devReadIn (tBegun [2, 0x10000, 0, 0, 0, 0, 0, 0] id) 0 0x10000 8).toOption = some 2)
    ∧ (∀ a ∈ [0, 0x60000, 0x10200], tStarts [3, a, 5, 1, 0, 0, 0, 0] id = true) ∧ (tCanWrite [3, 0x60000, 5, 1, 0, 0, 0, 0] 0x60000 = false ∧ tCanWrite [3, 0x10200, 5, 1, 0, 0, 0, 0] 0x10200 = true)
    ∧ (∀ ws ∈ [tCopyb 0 0 1, tCopyb 1 1 1, tCopyb 1 0 0, tCopyb 1 0 1], tStarts ws (tEndpoints 0x10080) = true ∧ tCanRead ws (tEndpoints 0x10080) 0x10080 8 = true)
    ∧ (tStarts (tCopyb 1 0 1) (tEndpoints 0x70000) = true ∧ tCanRead (tCopyb 1 0 1) (tEndpoints 0x70000) 0x70000 8 = false)
    ∧ (endpointOk (tWords ((tCopyb 1 0 0).drop 16)) 0x10100 8 = false ∧ endpointOk (tWords ((tCopyb 1 0 1).drop 16)) 0x10100 8 = true)
    ∧ (∀ n ∈ [0, 1, 256, 257], tStarts (tPolicy n 0) id = true) ∧ (tStarts [5, 0x70000, 1, 7, 0, 0, 0, 0] id = true ∧ tCanRead [5, 0x70000, 1, 7, 0, 0, 0, 0] id 0x70000 1 = false)
    ∧ (tCanRead (tPolicy 1 0) id 0x10080 1 = true ∧ wagOk [0] = true ∧ wagOk [0xFFFF] = false)
    ∧ (∀ a ∈ [0x60000, 0x10200], tStarts [11, a, 0, 0, 0, 0, 0, 0] id = true) ∧ tCanWrite [11, 0x60000, 0, 0, 0, 0, 0, 0] 0x60000 = false ∧ tCanWrite [11, 0x10200, 0, 0, 0, 0, 0, 0] 0x10200 = true := by decide +kernel

/-- A gang of one fits the partition's frame, and a gang of 65 does not (R49). -/
theorem test_gang_fits : tStatus (tNext (exec (.launch 0 0) (tPack (tLaunch 65 0x10080 1 1) id))) = some 2 ∧ tStatus (tNext (exec (.launch 0 0) (tPack (tLaunch 1 0x10080 1 1) id))) = none := by decide +kernel

/-- R295, R296, R300, R309: a header of another version, a blocked DEPWAIT, a POLICY of no word and one of one, the global time. -/
theorem test_packet_effects :
    tStatus (tNext (exec (.launch 0 0) (tPack (tLaunch 1 0x10080 2 0) id))) = some 2 ∧ (queueOf (tNext (exec (.depwait 0 0) (tPack [2, 0x10000, 0, 0, 0, 0, 0, 0] id))) 0 0).blocked = true
    ∧ tStatus (tNext (exec (.depwait 0 0) (tPack [2, 0x10300, 0, 0, 0, 0, 0, 0] id))) = some 1 ∧ tStatus (tNext (exec (.policy 0 0) (tPack (tPolicy 0 0) id))) = some 2
    ∧ (let s := tNext (exec (.policy 0 0) (tPack (tPolicy 1 0) id)); (tStatus s, (partOf s 0).rand, (partOf s 0).inst)) = (some 1, 7, true)
    ∧ tAt (tNext (exec (.marker 0 0) (tPack [11, 0x10200, 0, 0, 0, 0, 0, 0] id))) 0x10200 = 20000000 := by decide +kernel

/-- A parked context 1 with a double fault or not. -/
def tParked (df : Bool) (ws : List Nat) (f : Partition → Partition) : State :=
  modCtx (tPack ws f) 1 (fun x => { x with phase := .parked, trap := { x.trap with df := df, tepc := 0x40 }, task := some { launch := 0, id := 0, x := 0, y := 0, z := 0 } })

/-- The hypotheses of PrivilegedPacketsHaveTheirEffects: windows that are well-formed and not, ranges, pages in the mode asked for and not, a poisoned table, a page-table word whose
line the host holds, and a parked context with each action. -/
theorem test_meets_privileged :
    (∀ ws ∈ [[6, 0x10000, 0x20000, 0, 0x87, 3, 0, 0], [6, 0x20000, 0x10000, 0, 0x87, 3, 0, 0], [7, 0x10000, 0x10000, 0, 0, 0, 0, 0], [7, 0, 0, 0, 0, 0, 0, 0], [8, 0x10000, 0x10000, 0, 0, 0, 0, 0], [8, 0x40000, 0x10000, 0, 0, 0, 0, 0],
        [9, 0x40000, 0x10000, 0, 0, 0, 0, 0], [10, 1, 0, 0, 0, 0, 0, 0], [10, 1 + 2 ^ 16, 0, 0, 0, 0, 0, 0], [10, 1 + 2 * 2 ^ 16, 0, 0, 0, 0, 0, 0], [10, 1 + 3 * 2 ^ 16, 0, 0, 0, 0, 0, 0]], tStarts ws id = true)
    ∧ (windowOk 0x10000 0x20000 0 0x87 = true ∧ windowOk 0x20000 0x10000 0 0x87 = false)
    ∧ (let s := tBegun [8, 0x10000, 0x10000, 0, 0, 0, 0, 0] id
       (∃ ls, sealScan s 0 0x10000 0x20000 0 2 0x10000 = .ok ls ∧ ls.length = 1) ∧ sealScan s 0 0x40000 0x50000 0 2 0x40000 = .bad ∧ (∃ ls, sealScan s 0 0x40000 0x50000 1 2 0x40000 = .ok ls ∧ ls.length = 1)
       ∧ (∃ a, sealScan { s with ms := { s.ms with poison := [0x10000 / 8] } } 0 0x10000 0x20000 0 2 0x10000 = .fail 0x0F a)
       ∧ homeBusy { s with ms := { s.ms with hostLines := [(homeSlice 0x30000, [0x30000 / 64])] } } (0x30008 / 8) = true ∧ homeBusy s (0x30008 / 8) = false)
    ∧ (∀ df, (ctxOf (tParked df [10, 1, 0, 0, 0, 0, 0, 0] id) 1).phase = .parked ∧ (ctxOf (tParked df [10, 1, 0, 0, 0, 0, 0, 0] id) 1).part = 0 ∧ (ctxOf (tParked df [10, 1, 0, 0, 0, 0, 0, 0] id) 1).trap.df = df)
    ∧ (ctxOf (tPack [10, 1, 0, 0, 0, 0, 0, 0] id) 1).phase ≠ .parked
    ∧ (∃ mode sver : Nat, mode < 4 ∧ sver < 2 ^ 16) ∧ ∀ ty ∈ [6, 7, 8, 9], ∃ (s : State) (n : Nat) (k : Packet), k.wait = some n ∧ pkType k.words = ty ∧ inFlightBefore s 0 n = false := by
  refine ⟨by decide +kernel, by decide +kernel, ⟨⟨_, rfl, rfl⟩, by decide +kernel, ⟨_, rfl, rfl⟩, ⟨0x10000, by decide +kernel⟩, by decide +kernel, by decide +kernel⟩, fun df => by cases df <;> decide +kernel, by decide +kernel, ⟨3, 0xFFFF, by decide⟩, ?_⟩
  intro ty h
  refine ⟨State.reset, 4, tPkt [ty, 0, 0, 0, 0, 0, 0, 0] none (some 4) false 0, rfl, ?_, rfl⟩
  revert ty
  decide +kernel

/-- The record of a task of launch 0 that was parked in context 1. -/
def tSaved (crc place : Nat) : Saved :=
  { task := { launch := 0, id := 3, x := 0, y := 0, z := 0 }, k := 1, regs := [(4, .s 6)], h := [], trap := { tepc := 0x80 }, ppr := 5, rpc := [0, 0, 0, 0], sqc := 0, next := 0x80, scratch := [], saveSet := some [(0, 64)],
    batch := 0, batFault := 0, bar := {}, barWait := [], arrived := [], bufs := [], accs := [], parked := true, units := 0, place := place, parkedAt := some 1, crc := crc }
def tPool (crc place : Nat) (ws : List Nat) : State := { tPack ws id with saves := [(6, tSaved crc place)] }

def tUnseal (n : Nat) : Packet := { idx := 0, words := tWords [9], status := none, wait := some 4, note := n }

/-- The hypotheses of PrivilegedPacketsHaveTheirEffects for a task parked in the save pool, and for SEAL and UNSEAL whose earlier accesses have ended, the version at its last and not. -/
theorem test_meets_saved_parked :
    ((ctxOf (tPool 0 0 [10, 1, 0, 0, 0, 0, 0, 0]) 1).phase ≠ .parked ∧ (savedParked (tPool 0 0 [10, 1, 0, 0, 0, 0, 0, 0]) 0 1).map (·.1) = some 6 ∧ savedParked (tPool 0 0 []) 0 2 = none)
    ∧ (∀ n ∈ [0, 1], (tUnseal n).wait = some 4 ∧ (tUnseal n).note = n ∧ pkType (tUnseal n).words = 9 ∧ inFlightBefore State.reset 0 4 = false) ∧ (∃ p : Partition, p.sealv = 0xFFFF) :=
  ⟨by decide +kernel, by decide +kernel, ⟨{ sealv := 0xFFFF }, rfl⟩⟩

/-- R329: RESUME CONTINUE on a task parked in the pool lets it be placed again, at TEPC. -/
theorem test_resume_saved :
    (let s := tNext (exec (.resume 0 0) (tPool 0 0 [10, 1, 0, 0, 0, 0, 0, 0])); ((mfind 6 s.saves).map (fun v => (v.parked, v.parkedAt, v.next)), (launchOf s 0).preempted)) = (some (false, none, 0x80), [6]) := by decide +kernel

/-- R264, R329, R360: a window installed, its limits the wrong way round, a sealed page's entry, a resumed context. -/
theorem test_privileged :
    (mget {} 3 (partOf (tNext (exec (.fwin 0 0) (tPack [6, 0x10000, 0x20000, 0, 0x87, 3, 0, 0] id))) 0).fwin : FWin) = { base := 0x10000, fin := 0x20000, ctl := 0x87 }
    ∧ tStatus (tNext (exec (.fwin 0 0) (tPack [6, 0x20000, 0x10000, 0, 0x87, 3, 0, 0] id))) = some 2
    ∧ (coherentWord (tNext (exec (.sealRange 0 0) (tPack [8, 0x10000, 0x10000, 0, 0, 0, 0, 0] id))).ms (0x30008 / 8)).1 = 0x000100000001005F
    ∧ (let x := ctxOf (tNext (exec (.resume 0 0) (tParked false [10, 1, 0, 0, 0, 0, 0, 0] id))) 1; (x.phase, x.next)) = (.running, 0x40) := by decide +kernel


/-! ## Decisions and timers -/

/-- A launch of one-comb tasks in x columns, none placed. -/
def tKernel (x : Nat) : Launch :=
  { placedLaunch with x := x, nextTile := 0, live := 0, hdr := tWords [0, 64 * 2 ^ 13 + 2 ^ 20 + 2 ^ 25 + 2 ^ 37 + 2 ^ 60, 16, 0, 0, 0, 0, 0] }

/-- Partition 0 with frame 0, a ready launch, a policy of these words (none: no policy) and a decision requested. -/
def tSched (ws : List (BitVec 16)) (d : Decision) (combs : SMap Comb) : State :=
  modPart { tMap State.reset with gtime := 5000000, seq := 8, launches := [(5, tKernel 2)], combs := combs } 0
    (fun p => { p with inst := !ws.isEmpty, policy := ws, decisions := [d], checkAt := 6000000 })

def tDispatch (ws : List (BitVec 16)) : State := tSched ws .dispatch []
/-- No comb of the frame has room. -/
def tSealed : SMap Comb := (upTo 8).map (fun k => (k, { isSealed := true }))

/-- Context 0 running in partition 0, with a preemption decision for queue 0. -/
def tVict (ws : List (BitVec 16)) : State := modCtx (tSched ws (.preempt 0) []) 0 (fun x => { x with phase := .running, task := some { launch := 5, id := 0, x := 0, y := 0, z := 0 } })

/-- Context 0 waiting for its fault decision. -/
def tDeciding (ws : List (BitVec 16)) (dbl : Bool) (tvec : W64) (retries : BitVec 8) : State :=
  modPart (modCtx (tSched ws (.fault 0 dbl) []) 0 (fun x => { x with phase := .deciding, trap := { x.trap with retries := retries, tepc := 0x80 }, task := some { launch := 5, id := 0, x := 0, y := 0, z := 0 } })) 0
    (fun p => { p with tvec := tvec })

/-- What a policy's decision answers. -/
def tEnd (s : State) (kind : Nat) : WagEnd := (runPolicy (popDecision s 0) 0 kind none none).1

/-- The hypotheses of DecisionsFollowThePolicyOrTheDefault: a policy's every outcome, a partition without one, room and none, each target of a pre-emption, each action. -/
theorem test_meets_decisions :
    (∃ view : Nat → Nat → Nat, view 0 0 = 0) ∧ (∃ view : Nat → Nat → Nat, view 0 0 = 2) ∧ (∃ elig : Nat → Nat → Bool, ∀ k, k < viewEntries 18 → elig 18 k = false)
    ∧ (∃ (elig : Nat → Nat → Bool) (k : Nat), k < viewEntries 18 ∧ elig 18 k = true)
    ∧ ((partOf (tDispatch []) 0).inst = false ∧ (partOf (tDispatch [0]) 0).inst = true) ∧ nextDecision (tDispatch []) 0 = some .dispatch
    ∧ tEnd (tDispatch [0xE800]) 0 = .defer ∧ tEnd (tDispatch [0xD000]) 0 = .pick 0 0 ∧ tEnd (tDispatch [0x0901, 0xD001]) 0 = .pick 0 1 ∧ tEnd (tDispatch []) 0 = .none ∧ tEnd (tDispatch [0]) 0 = .none
    ∧ tEnd (tDispatch ([0xB010] ++ List.replicate 20 0x0800 ++ [0xB800])) 0 = .overrun
    ∧ (defaultHead (tDispatch []) 0 = some (0, 5) ∧ openFrames (tDispatch []) 0 = [0] ∧ headOf (tDispatch []) 0 0 = some 5 ∧ (placeLaunch (tDispatch []) 5 0 [0]).isSome = true ∧ (placeDefault (tDispatch []) 0 5).isSome = true)
    ∧ (placeDefault (tSched [] .dispatch tSealed) 0 5).isNone = true ∧ defaultHead { tDispatch [] with launches := [] } 0 = none
    ∧ (∃ (s : State) (t : Nat), t ∈ (partOf s 0).retryAt ∧ t ≤ s.gtime) ∧ (∃ s : State, (partOf s 0).retryAt ≠ [] ∧ ∀ t ∈ (partOf s 0).retryAt, s.gtime < t)
    ∧ nextDecision (tVict []) 0 = some (.preempt 0) ∧ tEnd (tVict [0xD800]) 1 = .vict 0 ∧ tEnd (tVict [0x0805, 0xD800]) 1 = .vict 5 ∧ tEnd (tVict []) 1 = .none
    ∧ ((ctxOf (tVict [0xD800]) 0).phase = .running ∧ (ctxOf (tVict [0xD800]) 0).part = 0 ∧ pinnedCtx (tVict [0xD800]) (ctxOf (tVict [0xD800]) 0) = false ∧ (ctxOf (tVict [0xD800]) 0).preempt = none
        ∧ (ctxOf (tVict [0xD800]) 5).phase = .free)
    ∧ (∀ dbl, faultNext (tDeciding [] dbl 0 0) 0 = some dbl ∧ (ctxOf (tDeciding [] dbl 0 0) 0).phase = .deciding) ∧ faultNext State.reset 0 = none
    ∧ (∃ s dbl, faultNext s 0 = some dbl ∧ (ctxOf s 0).phase ≠ .deciding)
    ∧ (∀ k ∈ [0, 1, 2, 3, 4], tEnd (tDeciding [BitVec.ofNat 16 (0xE000 + k)] false 0 0) 2 = .act k) ∧ (partOf (tDeciding [] false 0x40 0) 0).tvec ≠ 0 ∧ (partOf (tDeciding [] false 0 0) 0).tvec = 0
    ∧ (ctxOf (tDeciding [] false 0 15) 0).trap.retries.toNat < 16 ∧ 16 ≤ (ctxOf (tDeciding [] false 0 16) 0).trap.retries.toNat := by
  refine ⟨⟨fun _ _ => 0, rfl⟩, ⟨fun _ _ => 2, rfl⟩, ⟨fun _ _ => false, fun _ _ => rfl⟩, ⟨fun _ _ => true, 127, by decide, rfl⟩, ?_, ?_, ?_, ?_, ?_,
    ?_, ?_, ?_, ?_, ?_, ?_,
    ⟨modPart (tDispatch []) 0 (fun p => { p with retryAt := [5000000] }), 5000000, ?_, ?_⟩, ⟨modPart (tDispatch []) 0 (fun p => { p with retryAt := [5000001] }), ?_, ?_⟩,
    ?_, ?_, ?_, ?_, ?_, fun dbl => by cases dbl <;> decide +kernel, ?_,
    ⟨tSched [] (.fault 0 false) [], false, ?_, ?_⟩, ?_, ?_, ?_, ?_, ?_⟩
  all_goals decide +kernel

/-- R306, R307, R309, R326, R327: the default places at comb 0, INV on a pick of another frame, a handler entered at TVEC, a seventeenth retry parks, a double fault's retry parks. -/
theorem test_decisions :
    ((ctxOf (tNext (exec (.dispatchDecision 0) (tDispatch []))) 0).task.map (fun t => (t.launch, t.x))) = some (5, 0)
    ∧ (let s := tNext (exec (.dispatchDecision 0) (tDispatch [0x0901, 0xD001])); ((partOf s 0).inv, (ctxOf s 0).task.isSome)) = (true, true)
    ∧ (ctxOf (tNext (exec (.dispatchDecision 0) (tDispatch [0xE800]))) 0).task = none
    ∧ (let x := ctxOf (tNext (exec (.faultDecision 0) (tDeciding [0xE002] false 0x40 0))) 0; (x.phase, x.next, x.trap.hm)) = (.running, 0x40, true)
    ∧ (let x := ctxOf (tNext (exec (.faultDecision 0) (tDeciding [0xE004] false 0 15))) 0; (x.phase, x.next, x.trap.retries)) = (.running, 0x80, 16)
    ∧ (ctxOf (tNext (exec (.faultDecision 0) (tDeciding [0xE004] false 0 16))) 0).phase = .parked ∧ (ctxOf (tNext (exec (.faultDecision 0) (tDeciding [0xE004] true 0 0))) 0).phase = .parked
    ∧ (ctxOf (tNext (exec (.preemptionDecision 0 0) (tVict [0xD800]))) 0).preempt = some { since := 5000000 } := by decide +kernel

/-- Partition 0 at a check, with ready launches placed last at these times, gangs or not. -/
def tCheck (last : Nat) (gang : Bool) (t : Nat) : State :=
  modPart { tSched [] .dispatch [] with gtime := t, launches := [(5, { tKernel 2 with lastPlaced := last, hdr := (tKernel 2).hdr.map (fun (w : W64) => if gang && w.getLsbD 60 then w + 2 ^ 40 else w) })] } 0 (fun p => { p with checkAt := t })

def tReserve (compacted : Bool) (s : State) : State := modPart s 0 (fun p => { p with reserve := some { launch := 5, frames := [0], since := 0, compacted := compacted } })

/-- Context 0 with a pre-emption request and a save pool of n units. -/
def tPreempt (n : Nat) : State :=
  modPart (modCtx (tVict []) 0 (fun x => { x with preempt := some { since := 4000000 }, scrSize := 4096 })) 0 (fun p => { p with savel := n, saveb := 0x10000 })

/-- The hypotheses of TimersReserveSaveAndWatch for checks, reservations and compaction. -/
theorem test_meets_checks :
    ((partOf (tCheck 0 false 20000000) 0).en = true ∧ (partOf (tCheck 0 false 20000000) 0).checkAt ≤ (tCheck 0 false 20000000).gtime) ∧ ¬(partOf State.reset 0).en = true
    ∧ (ownedFrames (tCheck 0 false 20000000) 0 = [0] ∧ headLaunches (tCheck 0 false 20000000) 0 = [(0, 5)] ∧ 1000 * 10000 < 20000000 - (launchOf (tCheck 0 false 20000000) 5).lastPlaced)
    ∧ ¬1000 * 10000 < 10000000 - (launchOf (tCheck 0 false 10000000) 5).lastPlaced
    ∧ kGang (launchOf (tCheck 0 true 2000000) 5).hdr = true ∧ 1000 * 1000 < 2000000 - (launchOf (tCheck 0 true 2000000) 5).lastPlaced ∧ kGang (launchOf (tCheck 0 false 2000000) 5).hdr = false
    ∧ (partOf (tCheck 0 false 20000000) 0).ppre = 0
    ∧ (launchReady (launchOf (tReserve false (tCheck 0 false 5000000)) 5) = true ∧ (placeLaunch (tReserve false (tCheck 0 false 5000000)) 5 0 [0]).isSome = true)
    ∧ launchReady (launchOf { tReserve false (tCheck 0 false 5000000) with launches := [] } 5) = false ∧ (placeLaunch { tReserve false (tCheck 0 false 5000000) with combs := tSealed } 5 0 [0]).isNone = true
    ∧ (0 + 1000 * (partOf (tReserve false (tCheck 0 false 5000000)) 0).tcomp ≤ 5000000) ∧ gangDue (tCheck 0 true 2000000) 0 = true ∧ gangDue (tCheck 0 false 2000000) 0 = false
    ∧ (partOf (tCheck 0 true 2000000) 0).reserve = none ∧ (reserveFrames (tCheck 0 true 2000000) 0 5) = some [0] := by decide +kernel

/-- The hypotheses of TimersReserveSaveAndWatch for pre-emption and the watchdog: pool room and none, a record to be written and one not ready, a stuck context. -/
theorem test_meets_preemption :
    (preemptOverdue (tPreempt 16) 0 = true ∧ (ctxOf (tPreempt 16) 0).phase = .running ∧ (ctxOf (tPreempt 16) 0).preempt = some { since := 4000000 } ∧ (poolRun (tPreempt 16) 0 true).isSome = true) ∧ poolRun (tPreempt 0) 0 true = none
    ∧ preemptOverdue State.reset 0 = false ∧ (ctxOf State.reset 0).saveAt = none
    ∧ (let s := modCtx (tPreempt 16) 0 (fun x => { x with phase := .saving true false, saveAt := some (0, 1) })
       let y := ctxOf (pumpCtx s 0) 0
       (y.phase, y.saveAt, saveReady (pumpCtx s 0) 0 y, devRange (pumpCtx s 0) 0 0x10000 65536 .wr, (saveRecord (pumpCtx s 0) 0 true 1 0).isSome) = (.saving true false, some (0, 1), true, none, true))
    ∧ (let s := modCtx (tPreempt 16) 0 (fun x => { x with phase := .saving true false, saveAt := some (0, 1), fifo := [3] }); saveReady (pumpCtx s 0) 0 (ctxOf (pumpCtx s 0) 0) = false)
    ∧ (saveRecord (modCtx (tPreempt 16) 0 (fun x => { x with live := some 5 })) 0 false 1 0).isSome = true
    ∧ (stuckCtx State.reset 0 = false ∧ stuckCtx (modCtx (tTile .nop none none) 0 (fun x => { x with idle := 2 ^ 20 })) 0 = true)
    ∧ (retryReady State.reset 0 = [] ∧ retryReady (modPart (tPreempt 16) 0 (fun p => { p with poolRetry := [0], poolFreed := true })) 0 = [0] ∧ (ctxOf (tPreempt 16) 0).phase ≠ .parked) := by
  refine ⟨?_, ?_, ?_, ?_, ?_⟩ <;> decide +kernel

/-- The hypotheses of TimersReserveSaveAndWatch for reservations, by the frames that a launch needs without the residents and without any, for a retired context, and for records that are
restored, that fail their CRC and that cannot be read. -/
theorem test_meets_records :
    (let s := tCheck 0 true 2000000
     framesByUse s 0 = [0] ∧ fitsIn (withoutResidents s ((framesByUse s 0).take 1)) 5 ((framesByUse s 0).take 1) = true ∧ (partOf s 0).reserve = none)
    ∧ (let s := { tCheck 0 true 2000000 with combs := tSealed }; reserveFrames s 0 5 = none)
    ∧ ((partOf (tReserve true (tCheck 0 false 5000000)) 0).reserve.isSome = true ∧ (ctxOf (tPreempt 16) 0).retired = false ∧ (partOf (tPreempt 16) 0).poolRetry = [] ∧ (partOf (tPreempt 16) 0).writeRetry = [])
    ∧ (mfind 6 (tPool 0 0 []).saves = some (tSaved 0 0) ∧ (recordFails (tPool 0 0 []) (tSaved 0 0)).isNone = true ∧ (recordFails (tPool 1 0 []) (tSaved 1 0)).isSome = true)
    ∧ (let s := modCtx (tTile .nop none none) 0 (fun x => { x with idle := 2 ^ 20 }); heldStill s 0 (ctxOf s 0) = false) := by decide +kernel

/-- R314, R317, R319, R332: a starved launch placed, a stop with full state, POOL, the watchdog's cause. -/
theorem test_timers :
    (ctxOf (tNext (exec (.starvationCheck 0) (tCheck 0 false 20000000))) 0).task.isSome = true ∧ (partOf (tNext (exec (.starvationCheck 0) (tCheck 0 false 20000000))) 0).checkAt = 20100000
    ∧ (ctxOf (tNext (exec (.preemptTimeout 0) (tPreempt 16))) 0).phase = .saving true false ∧ (partOf (tNext (exec (.preemptTimeout 0) (tPreempt 0))) 0).pool = true
    ∧ (ctxOf (tNext (exec (.noProgress 0) (modCtx (tTile .nop none none) 0 (fun x => { x with idle := 2 ^ 20 })))) 0).trap.cause = 0x13 := by decide +kernel


/-! ## The host, the fabric and the network -/

/-- A module of two, whose page tables and first page are as before. -/
def tOut1 (f : MemSys → MemSys) : State :=
  let s := tPack [0, 0, 0, 0, 0, 0, 0, 0] id
  { s with ms := f s.ms, inbound := [(0, BitVec.ofNat 64 (3 * 2 ^ 62)), (1, 0x200000)] }

def tOwnedPend (m : MemSys) : MemSys :=
  { tOwned m with
    owners := [(0x20000, .comb 0)]
    caches := [(combSet 0 (0x20000 / 64), [{ region := 0x20000 / 64, s := 0, words := [{ data := 9, valid := 0xFF, dirty := true, owned := true, pend := some 3 }] }])] }

/-- A remote-memory table of two entries of 32 bytes at word 0 of page 1: rkeys 5 and 6, of page 1 writable and of nothing. -/
def tTable : List Nat := [1 + 5 * 2 ^ 32, 0x10000, 0x1000, 0, 6 * 2 ^ 32, 0x10000, 0x1000, 0]
def tRdma (b : W64) : State := tPack tTable (fun p => { p with mrbase := b, mrcnt := 2 })

/-- The hypotheses of OutsideRequestsReachTheirHomes: a line that may be read and not, words withheld and leased, lines snooped and not, windows that admit and not, and the remote table's entries. -/
theorem test_meets_outside :
    ((tOut1 id).md.power = .running ∧ isLocal 0x100000 = true ∧ ∀ k, k < 8 → withheld (tOut1 id).ms (0x20000 + k) = false ∧ delayedAt (tOut1 id) (0x20000 + k) = false)
    ∧ (∀ k, k < 8 → mfind (0x20000 + k) (tOut1 id).ms.owners = none) ∧ withheld (tOut1 tOwnedPend).ms 0x20000 = true
    ∧ (0x100000 % 64 + 64 ≤ 64 ∧ 64 < 0x100001 % 64 + 64 ∧ 0x100000 % 8 + 8 ≤ 8 ∧ withheld (tOut1 id).ms (0x100000 / 8) = false ∧ leased (tOut1 id) (0x100000 / 8) = false)
    ∧ leased { tOut1 tLeased with gtime := 5000000 } (0x100000 / 8) = true ∧ (5 ∈ (tOut1 (fun m => { m with snoops := [5] })).ms.snoops ∧ 6 ∉ (tOut1 (fun m => { m with snoops := [5] })).ms.snoops)
    ∧ (inboundOk (tOut1 id) 0x1FFFFF true = true ∧ inboundOk (tOut1 id) 0x200000 true = false ∧ (tOut1 id).md.modid ≠ 1)
    ∧ (((rangeFrom (0x100000 / 64 * 8) 8).any (readBusy (tOut1 id))) = false ∧ ((rangeFrom (0x100000 / 64 * 8) 8).any (readBusy (tOut1 tOwnedPend))) = true)
    ∧ ((wordsOf 0x100000 8).any (homeBusy (tOut1 id)) = false ∧ homeBusy (tOut1 tHost) 0x20000 = true)
    ∧ ((match remoteEntry (tRdma 0x10000) 0 5 2 0 with | .ok (some e) => e == tWords (tTable.take 4) | _ => false) = true ∧ (match remoteEntry (tRdma 0x10000) 0 6 2 0 with | .ok (some e) => e == tWords (tTable.drop 4) | _ => false) = true
        ∧ (match remoteEntry (tRdma 0x10000) 0 7 2 0 with | .ok none => true | _ => false) = true ∧ (remoteEntry (tRdma 0x70000) 0 5 2 0).isOk = false)
    ∧ (0x10008 % 8 = 0 ∧ 0x10009 % 8 ≠ 0 ∧ (devAddr (tRdma 0x10000) 0 0x10008 .rw).toOption = some (.home 0x100008) ∧ (devAddr (tRdma 0x10000) 0 0x60000 .rw).isOk = false ∧ homeBusy (tRdma 0x10000) (0x100008 / 8) = false) := by decide +kernel

/-- A host read of the first line that came as message 4, behind an earlier request to it or alone, of words that a comb withholds or not. -/
def tQueued (l : SMap Outside) (f : MemSys → MemSys) : State := tOut1 (fun m => { f m with outside := l ++ [(4, .hostRead 0x100000)] })

/-- The hypotheses of OutsideRequestsReachTheirHomes for requests that wait: behind another, held, performed, with leases ended; a full slice; the host's registers; packets' and
RDMA's places that wait. -/
theorem test_meets_outside_queue :
    (sameOrder (.hostWrite 0x100008 8 0) (.hostRead 0x100000) = true ∧ sameOrder (.hostRead 0x100040) (.hostRead 0x100000) = false ∧ sameOrder (.rdma 0 1 5 0 (.read 8)) (.rdma 0 1 6 8 (.fetchAdd 1)) = true)
    ∧ ((outsidePerform (tQueued [] id) (.hostRead 0x100000)).isSome = true ∧ (outsidePerform (tQueued [] tOwnedPend) (.hostRead 0x100000)).isNone = true)
    ∧ (∃ (s : State) (d : Delayed), mfind 6 s.ms.delayed = some d ∧ d.msg = 4 ∧ d.until_ < s.gtime ∧ mfind 4 s.ms.regs = none ∧ mfind 4 s.ms.uwrites = none ∧ mfind 4 s.ms.amos = none ∧ mfind 4 s.ms.copies = none)
    ∧ (0x20000 ∈ outsideWrites (tOut1 tLeased) (.hostWrite 0x100000 8 0) ∧ leased { tOut1 tLeased with gtime := 5000000 } 0x20000 = true)
    ∧ (trackRoom { hostLines := [(homeSlice 0x100000, List.replicate 8192 0)] } (0x100000 / 64) = false ∧ lineToSnoop { hostLines := [(homeSlice 0x100000, List.replicate 8192 0)] } (0x100000 / 64) = some 0)
    ∧ (cfgReach (tOut1 id) (.hostFn 0) 0x1000 = true ∧ 0x1000 < Config.cfgBytes ∧ cfgReach (tOut1 id) (.hostFn 1) 0x1000 = false ∧ cfgShape 0x1000 8 = true)
    ∧ ((tOut1 id).ms.outside = [] ∧ (readWaits (arrived (tRdma 0x10000) (.rdma 0 1 5 0x10008 (.read 8))) 0 0 [(0x10000, 64)]).isNone = true
        ∧ (rdmaWrite (tRdma 0x10000) 0 0x10008 8 7).isSome = true ∧ (rdmaRead (tRdma 0x10000) 0 0x10008 8).isSome = true
        ∧ (rdmaWrite { tRdma 0x10000 with ms := tHost (tRdma 0x10000).ms } 0 0x10008 8 7).isNone = true) :=
  ⟨by decide +kernel, by decide +kernel,
   ⟨{ tOut1 (fun m => { m with delayed := [(6, { region := 0x20000 / 64, until_ := 4999999, msg := 4 })] }) with gtime := 5000000 }, _, rfl, rfl, by decide, rfl, rfl, rfl, rfl⟩,
   by decide +kernel, by decide +kernel, by decide +kernel, by decide +kernel⟩

/-- R150, R346, R354, R359: a host read's tracked line and word, a host write's owner, a fabric write outside every window, an addition by RDMA and one below no entry. -/
theorem test_outside :
    (let s := tNext (exec (.hostRead (.device 0x100000)) (tPack [7, 0, 0, 0, 0, 0, 0, 0] id)); ((s.ms.lastHostRead.map (fun d => (d.1.extractLsb' 0 64, d.2))), hostHas s.ms (0x100000 / 64))) = (some (7, false), true)
    ∧ mfind 0x20000 (tNext (exec (.hostWrite (.device 0x100000) 8 9) (tOut1 id))).ms.owners = some .host
    ∧ ((tNext (exec (.fabricRequest 1 0x200000 .read) (tOut1 id))).ms.lastReply = none ∧ (tNext (exec (.fabricRequest 1 0x100000 .read) (tPack [7, 0, 0, 0, 0, 0, 0, 0] id))).ms.lastReply = none)
    ∧ ((tNext (exec (.fabricRequest 1 0x100000 (.amo .add .d 5)) (tOut1 id))).ms.lastReply = some 0)
    ∧ (let s := tNext (exec (.inboundRdma 0 1 5 0x10008 (.fetchAdd 1)) (tRdma 0x10000)); (s.ms.lastReply, tAt s 0x10008)) = (some 0x10000, 0x10001)
    ∧ (tNext (exec (.inboundRdma 0 1 6 0x10008 (.fetchAdd 1)) (tRdma 0x10000))).ms.lastReply = none := by decide +kernel

/-! ## Time, errors, clocks, starts and registers -/

def tMd (f : Mod → Mod) : State := { State.reset with gtime := 5000000, seq := 8, md := f State.reset.md }

/-- The hypotheses of TimeErrorsAndClocksActAsStated: exchanges within 2 µs and beyond, healthy and not, a stopped time base; sites of each kind; power and temperature at their limits. -/
theorem test_meets_time :
    (let m := (tMd id).md; m.power = .running ∧ m.master = false ∧ m.ports ≠ 0) ∧ (-2000 ≤ (2000 : BitVec 24).toInt ∧ (2000 : BitVec 24).toInt ≤ 2000 ∧ ¬(2001 : BitVec 24).toInt ≤ 2000)
    ∧ ((tMd (fun m => { m with healthy := true, lastSync := 3999999 })).md.lastSync + 1000000 < 5000000 ∧ 5000000 ≤ (tMd (fun m => { m with healthy := true, lastSync := 4000000 })).md.lastSync + 1000000)
    ∧ (tMd (fun m => { m with stopClock := true })).md.stopClock = true ∧ (isLocal (8 * (0x100000 / 8)) = true ∧ mfind (0x100000 / 8) (tMd id).ms.owners = none)
    ∧ ((mget {} 3 (tMd id).combs : Comb).isSealed = false ∧ (mget {} 3 ({ tMd id with combs := tSealed } : State).combs : Comb).isSealed = true)
    ∧ (∃ site : ErrorSite, ∀ pa, site ≠ .carry pa) ∧ (∃ site : ErrorSite, site = .carry 0x40)
    ∧ ((tMd id).md.pwrcap = 2800 ∧ (tMd id).md.pwrcap < 2801 % 4096 ∧ ¬(tMd id).md.pwrcap < 2800 % 4096 ∧ 100 ≤ 100 % 256 ∧ ¬100 ≤ 99 % 256)
    ∧ ((tMd (fun m => { m with lastStepAt := 4900000 })).md.lastStepAt + 100000 ≤ 5000000 ∧ ¬((tMd (fun m => { m with lastStepAt := 4900001 })).md.lastStepAt = 0 ∨ (tMd (fun m => { m with lastStepAt := 4900001 })).md.lastStepAt + 100000 ≤ 5000000))
    ∧ ((tMd id).md.clearSince = none ∧ (4000000 + 1000000 ≤ (tMd (fun m => { m with clearSince := some 4000000, clk := 825 })).gtime) ∧ (tMd (fun m => { m with clk := 825 })).md.clk < 850) ∧ ((partOf (tMd id) 3).fqen = false) :=
  ⟨by decide +kernel, by decide +kernel, by decide +kernel, by decide +kernel, by decide +kernel, by decide +kernel, ⟨.control 3, fun _ => by simp⟩, ⟨_, rfl⟩, by decide +kernel, by decide +kernel, by decide +kernel, by decide +kernel⟩

/-- The hypotheses of TimeErrorsAndClocksActAsStated for a copy that a comb caches and a sector of local memory. -/
theorem test_meets_error_sites :
    (∃ x, combWord (tCommit tClean id).ms 0 (0x100000 / 8) = some x) ∧ isLocal 0x100001 = true ∧ isLocal 0x8000000000000 = false ∧ MemoryCanonical (tCommit id id) :=
  ⟨⟨_, rfl⟩, by decide +kernel, by decide +kernel, (by decide +kernel : Memory.wf tMem = true)⟩

/-- R337, R338: the cached copy poisoned and its home not; a byte flipped beneath a code that still fits the old bytes. -/
theorem test_error_sites :
    (let s := tNext (exec (.sramError (.cached 0 0x100000) true) (tCommit tClean id)); ((combWord s.ms 0 0x20000).map (·.poison), (homeWord s.ms 0x20000).2, s.md.uecnt)) = (some true, false, 1)
    ∧ (let s := tNext (exec (.sramError (.unseen (.byte 0x100001) 0xFF) true) (tCommit id id))
       (memGet s.ms.mem 0x100001, s.md.uecnt, mfind (0x100001 / 32) s.ms.codes == some (carryCode (sectorBytes (tCommit id id).ms (0x100001 / 32))), mfind (0x100001 / 32) s.ms.codes == some (carryCode (sectorBytes s.ms (0x100001 / 32))))) = (0xFF, 0, true, false) := by
  decide +kernel

/-- R162, R337, R340, R356, R367, R368: EPOCH as HEALTHY rises, a poisoned word, a sealed comb, a step down to 825 MHz, a trip at 110 °C. -/
theorem test_time :
    (let m := (tNext (exec (.timeExchange true 2000 6000000) (tMd id))).md; (m.healthy, m.epoch, m.lastSync)) = (true, 2, 6000000) ∧ (tNext (exec (.timeExchange true 2001 0) (tMd id))).md.healthy = false
    ∧ (homeWord (tNext (exec (.sramError (.data 0x100000) true) (tMd id))).ms 0x20000).2 = true ∧ (mget {} 3 (tNext (exec (.sramError (.control 3) true) (tMd id))).combs : Comb).isSealed = true
    ∧ (tNext (exec (.clockStepDown 2801 0) (tMd id))).md.clk = 825 ∧ (tNext (exec (.clockStepDown 2800 0) (tMd id))).md.clk = 850
    ∧ (let m := (tNext (exec (.thermalTrip 110) (tMd id))).md; (m.power, m.trip, m.ports)) = (.tripped, true, 0) ∧ (tNext (exec (.thermalTrip 109) (tMd id))).md.power = .running := by decide +kernel

/-- A P-256 key under which the header of `tImage` is signed: with r and s equal to its hash e, the point sought is G + Q, and Q was chosen as the curve's point at e less G. -/
def tKey : Nat × Nat := (0xe01a34ade8c759932480b89ea41339f0cd5966650571e4503a083dd77330b8b8, 0x514b72b9279eae0dd19ea63cccce10bb0c0ad4663037831590c8642ccfb0ddaa)

/-- An image of R361 without a body: KEYSEL 1, FWVER 2, LEN 0, BODYHASH the hash of no bytes, and its signature. -/
def tImage : List Byte :=
  beBytes 8 0x010002004d495850 ++ beBytes 8 0 ++ beBytes 32 0xe3b0c44298fc1c149afbf4c8996fb92427ae41e4649b934ca495991b7852b855
    ++ beBytes 32 0xeaa2c2134486bb570dff105c161e5a1744c956564fb482cfce6a23aeb06e659c ++ beBytes 32 0xeaa2c2134486bb570dff105c161e5a1744c956564fb482cfce6a23aeb06e659c

/-- A module whose owner's key is that one, with the image staged, after the command of a number. -/
def tMail (power : Power) (n : Nat) (staged : List Byte) : State :=
  tMd (fun m => { m with power := power, busy := true, pending := n, staging := staged, always := { m.always with owner := some (tKey.1, tKey.2, true) } })

/-- The hypotheses of StartsStopsAndFramesMoveAsStated: power off and on, every stage, an image accepted and none, a warm and a cold start, a loss of power while a write runs; a frame
scrubbed and not; agents that reach a partition's registers; a stop that has ended and one that has not. -/
theorem test_meets_starts :
    (tMd (fun m => { m with power := .off })).md.power = .off ∧ (tMd id).md.power ≠ .off
    ∧ (∀ n ∈ [1, 2, 3, 4, 5, 6], (tMd (fun m => { m with power := .starting, stage := n })).md.power = .starting ∧ (tMd (fun m => { m with power := .starting, stage := n })).md.stage = n)
    ∧ ((tMd (fun m => { m with running := none })).md.running = none ∧ (tMd (fun m => { m with running := none })).md.flash = some .shipped ∧ imageOk (tMd (fun m => { m with running := none })).md .shipped = true)
    ∧ imageOk (tMd (fun m => { m with always := { m.always with owner := some (1, 1, false) } })).md .shipped = false
    ∧ (cmdRefused (tMail .running 2 tImage) = false ∧ imageOk (tMail .running 2 tImage).md (.staged tImage) = true)
    ∧ (let s : State := { tMd id with frames := [(9, { scrub := true, joins := some 2 })] }; (mget {} 9 s.frames : Frame).scrub = true ∧ frameCtxs s 9 = [] ∧ (mget {} 8 s.frames : Frame).scrub = false)
    ∧ (cfgReach (tMd id) .system 0x1000 = true ∧ cfgReach (tMd id) (.hostFn 0) 0x1000 = true ∧ cfgReach (tMd id) (.hostFn 1) 0x1000 = false)
    ∧ (stopEnded (modPart (tMd id) 3 (fun p => { p with stopped := false })) 3 = true ∧ stopEnded (tMd id) 3 = false)
    ∧ (∃ f, f < 64 ∧ (1 : W64).getLsbD f = true ∧ ∃ o, (mget {} f (tMap (tMd id)).frames : Frame).owner = some o ∧ o ≠ 1) :=
  ⟨rfl, by decide, by decide +kernel, by decide +kernel, by decide +kernel, by decide +kernel, by decide +kernel,
   by decide +kernel, (by decide +kernel), ⟨0, by decide, by decide, 0, by decide +kernel, by decide⟩⟩

/-- R348, R349, R363, R364: a failed stage counted, the third failure in recovery, a frame moved to nobody, a PFRAMES write refused whole. -/
theorem test_starts_and_stops :
    (let m := (tNext (exec (.startFailure 9) (tMd (fun m => { m with power := .starting, stage := 4 })))).md; (m.always.fails, m.always.lastStage, m.code, m.power)) = (1, 4, 9, .starting)
    ∧ (tNext (exec (.startFailure 9) (tMd (fun m => { m with power := .starting, stage := 4, always := { fails := 2 } })))).md.power = .recovery
    ∧ (tNext (exec (.startStage true) (tMd (fun m => { m with power := .starting, stage := 6, ports := 0 })))).md.power = .running
    ∧ (mget {} 9 (tNext (exec (.frameScrubDone 9) { tMd id with frames := [(9, { scrub := true, joins := some 2 })] })).frames : Frame) = { owner := some 2 }
    ∧ (let s := tNext (exec (.pframes .system 1 3) (tMap (tMd id))); ((partOf s 1).err, (mget {} 1 s.frames : Frame).owner)) = (true, none)
    ∧ (partOf (tNext (exec (.partitionStart .system 3) (tMd id))) 3).en = true ∧ (partOf (tNext (exec (.partitionStart (.hostFn 1) 3) (tMd id))) 3).en = false := by decide +kernel

/-- A transfer record of R362: number 7, the key above, VOK, and its signature under the key of `tAuthority`. -/
def tRecord : List Byte :=
  (beBytes 8 7).reverse ++ beBytes 32 tKey.1 ++ beBytes 32 tKey.2 ++ [1, 0, 0, 0, 0, 0, 0, 0] ++ beBytes 32 0xb07684fc1dbf9f240297da8ff6d7e0dc7cfbc407c0fa209ee860fdee184c6b18 ++ beBytes 32 0xb07684fc1dbf9f240297da8ff6d7e0dc7cfbc407c0fa209ee860fdee184c6b18
def tAuthority : Nat × Nat := (0x2866503244c1229c5a13852fe34479765e1ce2c2de25acae9e9fccb82ca40907, 0xe284bdf32c42779af07910c97c06f8c022f9f92c92121c28f58ee2c55979e0b9)

def tOwner (seqNo : Nat) (power : Power) (r : List Byte) : State :=
  tMd (fun m => { m with power := power, busy := true, pending := 4, buf := r.zipIdx.map (fun b => (b.2, b.1)), mblen := 144, always := { m.always with owner := some (tAuthority.1, tAuthority.2, true), seqNo := seqNo } })

def tSigned (s : State) : Bool :=
  let r := (List.range 144).map (fun k => mget (0 : Byte) k s.md.buf)
  ecdsaVerify tAuthority (sha256 (r.take 80)) (beField r 80 32) (beField r 112 32)

/-- The hypotheses of RegistersAndMailboxCommandsActAsStated: agents that reach a queue's registers and not, doorbells at the size and past it, each register's offset, each command running
and not, refused and not, images and records signed and not, record numbers above the last and not. -/
theorem test_meets_registers :
    (∃ c : Nat, (ctxOf (tMd id) c).part = 0) ∧ (tMd id).md.power = .running
    ∧ ((16 + 2 ^ 32 - 0) % 2 ^ 32 ≤ 2 ^ (queueOf (tMd id) 0 0).log2sz ∧ 2 ^ (queueOf (tMd id) 0 0).log2sz < (17 + 2 ^ 32 - 0) % 2 ^ 32 ∧ (queueOf (tMd id) 0 0).rd < 2 ^ 32)
    ∧ ((queueOf (tMd id) 0 0).en = false ∧ (queueOf (tPack tSignal id) 0 0).en = true) ∧ (∃ k y, mfind k (queueOf (tStood (tPkt tSignal (some 5) none false 0) false) 0 0).pkts = some y ∧ y.status ≠ none ∧ y.written = false)
    ∧ (cfgShape 1 8 = false ∧ cfgShape 0x10000 8 = true) ∧ (∀ p, p < 16 → (partOf (tMd id) p).en = false) ∧ (∃ p, p < 16 ∧ (partOf (tMap (tMd id)) p).en = true)
    ∧ ((tMd id).md.busy = false ∧ (tMail .running 2 tImage).md.busy = true ∧ (5 : W64).extractLsb' 0 8 ≠ 0)
    ∧ (∀ n ∈ [1, 2, 3, 4, 5, 0x100], (tMail .running n []).md.busy = true ∧ (tMail .running n []).md.pending = n)
    ∧ (cmdRefused (tMap (tMail .running 2 tImage)) = true ∧ cmdRefused (tMap (tMail .recovery 2 tImage)) = false)
    ∧ (imageOk (tMail .running 2 []).md (.staged []) = false ∧ imageOk (tMail .running 2 tImage).md (.staged tImage) = true)
    ∧ (tSigned (tOwner 0 .running tRecord) = true ∧ tSigned (tOwner 0 .running []) = false ∧ leField tRecord 0 8 ≤ 7 ∧ 6 < leField tRecord 0 8) :=
  ⟨⟨0, by decide +kernel⟩, rfl, by decide +kernel, by decide +kernel, ⟨0, _, rfl, by decide, rfl⟩, by decide +kernel, by decide +kernel, ⟨0, by decide, by decide +kernel⟩, by decide +kernel, by decide +kernel, by decide +kernel, by decide +kernel, by decide +kernel⟩

/-- R290, R361, R362, R365, R366: a doorbell past the size, PWRCAP clamped, a signed image committed and refused by a failed write, an owner enrolled and a record replayed. -/
theorem test_registers :
    (let q := queueOf (tNext (exec (.qwr .system 0 0 17) (tMd id))) 0 0; (q.wr, q.err)) = (0, true) ∧ (queueOf (tNext (exec (.qwr .system 0 0 16) (tMd id))) 0 0).wr = 16
    ∧ (tNext (exec (.registerWrite .system 0x40000 8 0xFFF) (tMd id))).md.pwrcap = 2800 ∧ (tNext (exec (.registerWrite .system 0x40000 8 1) (tMd id))).md.pwrcap = 600
    ∧ (let m := (tNext (exec (.imgcommit true) (tMail .running 2 tImage))).md; (m.pending, m.flash)) = (0x100, some (.staged tImage))
    ∧ (let m := (tNext (exec (.imgcommit false) (tMail .running 2 tImage))).md; (m.pending, m.flash)) = (0x103, none)
    ∧ (let m := (tNext (exec .owner (tOwner 0 .running tRecord))).md; (m.pending, m.always.owner, m.always.seqNo)) = (0x100, some (tKey.1, tKey.2, true), 7)
    ∧ (tNext (exec .owner (tOwner 7 .running tRecord))).md.pending = 0x101 := by decide +kernel

/-! ## Boundaries, far homes and networks -/

/-- Context 0 with two blocks in flight: the older holds a CALL and writes g62. -/
def tCalls (exits : SMap ExitTo) : State :=
  modCtx (tIss none none none) 0 (fun x =>
    { x with blocks := [{ tTb (.call .always 0 0) with tag := 1, hdr := [0, 0, 0, 0x40, 0, 0, 0, 0], exits := exits }, tB] })

/-- The hypotheses of RegisterReadsSeeOlderBlocksWrites for g62 behind a CALL: no exit fired, a call fired, another exit fired. -/
theorem test_meets_calls : ∀ e ∈ [[], [(0, ExitTo.call 0x80 0x40)], [(0, .goto 0x80)]],
    ∃ s f b old new w, Issued s f b ∧ olderThan (ctxOf s f.ctx) f.tag = old ++ w :: new ∧ new = [] ∧ (∃ p ∈ instrsOf w, isCall p.2 = true) ∧ w.exits = e :=
  fun e _ => ⟨tCalls e, tF none none none, tB, [], [], _, ⟨rfl, rfl⟩, rfl, rfl, ⟨_, List.mem_of_mem_head? rfl, by decide +kernel⟩, rfl⟩

/-- R172, R178: the link of a fired call; SQC as it was at the boundary that the oldest block stands at. -/
theorem test_boundaries :
    tOut (exec (.rd 62 .none (tl 1)) (tCalls [(0, .call 0x80 0x40)])) = some (.s 0x40) ∧ tOut (exec (.rd 62 .none (tl 1)) (tCalls [])) = none
    ∧ tOut (exec (.gets .always .sqc (tl 1)) (modCtx (tIss none none none) 0 (fun x => { x with sqc := 9, bound := some ⟨5, [], 0⟩ }))) = some (.s 5) := by decide +kernel

/-- The hypotheses of SystemRegisterAndIdentityValues, DiscardsCountAndLeaveNoEffect, ReadyInstructionsIssueAndTokensFillSlots and FencesAndRangeInstructionsAreRecorded that rest on a
boundary, a block whose WAITB took a word, a predicate of kind V, and a range whose spans are split and not. -/
theorem test_meets_boundaries :
    ((ctxOf (modCtx tWord 0 (fun x => { x with bound := some ⟨5, [], 0⟩ })) 0).bound = some ⟨5, [], 0⟩ ∧ (ctxOf State.reset 0).bound = none)
    ∧ ([{ tB with taken := 0x14 }].find? (fun b : Block => b.taken != 0)).isSome = true
    ∧ (badPred (.add .ifZero .none (tl 1)) { third := some (.v 0 1) } = true ∧ badPred (.add .ifZero .none (tl 1)) { third := some (.s 1) } = false)
    ∧ ((isyncSplit (tCommit tClean id) 0 [(0x20000, 0x20001, 0)]).isSome = true
      ∧ ∀ p ∈ (tCommit tClean id).ms.caches, ∀ sp ∈ p.2, ∀ j, j < sp.words.length → 0x20000 ≤ 64 * sp.region + sp.s + j ∧ 64 * sp.region + sp.s + j < 0x20001)
    ∧ (let full : MemSys → MemSys := fun m => { m with caches := [(combSet 0 (0x20000 / 64), (upTo 24).map (fun k =>
          { region := 0x20000 / 64 + 64 * k, s := 0, words := [{ data := 1, valid := 0xFF, owned := true, pend := some 2 }, { data := 2, valid := 0xFF, owned := true, pend := some 2 }, { data := 3, valid := 0xFF, owned := true, pend := some 2 }] }))] }
       isyncSplit (tCommit full id) 0 [(0x20001, 0x20002, 0)] = none) := by
  refine ⟨by decide +kernel, by decide +kernel, by decide +kernel, ⟨by decide +kernel, by decide +kernel⟩, by decide +kernel⟩

/-- R91, R110: a predicate of kind V faults as it arrives; a discarded block gives back the word its WAITB took. -/
theorem test_faults_on_arrival :
    tFault (exec (.tokenDelivery 4) (tFly (.add .ifZero .none (tl 1)) {} .third (.v 0 1))) = some (4, 0)
    ∧ (ctxOf (takeTrap (modCtx tThree 0 (fun x => { x with blocks := x.blocks.map (fun b => { b with taken := 0x14 }) })) 0 0x10 5 64 3) 0).batFault = 0x14 := by decide +kernel

/-- A timed BAR of count 0 in a gang of two whose other member has arrived, or not. -/
def tCountZero (here : List Nat) : State := performBar { tGang here with arrivals := [] } 0 1 .tmd 0

/-- The hypotheses of CopiesChildrenAndBarriersAreRecorded for a BAR of count 0: the last arrival of its phase and another. -/
theorem test_meets_count_zero :
    (∀ r, r < 2 → r = 0 ∨ r ∈ [1]) ∧ (launchOf (tGang [1]) 0).x * (launchOf (tGang [1]) 0).y * (launchOf (tGang [1]) 0).z = 2 ∧ (ctxOf (tGang []) 0).task.map (·.rank) = some (some 0) := by decide +kernel

/-- R253: a BAR of count 0 whose arrival is the last waits for the phase's end, and another runs out at once. -/
theorem test_count_zero : (ctxOf (tCountZero [1]) 0).barWait.map (·.left) = [none] ∧ (ctxOf (tCountZero []) 0).barWait.map (·.left) = [some 0] := by decide +kernel

/-- The hypotheses of TileLoadsAndStoresAccessTheirRows for a transposed buffer, and of WritesAndAtomicsReachTheirHomes for a float addition. -/
theorem test_meets_transposed : (∃ s f b, Issued s f b ∧ TileReady (.tst .always false true 0 0 0) s f b) ∧ ∃ r : StoreOp, r = .amo .fadd .w 0x10000 1 .none :=
  ⟨⟨_, _, _, test_issued_tile (.tst .always false true 0 0 0) tScr tZero, test_tile_ready _ _ _ (by decide +kernel)⟩, ⟨_, rfl⟩⟩

/-- R227: 1.0 and 2.0 added, the old word zero-extended. -/
theorem test_float_add : atomicApply (.amo .fadd .w 0 0x40000000 .none) 0x3F800000 = (0x40400000, 0x3F800000) := by decide +kernel

/-- The hypotheses of LoadsReadTheirWordsAndDeliverThem for a lease asked and one held back by a delayed write, and for a load that faults when it is performed again. -/
theorem test_meets_leases :
    (let p : LPiece := { tPiece with pa := 0x8000000000000, mode := 2 }
     let r := tLoadReq (.scalar 8 false false) p []
     let s := { tWaiting r with md := { (tWaiting r).md with healthy := true } }
     (leaseKeys s r).length = 1 ∧ (∀ k ∈ leaseKeys s r, delayedAt s (remoteTag k) = false)
       ∧ ∀ k ∈ leaseKeys s r, delayedAt { s with ms := { s.ms with delayed := [(6, { region := remoteTag k / 64, until_ := 0, msg := 4 })] } } (remoteTag k) = true)
    ∧ (∃ r : LoadReq, r.recheck = some .n) ∧ (∃ r : LoadReq, r.recheck = some (.s 1)) ∧ (tLoadReq (.vec 3) tPiece []).recheck = none :=
  ⟨by decide +kernel, ⟨{ tLoadReq (.vec 3) tPiece [] with recheck := some .n }, rfl⟩, ⟨{ tLoadReq (.vec 3) tPiece [] with recheck := some (.s 1) }, rfl⟩, rfl⟩

/-- A COPYB to an endpoint with ports 1 and 3, whose RSIG is given. -/
def tNetCopy (rsig phase : Nat) : CopyReq :=
  { tCopy .lin [0x10000, 0, 0x10100, 0, 8] 0 with net := some 2, started := true, netPhase := phase, entry := [0, 0, 0, 0, 0b1010, 0, 0, BitVec.ofNat 64 rsig] }

/-- The hypotheses of WatchesWalksCopiesAndBarriersGoOn for a request across the network: its only chunk, the atomic with RSIG and without, and the last acknowledgement; a chunk behind a
far home, and no far home. -/
theorem test_meets_networks :
    (∀ n ∈ [0, 1, 2], ∀ r ∈ [0, 0x40], copyBehind (tCopying (tNetCopy r n) id) 2 (tNetCopy r n) = false ∧ (tNetCopy r n).started = true ∧ (tNetCopy r n).netPhase = n
      ∧ copyFar (tCopying (tNetCopy r n) id) (tNetCopy r n) = none)
    ∧ (chunkPlan (tCopying (tNetCopy 0 0) id) (tNetCopy 0 0) (descOf (tNetCopy 0 0)) 0).sends.map (·.1) = [0x10100] ∧ netPorts (tNetCopy 0 0) = [1, 3] := by decide +kernel

/-- R358: the write to the endpoint, the atomic to RSIG, and the end after the last acknowledgement. -/
theorem test_networks :
    (let s := tNext (exec (.copyChunk 2) (tCopying (tNetCopy 0x40 0) id)); (s.rdmaOut.map (fun o => (o.peer, o.port, o.va, o.bytes.length)), (mfind 2 s.ms.copies).map (·.netPhase))) = ([(2, 1, 0x10100, 8)], some 1)
    ∧ (tNext (exec (.copyChunk 2) (tCopying (tNetCopy 0x40 1) id))).rdmaOut.map (fun o => (o.va, o.add)) = [(0x40, some (.allOnes 64))]
    ∧ ((mfind 2 (tNext (exec (.copyChunk 2) (tCopying (tNetCopy 0x40 2) id))).ms.copies).all (·.finished)) = true := by decide +kernel

/-- A queue of partition 0, whose device accesses start from die 1, with a packet in a line that the host holds on die 0. -/
def tFarQueue (g : Option Nat) : State :=
  { tPack tSignal (fun p => tQueues (fun x => { x with asked := g }) { p with ddie := 1 }) with
    ms := { tHost (tPack tSignal id).ms with owners := [(0x20000, .host)] } }

/-- The hypotheses of PacketsStartAndCompleteInOrder for a far home that keeps the packet's words waiting, asked and not, 2 ms ago and less. -/
theorem test_meets_far_queues :
    (∀ g ∈ [none, some 20000000, some 18000000], mayStart (tFarQueue g) 0 0 = true ∧ (readWaits (tFarQueue g) 0 0 [(0x10000, 64)]).isSome = true
      ∧ readFar (tFarQueue g) 0 0 [(0x10000, 64)] = some 0x10000 ∧ (queueOf (tFarQueue g) 0 0).asked = g)
    ∧ (20000000 < 20000000 + 2000000 ∧ 18000000 + 2000000 ≤ 20000000) ∧ readFar (tPack tSignal id) 0 0 [(0x10000, 64)] = none
    ∧ writeFar { tPack tSignal (fun p => { p with ddie := 1 }) with ms := tHost2 (tPack tSignal id).ms } 0 [0x10100] = some 0x10100 := by decide +kernel

/-- R333, R336: the wait noted, and after 2 ms the queue stopped with QFLT. -/
theorem test_far_queues :
    (queueOf (tNext (exec (.signal 0 0) (tFarQueue none))) 0 0).asked = some 20000000 ∧ (queueOf (tNext (exec (.signal 0 0) (tFarQueue (some 18000000)))) 0 0).qflt = true
    ∧ (queueOf (tNext (exec (.signal 0 0) (tFarQueue (some 20000000)))) 0 0).qflt = false := by decide +kernel

/-- The hypotheses of PrivilegedPacketsHaveTheirEffects for a context whose save as parked is under way, and of TimersReserveSaveAndWatch for a module that does not run, frames that are
usable and not, and a failed save with nothing waiting. -/
theorem test_meets_saving :
    (let s := modCtx (tParked false [10, 1, 0, 0, 0, 0, 0, 0] id) 1 (fun x => { x with phase := .saving true true }); (∃ full, (ctxOf s 1).phase = .saving full true) ∧ (ctxOf s 1).part = 0)
    ∧ (isUp (tCheck 0 false 20000000) = true ∧ isUp { State.reset with md := { State.reset.md with power := .off } } = false)
    ∧ (frameUsable (tReserve false (tCheck 0 false 5000000)) 0 0 = true ∧ frameUsable (tReserve false (tCheck 0 false 5000000)) 0 1 = false)
    ∧ (partOf (tPreempt 0) 0).poolRetry = [] := ⟨⟨⟨true, rfl⟩, rfl⟩, by decide +kernel, by decide +kernel, by decide +kernel⟩

/-- R329: RESUME lets a context whose save is under way go on as one that is placed again. -/
theorem test_resume_saving :
    (ctxOf (tNext (exec (.resume 0 0) (modCtx (tParked false [10, 1, 0, 0, 0, 0, 0, 0] id) 1 (fun x => { x with phase := .saving true true })))) 1).phase = .saving true false := by decide +kernel

/-- The hypotheses of OutsideRequestsReachTheirHomes for a fault record that waits for leases, a message number of the device's own, and partitions with no record waiting. -/
theorem test_meets_waiting_records :
    (let s := { tOut1 (fun m => { m with delayed := [(6, { region := 0x20000 / 64, until_ := 4999999, msg := recordMsg 0 })] }) with gtime := 5000000 }
     ∃ d, mfind 6 s.ms.delayed = some d ∧ d.msg = recordMsg 0 ∧ d.until_ < s.gtime ∧ mfind d.msg s.ms.regs = none ∧ mfind d.msg s.ms.uwrites = none ∧ mfind d.msg s.ms.amos = none
       ∧ mfind d.msg s.ms.copies = none ∧ mfind d.msg s.ms.outside = none)
    ∧ (∀ p ∈ (tOut1 id).parts, p.2.records = []) ∧ 2 ^ 95 ≤ recordMsg 0 := ⟨⟨_, rfl, rfl, by decide, rfl, rfl, rfl, rfl, rfl⟩, by decide +kernel, by decide⟩

/-- The hypotheses of TimeErrorsAndClocksActAsStated for unseen errors in a copy, a slice, a reply and a comb store, for a proxy copy's error, and for readings that trip. -/
theorem test_meets_unseen :
    ((combWord (tCommit tClean id).ms 0 (0x100001 / 8)).isSome = true ∧ combWord (tCommit id id).ms 0 (0x100001 / 8) = none ∧ codeTells 0x100001 0xFF = true ∧ codeTells 0x100001 0 = false)
    ∧ (let s := tPack [7, 0, 0, 0, 0, 0, 0, 0] id; (setWord (mget [] (sliceKey 0 (0x100000 / 8)) s.ms.hives) (0x100000 / 512) (0x100000 / 8 % 64)).isSome = true)
    ∧ (let s := tWaiting (tLoadReq (.vec 3) tPiece [(0x20000, (5, false))]); (((mfind 0 s.ms.loads).bind (fun r => mfind (0x100000 / 8) r.got)) = some (5, false)))
    ∧ (isWindow 0x040000000000 = true ∧ (windowOf 0x040000000000).2 < 0x18C000 ∧ isLocal 0x040000000000 = false)
    ∧ (let w := 0x8000000000000 / 8
       let s := tCommit (fun m => { m with hives := [(sliceKey 1 w, [{ region := w / 64, s := 0, words := [{ data := 9, valid := 0xFF }] }])] }) id
       isLocal (8 * w) = false ∧ isFabric (8 * w) = true ∧ (setWord (mget [] (sliceKey 1 w) s.ms.hives) (w / 64) (w % 64)).isSome = true)
    ∧ (tMd id).md.power = .running := by decide +kernel

/-- R338, R368: a copy's changed byte poisons it; a clock step's reading of 110 °C trips the module. -/
theorem test_unseen :
    (combWord (tNext (exec (.sramError (.unseen (.copy 0 0x100001) 0xFF) true) (tCommit tClean id))).ms 0 0x20000).map (fun c => (c.data, c.poison)) = some (0xFF09, true)
    ∧ (tNext (exec (.clockStepDown 0 110) (tMd id))).md.power = .tripped := by decide +kernel

/-- The hypotheses of StartsStopsAndFramesMoveAsStated for a stop that ends in a start, and for a reservation that keeps its frames and one that has lost one. -/
theorem test_meets_readied :
    (∃ x : Partition, x.enWanted = true) ∧ (∃ r : Reservation, ∀ f ∈ r.frames, frameUsable (tCheck 0 false 5000000) 0 f = true) ∧ ∃ r : Reservation, ∃ f ∈ r.frames, frameUsable (tCheck 0 false 5000000) 0 f = false :=
  ⟨⟨{ enWanted := true }, rfl⟩, ⟨{ launch := 5, frames := [0], since := 0 }, by decide +kernel⟩, ⟨{ launch := 5, frames := [1], since := 0 }, 1, by decide +kernel, by decide +kernel⟩⟩

end Sys2Proof.Machine
end

/-! PROOF of EveryStepAnswersANextState. The meaning of an instruction word is always the issued word's (`RunsIssued`), so it faults only where
the latch holds no word of a block in flight, and the step runs no word then; the meaning of an operation or event names its next state. -/

namespace Sys2Proof.Machine

/-! ## The forms of an instruction word's meaning -/

/-- The outcome is that of the word in the issue latch: the latch is taken and something done with it (R89). -/
def RunsIssued (s : State) (o : Out) : Prop := ∃ k, o = withIssue s k

theorem RunsIssued.next_of_issued {s : State} {o : Out} {f : Issue} {b : Block} (ho : RunsIssued s o) (h : Issued s f b) :
    ∃ t, o = .next t := by
  obtain ⟨k, rfl⟩ := ho
  exact ⟨_, withIssue_issued h k⟩

theorem RunsIssued.ne_refused {s : State} {o : Out} (ho : RunsIssued s o) (r : Refusal) : o ≠ .refused r := by
  obtain ⟨k, rfl⟩ := ho
  unfold withIssue
  split
  · exact nofun
  · split <;> exact nofun

theorem withIssue_runsIssued (s k) : RunsIssued s (withIssue s k) := ⟨k, rfl⟩

theorem fire0_runsIssued (p s k) : RunsIssued s (fire0 p s k) := withIssue_runsIssued _ _

theorem fire1_runsIssued (p s n k) : RunsIssued s (fire1 p s n k) := fire0_runsIssued _ _ _

theorem fire2_runsIssued (p s n k) : RunsIssued s (fire2 p s n k) := fire0_runsIssued _ _ _

theorem fire3_runsIssued (s n k) : RunsIssued s (fire3 s n k) := withIssue_runsIssued _ _

theorem exitReg_runsIssued (p call s) : RunsIssued s (exitReg p call s) := fire1_runsIssued _ _ _ _

theorem moveLeft_runsIssued (p ts s) : RunsIssued s (moveLeft p ts s) := fire0_runsIssued _ _ _

theorem scalar1_runsIssued (p lat ts f s) : RunsIssued s (scalar1 p lat ts f s) := fire1_runsIssued _ _ _ _

theorem scalar2l_runsIssued (p lat ts f s) : RunsIssued s (scalar2l p lat ts f s) := fire2_runsIssued _ _ _ _

theorem scalar2_runsIssued (p lat ts f s) : RunsIssued s (scalar2 p lat ts f s) := scalar2l_runsIssued _ _ _ _ _

theorem scalar3_runsIssued (ts f s) : RunsIssued s (scalar3 ts f s) := fire3_runsIssued _ _ _

theorem test2_runsIssued (p t1 t0 r s) : RunsIssued s (test2 p t1 t0 r s) := scalar2_runsIssued _ _ _ _ _

theorem testI_runsIssued (p imm t0 r s) : RunsIssued s (testI p imm t0 r s) := scalar1_runsIssued _ _ _ _ _

theorem immOp_runsIssued (p lat imm t0 f s) : RunsIssued s (immOp p lat imm t0 f s) := scalar1_runsIssued _ _ _ _ _

theorem vector1_runsIssued (p lat ts f s) : RunsIssued s (vector1 p lat ts f s) := fire1_runsIssued _ _ _ _

theorem vector2_runsIssued (p lat ts f s) : RunsIssued s (vector2 p lat ts f s) := fire2_runsIssued _ _ _ _

theorem vector3_runsIssued (lat ts f s) : RunsIssued s (vector3 lat ts f s) := fire3_runsIssued _ _ _

theorem lanewise_runsIssued (p lat ty op t1 t0 s) : RunsIssued s (lanewise p lat ty op t1 t0 s) := vector2_runsIssued _ _ _ _ _

theorem vectorScalar_runsIssued (p lat ts f s) : RunsIssued s (vectorScalar p lat ts f s) := fire2_runsIssued _ _ _ _

theorem scalarToken_runsIssued (p lat ts f s) : RunsIssued s (scalarToken p lat ts f s) := fire1_runsIssued _ _ _ _

theorem scalarLoad_runsIssued (p ls sz acq hint off t0 s) : RunsIssued s (scalarLoad p ls sz acq hint off t0 s) := fire1_runsIssued _ _ _ _

theorem scalarStore_runsIssued (p ls sz rel hint off s) : RunsIssued s (scalarStore p ls sz rel hint off s) := fire2_runsIssued _ _ _ _

theorem triggered_runsIssued (p ts s k) : RunsIssued s (triggered p ts s k) := fire0_runsIssued _ _ _

theorem trowWrite_runsIssued (p ts s k) : RunsIssued s (trowWrite p ts s k) := fire1_runsIssued _ _ _ _

/-! ## Instruction words -/

theorem execLdv_runsIssued (p ls masked hint off t0 s) : RunsIssued s (execLdv p ls masked hint off t0 s) := by
  unfold execLdv
  split
  · exact fire2_runsIssued _ _ _ _
  · exact fire1_runsIssued _ _ _ _

theorem execVmask_runsIssued (p fn t1 t0 s) : RunsIssued s (execVmask p fn t1 t0 s) := by
  cases fn with
  | mtos | getv => exact vector1_runsIssued _ _ _ _ _
  | stom | first => exact scalarToken_runsIssued _ _ _ _ _
  | setv | andv => exact vectorScalar_runsIssued _ _ _ _ _

theorem execBar_runsIssued (p ch ls mode s) : RunsIssued s (execBar p ch ls mode s) := by
  cases mode with
  | wait | arr => exact fire0_runsIssued _ _ _
  | tmd => exact fire1_runsIssued _ _ _ _

theorem execPhint_runsIssued (p form s) : RunsIssued s (execPhint p form s) := by
  cases form with
  | imm => exact fire0_runsIssued _ _ _
  | reg => exact fire1_runsIssued _ _ _ _

theorem execTop_runsIssued (p op cell t1 t0 s) : RunsIssued s (execTop p op cell t1 t0 s) := by
  cases op with
  | rscale | rsub => exact fire2_runsIssued _ _ _ _
  | zeroBuf | zeroAcc | trans | conv | rmax | rsum | exp2 | a2b => exact triggered_runsIssued _ _ _ _

theorem execTrow_runsIssued (p op cell idx row chunk t1 t0 s) : RunsIssued s (execTrow p op cell idx row chunk t1 t0 s) := by
  cases op with
  | rb | ra => exact triggered_runsIssued _ _ _ _
  | wb | wa => exact trowWrite_runsIssued _ _ _ _

/-- The meaning of an instruction word is the issued word's. -/
theorem exec_runsIssued (i : Instr) (s : State) (h : i.isWord = true) : RunsIssued s (exec i s) := by
  unfold exec
  cases i with
  | nop | genc | badr | rd | wr | sel => exact withIssue_runsIssued _ _
  | exit | call | halt | tret | null | trap | gets | fence | batch | waitb | join | geti | mma | pget => exact fire0_runsIssued _ _ _
  | sets | vunpk | copy | pset => exact fire1_runsIssued _ _ _ _
  | addc | ldg | stv | sts | amo | cas | watch | flushr | span | claim | isync | fork | tld | tst => exact fire2_runsIssued _ _ _ _
  | adc | vsel | vins => exact fire3_runsIssued _ _ _
  | exitr | callr | ret => exact exitReg_runsIssued _ _ _
  | mov | mov4 => exact moveLeft_runsIssued _ _ _
  | teq | tne | tlt | tle | tltu | tleu => exact test2_runsIssued _ _ _ _ _
  | teqi | tnei | tlti | tlei | tgti | tgei => exact testI_runsIssued _ _ _ _ _
  | appc | shli | shri | sari | clz | ctz | popc | brev | bswap | sxb | sxh | sxw | zxb | zxh | zxw | neg | not | abs => exact scalar1_runsIssued _ _ _ _ _
  | add | sub | mul | mulh | and | or | xor | andn | shl | shr | sar | ror | min | max | lea | bfx | lop3 => exact scalar2_runsIssued _ _ _ _ _
  | div | rem => exact scalar2l_runsIssued _ _ _ _ _
  | addi | muli | andi | ori | xori => exact immOp_runsIssued _ _ _ _ _ _
  | bfi => exact scalar3_runsIssued _ _ _
  | vadd | vsub | vmul | vmin | vmax | vand | vor | vxor | vshl | vshr | vsar => exact lanewise_runsIssued _ _ _ _ _ _ _
  | vswz | vred | vscan | vcvt | vsfu => exact vector1_runsIssued _ _ _ _ _
  | vcmp | vperm | vpack | vlop3 => exact vector2_runsIssued _ _ _ _ _
  | vfma | vdot => exact vector3_runsIssued _ _ _ _
  | vsplat => exact scalarToken_runsIssued _ _ _ _ _
  | vext => exact vectorScalar_runsIssued _ _ _ _ _
  | ld | lda => exact scalarLoad_runsIssued _ _ _ _ _ _ _ _
  | st | stl => exact scalarStore_runsIssued _ _ _ _ _ _ _
  | ldv => exact execLdv_runsIssued _ _ _ _ _ _ _
  | vmask => exact execVmask_runsIssued _ _ _ _ _
  | bar => exact execBar_runsIssued _ _ _ _ _
  | phint => exact execPhint_runsIssued _ _ _
  | top => exact execTop_runsIssued _ _ _ _ _ _
  | trow => exact execTrow_runsIssued _ _ _ _ _ _ _ _ _
  | _ => cases h

/-! ## Operations and events -/

theorem execRegistration_next (n : Nat) (s : State) : ∃ t, execRegistration n s = .next t := by
  unfold execRegistration
  split
  · exact ⟨_, rfl⟩
  · repeat' split
    all_goals exact ⟨_, rfl⟩

theorem execCopyChunk_next (n : Nat) (s : State) : ∃ t, execCopyChunk n s = .next t := by
  unfold execCopyChunk
  split
  · exact ⟨_, rfl⟩
  · split <;> exact ⟨_, rfl⟩

/-- A message tried again names its next state, whichever of the waiting messages it is (R161). -/
theorem retryMessage_next (n : Nat) (s : State) : ∃ t, retryMessage n s = .next t := by
  unfold retryMessage
  split
  · exact execRegistration_next n s
  split
  · exact ⟨_, rfl⟩
  split
  · exact ⟨_, rfl⟩
  split
  · exact execCopyChunk_next n s
  repeat' split
  all_goals exact ⟨_, rfl⟩

theorem execLeasedWriteApply_next (n : Nat) (s : State) : ∃ t, execLeasedWriteApply n s = .next t := by
  unfold execLeasedWriteApply
  cases mfind n s.ms.delayed with
  | none => exact ⟨_, rfl⟩
  | some d =>
    obtain ⟨t, ht⟩ := retryMessage_next d.msg s
    simp only [ht]
    repeat' split
    all_goals exact ⟨_, rfl⟩

/-- The meaning of an operation or event names its next state on every branch; noIssue is raised by words alone. -/
theorem exec_event_next (i : Instr) (s : State) (h : i.isWord = false) : ∃ t, exec i s = .next t := by
  unfold exec
  cases i with
  | registration => exact execRegistration_next _ _
  | copyChunk => exact execCopyChunk_next _ _
  | leasedWriteApply => exact execLeasedWriteApply_next _ _
  | writeAck | amoAtHome | launch | depwait | depwaitReread | signal | copyb | policy | fwin | tlbinv | sealRange | unsealRange | resume
  | marker | packetComplete | queueBind | queueUnbind | qpWatchdog | dispatchDecision | dispatchRetry | preemptionDecision | faultDecision
  | starvationCheck | reservation | compaction | preemptTimeout | saveComplete | preemptRetry | noProgress | portDrop | syncLoss | sramError
  | clockStepDown | clockStepUp | thermalTrip | powerOn | startStage | startFailure | stopComplete | qwr | qbase | qctl | qflt
  | partitionStop | partitionStart | pframes | registerWrite | imgchunk | imgcommit | attest | owner | resetWarm | resetCold | resetClear
  | powerLoss | timeBaseResume | mailboxCommandComplete => exact ⟨_, rfl⟩
  | cellIssue | weightRecompute | tokenDelivery | blockFetch | blockCommit | growthComplete | compactTimeout | compositionRefused | mmaPass
  | loadReply | homeRead | sliceEcho | watchExpired | flushrWalk | barrierArrival | barTimeout | onchipWindowAccess | remoteTimeout
  | leaseRequest | hostRead | hostWrite | bisnpResponse | fabricRequest | inboundRdma | timeExchange | frameScrubDone =>
    -- each lookup and guard only chooses which next state
    dsimp only [execCellIssue, execWeightRecompute, execTokenDelivery, execBlockFetch, execBlockCommit, execGrowthComplete, execCompactTimeout,
      execCompositionRefused, execMmaPass, execLoadReply, execHomeRead, execSliceEcho, execWatchExpired, execFlushrWalk,
      execBarrierArrival, execBarTimeout, execOnchipWindowAccess, execRemoteTimeout, execLeaseRequest, execHostRead,
      execHostWrite, execBisnpResponse, execFabricRequest, execInboundRdma, execTimeExchange, execFrameScrubDone]
    repeat' split
    all_goals exact ⟨_, rfl⟩
  | _ => cases h

/-! ## The step -/

/-- No meaning is refused. -/
theorem exec_ne_refused (i : Instr) (s : State) (r : Refusal) : exec i s ≠ .refused r := by
  cases hi : i.isWord with
  | true => exact (exec_runsIssued i s hi).ne_refused r
  | false =>
    obtain ⟨t, ht⟩ := exec_event_next i s hi
    simp only [ht, ne_eq, reduceCtorEq, not_false_eq_true]

/-- With a word of a block in flight in the latch, every meaning answers a next state. -/
theorem exec_issued {s : State} {f : Issue} {b : Block} (h : Issued s f b) (i : Instr) : ∃ t, exec i s = .next t := by
  cases hi : i.isWord with
  | true => exact (exec_runsIssued i s hi).next_of_issued h
  | false => exact exec_event_next i s hi

/-- The issued word's step: a latch whose block is gone is dropped, and a word that encodes nothing faults within its block (R113). -/
theorem runIssue_next {s : State} {f : Issue} (h : s.issue = some f) : ∃ t, runIssue s f = .next t := by
  unfold runIssue
  split
  · exact ⟨_, rfl⟩
  · next b hb =>
    split
    · exact exec_issued ⟨h, hb⟩ _
    · exact ⟨_, rfl⟩

/-- A planned event's step: a word no cell has issued does nothing. -/
theorem runPlanned_next (s : State) (p : Planned) (rest : List Planned) : ∃ t, runPlanned s p rest = .next t := by
  unfold runPlanned
  cases h : exec p.op (passTime { s with agenda := rest } p.cc) with
  | next t => exact ⟨t, by simp only [h]⟩
  | fault e => exact ⟨passTime { s with agenda := rest } p.cc, by simp only [h]⟩
  | refused r => exact absurd h (exec_ne_refused _ _ r)

/-- An event chosen because it changes something answers a next state. -/
theorem exec_next_of_auto {s : State} {i : Instr} (h : auto s = some i) : ∃ t, exec i s = .next t := by
  have hc : changes s i = true := List.find?_some h
  unfold changes at hc
  split at hc
  · exact ⟨_, ‹_›⟩
  · cases hc

theorem runAuto_next (s : State) : ∃ t, runAuto s = .next t := by
  unfold runAuto
  split
  · exact exec_next_of_auto ‹_›
  · exact ⟨_, rfl⟩

/-- Settles O38: the step's three parts (the issued word, a planned event, the machine's own event or time) each answer. -/
theorem everyStepAnswersANextState : Obligations.EveryStepAnswersANextState := by
  intro s
  unfold step
  split
  · exact runIssue_next ‹_›
  · split
    · exact runPlanned_next s _ _
    · exact runAuto_next s

end Sys2Proof.Machine

/-! PROOF of ResetLeavesTheMachineIdle. Every map of the reset state is empty, so each context, frame, partition and queue reads as its type's
default. -/

namespace Sys2Proof.Machine

@[simp] theorem ctxOf_reset (c : Nat) : ctxOf State.reset c = {} := rfl
@[simp] theorem partOf_reset (p : Nat) : partOf State.reset p = {} := rfl
@[simp] theorem queueOf_reset (p q : Nat) : queueOf State.reset p q = {} := rfl

/-- Settles O40: each part of the statement is the default of its field. -/
theorem resetLeavesTheMachineIdle : Obligations.ResetLeavesTheMachineIdle := by
  refine ⟨rfl, rfl, rfl, rfl, rfl, rfl, fun c => ?_, fun _ => rfl, fun p => ?_⟩
  · simp only [ctxOf_reset, and_self]
  · simp only [partOf_reset, queueOf_reset, and_self, implies_true]

end Sys2Proof.Machine

/-! PROOF of ReadyInstructionsIssueAndTokensFillSlots. A cell's pick is `earliest` of the instructions that have waited 192 cc, else of the slot that
`roundRobin` names; a token's arrival is told apart by the slot it finds and by the predicate it completes. -/

namespace Sys2Proof.Machine

/-! ## The pick of a cell (R52) -/

theorem earliest_append_none {l : List Cand} (h : earliest l = none) (b : Cand) : earliest (l ++ [b]) = some b := by
  simp only [earliest] at h ⊢
  simp only [List.foldl_append, List.foldl_cons, List.foldl_nil, h]

theorem earliest_append_some {l : List Cand} {a : Cand} (h : earliest l = some a) (b : Cand) :
    earliest (l ++ [b]) = if b.since < a.since then some b else some a := by
  simp only [earliest] at h ⊢
  simp only [List.foldl_append, List.foldl_cons, List.foldl_nil, h]

/-- The earliest of a list is one of its members that became ready no later than any; an empty list has none. -/
theorem earliest_cases (l : List Cand) :
    (l = [] ∧ earliest l = none) ∨ ∃ a ∈ l, earliest l = some a ∧ ∀ o ∈ l, a.since ≤ o.since := by
  obtain ⟨r, rfl⟩ : ∃ r, l = r.reverse := ⟨l.reverse, l.reverse_reverse.symm⟩
  induction r with
  | nil => exact .inl ⟨rfl, rfl⟩
  | cons b r ih =>
    rw [List.reverse_cons]
    generalize r.reverse = l at ih
    refine .inr ?_
    rcases ih with ⟨rfl, he⟩ | ⟨a, ha, he, hle⟩
    · exact ⟨b, List.mem_singleton_self b, earliest_append_none he b, fun o ho => (List.mem_singleton.mp ho ▸ Nat.le_refl b.since)⟩
    · have happ := earliest_append_some he b
      split at happ
      · next hba =>
        refine ⟨b, by simp, happ, fun o ho => ?_⟩
        rcases List.mem_append.mp ho with ho | ho
        · exact Nat.le_trans (Nat.le_of_lt hba) (hle o ho)
        · exact List.mem_singleton.mp ho ▸ Nat.le_refl b.since
      · next hba =>
        refine ⟨a, List.mem_append_left _ ha, happ, fun o ho => ?_⟩
        rcases List.mem_append.mp ho with ho | ho
        · exact hle o ho
        · rw [List.mem_singleton.mp ho]; exact Nat.le_of_not_lt hba

theorem mem_rangeFrom {a n k : Nat} : k ∈ rangeFrom a n ↔ a ≤ k ∧ k < a + n := by
  induction n generalizing a with
  | zero => simp only [rangeFrom, List.not_mem_nil, false_iff]; omega
  | succ n ih => simp only [rangeFrom, List.mem_cons, ih]; omega

/-- Deficit round robin picks a slot that has a ready instruction wherever one of the eight slots does: the visited slot, or the first after it. -/
theorem roundRobin_some {has : Nat → Bool} {v : Nat} (hv : v < 8) (h : has v = true) (k : Cell) :
    ∃ w u, roundRobin k has = some (w, u) ∧ has w = true := by
  unfold roundRobin
  split
  · next hk => exact ⟨_, _, rfl, (Bool.and_eq_true _ _ ▸ hk).1⟩
  · have hd : (v + 7 - k.visit % 8) % 8 + 1 ∈ rangeFrom 1 8 := mem_rangeFrom.mpr (by omega)
    have hvisit : (k.visit + ((v + 7 - k.visit % 8) % 8 + 1)) % 8 = v := by omega
    split
    · next hnone =>
      have := List.findSome?_eq_none_iff.mp hnone _ hd
      simp [hvisit, h] at this
    · next w hw =>
      obtain ⟨d, -, hd⟩ := List.exists_of_findSome?_eq_some hw
      split at hd
      · next hd' => cases hd; exact ⟨_, _, rfl, hd'⟩
      · cases hd

theorem roundRobin_none (k : Cell) : roundRobin k (fun _ => false) = none := by
  simp [roundRobin, rangeFrom]

/-- Among some ready instructions a cell picks one, and no other one that has been ready for 192 cc became ready earlier. -/
theorem pickIssue_some (s : State) (k : Cell) {rs : List Cand} (h : rs ≠ []) :
    ∃ a ∈ rs, ∃ u, pickIssue s k rs = some (a, u) ∧ ∀ o ∈ rs, o.since + 192 ≤ s.cycles → a.since ≤ o.since := by
  unfold pickIssue
  rcases earliest_cases (rs.filter (fun a => decide (a.since + 192 ≤ s.cycles))) with ⟨hnil, he⟩ | ⟨a, ha, he, hle⟩
  · obtain ⟨b, hb⟩ := List.exists_mem_of_ne_nil rs h
    obtain ⟨w, u, hrr, hw⟩ := roundRobin_some (has := fun v => rs.any (fun a => slotOf a.ctx == v)) (Nat.mod_lt b.ctx (by decide))
      (List.any_eq_true.mpr ⟨b, hb, beq_self_eq_true _⟩) k
    obtain ⟨d, hd, hdw⟩ := List.any_eq_true.mp hw
    simp only [he, hrr]
    rcases earliest_cases (rs.filter (fun a => slotOf a.ctx == w)) with ⟨hnone, -⟩ | ⟨a, ha, hea, -⟩
    · exact absurd hdw (List.filter_eq_nil_iff.mp hnone d hd)
    · exact ⟨a, (List.mem_filter.mp ha).1, u, by rw [hea]; rfl,
        fun o ho h192 => absurd (decide_eq_true h192) (List.filter_eq_nil_iff.mp hnil o ho)⟩
  · exact ⟨a, (List.mem_filter.mp ha).1, k, by rw [he], fun o ho h192 => hle o (List.mem_filter.mpr ⟨ho, decide_eq_true h192⟩)⟩

theorem pickIssue_nil (s : State) (k : Cell) : pickIssue s k [] = none := by
  simp [pickIssue, earliest, roundRobin_none]

theorem chooseIssue_none {s : State} {comb cell : Nat}
    (h : heldReady (readyList s comb cell) = [] ∨ (mget {} (16 * comb + cell) s.cells).issuedAt = some s.cycles) : chooseIssue s comb cell = none := by
  unfold chooseIssue
  rcases h with h | h
  · simp only [h, pickIssue_nil, Option.map_none, ite_self]
  · simp only [h, beq_self_eq_true, if_true]

/-- A cell that has issued nothing this cc issues one of the instructions it holds, and notes that it has. -/
theorem chooseIssue_some {s : State} {comb cell : Nat} (h : heldReady (readyList s comb cell) ≠ [])
    (hk : (mget {} (16 * comb + cell) s.cells).issuedAt ≠ some s.cycles) :
    ∃ a ∈ heldReady (readyList s comb cell), ∃ u, chooseIssue s comb cell = some (a, u) ∧ u.issuedAt = some s.cycles
      ∧ ∀ o ∈ heldReady (readyList s comb cell), o.since + 192 ≤ s.cycles → a.since ≤ o.since := by
  unfold chooseIssue
  simp only [beq_eq_false_iff_ne.mpr hk, Bool.false_eq_true, if_false]
  obtain ⟨a, ha, u, hp, hle⟩ := pickIssue_some s _ h
  exact ⟨a, ha, _, congrArg (Option.map _) hp, rfl, hle⟩

theorem mem_of_mem_heldReady {l : List Cand} {o : Cand} (h : o ∈ heldReady l) : o ∈ l := by
  unfold heldReady at h
  split at h
  · exact h
  · obtain ⟨⟨a, n⟩, ha, rfl⟩ := List.mem_map.mp h
    exact List.fst_mem_of_mem_zipIdx (List.mem_filter.mp ha).1

theorem heldReady_of_length_le {l : List Cand} (h : l.length ≤ 64) : heldReady l = l := if_pos h

/-! ## Weights (R53) -/

theorem mfind_of_not_key {α : Type} {v : Nat} {m : SMap α} (h : v ∉ m.map (·.1)) : mfind v m = none := by
  induction m with
  | nil => rfl
  | cons p m ih =>
    simp only [List.map_cons, List.mem_cons, not_or] at h
    simp only [mfind, if_neg (Ne.symm h.1), ih h.2]

theorem newWeights_cons (j w : Nat) (m : SMap Nat) :
    newWeights ((j, w) :: m) = if min 8 (1 + w / 1024) = 1 then newWeights m else (j, min 8 (1 + w / 1024)) :: newWeights m := by
  simp only [newWeights, List.map_cons, List.filter_cons, bne_iff_ne, ne_eq, ite_not]

theorem not_key_newWeights {v : Nat} {sums : SMap Nat} (h : v ∉ sums.map (·.1)) : v ∉ (newWeights sums).map (·.1) := by
  intro hv
  obtain ⟨p, hp, rfl⟩ := List.mem_map.mp hv
  obtain ⟨q, hq, rfl⟩ := List.mem_map.mp (List.mem_filter.mp hp).1
  exact h (List.mem_map.mpr ⟨q, hq, rfl⟩)

/-- A slot's weight is 1 + its occupancy sum / 1,024, at most 8; the weight 1 is not listed. -/
theorem mget_newWeights {sums : SMap Nat} (h : (sums.map (·.1)).Nodup) (v : Nat) :
    mget 1 v (newWeights sums) = min 8 (1 + mget 0 v sums / 1024) := by
  induction sums with
  | nil => simp [newWeights, mget, mfind]
  | cons p m ih =>
    obtain ⟨j, w⟩ := p
    obtain ⟨hj, hm⟩ := List.nodup_cons.mp h
    specialize ih hm
    rw [newWeights_cons]
    by_cases hjv : j = v
    · subst hjv
      have hnone := mfind_of_not_key (not_key_newWeights hj)
      split
      · next h1 => simp [mget, mfind, hnone, h1]
      · simp [mget, mfind]
    · split
      · simpa [mget, mfind, hjv] using ih
      · simpa [mget, mfind, hjv] using ih

/-! ## Token delivery (R89 to R91, R110) -/

theorem advance_zero (s : State) : advance s 0 = s := rfl

/-- A token that is due and whose block is in flight arrives at its node. -/
theorem exec_tokenDelivery {s : State} {n : Nat} {p : NetTok} {b : Block} (hp : mfind n s.net = some p) (hdue : p.due ≤ s.cycles)
    (hb : blockOf (ctxOf s p.ctx) p.tag = some b) :
    exec (.tokenDelivery n) s = .next (arrive { s with net := mdel n s.net } p.ctx p.tag p.idx b p.slot p.tok) := by
  show execTokenDelivery n s = _
  have hb' : blockOf (ctxOf { s with net := mdel n s.net } p.ctx) p.tag = some b := hb
  simp only [execTokenDelivery, hp, Nat.sub_eq_zero_of_le hdue, advance_zero, hb']

theorem prMatch_eq_false_iff {p : Pr} {t : Token} : prMatch p (some t) = some false ↔ Mismatches p t := by
  refine ⟨fun h => ?_, prMatch_mismatches⟩
  cases p <;> cases t <;> simp_all [prMatch, Mismatches]

theorem prMatch_eq_none_iff {p : Pr} {t : Token} : prMatch p (some t) = none ↔ p ≠ .always ∧ ∃ l v, t = .v l v := by
  cases p <;> cases t <;> simp [prMatch]

theorem badPred_iff {i : Instr} {n : Node} :
    badPred i n = true ↔ isThree i = false ∧ predOf i ≠ .always ∧ ∃ l v, n.third = some (.v l v) := by
  cases h3 : n.third with
  | none => simp [badPred, h3]
  | some t =>
    simp only [badPred, h3, Bool.and_eq_true, Bool.not_eq_true', bne_iff_ne, Option.isSome_some, and_true, beq_iff_eq,
      prMatch_eq_none_iff, Option.some.injEq]
    exact ⟨fun ⟨⟨hthree, hp⟩, _, ht⟩ => ⟨hthree, hp, ht⟩, fun ⟨hthree, hp, ht⟩ => ⟨⟨hthree, hp⟩, hp, ht⟩⟩

/-- Whether the token in a node's predicate slot does not match the instruction's predicate (R91). -/
def unmatched (i : Instr) (n : Node) : Bool := !isThree i && predOf i != .always && n.third.isSome && prMatch (predOf i) n.third == some false

theorem unmatched_iff {i : Instr} {n : Node} :
    unmatched i n = true ↔ isThree i = false ∧ ∃ t, n.third = some t ∧ Mismatches (predOf i) t := by
  have hne : ∀ t, Mismatches (predOf i) t → predOf i ≠ .always := fun t h he => by rw [he] at h; exact h
  cases h3 : n.third with
  | none => simp [unmatched, h3]
  | some t =>
    simp only [unmatched, h3, Bool.and_eq_true, Bool.not_eq_true', bne_iff_ne, Option.isSome_some, and_true, beq_iff_eq,
      prMatch_eq_false_iff, Option.some.injEq, exists_eq_left']
    exact ⟨fun h => ⟨h.1.1, h.2⟩, fun h => ⟨⟨h.1, hne t h.2⟩, h.2⟩⟩

theorem allSlots_iff {i : Instr} {n : Node} : allSlots i n = true ↔ ∀ k, usesSlot i k = true → slotTok n k ≠ none := by
  have hslot : ∀ (u : Bool) (o : Option Token), (!u || o.isSome) = true ↔ (u = true → o ≠ none) := by
    intro u o; cases u <;> cases o <;> simp
  simp only [allSlots, Bool.and_eq_true, hslot]
  refine ⟨fun ⟨⟨hl, hr⟩, ht⟩ k => ?_, fun h => ⟨⟨h .left, h .right⟩, h .third⟩⟩
  cases k with
  | left => exact hl
  | right => exact hr
  | third => exact ht

@[simp] theorem putTok_st (n : Node) (k : Slot) (t : Token) : (putTok n k t).st = n.st := by cases k <;> rfl

/-- The progress of a waiting instruction once a token has filled one of its slots (R89, R91). -/
def filledSt (s : State) (i : Instr) (n : Node) : NodeSt := if unmatched i n then .resolved else if allSlots i n then .ready s.cycles else .waiting

theorem filledSt_cases (s : State) (i : Instr) (n : Node) :
    let mismatch := isThree i = false ∧ ∃ t, n.third = some t ∧ Mismatches (predOf i) t
    let full := ∀ k, usesSlot i k = true → slotTok n k ≠ none
    (mismatch → filledSt s i n = .resolved) ∧ (¬mismatch → full → filledSt s i n = .ready s.cycles) ∧ (¬mismatch → ¬full → filledSt s i n = .waiting) := by
  simp only [← unmatched_iff, ← allSlots_iff]
  exact ⟨fun h => by simp [filledSt, h], fun h h' => by simp [filledSt, h, h'], fun h h' => by simp [filledSt, h, h']⟩

section arrive
variable {s : State} {c tag idx : Nat} {b : Block} {k : Slot} {t : Token}

theorem arrive_full (h : slotTok (nodeOf b idx) k ≠ none) :
    arrive s c tag idx b k t = recordFault (quench s c tag idx) ⟨c, tag, idx, none, none, none⟩ 0x04 1 := by
  simp only [arrive, Option.isSome_iff_ne_none.mpr h, if_true]

theorem arrive_badPred (h : slotTok (nodeOf b idx) k = none) (hw : (nodeOf b idx).st = .waiting) {i : Instr} (hi : instrAt b.words idx = some i)
    (hbad : badPred i (putTok (nodeOf b idx) k t) = true) :
    arrive s c tag idx b k t =
      recordFault (modBlock s c tag (fun b' => modNode b' idx (fun _ => putTok (nodeOf b idx) k t))) ⟨c, tag, idx, none, none, none⟩ 0x04 0 := by
  simp only [arrive, h, Option.isSome_none, Bool.false_eq_true, if_false, putTok_st, hw, hi, beq_self_eq_true, Option.any_some, hbad, Bool.and_self,
    if_true]

theorem arrive_waiting (h : slotTok (nodeOf b idx) k = none) (hw : (nodeOf b idx).st = .waiting) {i : Instr} (hi : instrAt b.words idx = some i)
    (hgood : badPred i (putTok (nodeOf b idx) k t) = false) :
    arrive s c tag idx b k t =
      modBlock s c tag (fun b' => modNode b' idx (fun _ => { putTok (nodeOf b idx) k t with st := filledSt s i (putTok (nodeOf b idx) k t) })) := by
  simp only [arrive, h, Option.isSome_none, Bool.false_eq_true, if_false, putTok_st, hw, hi, beq_self_eq_true, Option.any_some, hgood, Bool.and_false]
  rfl

/-- A token that reaches an instruction which does not wait, or a word that encodes none, only fills its slot. -/
theorem arrive_other (h : slotTok (nodeOf b idx) k = none) (hw : (nodeOf b idx).st ≠ .waiting ∨ instrAt b.words idx = none) :
    arrive s c tag idx b k t = modBlock s c tag (fun b' => modNode b' idx (fun _ => { putTok (nodeOf b idx) k t with st := (nodeOf b idx).st })) := by
  have hskip : ((nodeOf b idx).st == .waiting && (instrAt b.words idx).any (fun i => badPred i (putTok (nodeOf b idx) k t))) = false := by
    rcases hw with hw | hi
    · simp only [beq_eq_false_iff_ne.mpr hw, Bool.false_and]
    · simp only [hi, Option.any_none, Bool.and_false]
  simp only [arrive, h, Option.isSome_none, Bool.false_eq_true, if_false, putTok_st, hskip]
  split
  · next hw' hi' =>
    rcases hw with hw | hi
    · exact absurd hw' hw
    · rw [hi] at hi'; cases hi'
  · rfl

end arrive

/-- A fault recorded against an instruction leaves nothing of it under way (R110). -/
theorem quench_quiet (s : State) (c tag idx : Nat) :
    (∀ l ∈ (quench s c tag idx).ms.loads, ¬(l.2.ctx = c ∧ l.2.tag = tag ∧ l.2.idx = idx))
    ∧ ∀ q ∈ (quench s c tag idx).jobs, ∀ j ∈ q.2, ¬(j.ctx = c ∧ j.tag = tag ∧ j.idx = idx) := by
  refine ⟨fun l hl => ?_, fun q hq j hj => ?_⟩
  · have hf := (List.mem_filter.mp hl).2
    simpa only [Bool.not_eq_true', ← Bool.not_eq_true, Bool.and_eq_true, beq_iff_eq, and_assoc] using hf
  · obtain ⟨p, -, rfl⟩ := List.mem_map.mp hq
    have hf := (List.mem_filter.mp hj).2
    simpa only [Bool.not_eq_true', ← Bool.not_eq_true, Bool.and_eq_true, beq_iff_eq, and_assoc] using hf

/-! ## The statement -/

theorem cellIssue_effects (s : State) (comb cell : Nat) :
    let ready := heldReady (readyList s comb cell)
    let key := 16 * comb + cell
    let k : Cell := mget {} key s.cells
    (∀ a, wakeOf s comb cell = some a → Becomes (.cellIssue comb cell) s (latch s a))
    ∧ (wakeOf s comb cell = none → ready = [] ∨ k.issuedAt = some s.cycles → Becomes (.cellIssue comb cell) s s)
    ∧ (wakeOf s comb cell = none → ready ≠ [] → k.issuedAt ≠ some s.cycles → ∃ a ∈ ready, ∃ u,
        Becomes (.cellIssue comb cell) s (latch { s with cells := mput key u s.cells } a) ∧ u.issuedAt = some s.cycles
        ∧ ∀ o ∈ ready, o.since + 192 ≤ s.cycles → a.since ≤ o.since) := by
  have hexec : exec (.cellIssue comb cell) s = execCellIssue comb cell s := rfl
  refine ⟨fun a ha => ?_, fun hw h => ?_, fun hw h hk => ?_⟩
  · simp only [Becomes, hexec, execCellIssue, ha]
  · simp only [Becomes, hexec, execCellIssue, hw, chooseIssue_none h]
  · obtain ⟨a, ha, u, hu, hi, hle⟩ := chooseIssue_some h hk
    exact ⟨a, ha, u, by simp only [Becomes, hexec, execCellIssue, hw, hu], hi, hle⟩

theorem weightRecompute_effects (s : State) (comb cell : Nat) :
    let key := 16 * comb + cell
    let k : Cell := mget {} key s.cells
    (s.cycles < k.weightAt + 1024 → Becomes (.weightRecompute comb cell) s s)
    ∧ (k.weightAt + 1024 ≤ s.cycles → (k.sums.map (·.1)).Nodup → ∃ u,
        Becomes (.weightRecompute comb cell) s { s with cells := mput key u s.cells }
        ∧ u.sums = [] ∧ u.weightAt = k.weightAt + 1024 ∧ ∀ v, mget 1 v u.weight = min 8 (1 + mget 0 v k.sums / 1024)) := by
  have hexec : exec (.weightRecompute comb cell) s = execWeightRecompute comb cell s := rfl
  refine ⟨fun h => ?_, fun h hn => ⟨recomputeWeights (mget {} (16 * comb + cell) s.cells), ?_, rfl, rfl, mget_newWeights hn⟩⟩
  · simp only [Becomes, hexec, execWeightRecompute, if_pos h]
  · simp only [Becomes, hexec, execWeightRecompute, if_neg (Nat.not_lt.mpr h)]

theorem latch_issue (s : State) (a : Cand) (b : Block) (h : blockOf (ctxOf s a.ctx) a.tag = some b) :
    (latch s a).issue = some ⟨a.ctx, a.tag, a.idx, (nodeOf b a.idx).left, (nodeOf b a.idx).right, (nodeOf b a.idx).third⟩ := by
  simp only [latch, h, modCtx_issue]

theorem arrive_effects (s : State) (c tag idx : Nat) (b : Block) (k : Slot) (t : Token) :
    let m := nodeOf b idx
    let q := putTok m k t
    slotTok m k = none → (m.st = .waiting → ∀ i, instrAt b.words idx = some i → badPred i q = false) → ∃ st,
      arrive s c tag idx b k t = modBlock s c tag (fun b => modNode b idx (fun _ => { q with st := st }))
      ∧ (m.st ≠ .waiting → st = m.st) ∧ (m.st = .waiting → ∀ i, instrAt b.words idx = some i → st = filledSt s i q) := by
  intro m q hslot hgood
  by_cases hw : m.st = .waiting
  · cases hi : instrAt b.words idx with
    | none => exact ⟨m.st, arrive_other hslot (.inr hi), fun _ => rfl, fun _ i h => nomatch h⟩
    | some i =>
      exact ⟨filledSt s i q, arrive_waiting hslot hw hi (hgood hw i hi), fun h => absurd hw h, fun _ j hj => by rw [Option.some.inj hj]⟩
  · exact ⟨m.st, arrive_other hslot (.inl hw), fun _ => rfl, fun h => absurd h hw⟩

/-- Settles O46: the pick and the weights of a cell, the operands that go to the latch, and the four ways in which a token may arrive. -/
theorem readyInstructionsIssueAndTokensFillSlots : Obligations.ReadyInstructionsIssueAndTokensFillSlots := by
  refine ⟨fun s comb cell => ?_, latch_issue, fun s n p b hp hdue hb => ?_⟩
  · obtain ⟨hwake, hidle, hpick⟩ := cellIssue_effects s comb cell
    obtain ⟨hearly, hdue⟩ := weightRecompute_effects s comb cell
    exact ⟨hwake, hidle, hpick, ⟨fun o => mem_of_mem_heldReady, heldReady_of_length_le⟩, hearly, hdue⟩
  · intro s' m q
    have hexec : exec (.tokenDelivery n) s = .next (arrive s' p.ctx p.tag p.idx b p.slot p.tok) := exec_tokenDelivery hp hdue hb
    simp only [Becomes, hexec, Host.Outcome.next.injEq]
    refine ⟨fun h => ?_, fun h hw i hi hbad => arrive_badPred h hw hi hbad, fun i => badPred_iff, fun h hgood => ?_⟩
    · obtain ⟨hloads, hjobs⟩ := quench_quiet s' p.ctx p.tag p.idx
      exact ⟨quench s' p.ctx p.tag p.idx, arrive_full h, hloads, hjobs, rfl⟩
    · obtain ⟨st, hst, hother, hwaiting⟩ := arrive_effects s' p.ctx p.tag p.idx b p.slot p.tok h hgood
      refine ⟨st, hst, hother, fun hw i hi => ?_⟩
      rw [hwaiting hw i hi]
      exact filledSt_cases s' i q

end Sys2Proof.Machine

/-! PROOF of GrowthsAndMatrixPassesEnd. Each of the three events of a growth is one test of its context's phase and growth; a pass that ends is squashed or ends
its instruction, and the fields of the status token are sums of terms that do not overlap. -/

namespace Sys2Proof.Machine

/-! ## Growths (R39 to R42, R48) -/

theorem foldl_keeps {α β γ : Type} (f : α → γ) {g : α → β → α} (h : ∀ a b, f (g a b) = f a) (l : List β) (a : α) : f (l.foldl g a) = f a := by
  induction l generalizing a with
  | nil => rfl
  | cons b l ih => exact (ih (g a b)).trans (h a b)

/-- Clearing tile state changes no context. -/
@[simp] theorem clearTiles_ctxs (s : State) (x : Ctx) (c : Nat) (h : List W64) (combs : List Nat) : (clearTiles s x c h combs).ctxs = s.ctxs := by
  unfold clearTiles
  refine foldl_keeps State.ctxs (fun s comb => ?_) combs s
  exact foldl_keeps State.ctxs (by intros; rfl) (upTo 4) s

/-- A context that has grown runs at its new composition, its registers as they were (R41). -/
theorem growNow_same (s : State) (c : Nat) (g : Growth) (bs : SMap (Nat × Nat)) :
    ctxOf (growNow s c g bs) c =
      { ctxOf s c with k := g.k, bases := bs.foldl (fun m p => mput p.1 p.2 m) (ctxOf s c).bases, growth := none, phase := .running } := by
  simp only [growNow, ctxOf, clearTiles_ctxs, setCtx, mget_mput_same]

section growth
variable {s : State} {c : Nat} {g : Growth} (hp : (ctxOf s c).phase = .growing) (hg : (ctxOf s c).growth = some g)
include hp hg

theorem exec_growthComplete_room {r : SMap (Nat × Nat)} (hr : growthRoom s c g.k = some r) :
    exec (.growthComplete c) s = .next (if g.halting ∨ g.resume then takeNext (growNow s c g r) c else growNow s c g r) := by
  show execGrowthComplete c s = _
  simp only [execGrowthComplete, hp, hg, hr, Bool.or_eq_true]

theorem exec_growthComplete_noRoom (hr : growthRoom s c g.k = none) : exec (.growthComplete c) s = .next s := by
  show execGrowthComplete c s = _
  simp only [execGrowthComplete, hp, hg, hr]

theorem exec_compactTimeout_early (h : s.gtime < g.since + (g.rounds + 1) * compactNs s (ctxOf s c)) :
    exec (.compactTimeout c) s = .next s := by
  show execCompactTimeout c s = _
  simp only [execCompactTimeout, hp, hg, if_pos h]

theorem exec_compactTimeout_due (h : g.since + (g.rounds + 1) * compactNs s (ctxOf s c) ≤ s.gtime) :
    exec (.compactTimeout c) s = .next (modCtx ((inTheWay s c g.k).foldl (fun s o => requestPreempt s o false) s) c
      (fun x => { x with growth := some { g with rounds := g.rounds + 1 } })) := by
  show execCompactTimeout c s = _
  simp only [execCompactTimeout, hp, hg, if_neg (Nat.not_lt.mpr h)]

theorem exec_compositionRefused_early (h : g.halting = true ∨ s.gtime < g.since + 2 * compactNs s (ctxOf s c)) :
    exec (.compositionRefused c) s = .next s := by
  show execCompositionRefused c s = _
  have htest : (g.halting || decide (s.gtime < g.since + 2 * compactNs s (ctxOf s c))) = true := by
    simpa only [Bool.or_eq_true, decide_eq_true_eq] using h
  simp only [execCompositionRefused, hp, hg, htest, if_true]

/-- A growth that is refused traps in the state its context has by then: a task to be resumed has been resumed (R48). -/
theorem exec_compositionRefused_due (hh : g.halting = false) (h : g.since + 2 * compactNs s (ctxOf s c) ≤ s.gtime) {t : State}
    (ht : (if g.resume then resumeSmall s c else s) = t) :
    exec (.compositionRefused c) s = .next (takeTrap t c 0x15 (BitVec.ofNat 64 g.k) (ctxOf t c).next 0x3FF) := by
  show execCompositionRefused c s = _
  have htest : (g.halting || decide (s.gtime < g.since + 2 * compactNs s (ctxOf s c))) = false := by
    simpa only [hh, Bool.false_or, decide_eq_false_iff_not, Nat.not_lt] using h
  simp only [execCompositionRefused, hp, hg, htest, Bool.false_eq_true, if_false, ht]

theorem growth_effects :
    let wait := 1000 * (partOf s (ctxOf s c).part).tcomp
    (∀ r, growthRoom s c g.k = some r → Becomes (.growthComplete c) s (if g.halting ∨ g.resume then takeNext (growNow s c g r) c else growNow s c g r)
        ∧ (ctxOf (growNow s c g r) c).k = g.k ∧ (ctxOf (growNow s c g r) c).phase = .running ∧ (ctxOf (growNow s c g r) c).regs = (ctxOf s c).regs)
    ∧ (growthRoom s c g.k = none → Becomes (.growthComplete c) s s)
    ∧ (g.since + (g.rounds + 1) * wait ≤ s.gtime → Becomes (.compactTimeout c) s
        (modCtx ((inTheWay s c g.k).foldl (fun s o => requestPreempt s o false) s) c (fun x => { x with growth := some { g with rounds := g.rounds + 1 } })))
    ∧ (s.gtime < g.since + (g.rounds + 1) * wait → Becomes (.compactTimeout c) s s)
    ∧ (g.halting = false → g.resume = false → g.since + 2 * wait ≤ s.gtime →
        Becomes (.compositionRefused c) s (takeTrap s c 0x15 (BitVec.ofNat 64 g.k) (ctxOf s c).next 0x3FF))
    ∧ (g.halting = false → g.resume = true → g.since + 2 * wait ≤ s.gtime → Becomes (.compositionRefused c) s
        (takeTrap (resumeSmall s c) c 0x15 (BitVec.ofNat 64 g.k) (ctxOf (resumeSmall s c) c).next 0x3FF))
    ∧ (g.halting = true ∨ s.gtime < g.since + 2 * wait → Becomes (.compositionRefused c) s s) := by
  refine ⟨fun r hr => ⟨exec_growthComplete_room hp hg hr, by simp only [growNow_same, and_self]⟩, exec_growthComplete_noRoom hp hg,
    exec_compactTimeout_due hp hg, exec_compactTimeout_early hp hg, fun hh hr h => ?_, fun hh hr h => ?_, exec_compositionRefused_early hp hg⟩
  · exact exec_compositionRefused_due hp hg hh h (by simp only [hr, Bool.false_eq_true, if_false])
  · exact exec_compositionRefused_due hp hg hh h (by simp only [hr, if_true])

end growth

/-! ## Passes of the matrix unit (R279 to R281) -/

/-- The job of a squashed pass: one rank higher, its next pass timed from the end of this one (R279). -/
def squashed (j : MmaJob) (e : Nat) : MmaJob :=
  { j with rung := j.rung + 1, replays := j.replays + 1, ends := some (e + passCc j.mode (j.rung + 1)) }

section pass
variable {s : State} {comb cell : Nat} {j : MmaJob} {rest : List MmaJob} {b : Block} {e : Nat}
  (hj : mget [] (4 * comb + cell) s.jobs = j :: rest) (hb : blockOf (ctxOf s j.ctx) j.tag = some b) (he : j.ends = some e) (hle : e ≤ s.cycles)
include hj hb he hle

/-- A pass that is due is squashed, its job staying first at the next rank, or ends. -/
theorem exec_mmaPass_due :
    exec (.mmaPass comb cell) s = if replays j (passOf s (ctxOf s j.ctx) b j) then
        .next { s with jobs := mput (4 * comb + cell) (squashed j e :: rest) s.jobs }
      else .next (endPass { s with jobs := mput (4 * comb + cell) rest s.jobs } (ctxOf s j.ctx) b j (passOf s (ctxOf s j.ctx) b j)) := by
  show execMmaPass comb cell s = _
  simp only [execMmaPass, hj, hb, he, Option.getD_some, Nat.sub_eq_zero_of_le hle, advance_zero, squashed]

theorem mmaPass_effects :
    let r := passOf s (ctxOf s j.ctx) b j
    let jobs : List MmaJob → State := fun l => { s with jobs := mput (4 * comb + cell) l s.jobs }
    (replays j r = true → ∃ k, Becomes (.mmaPass comb cell) s (jobs (k :: rest)) ∧ k.rung = j.rung + 1 ∧ k.replays = j.replays + 1 ∧ k.ctx = j.ctx ∧ k.tag = j.tag ∧ k.idx = j.idx)
    ∧ (replays j r = false → ∃ u : TAcc, u.data = r.data ∧ (j.sticky = true → u.sr = j.rung)
        ∧ (j.sticky = false → u.sr = (accSeen s j.ctx (ctxOf s j.ctx) b j.cell j.acc).sr)
        ∧ Becomes (.mmaPass comb cell) s (finish
            (modBlock (shade (jobs rest) j.ctx j.tag j.cell j.acc u) j.ctx j.tag (fun b => { b with ranks := mput j.idx (j.rung, j.replays) b.ranks }))
            ⟨j.ctx, j.tag, j.idx, none, none, none⟩ 0 [j.t0, j.t1] (.s (mmaStatus r j.replays j.start j.rung)))) := by
  intro r jobs
  have hexec := exec_mmaPass_due hj hb he hle
  refine ⟨fun h => ?_, fun h => ?_⟩
  · exact ⟨_, hexec.trans (if_pos h), rfl, rfl, rfl, rfl, rfl⟩
  · refine ⟨{ data := r.data, sr := if j.sticky then j.rung else (accSeen s j.ctx (ctxOf s j.ctx) b j.cell j.acc).sr }, rfl,
      fun hs => if_pos hs, fun hs => if_neg (by simp [hs]), ?_⟩
    exact hexec.trans (if_neg (by rw [h]; exact Bool.false_ne_true))

end pass

/-- The fields of an MMA's status token (R281). -/
theorem mmaStatus_fields (r : PassResult) (n start rank : Nat) (hc : r.canc < 2 ^ 9) (hn : n < 2 ^ 4) (hs : start < 4) (hr : rank < 4) :
    let v := mmaStatus r n start rank
    (v.extractLsb' 0 2).toNat = rank ∧ (v.extractLsb' 2 2).toNat = start ∧ (v.extractLsb' 4 4).toNat = n ∧ (v.extractLsb' 8 16).toNat = min r.satc 0xFFFF
    ∧ (v.extractLsb' 24 16).toNat = min r.undc 0xFFFF ∧ (v.extractLsb' 40 9).toNat = r.canc ∧ v.extractLsb' 49 15 = 0 := by
  intro v
  have hfield : ∀ lo w, (v.extractLsb' lo w).toNat =
      (2 ^ 40 * r.canc + 2 ^ 24 * min r.undc 0xFFFF + 2 ^ 8 * min r.satc 0xFFFF + n * 16 + start * 4 + rank) % 2 ^ 64 / 2 ^ lo % 2 ^ w := by
    intro lo w
    simp only [v, mmaStatus, BitVec.extractLsb'_toNat, BitVec.toNat_ofNat, Nat.shiftRight_eq_div_pow]
  have hu : min r.undc 0xFFFF ≤ 0xFFFF := Nat.min_le_right ..
  have ht : min r.satc 0xFFFF ≤ 0xFFFF := Nat.min_le_right ..
  generalize min r.undc 0xFFFF = undc at *
  generalize min r.satc 0xFFFF = satc at *
  refine ⟨?_, ?_, ?_, ?_, ?_, ?_, BitVec.eq_of_toNat_eq ?_⟩ <;> simp only [hfield, BitVec.toNat_zero, BitVec.ofNat_eq_ofNat] <;> omega

/-- Settles O48: the events of a growth, the pass of the matrix unit that is due, and the fields of its status token. -/
theorem growthsAndMatrixPassesEnd : Obligations.GrowthsAndMatrixPassesEnd :=
  ⟨fun _ _ _ hp hg => growth_effects hp hg, fun _ _ _ _ _ _ _ hj hb he hle => mmaPass_effects hj hb he hle, mmaStatus_fields⟩

end Sys2Proof.Machine

/-! PROOF of PacketsOfAnyQueueHaveTheirEffects. A packet that starts has its effect in `started` (`becomes_started`), which differs from the state before in
the memory system's homes, in the queue and in the journal alone; each type's effect is then told apart by its device accesses. -/

namespace Sys2Proof.Machine

/-! ## What the device's own reads leave alone (R143) -/

@[simp] theorem checkSector_copies (m : MemSys) (k : Nat) : (checkSector m k).copies = m.copies := by
  unfold checkSector; split <;> rfl

@[simp] theorem memPutWord_copies (m : MemSys) (w : Nat) (d : W64) (poison : Bool) : (memPutWord m w d poison).copies = m.copies :=
  checkSector_copies m (w / 4)

@[simp] theorem hiveEvict_copies (m : MemSys) (out : List Span) : (hiveEvict m out).copies = m.copies := by
  unfold hiveEvict
  refine foldl_keeps MemSys.copies (fun m sp => ?_) out m
  refine foldl_keeps MemSys.copies (fun m p => ?_) sp.words.zipIdx m
  split
  · exact memPutWord_copies ..
  · rfl

@[simp] theorem homePut_copies (m : MemSys) (w : Nat) (d : W64) (poison : Bool) : (homePut m w d poison).copies = m.copies := by
  unfold homePut
  dsimp only
  split
  · rfl
  · split
    · exact hiveEvict_copies ..
    · exact memPutWord_copies ..

/-- A word returned to its home leaves the copy requests alone. -/
@[simp] theorem recallWord_copies (m : MemSys) (w : Nat) : (recallWord m w).copies = m.copies := by
  unfold recallWord
  split
  · split
    · split
      · rfl
      · dsimp only [updComb, writeBack]
        split
        · exact homePut_copies ..
        · rfl
    · rfl
  · rfl
  · rfl

theorem walkRecall_eq (s : State) (comb part va : Nat) : ∃ m, walkRecall s comb part va = { s with ms := m } ∧ m.copies = s.ms.copies := by
  unfold walkRecall
  split
  · exact ⟨s.ms, rfl, rfl⟩
  · split
    · next w _ =>
      refine ⟨_, rfl, foldl_keeps MemSys.copies (fun m a => ?_) w.reads s.ms⟩
      split
      · exact recallWord_copies ..
      · rfl
    · exact ⟨s.ms, rfl, rfl⟩

/-- Words that the device has read are written back to their homes: the memory system changes alone, and no copy request of it. -/
theorem devSeen_eq (s : State) (part va n : Nat) : ∃ m, devSeen s part va n = { s with ms := m } ∧ m.copies = s.ms.copies := by
  obtain ⟨m, hm, hc⟩ := walkRecall_eq s (128 * (partOf s part).ddie) part va
  refine ⟨_, by rw [devSeen, hm], ?_⟩
  exact (foldl_keeps MemSys.copies recallWord_copies _ _).trans hc

theorem seenAll_eq (s : State) (p : Nat) (rs : List (Nat × Nat)) : ∃ m, seenAll s p rs = { s with ms := m } ∧ m.copies = s.ms.copies := by
  induction rs generalizing s with
  | nil => exact ⟨s.ms, rfl, rfl⟩
  | cons r rs ih =>
    obtain ⟨m, hm, hc⟩ := devSeen_eq s p r.1 r.2
    obtain ⟨m', hm', hc'⟩ := ih (devSeen s p r.1 r.2)
    exact ⟨m', by rw [hm] at hm'; rw [seenAll, List.foldl_cons, hm]; exact hm', hc'.trans (by rw [hm, hc])⟩

theorem packetRead_eq (s : State) (p q : Nat) : ∃ m, packetRead s p q = { s with ms := m } ∧ m.copies = s.ms.copies := seenAll_eq ..

theorem packetSeen_eq (s : State) (p q : Nat) (ws : List W64) : ∃ m, packetSeen s p q ws = { s with ms := m } ∧ m.copies = s.ms.copies := by
  obtain ⟨m, hm, hc⟩ := packetRead_eq s p q
  unfold packetSeen
  dsimp only
  split
  · obtain ⟨m', hm', hc'⟩ := seenAll_eq { packetRead s p q with ms := undelay (packetRead s p q).ms (nextMsg s p q) } p (packetReads (packetRead s p q) p ws)
    refine ⟨m', ?_, hc'.trans ?_⟩
    · rw [hm', hm]
    · rw [hm]; exact hc
  · exact ⟨m, hm, hc⟩

/-! ## The state in which a packet has started (R291, R302) -/

/-- A journal record changes the queue processors' state alone (R302). -/
theorem journalAdd_eq (s : State) (kind p q idx : Nat) : ∃ d, journalAdd s kind p q idx = { s with dies := d } := by
  unfold journalAdd
  dsimp only
  split
  · exact ⟨_, rfl⟩
  · exact ⟨_, rfl⟩

/-- The record of a queue's next packet as it starts. -/
def openedPkt (s : State) (p q : Nat) (ws : List W64) : Packet := { idx := pktKey (queueOf s p q), words := ws, status := none, slot := nextSlot s p q }

/-- A queue whose next packet has started. -/
def openedQueue (s : State) (p q : Nat) (ws : List W64) : Queue :=
  { queueOf s p q with
    start := ((queueOf s p q).start + 1) % 2 ^ 32, pkts := mput (pktKey (queueOf s p q)) (openedPkt s p q ws) (queueOf s p q).pkts
    idle := s.gtime, asked := none }

theorem started_eq (s : State) (p q : Nat) (ws : List W64) :
    ∃ m d, started s p q ws = { modQueue s p q (fun _ => openedQueue s p q ws) with ms := m, dies := d } ∧ m.copies = s.ms.copies := by
  obtain ⟨m, hm, hc⟩ := packetSeen_eq s p q ws
  obtain ⟨d, hd⟩ := journalAdd_eq (modQueue (packetSeen s p q ws) p q (fun y => { y with
    start := (y.start + 1) % 2 ^ 32
    pkts := mput (pktKey (queueOf s p q)) (openedPkt s p q ws) y.pkts
    idle := (packetSeen s p q ws).gtime
    asked := none })) 0 p q (pktKey (queueOf s p q))
  refine ⟨m, d, ?_, hc⟩
  refine Eq.trans hd ?_
  rw [hm]
  rfl

section started
variable (s : State) (p q : Nat) (ws : List W64)

@[simp] theorem started_seq : (started s p q ws).seq = s.seq := by obtain ⟨m, d, h, -⟩ := started_eq s p q ws; rw [h]; rfl
@[simp] theorem started_gtime : (started s p q ws).gtime = s.gtime := by obtain ⟨m, d, h, -⟩ := started_eq s p q ws; rw [h]; rfl
@[simp] theorem started_launches : (started s p q ws).launches = s.launches := by obtain ⟨m, d, h, -⟩ := started_eq s p q ws; rw [h]; rfl
@[simp] theorem started_copies : (started s p q ws).ms.copies = s.ms.copies := by obtain ⟨m, d, h, hc⟩ := started_eq s p q ws; rw [h]; exact hc

/-- A packet that starts changes nothing of its partition but the queue. -/
@[simp] theorem partOf_started : partOf (started s p q ws) p =
    { partOf s p with queues := mput q (openedQueue s p q ws) (partOf s p).queues } := by
  obtain ⟨m, d, h, -⟩ := started_eq s p q ws
  rw [h]
  exact partOf_modPart_same s p (fun x => { x with queues := mput q (openedQueue s p q ws) x.queues })

@[simp] theorem queueOf_started : queueOf (started s p q ws) p q = openedQueue s p q ws := by
  rw [queueOf, partOf_started, mget_mput_same]

theorem mfind_openedQueue : mfind (pktKey (queueOf s p q)) (openedQueue s p q ws).pkts = some (openedPkt s p q ws) := mfind_mput_same ..

theorem slotOf_started : slotOf_ (started s p q ws) p q (pktKey (queueOf s p q)) = nextSlot s p q := by
  rw [slotOf_, queueOf_started, mfind_openedQueue]
  rfl

end started

/-! ## The packet that starts (R291, R294, R297) -/

theorem pkDenied_eq_false {s r : State} {p q : Nat} {ws : List W64} (h : ¬Denied s p q ws) (hr : (partOf r p).qpriv = (partOf s p).qpriv) :
    pkDenied r p q ws = false := by
  simp only [Denied, not_and, Bool.not_eq_false] at h
  simp only [pkDenied, pkPriv, hr, Bool.and_eq_false_iff, Bool.not_eq_false', decide_eq_false_iff_not]
  by_cases h5 : 5 ≤ pkType ws
  · by_cases h10 : pkType ws ≤ 10
    · exact .inr (h h5 h10)
    · exact .inl (.inr h10)
  · exact .inl (.inl h5)

/-- A well-formed packet with its privilege, whose accesses need not wait, begins in `started`. -/
theorem takePacket_started {s : State} {p q : Nat} {ws : List W64} (hhead : pkHeadOk ws = true) (hbody : pkBodyOk ws = true) (hpriv : ¬Denied s p q ws)
    (hfree : PacketFree s p q ws) :
    takePacket (packetRead s p q) p q (queueOf s p q) ws = packetEffect (started s p q ws) p q (pktKey (queueOf s p q)) ws := by
  obtain ⟨m, hm, -⟩ := packetRead_eq s p q
  have hread : pkDenied (packetRead s p q) p q ws = false := pkDenied_eq_false hpriv (by rw [hm]; rfl)
  have hstart : pkDenied (started s p q ws) p q ws = false := pkDenied_eq_false hpriv (by rw [partOf_started])
  have hok : (pkHeadOk ws && pkBodyOk ws && !pkDenied (packetRead s p q) p q ws) = true := by rw [hhead, hbody, hread]; rfl
  obtain ⟨hreads, hstores⟩ := hfree hok
  have hseen : packetSeen s p q ws =
      seenAll { packetRead s p q with ms := undelay (packetRead s p q).ms (nextMsg s p q) } p (packetReads (packetRead s p q) p ws) := if_pos hok
  have hbegin : takePacket (packetRead s p q) p q (queueOf s p q) ws = beginPacket (packetSeen s p q ws) p q (queueOf s p q) ws := by
    rw [hseen]
    rw [nextMsg] at hreads hstores ⊢
    simp only [takePacket, hok, if_true, hreads, hstores, Option.or_none]
  have hopen : openPacket (packetSeen s p q ws) p q (queueOf s p q) ws = started s p q ws := rfl
  rw [hbegin, beginPacket]
  simp only [hopen, hstart, hhead, hbody, Bool.false_eq_true, Bool.not_true, Bool.or_self, if_false]

theorem startPacket_started {s : State} {p q ty : Nat} {ws : List W64} (h : PacketStarts s p q ty ws) (h1 : 1 ≤ ty) (h11 : ty ≤ 11) :
    startPacket s p q ty = packetEffect (started s p q ws) p q (pktKey (queueOf s p q)) ws := by
  obtain ⟨⟨hmay, hwait, hwords, hnow⟩, hty, hhead, hbody, hpriv, hfree⟩ := h
  have htype : typeOf ws = ty := by
    rw [typeOf, hty]
    split
    · rfl
    · next hn => simp only [Bool.and_eq_true, decide_eq_true_eq, not_and] at hn; omega
  rw [← takePacket_started hhead hbody hpriv hfree]
  rw [nextMsg, nextSlot] at hwait
  rw [nextSlot] at hwords
  simp only [startPacket, hmay, Bool.not_true, Bool.false_eq_true, if_false, hwait, hwords, htype, bne_self_eq_false, hnow, Bool.or_self, packetRead,
    nextSlot]

theorem PacketStarts.type {s : State} {p q ty : Nat} {ws : List W64} (h : PacketStarts s p q ty ws) : pkType ws = ty := by
  obtain ⟨-, hty, -⟩ := h
  exact hty

/-- A packet of a listed type that starts has that type's effect. -/
theorem becomes_started {s t : State} {p q ty : Nat} {ws : List W64} (h : PacketStarts s p q ty ws) (h1 : 1 ≤ ty) (h11 : ty ≤ 11)
    (ht : packetEffect (started s p q ws) p q (pktKey (queueOf s p q)) ws = t) : Becomes (startOp p q ty) s t := by
  have hexec : exec (startOp p q ty) s = .next (startPacket s p q ty) := by
    have hlisted : ty = 1 ∨ ty = 2 ∨ ty = 3 ∨ ty = 4 ∨ ty = 5 ∨ ty = 6 ∨ ty = 7 ∨ ty = 8 ∨ ty = 9 ∨ ty = 10 ∨ ty = 11 := by omega
    rcases hlisted with rfl | rfl | rfl | rfl | rfl | rfl | rfl | rfl | rfl | rfl | rfl <;> rfl
  rw [Becomes, hexec, startPacket_started h h1 h11, ht]

/-! ## Fields of a packet's words (R292) -/

theorem bits_dw (ws : List W64) (k lo n : Nat) : bits (dw ws k) lo n = ((ws.getD k 0).extractLsb' lo n).toNat := by
  rw [bits, dw, BitVec.extractLsb'_toNat]

theorem bits_dw_one (ws : List W64) (k j : Nat) : (bits (dw ws k) j 1 == 1) = (ws.getD k 0).getLsbD j := by
  rw [bits_dw]
  simp [BitVec.extractLsb'_toNat, BitVec.getLsbD, Nat.testBit]

theorem bits_dw_zero (ws : List W64) (k j : Nat) : (bits (dw ws k) j 1 == 0) = !(ws.getD k 0).getLsbD j := by
  rw [← bits_dw_one]
  rcases Nat.mod_two_eq_zero_or_one (dw ws k >>> j) with h | h <;> simp only [bits, Nat.pow_one, h] <;> rfl

theorem clearBits_dw (ws : List W64) (k lo n : Nat) : clearBits (dw ws k) lo n = true ↔ (ws.getD k 0).extractLsb' lo n = 0 := by
  rw [clearBits, bits_dw, beq_iff_eq, ← BitVec.toNat_inj]
  rfl

/-! ## LAUNCH (R25, R49, R295) -/

/-- The launch of a LAUNCH packet, its header and arguments read. -/
def packetLaunch (t : State) (p q idx : Nat) (ws h args : List W64) : Launch :=
  { part := p, queue := q, idx := idx, hdr := h, args := args
    x := ((ws.getD 2 0).extractLsb' 0 32).toNat, y := ((ws.getD 2 0).extractLsb' 32 32).toNat, z := ((ws.getD 3 0).extractLsb' 0 32).toNat
    prio := ((ws.getD 0 0).extractLsb' 32 8).toNat, pin := (ws.getD 3 0).getLsbD 47, spill := dw ws 5
    spillu := ((ws.getD 3 0).extractLsb' 48 16).toNat, start := t.gtime, lastPlaced := t.gtime, depends := (queueOf t p q).waited }

/-- The state in which a packet's launch has been made. -/
def withLaunch (t : State) (l : Launch) : State := bumpSeq { t with launches := mput t.seq l t.launches }

section launch
variable {t : State} {p q idx : Nat} {ws : List W64}

theorem startLaunch_header {e : BitVec 8 × Nat} (h : devWords t p (dw ws 1) 8 = .error e) : startLaunch t p q idx ws = faultStatus t p q idx e := by
  simp only [startLaunch, h]
  rfl

theorem startLaunch_args {hd : List W64} {e : BitVec 8 × Nat} (h : devWords t p (dw ws 1) 8 = .ok hd)
    (ha : devWords t p (dw ws 4) ((ws.getD 3 0).extractLsb' 32 6).toNat = .error e) : startLaunch t p q idx ws = faultStatus t p q idx e := by
  simp only [startLaunch, bits_dw, h, ha]
  rfl

/-- A launch whose header and arguments have been read is judged by its header and, for a gang, by the frames of its partition. -/
theorem startLaunch_read {hd args : List W64} (h : devWords t p (dw ws 1) 8 = .ok hd)
    (ha : devWords t p (dw ws 4) ((ws.getD 3 0).extractLsb' 32 6).toNat = .ok args) :
    let u := withLaunch t (packetLaunch t p q idx ws hd args)
    startLaunch t p q idx ws =
      if !headerOk hd then malformed t p q idx 5 (dw ws 1)
      else if kGang hd && !gangFits u t.seq then malformed t p q idx 5 (dw ws 1)
      else requestDispatch (launchCheck u t.seq) p := by
  simp only [startLaunch, h, bits_dw_one]
  simp only [bits_dw, ha, pkPrio]
  rfl

/-- The same of a launch made under the number `n` in the state `u`. -/
theorem startLaunch_judged {hd args : List W64} {n : Nat} {u : State} (h : devWords t p (dw ws 1) 8 = .ok hd)
    (ha : devWords t p (dw ws 4) ((ws.getD 3 0).extractLsb' 32 6).toNat = .ok args)
    (hn : t.seq = n) (hu : withLaunch t (packetLaunch t p q idx ws hd args) = u) :
    let fits := kGang hd = true → gangFits u n = true
    (headerOk hd = false → startLaunch t p q idx ws = malformed t p q idx 5 (dw ws 1))
    ∧ (headerOk hd = true → ¬fits → startLaunch t p q idx ws = malformed t p q idx 5 (dw ws 1))
    ∧ (headerOk hd = true → fits → startLaunch t p q idx ws = requestDispatch (launchCheck u n) p) := by
  intro fits
  subst hn hu
  have hread := startLaunch_read (q := q) (idx := idx) h ha
  have hgang : (kGang hd && !gangFits (withLaunch t (packetLaunch t p q idx ws hd args)) t.seq) = true ↔ ¬fits := by
    simp only [fits, Bool.and_eq_true, Bool.not_eq_true', Classical.not_imp, Bool.not_eq_true]
  refine ⟨fun hbad => ?_, fun hok hmis => ?_, fun hok hfits => ?_⟩
  · rw [hread, if_pos (by rw [hbad]; rfl)]
  · rw [hread, if_neg (by rw [hok]; decide), if_pos (hgang.mpr hmis)]
  · rw [hread, if_neg (by rw [hok]; decide), if_neg (fun hg => hgang.mp hg hfits)]

end launch

theorem requestDispatch_launches (s : State) (p : Nat) : (requestDispatch s p).launches = s.launches := by
  unfold requestDispatch; split <;> rfl

/-- A launch is checked as ended by its number of tasks when none has been placed and none set aside. -/
theorem launchCheck_new {s : State} {n : Nat} {l : Launch} (h : launchOf s n = l) (hend : l.ending = false) (hlive : l.live = 0) (hkill : l.killing = false)
    (hnext : l.nextTile = 0) (hpre : l.preempted = []) (hrel : l.relocated = []) :
    launchCheck s n = if l.x * l.y * l.z = 0 then
        modPkt (modLaunch s n (fun l => { l with ending := true })) l.part l.queue l.idx
          (fun k => { k with status := some (if l.killed then 4 else 1), effect := true })
      else s := by
  simp only [launchCheck, h, hend, hlive, hkill, hnext, hpre, hrel, Nat.lt_irrefl, decide_false, Bool.false_or, Bool.not_false, Bool.true_and,
    List.isEmpty_nil, Bool.not_true, Bool.or_false, decide_eq_true_eq, Nat.pos_iff_ne_zero, ite_not]

/-- A new launch of no tasks ends its packet's effect as it is made; any other waits for its tasks. -/
theorem mfind_launchCheck {t u : State} {l : Launch} {n : Nat} (hn : t.seq = n) (hu : withLaunch t l = u) (hend : l.ending = false) (hlive : l.live = 0)
    (hkill : l.killing = false) (hnext : l.nextTile = 0) (hpre : l.preempted = []) (hrel : l.relocated = []) :
    mfind n (launchCheck u n).launches = some { l with ending := decide (l.x * l.y * l.z = 0) } := by
  subst hn hu
  have hl : launchOf (withLaunch t l) t.seq = l := mget_mput_same ..
  have hput : mfind t.seq (withLaunch t l).launches = some l := mfind_mput_same ..
  rw [launchCheck_new hl hend hlive hkill hnext hpre hrel]
  split
  · next h0 =>
    have hmod : mfind t.seq (modLaunch (withLaunch t l) t.seq (fun l => { l with ending := true })).launches = some { l with ending := true } := by
      rw [modLaunch, hl]; exact mfind_mput_same ..
    rw [decide_eq_true h0]
    exact hmod
  · next h0 => rw [hput, decide_eq_false h0, ← hend]

/-! ## DEPWAIT (R300) -/

section depwait
variable {s : State} {p q idx : Nat} {ws : List W64}

theorem readCounter_error {e : BitVec 8 × Nat} (h : devReadIn s p (dw ws 1) 8 = .error e) :
    readCounter s p q idx ws = stopQueue (endDepwait (deviceFault s p e idx q) p q idx 5) p q := by
  simp only [readCounter, h]

theorem readCounter_zero (h : devReadIn s p (dw ws 1) 8 = .ok 0) : readCounter s p q idx ws = endDepwait s p q idx 1 := by
  simp only [readCounter, h, beq_self_eq_true, if_true]

theorem readCounter_blocks {v : Nat} (h : devReadIn s p (dw ws 1) 8 = .ok v) (hv : v ≠ 0) :
    readCounter s p q idx ws = modQueue (modPkt s p q idx (fun k => { k with wait := counterKey s p (dw ws 1), note := s.gtime + 100000 })) p q
      (fun x => { x with blocked := true }) := by
  simp only [readCounter, h, beq_eq_false_iff_ne.mpr hv, Bool.false_eq_true, if_false]

theorem queueOf_modPkt {k : Packet} (h : mfind idx (queueOf s p q).pkts = some k) (f : Packet → Packet) :
    queueOf (modPkt s p q idx f) p q = { queueOf s p q with pkts := mput idx (f k) (queueOf s p q).pkts } := by
  simp only [modPkt, queueOf_modQueue_same, h]

end depwait

/-! ## SIGNAL and MARKER (R293, R298) -/

theorem startSignal_effects (s : State) (p q idx : Nat) (ws : List W64) :
    let irq : State → State := fun u => if dw ws 3 = 1 then raiseIrq u p (partOf u p).compv else u
    (dw ws 1 = 0 → startSignal s p q idx ws = endEffect (irq s) p q idx 1)
    ∧ (∀ e, dw ws 1 ≠ 0 → devPut s p (dw ws 1) 8 (dw ws 2) = .error e → startSignal s p q idx ws = faultStatus s p q idx e)
    ∧ (∀ u, dw ws 1 ≠ 0 → devPut s p (dw ws 1) 8 (dw ws 2) = .ok u → startSignal s p q idx ws = endEffect (irq u) p q idx 1) := by
  refine ⟨fun h => ?_, fun e h he => ?_, fun u h hu => ?_⟩
  · simp only [startSignal, h, beq_self_eq_true, if_true, beq_iff_eq]
  · simp only [startSignal, beq_eq_false_iff_ne.mpr h, Bool.false_eq_true, if_false, he]; rfl
  · simp only [startSignal, beq_eq_false_iff_ne.mpr h, Bool.false_eq_true, if_false, hu, beq_iff_eq]

theorem startMarker_effects (s : State) (p q idx : Nat) (ws : List W64) :
    (∀ e, devPut s p (dw ws 1) 8 (s.gtime % 2 ^ 64) = .error e → startMarker s p q idx ws = faultStatus s p q idx e)
    ∧ ∀ u, devPut s p (dw ws 1) 8 (s.gtime % 2 ^ 64) = .ok u → startMarker s p q idx ws = endEffect u p q idx 1 :=
  ⟨fun e he => by simp only [startMarker, he]; rfl, fun u hu => by simp only [startMarker, hu]⟩

/-! ## COPYB (R296, R358) -/

/-- An endpoint-table entry may be used where its reserved fields are zero, its queue pair has a depth and the destination lies in its range. -/
theorem endpointOk_iff (e : List W64) (dst len : Nat) :
    endpointOk e dst len = true ↔ (e.getD 2 0).extractLsb' 48 16 = 0 ∧ (e.getD 3 0).extractLsb' 40 24 = 0 ∧ (e.getD 3 0).extractLsb' 0 16 = 0
      ∧ (e.getD 4 0).extractLsb' 0 32 ≠ 0 ∧ (len = 0 ∨ (dw e 5 ≤ dst ∧ dst + len ≤ dw e 5 + dw e 6)) := by
  have hqp : (bits (dw e 4) 0 32 != 0) = true ↔ (e.getD 4 0).extractLsb' 0 32 ≠ 0 := by
    rw [bne_iff_ne, ne_eq, ← beq_iff_eq, ← clearBits, clearBits_dw]
  simp only [endpointOk, Bool.and_eq_true, clearBits_dw, hqp, Bool.or_eq_true, beq_iff_eq, decide_eq_true_eq, and_assoc]

/-- The two 32-bit lanes of a 64-bit number hold it. -/
theorem lanes_toNat {a : Nat} (h : a < 2 ^ 64) : (BitVec.ofNat 32 a).toNat + 2 ^ 32 * (BitVec.ofNat 32 (a / 2 ^ 32)).toNat = a := by
  rw [BitVec.toNat_ofNat, BitVec.toNat_ofNat]; omega

theorem dw_lt (ws : List W64) (k : Nat) : dw ws k < 2 ^ 64 := (ws.getD k 0).isLt

/-- The descriptor of a COPYB: its addresses and its length of 40 bits, linear and without conversion (R296). -/
theorem descOf_copybReq (s : State) (p q idx : Nat) (ws : List W64) (net : Option Nat) (entry : List W64) (hlen : dw ws 3 < 2 ^ 40) :
    let d := descOf (copybReq s p q idx ws net entry)
    d.saddr = dw ws 1 ∧ d.daddr = dw ws 2 ∧ d.dim0 = dw ws 3 ∧ dCvt d = false := by
  have hbits : bits (dw ws 3) 0 40 = dw ws 3 := Nat.mod_eq_of_lt hlen
  simp only [descOf, copybReq, readDesc, hbits, dCvt]
  simp only [lane_mkLanes _ _ (show 0 < 16 by decide), lane_mkLanes _ _ (show 1 < 16 by decide), lane_mkLanes _ _ (show 2 < 16 by decide),
    lane_mkLanes _ _ (show 3 < 16 by decide), lane_mkLanes _ _ (show 4 < 16 by decide), lane_mkLanes _ _ (show 5 < 16 by decide),
    lane_mkLanes _ _ (show 11 < 16 by decide)]
  exact ⟨lanes_toNat (dw_lt ws 1), lanes_toNat (dw_lt ws 2), lanes_toNat (dw_lt ws 3), rfl⟩

/-- A COPYB packet that is well formed has a length of at most 40 bits (R296). -/
theorem copyb_length {s : State} {p q : Nat} {ws : List W64} (h : PacketStarts s p q 4 ws) : dw ws 3 < 2 ^ 40 := by
  obtain ⟨-, hty, -, hbody, -⟩ := h
  simp only [pkBodyOk, hty, Bool.and_eq_true, decide_eq_true_eq] at hbody
  obtain ⟨⟨⟨⟨-, hlen⟩, -⟩, -⟩, -⟩ := hbody
  exact hlen

/-- The state in which a packet's copy request has been made. -/
def withCopy (t : State) (c : CopyReq) : State := bumpSeq { t with ms := { t.ms with copies := mput t.seq c t.ms.copies } }

section copyb
variable {t : State} {p q idx : Nat} {ws : List W64}

theorem startCopyb_local (h : (ws.getD 4 0).getLsbD 0 = false) : startCopyb t p q idx ws = withCopy t (copybReq t p q idx ws none []) := by
  have hzero : (bits (dw ws 4) 0 1 == 0) = true := by rw [bits_dw_zero, h]; rfl
  simp only [startCopyb, hzero, if_true]
  rfl

/-- A COPYB to another module reads the entry of its peer and is judged by it (R358). -/
theorem startCopyb_far {x : Partition} {slot : Nat} (h : (ws.getD 4 0).getLsbD 0 = true) (hlen : dw ws 3 < 2 ^ 40) (hx : partOf t p = x)
    (hslot : slotOf_ t p q idx = slot) :
    let peer := ((ws.getD 4 0).extractLsb' 8 16).toNat
    let tbl := devWords t p (x.epbase.toNat + 64 * peer) 8
    (x.epcnt ≤ peer → startCopyb t p q idx ws = malformed t p q idx 5 slot)
    ∧ (peer < x.epcnt →
        (∀ e, tbl = .error e → startCopyb t p q idx ws = faultStatus t p q idx e)
        ∧ (∀ e, tbl = .ok e → endpointOk e (dw ws 2) (dw ws 3) = false → startCopyb t p q idx ws = malformed t p q idx 5 slot)
        ∧ (∀ e, tbl = .ok e → endpointOk e (dw ws 2) (dw ws 3) = true →
            startCopyb t p q idx ws = withCopy t (copybReq t p q idx ws (some peer) e))) := by
  intro peer tbl
  have hone : (bits (dw ws 4) 0 1 == 0) = false := by rw [bits_dw_zero, h]; rfl
  have hpeer : bits (dw ws 4) 8 16 = peer := bits_dw ..
  have hbits : bits (dw ws 3) 0 40 = dw ws 3 := Nat.mod_eq_of_lt hlen
  refine ⟨fun hle => ?_, fun hlt => ⟨fun e he => ?_, fun e he hbad => ?_, fun e he hok => ?_⟩⟩
  · simp only [startCopyb, hone, hpeer, hx, hslot, Bool.false_eq_true, if_false, if_pos hle]
  all_goals
    simp only [tbl] at he
    simp only [startCopyb, hone, hpeer, hx, hslot, hbits, Bool.false_eq_true, if_false, if_neg (Nat.not_le.mpr hlt), he]
  · rfl
  · simp only [hbad, Bool.false_eq_true, if_false]
  · simp only [hok, if_true]
    rfl

end copyb

/-! ## POLICY (R309, R312, R313) -/

theorem length_devWords {s : State} {p n va : Nat} {d : List W64} (h : devWords s p va n = .ok d) : d.length = n := by
  induction n generalizing va d with
  | zero => cases h; rfl
  | succ n ih =>
    unfold devWords at h
    split at h
    · cases h
    · split at h
      · cases h
      · next hr => cases h; rw [List.length_cons, ih hr]

/-- The four words of a program in a 64-bit word. -/
def quads (x : W64) : List (BitVec 16) := (upTo 4).map (fun k => x.extractLsb' (16 * k) 16)

theorem getElem?_quads (d : List W64) {k : Nat} (h : k < 4 * d.length) :
    (d.map quads).flatten[k]? = some ((d.getD (k / 4) 0).extractLsb' (16 * (k % 4)) 16) := by
  induction d generalizing k with
  | nil => exact absurd h (Nat.not_lt_zero k)
  | cons x d ih =>
    have hlen : (quads x).length = 4 := rfl
    rw [List.map_cons, List.flatten_cons]
    by_cases hk : k < 4
    · rw [List.getElem?_append_left (by omega), Nat.div_eq_of_lt hk, Nat.mod_eq_of_lt hk]
      match k, hk with
      | 0, _ | 1, _ | 2, _ | 3, _ => rfl
    · obtain ⟨j, rfl⟩ := Nat.exists_eq_add_of_le' (Nat.le_of_not_lt hk)
      rw [List.getElem?_append_right (by omega), hlen, Nat.add_sub_cancel, ih (by simp only [List.length_cons] at h; omega),
        Nat.add_mod_right, Nat.add_div_right _ (by decide), List.getD_cons_succ]

/-- The program that a POLICY reads is the one whose words lie in the words read, four to each (R312). -/
theorem take_quads {d : List W64} {prog : List (BitVec 16)} (hd : prog.length ≤ 4 * d.length)
    (h : ∀ k, k < prog.length → prog[k]? = some ((d.getD (k / 4) 0).extractLsb' (16 * (k % 4)) 16)) :
    (d.map quads).flatten.take prog.length = prog := by
  refine List.ext_getElem? (fun k => ?_)
  by_cases hk : k < prog.length
  · rw [List.getElem?_take_of_lt hk, getElem?_quads d (by omega), h k hk]
  · rw [List.getElem?_take_eq_none (Nat.le_of_not_lt hk), List.getElem?_eq_none (Nat.le_of_not_lt hk)]

theorem startPolicy_length {ws : List W64} (h : ((ws.getD 2 0).extractLsb' 0 9).toNat = 0 ∨ 256 < ((ws.getD 2 0).extractLsb' 0 9).toNat) (s : State) (p q idx : Nat) :
    startPolicy s p q idx ws = malformed s p q idx 8 (dw ws 1) := by
  have htest : (((ws.getD 2 0).extractLsb' 0 9).toNat == 0 || decide (256 < ((ws.getD 2 0).extractLsb' 0 9).toNat)) = true := by
    simpa only [Bool.or_eq_true, beq_iff_eq, decide_eq_true_eq] using h
  simp only [startPolicy, bits_dw, htest, if_true]

theorem startPolicy_read {ws : List W64} {n : Nat} (hn : ((ws.getD 2 0).extractLsb' 0 9).toNat = n) (h1 : 1 ≤ n) (h256 : n ≤ 256) (s : State) (p q idx : Nat) :
    (∀ e, devWords s p (dw ws 1) ((n + 3) / 4) = .error e → startPolicy s p q idx ws = faultStatus s p q idx e)
    ∧ ∀ (d : List W64) (prog : List (BitVec 16)), devWords s p (dw ws 1) ((n + 3) / 4) = .ok d → prog.length = n →
        (∀ k, k < n → prog[k]? = some ((d.getD (k / 4) 0).extractLsb' (16 * (k % 4)) 16)) →
        startPolicy s p q idx ws = if wagOk prog then
            endEffect (modPart s p (fun x => installPolicy x prog ((ws.getD 2 0).getLsbD 16) ((ws.getD 3 0).extractLsb' 0 32))) p q idx 1
          else malformed s p q idx 8 (dw ws 1) := by
  have htest : (n == 0 || decide (256 < n)) = false := by
    simp only [Bool.or_eq_false_iff, beq_eq_false_iff_ne, decide_eq_false_iff_not]; omega
  have htag : BitVec.ofNat 32 (dw ws 3) = (ws.getD 3 0).extractLsb' 0 32 := by
    simp [dw, BitVec.extractLsb', Nat.shiftRight_zero]
  refine ⟨fun e he => ?_, fun d prog hd hlen hprog => ?_⟩
  · simp only [startPolicy, bits_dw, hn, htest, Bool.false_eq_true, if_false, he]
    rfl
  · subst hlen
    have hquads : (d.map quads).flatten.take prog.length = prog := take_quads (by rw [length_devWords hd]; omega) hprog
    unfold quads at hquads
    simp only [startPolicy, bits_dw_one]
    simp only [bits_dw, hn, htest, Bool.false_eq_true, if_false, hd, htag, hquads]

/-! ## The effects in the state in which the packet has started -/

section effects
variable {s : State} {p q : Nat} {ws : List W64}

theorem becomes_launch {t : State} (h : PacketStarts s p q 1 ws) (ht : startLaunch (started s p q ws) p q (pktKey (queueOf s p q)) ws = t) :
    Becomes (.launch p q) s t :=
  becomes_started h (by decide) (by decide) (by simp only [packetEffect, h.type, ht])

theorem becomes_depwait {t : State} (h : PacketStarts s p q 2 ws) (ht : readCounter (started s p q ws) p q (pktKey (queueOf s p q)) ws = t) :
    Becomes (.depwait p q) s t :=
  becomes_started h (by decide) (by decide) (by simp only [packetEffect, h.type, ht])

theorem becomes_signal {t : State} (h : PacketStarts s p q 3 ws) (ht : startSignal (started s p q ws) p q (pktKey (queueOf s p q)) ws = t) :
    Becomes (.signal p q) s t :=
  becomes_started h (by decide) (by decide) (by simp only [packetEffect, h.type, ht])

theorem becomes_copyb {t : State} (h : PacketStarts s p q 4 ws) (ht : startCopyb (started s p q ws) p q (pktKey (queueOf s p q)) ws = t) :
    Becomes (.copyb p q) s t :=
  becomes_started h (by decide) (by decide) (by simp only [packetEffect, h.type, ht])

theorem becomes_policy {t : State} (h : PacketStarts s p q 5 ws) (ht : startPolicy (started s p q ws) p q (pktKey (queueOf s p q)) ws = t) :
    Becomes (.policy p q) s t :=
  becomes_started h (by decide) (by decide) (by simp only [packetEffect, h.type, ht])

theorem becomes_marker {t : State} (h : PacketStarts s p q 11 ws) (ht : startMarker (started s p q ws) p q (pktKey (queueOf s p q)) ws = t) :
    Becomes (.marker p q) s t :=
  becomes_started h (by decide) (by decide) (by simp only [packetEffect, h.type, ht])

theorem withLaunch_started (l : Launch) :
    withLaunch (started s p q ws) l = bumpSeq { started s p q ws with launches := mput s.seq l s.launches } := by
  simp only [withLaunch, started_seq, started_launches]

theorem withCopy_started (c : CopyReq) :
    withCopy (started s p q ws) c = bumpSeq { started s p q ws with ms := { (started s p q ws).ms with copies := mput s.seq c s.ms.copies } } := by
  simp only [withCopy, started_seq, started_copies]

/-- A DEPWAIT that does not find 0 stands registered for its counter, and reads it again after 100 µs (R300). -/
theorem queueOf_readCounter_blocks {v : Nat} (h : devReadIn (started s p q ws) p (dw ws 1) 8 = .ok v) (hv : v ≠ 0) :
    queueOf (readCounter (started s p q ws) p q (pktKey (queueOf s p q)) ws) p q =
      { openedQueue s p q ws with
        pkts := mput (pktKey (queueOf s p q))
          { openedPkt s p q ws with wait := counterKey (started s p q ws) p (dw ws 1), note := s.gtime + 100000 } (openedQueue s p q ws).pkts
        blocked := true } := by
  have hpkt : mfind (pktKey (queueOf s p q)) (queueOf (started s p q ws) p q).pkts = some (openedPkt s p q ws) := by
    rw [queueOf_started, mfind_openedQueue]
  simp only [readCounter_blocks h hv, queueOf_modQueue_same, queueOf_modPkt hpkt, queueOf_started, started_gtime]

end effects

/-- Settles O53: the meaning of each packet type is its effect in `started`, whose outcomes the lemmas on the effect tell apart. -/
theorem packetsOfAnyQueueHaveTheirEffects : Obligations.PacketsOfAnyQueueHaveTheirEffects := by
  intro s p q ws idx t0 a
  refine ⟨fun hs => ?launch, fun hs => ?depwait, fun hs => ?signal, fun hs => ?copyb, fun hs => ?policy, fun hs => ?marker⟩
  case launch =>
    refine ⟨fun e he => becomes_launch hs (startLaunch_header he), fun h e hh he => becomes_launch hs (startLaunch_args hh he), fun h args hh ha => ?_⟩
    obtain ⟨hbad, hmis, hfits⟩ := startLaunch_judged hh ha (started_seq ..) (withLaunch_started (packetLaunch t0 p q idx ws h args))
    refine ⟨fun hk => becomes_launch hs (hbad hk), fun hok => ⟨packetLaunch t0 p q idx ws h args, rfl, rfl, rfl, rfl, rfl, started_gtime .., started_gtime ..,
      rfl, rfl, rfl, rfl, rfl, rfl, rfl, rfl, rfl, by rw [packetLaunch, queueOf_started]; rfl, fun hf => becomes_launch hs (hmis hok hf),
      fun hf => ⟨_, becomes_launch hs (hfits hok hf), ?_⟩⟩⟩
    rw [requestDispatch_launches]
    exact mfind_launchCheck (started_seq ..) (withLaunch_started _) rfl rfl rfl rfl rfl rfl
  case depwait =>
    refine ⟨fun e he => becomes_depwait hs (readCounter_error he), fun h0 => becomes_depwait hs (readCounter_zero h0), fun v h hv =>
      ⟨_, { openedPkt s p q ws with wait := counterKey t0 p a, note := s.gtime + 100000 }, becomes_depwait hs rfl, ?_, ?_, rfl, rfl, rfl, rfl⟩⟩
    · rw [queueOf_readCounter_blocks h hv]
    · rw [queueOf_readCounter_blocks h hv]
      exact mfind_mput_same ..
  case signal =>
    obtain ⟨hzero, hfault, hstored⟩ := startSignal_effects t0 p q idx ws
    exact ⟨fun h => becomes_signal hs (hzero h), fun e h he => becomes_signal hs (hfault e h he), fun u h hu => becomes_signal hs (hstored u h hu)⟩
  case copyb =>
    intro len peer tbl copies
    have hlen : dw ws 3 < 2 ^ 40 := copyb_length hs
    have hcopies : ∀ net entry, startCopyb t0 p q idx ws = withCopy t0 (copybReq t0 p q idx ws net entry) → copies net entry := by
      intro net entry h
      obtain ⟨hsrc, hdst, hdim, hcvt⟩ := descOf_copybReq t0 p q idx ws net entry hlen
      exact ⟨copybReq t0 p q idx ws net entry, rfl, rfl, rfl, rfl, rfl, rfl, rfl, rfl, by rw [copybReq, queueOf_started]; rfl, hsrc, hdst, hdim, hcvt,
        becomes_copyb hs (h.trans (withCopy_started _))⟩
    refine ⟨fun h => hcopies none [] (startCopyb_local h), fun h => ?_, fun e => endpointOk_iff e (dw ws 2) len⟩
    obtain ⟨hlow, hread⟩ := startCopyb_far (t := t0) (q := q) (idx := idx) h hlen (partOf_started ..) (slotOf_started ..)
    refine ⟨fun hle => becomes_copyb hs (hlow hle), fun hlt => ?_⟩
    obtain ⟨hfault, hbad, hok⟩ := hread hlt
    exact ⟨fun e he => becomes_copyb hs (hfault e he), fun e he h => becomes_copyb hs (hbad e he h), fun e he h => hcopies _ _ (hok e he h)⟩
  case policy =>
    intro n tag
    refine ⟨fun h => becomes_policy hs (startPolicy_length h t0 p q idx), fun e h1 h256 he => ?_, fun d prog h1 h256 hd hlen hprog => ?_⟩
    · obtain ⟨hfault, -⟩ := startPolicy_read rfl h1 h256 t0 p q idx
      exact becomes_policy hs (hfault e he)
    obtain ⟨-, hprogram⟩ := startPolicy_read rfl h1 h256 t0 p q idx
    have hread := hprogram d prog hd hlen hprog
    refine ⟨fun hbad => becomes_policy hs (hread.trans (if_neg (by rw [hbad]; decide))), fun hok =>
      ⟨_, becomes_policy hs (hread.trans (if_pos hok)), rfl, ?_⟩⟩
    intro x
    have hx : x = installPolicy (partOf t0 p) prog ((ws.getD 2 0).getLsbD 16) tag := partOf_modPart_same ..
    rw [hx, partOf_started]
    exact ⟨rfl, rfl, rfl, rfl, rfl, by simp only [installPolicy, beq_iff_eq]⟩
  case marker =>
    obtain ⟨hfault, hstored⟩ := startMarker_effects t0 p q idx ws
    rw [started_gtime] at hfault hstored
    exact ⟨fun e he => becomes_marker hs (hfault e he), fun u hu => becomes_marker hs (hstored u hu)⟩

end Sys2Proof.Machine

/-! PROOF of ScalarArithmeticResults. A word whose predicate lets it fire emits its function of its operands, one lemma for each operand form; the model
computes MULH in the integers and MIN and MAX by one comparison, which the statement says in words of its own. -/

namespace Sys2Proof.Machine

/-! ## What a word of each operand form emits (R168) -/

section
variable {i : Instr} {s : State} {f : Issue} {b : Block} {p : Pr} {ts : List Target}

theorem emits_scalar1 {lat : Nat} {g : W64 → W64} {x r : W64} (h : Ready s f b p) (hl : f.left = some (.s x))
    (hi : exec i s = scalar1 p lat ts g s) (hr : g x = r) : Emits i s f lat ts (.s r) := by
  subst hr
  exact hi.trans (fire1_fires h.1 h.2 hl nofun _ _)

theorem emits_scalar2l {lat : W64 → W64 → Nat} {g : W64 → W64 → W64} {x y r : W64} (h : Ready s f b p) (hl : f.left = some (.s x))
    (hr : f.right = some (.s y)) (hi : exec i s = scalar2l p lat ts g s) (hg : g x y = r) : Emits i s f (lat x y) ts (.s r) := by
  subst hg
  exact hi.trans (fire2_fires h.1 h.2 hl hr nofun nofun _ _)

theorem emits_scalar2 {lat : Nat} {g : W64 → W64 → W64} {x y r : W64} (h : Ready s f b p) (hl : f.left = some (.s x))
    (hr : f.right = some (.s y)) (hi : exec i s = scalar2 p lat ts g s) (hg : g x y = r) : Emits i s f lat ts (.s r) :=
  emits_scalar2l (lat := fun _ _ => lat) h hl hr hi hg

theorem emits_vector1 {lat : Nat} {g : Lanes → Mask → Token} {l : Lanes} {m : Mask} (h : Ready s f b p) (hl : f.left = some (.v l m))
    (hi : exec i s = vector1 p lat ts g s) : Emits i s f lat ts (g l m) :=
  hi.trans (fire1_fires h.1 h.2 hl nofun _ _)

theorem emits_vector2 {lat : Nat} {g : Lanes → Mask → Lanes → Mask → Token} {la lb : Lanes} {ma mb : Mask} (h : Ready s f b p)
    (hl : f.left = some (.v la ma)) (hr : f.right = some (.v lb mb)) (hi : exec i s = vector2 p lat ts g s) :
    Emits i s f lat ts (g la ma lb mb) :=
  hi.trans (fire2_fires h.1 h.2 hl hr nofun nofun _ _)

theorem emits_vector3 {lat : Nat} {g : Lanes → Mask → Lanes → Mask → Lanes → Mask → Token} {la lb lc : Lanes} {ma mb mc : Mask}
    (h : Issued s f b) (hl : f.left = some (.v la ma)) (hr : f.right = some (.v lb mb)) (h3 : f.third = some (.v lc mc))
    (hi : exec i s = vector3 lat ts g s) : Emits i s f lat ts (g la ma lb mb lc mc) :=
  hi.trans (fire3_fires h hl hr h3 nofun nofun nofun _ _)

end

/-! ## The high half of a product, the lesser and the greater (R69) -/

/-- Bits [127:64] of an integer are the low 64 bits of its quotient by 2^64. -/
theorem highHalf_ofInt (z : Int) : (BitVec.ofInt 128 z).extractLsb' 64 64 = BitVec.ofInt 64 (z / 2 ^ 64) := by
  apply BitVec.eq_of_toNat_eq
  rw [BitVec.extractLsb'_toNat, BitVec.toNat_ofInt, BitVec.toNat_ofInt, Nat.shiftRight_eq_div_pow]
  omega

theorem mulHigh_ss (x y : W64) : mulHigh .ss x y = (BitVec.ofInt 128 (x.toInt * y.toInt)).extractLsb' 64 64 := (highHalf_ofInt _).symm

theorem mulHigh_su (x y : W64) : mulHigh .su x y = (BitVec.ofInt 128 (x.toInt * (y.toNat : Int))).extractLsb' 64 64 := (highHalf_ofInt _).symm

theorem mulHigh_uu (x y : W64) : mulHigh .uu x y = (BitVec.ofNat 128 (x.toNat * y.toNat)).extractLsb' 64 64 := by
  rw [← BitVec.ofInt_natCast, highHalf_ofInt, Int.natCast_mul]
  rfl

/-- One of two operands by a condition is the operand that `z` reads as, where the readings `v` have a way back. -/
theorem choice_eq {α β : Type} {v : β → α} {back : α → β} {c : Prop} [Decidable c] {x y : β} {z : α} (hb : ∀ x, back (v x) = x)
    (hy : c → z = v y) (hx : ¬c → z = v x) : (if c then y else x) = back z := by
  split
  · next h => rw [hy h, hb]
  · next h => rw [hx h, hb]

theorem ofNat_toNat_self (z : W64) : BitVec.ofNat 64 z.toNat = z := (BitVec.ofNat_toNat 64 z).trans (BitVec.setWidth_eq z)

theorem minOf_s (x y : W64) : minOf .s x y = BitVec.ofInt 64 (min x.toInt y.toInt) :=
  choice_eq (fun _ => BitVec.ofInt_toInt) (fun h => Int.min_eq_right (Int.le_of_lt h)) (fun h => Int.min_eq_left (Int.not_lt.mp h))

theorem minOf_u (x y : W64) : minOf .u x y = BitVec.ofNat 64 (min x.toNat y.toNat) :=
  choice_eq ofNat_toNat_self (fun h => Nat.min_eq_right (Nat.le_of_lt h)) (fun h => Nat.min_eq_left (Nat.not_lt.mp h))

theorem maxOf_s (x y : W64) : maxOf .s x y = BitVec.ofInt 64 (max x.toInt y.toInt) :=
  choice_eq (fun _ => BitVec.ofInt_toInt) (fun h => Int.max_eq_right (Int.le_of_lt h)) (fun h => Int.max_eq_left (Int.not_lt.mp h))

theorem maxOf_u (x y : W64) : maxOf .u x y = BitVec.ofNat 64 (max x.toNat y.toNat) :=
  choice_eq ofNat_toNat_self (fun h => Nat.max_eq_right (Nat.le_of_lt h)) (fun h => Nat.max_eq_left (Nat.not_lt.mp h))

/-- Settles O1: each word is one function of two S operands, read as the statement reads it. -/
theorem scalarArithmeticResults : Obligations.ScalarArithmeticResults := by
  intro s f b p t1 t0 x y h hl hr
  have emits {i : Instr} {lat : Nat} {g : W64 → W64 → W64} {r : W64} (hi : exec i s = scalar2 p lat [t0, t1] g s) (hg : g x y = r) :
      Emits i s f lat [t0, t1] (.s r) := emits_scalar2 h hl hr hi hg
  exact ⟨emits rfl rfl, emits rfl rfl, emits rfl rfl, emits rfl rfl, emits rfl rfl, emits rfl rfl, emits rfl rfl, emits rfl (mulHigh_ss x y),
    emits rfl (mulHigh_uu x y), emits rfl (mulHigh_su x y), emits rfl (minOf_s x y), emits rfl (maxOf_s x y), emits rfl (minOf_u x y),
    emits rfl (maxOf_u x y)⟩

end Sys2Proof.Machine

/-! PROOF of DivisionsAndShiftsFollowTheirCases. The signed quotient and remainder are those of the BitVec library, whose integer values are known
but for the one overflow; the shifts are the library's, by a count below 64. -/

namespace Sys2Proof.Machine

/-! ## Quotients and remainders by the cases of R70 -/

theorem divide_zero (g : Sgn) (x : W64) : divide g x 0 = BitVec.allOnes 64 := if_pos rfl

theorem remainder_zero (g : Sgn) (x : W64) : remainder g x 0 = x := if_pos rfl

theorem divide_s {x y : W64} (h : y ≠ 0) : divide .s x y = x.sdiv y := by
  apply BitVec.eq_of_toInt_eq
  rw [divide, if_neg h, BitVec.toInt_ofInt, BitVec.toInt_sdiv]

theorem remainder_s {x y : W64} (h : y ≠ 0) : remainder .s x y = x.srem y := by
  rw [remainder, if_neg h, ← BitVec.toInt_srem, BitVec.ofInt_toInt]

theorem divide_u {x y : W64} (h : y ≠ 0) : divide .u x y = x / y := (if_neg h).trans BitVec.udiv_def.symm

theorem remainder_u {x y : W64} (h : y ≠ 0) : remainder .u x y = x % y := (if_neg h).trans BitVec.umod_def.symm

theorem srem_allOnes (x : W64) : x.srem (BitVec.allOnes 64) = 0 := by
  apply BitVec.eq_of_toInt_eq
  rw [BitVec.toInt_srem, BitVec.toInt_allOnes]
  simp

theorem divLat_s (x y : W64) :
    divLat .s x y = if -(2 : Int) ^ 31 ≤ x.toInt ∧ x.toInt < 2 ^ 31 ∧ -(2 : Int) ^ 31 ≤ y.toInt ∧ y.toInt < 2 ^ 31 then 18 else 34 := by
  simp only [divLat, fits32, Bool.and_eq_true, decide_eq_true_eq, and_assoc]

theorem divLat_u (x y : W64) : divLat .u x y = if x.toNat < 2 ^ 32 ∧ y.toNat < 2 ^ 32 then 18 else 34 := by
  simp only [divLat, fits32, Bool.and_eq_true, decide_eq_true_eq]

/-! ## Shifts and rotations bit by bit (R71) -/

theorem shCount_eq (y : W64) : shCount y = (y.extractLsb' 0 6).toNat := by
  simp [shCount, BitVec.extractLsb'_toNat]

theorem shCount_lt (y : W64) : shCount y < 64 := Nat.mod_lt _ (by decide)

theorem getLsbD_shl {x : W64} {n k : Nat} (hk : k < 64) : (x <<< n).getLsbD k = (decide (n ≤ k) && x.getLsbD (k - n)) := by
  rw [BitVec.getLsbD_shiftLeft, decide_eq_true hk, Bool.true_and, ← decide_not]
  simp only [Nat.not_lt]

theorem getLsbD_sar {x : W64} {n k : Nat} (hk : k < 64) :
    (x.sshiftRight n).getLsbD k = if k + n < 64 then x.getLsbD (k + n) else x.msb := by
  rw [BitVec.getLsbD_sshiftRight, decide_eq_false (Nat.not_le.mpr hk), Nat.add_comm]
  rfl

theorem getLsbD_ror {x : W64} {n k : Nat} (hn : n < 64) (hk : k < 64) : (x.rotateRight n).getLsbD k = x.getLsbD ((k + n) % 64) := by
  rw [BitVec.getLsbD_rotateRight, Nat.mod_eq_of_lt hn, decide_eq_true hk, Bool.true_and]
  by_cases hlt : k < 64 - n
  · rw [decide_eq_true hlt, Nat.mod_eq_of_lt (by omega), Nat.add_comm]
    rfl
  · have : (k + n) % 64 = k - (64 - n) := by omega
    rw [decide_eq_false hlt, this]
    rfl

/-- Settles O2: the cases of the quotient and the remainder, and each bit of the shifts. -/
theorem divisionsAndShiftsFollowTheirCases : Obligations.DivisionsAndShiftsFollowTheirCases := by
  intro s f b p g t1 t0 x y h hl hr n
  refine ⟨⟨divide g x y, remainder g x y, divLat g x y, emits_scalar2l h hl hr rfl rfl, emits_scalar2l h hl hr rfl rfl, ?zero, ?overflow, ?signed,
    ?unsigned, ?latS, ?latU⟩, x <<< shCount y, x >>> shCount y, x.sshiftRight (shCount y), x.rotateRight (shCount y), emits_scalar2 h hl hr rfl rfl,
    emits_scalar2 h hl hr rfl rfl, emits_scalar2 h hl hr rfl rfl, emits_scalar2 h hl hr rfl rfl, ?bits⟩
  case zero =>
    rintro rfl
    exact ⟨divide_zero g x, remainder_zero g x⟩
  case overflow =>
    rintro rfl hy rfl rfl
    rw [divide_s hy, remainder_s hy]
    exact ⟨BitVec.intMin_sdiv_neg_one, srem_allOnes _⟩
  case signed =>
    rintro rfl hy hxy
    rw [divide_s hy, remainder_s hy]
    exact ⟨BitVec.toInt_sdiv_of_ne_or_ne x y (Decidable.not_and_iff_not_or_not.mp hxy), BitVec.toInt_srem x y⟩
  case unsigned =>
    rintro rfl hy
    rw [divide_u hy, remainder_u hy]
    exact ⟨BitVec.toNat_udiv, BitVec.toNat_umod.trans (Nat.mod_eq_sub_mul_div ..)⟩
  case latS =>
    rintro rfl
    exact divLat_s x y
  case latU =>
    rintro rfl
    exact divLat_u x y
  case bits =>
    intro k hk
    have hn : n = shCount y := (shCount_eq y).symm
    rw [hn]
    exact ⟨getLsbD_shl hk, by rw [BitVec.getLsbD_ushiftRight, Nat.add_comm], getLsbD_sar hk, getLsbD_ror (shCount_lt y) hk⟩

end Sys2Proof.Machine

/-! PROOF of OneOperandScalarResults. CLZ is a fold, CTZ a search and POPC a sum over the bits in rising order, each an induction on how many bits have been
passed; BREV and BSWAP or together pieces, and bit k of such a fold is a bit k of one of its pieces. -/

namespace Sys2Proof.Machine

/-! ## Extensions, negation and ABS -/

theorem rangeFrom_eq (a n : Nat) : rangeFrom a n = List.range' a n := by
  induction n generalizing a with
  | zero => rfl
  | succ n ih => rw [rangeFrom, ih, List.range'_succ]

theorem upTo_eq (n : Nat) : upTo n = List.range n := (rangeFrom_eq 0 n).trans List.range_eq_range'.symm

theorem sext_eq {n : Nat} (x : W64) (hn : n ≤ 64) : sext x n = (x.extractLsb' 0 n).signExtend 64 := by
  rw [sext, BitVec.truncate_eq_setWidth, BitVec.setWidth_eq_extractLsb' hn]

theorem zext_eq {n : Nat} (x : W64) (hn : n ≤ 64) : zext x n = (x.extractLsb' 0 n).zeroExtend 64 := by
  rw [zext, BitVec.truncate_eq_setWidth, BitVec.setWidth_eq_extractLsb' hn]

theorem neg_eq_ofInt (x : W64) : 0 - x = BitVec.ofInt 64 (-x.toInt) := by
  rw [BitVec.ofInt_neg, BitVec.ofInt_toInt]
  exact BitVec.zero_sub x

theorem absOf_eq (x : W64) : absOf x = BitVec.ofInt 64 x.toInt.natAbs := by
  unfold absOf
  split
  · next h => rw [Int.ofNat_natAbs_of_nonpos (Int.le_of_lt (BitVec.toInt_neg_of_msb_true h)), neg_eq_ofInt]
  · next h => rw [Int.natAbs_of_nonneg (BitVec.toInt_nonneg_of_msb_false (Bool.eq_false_iff.mpr h)), BitVec.ofInt_toInt]

/-! ## Counts of bits (R189) -/

/-- The fold of CLZ over the low n bits: 63 less the place of the highest one, or 64. -/
def zerosAbove (x : W64) (n : Nat) : Nat := (List.range n).foldl (fun c k => if x.getLsbD k then 63 - k else c) 64

theorem zerosAbove_succ (x : W64) (n : Nat) : zerosAbove x (n + 1) = if x.getLsbD n then 63 - n else zerosAbove x n := by
  rw [zerosAbove, List.range_succ, List.foldl_append]
  rfl

/-- Below n either no bit is set, or the fold's result names the highest bit that is. -/
theorem zerosAbove_cases (x : W64) (n : Nat) :
    ((∀ k < n, x.getLsbD k = false) ∧ zerosAbove x n = 64)
    ∨ ∃ j < n, x.getLsbD j = true ∧ (∀ k, j < k → k < n → x.getLsbD k = false) ∧ zerosAbove x n = 63 - j := by
  induction n with
  | zero => exact .inl ⟨nofun, rfl⟩
  | succ n ih =>
    rw [zerosAbove_succ]
    cases hn : x.getLsbD n with
    | true => exact .inr ⟨n, Nat.lt_succ_self n, hn, fun k _ _ => by omega, rfl⟩
    | false =>
      rcases ih with ⟨hz, he⟩ | ⟨j, hj, hset, hz, he⟩
      · refine .inl ⟨fun k hk => ?_, he⟩
        rcases Nat.lt_succ_iff_lt_or_eq.mp hk with hk | rfl
        · exact hz k hk
        · exact hn
      · refine .inr ⟨j, Nat.lt_succ_of_lt hj, hset, fun k hjk hk => ?_, he⟩
        rcases Nat.lt_succ_iff_lt_or_eq.mp hk with hk | rfl
        · exact hz k hjk hk
        · exact hn

theorem zerosAbove_le (x : W64) (n : Nat) : zerosAbove x n ≤ 64 := by
  rcases zerosAbove_cases x n with ⟨-, h⟩ | ⟨j, -, -, -, h⟩ <;> omega

theorem toNat_leadZeros (x : W64) : (leadZeros x).toNat = zerosAbove x 64 := by
  rw [leadZeros, upTo_eq, BitVec.toNat_ofNat]
  exact Nat.mod_eq_of_lt (Nat.lt_of_le_of_lt (zerosAbove_le x 64) (by decide))

/-- CLZ: the bits above are zero, and the next one is set where there is one. -/
theorem leadZeros_counts (x : W64) :
    (leadZeros x).toNat ≤ 64 ∧ (∀ k, k < (leadZeros x).toNat → x.getLsbD (63 - k) = false)
    ∧ ((leadZeros x).toNat < 64 → x.getLsbD (63 - (leadZeros x).toNat) = true) := by
  rw [toNat_leadZeros]
  refine ⟨zerosAbove_le x 64, ?_⟩
  rcases zerosAbove_cases x 64 with ⟨hz, he⟩ | ⟨j, hj, hset, hz, he⟩
  · exact ⟨fun k _ => hz _ (by omega), fun h => by omega⟩
  · rw [he, Nat.sub_sub_self (Nat.le_of_lt_succ hj)]
    exact ⟨fun k hk => hz _ (by omega) (by omega), fun _ => hset⟩

/-- The lowest set bit below n: none is set below it, and it is set where it is below n. -/
theorem lowestSet_counts (x n : Nat) :
    lowestSet x n ≤ n ∧ (∀ k, k < lowestSet x n → x.testBit k = false) ∧ (lowestSet x n < n → x.testBit (lowestSet x n) = true) := by
  rw [lowestSet, upTo_eq]
  cases h : (List.range n).find? (fun k => x.testBit k) with
  | none => exact ⟨Nat.le_refl n, fun k hk => by simpa using List.find?_range_eq_none.mp h k hk, fun hlt => absurd hlt (Nat.lt_irrefl n)⟩
  | some j =>
    obtain ⟨hset, hj, hz⟩ := List.find?_range_eq_some.mp h
    exact ⟨Nat.le_of_lt (List.mem_range.mp hj), fun k hk => by simpa using hz k hk, fun _ => hset⟩

theorem toNat_trailZeros (x : W64) : (BitVec.ofNat 64 (lowestSet x.toNat 64)).toNat = lowestSet x.toNat 64 :=
  Nat.mod_eq_of_lt (Nat.lt_of_le_of_lt (lowestSet_counts x.toNat 64).1 (by decide))

theorem foldl_add_toNat (q : Nat → Bool) (l : List Nat) (a : Nat) : l.foldl (fun n k => n + (q k).toNat) a = a + (l.filter q).length := by
  induction l generalizing a with
  | nil => rfl
  | cons k l ih =>
    rw [List.foldl_cons, ih, List.filter_cons]
    cases q k with
    | false => rfl
    | true => rw [if_pos rfl, List.length_cons, Bool.toNat_true, Nat.add_assoc, Nat.add_comm 1]

theorem toNat_popCount (x : W64) : (popCount x).toNat = ((List.range 64).filter (fun k => x.getLsbD k)).length := by
  rw [popCount, upTo_eq, foldl_add_toNat, Nat.zero_add, BitVec.toNat_ofNat]
  exact Nat.mod_eq_of_lt (Nat.lt_of_le_of_lt (List.length_filter_le ..) (by decide))

/-! ## Bits and bytes reversed (R189) -/

/-- A bit of pieces or'ed together is set where it is set in one of them. -/
theorem getLsbD_foldl_or {w : Nat} (g : Nat → BitVec w) (i : Nat) (l : List Nat) (y : BitVec w) :
    (l.foldl (fun y k => y ||| g k) y).getLsbD i = (y.getLsbD i || l.any (fun k => (g k).getLsbD i)) := by
  induction l generalizing y with
  | nil => simp
  | cons k l ih => rw [List.foldl_cons, ih, BitVec.getLsbD_or, List.any_cons, Bool.or_assoc]

/-- Where the one piece that can set a bit is piece j, the fold has piece j's bit. -/
theorem getLsbD_foldl_or_of_unique {w : Nat} {g : Nat → BitVec w} {i j n : Nat} (hj : j < n) (h : ∀ k, k < n → k ≠ j → (g k).getLsbD i = false) :
    ((List.range n).foldl (fun y k => y ||| g k) 0).getLsbD i = (g j).getLsbD i := by
  rw [getLsbD_foldl_or, BitVec.ofNat_eq_ofNat, BitVec.getLsbD_zero, Bool.false_or, Bool.eq_iff_iff, List.any_eq_true]
  constructor
  · rintro ⟨k, hk, hset⟩
    by_cases hkj : k = j
    · exact hkj ▸ hset
    · exact absurd hset (by simp [h k (List.mem_range.mp hk) hkj])
  · exact fun hset => ⟨j, List.mem_range.mpr hj, hset⟩

/-- The piece of BREV that bit k gives. -/
def mirrored (x : W64) (k : Nat) : W64 := if x.getLsbD k then BitVec.twoPow 64 (63 - k) else 0

theorem getLsbD_mirrored (x : W64) (k i : Nat) : (mirrored x k).getLsbD i = (x.getLsbD k && decide (63 - k = i)) := by
  unfold mirrored
  cases x.getLsbD k with
  | false => exact BitVec.getLsbD_zero
  | true => rw [if_pos rfl, BitVec.getLsbD_twoPow, decide_eq_true (by omega)]

theorem bitReverse_eq (x : W64) : bitReverse x = (List.range 64).foldl (fun y k => y ||| mirrored x k) 0 := by
  rw [bitReverse, upTo_eq]
  congr 1
  funext y k
  unfold mirrored
  split
  · rfl
  · exact BitVec.or_zero.symm

theorem getLsbD_bitReverse (x : W64) {k : Nat} (hk : k < 64) : (bitReverse x).getLsbD k = x.getLsbD (63 - k) := by
  have hone : 63 - (63 - k) = k := by omega
  rw [bitReverse_eq, getLsbD_foldl_or_of_unique (j := 63 - k) (by omega), getLsbD_mirrored, decide_eq_true hone, Bool.and_true]
  intro j hj hne
  rw [getLsbD_mirrored, decide_eq_false (by omega), Bool.and_false]

/-- The piece of BSWAP that byte k gives. -/
def movedByte (x : W64) (k : Nat) : W64 := ((x >>> (8 * k)) &&& 0xFF) <<< (56 - 8 * k)

theorem getLsbD_lowByte (n : Nat) : (0xFF : W64).getLsbD n = decide (n < 8) := by
  have : (0xFF : W64) = (BitVec.allOnes 8).setWidth 64 := rfl
  rw [this, BitVec.getLsbD_setWidth, BitVec.getLsbD_allOnes, ← Bool.decide_and]
  exact decide_eq_decide.mpr (by omega)

theorem getLsbD_movedByte (x : W64) {k i : Nat} (hk : k < 8) (hi : i < 64) :
    (movedByte x k).getLsbD i = (decide (i / 8 = 7 - k) && x.getLsbD (8 * k + i % 8)) := by
  rw [movedByte, BitVec.getLsbD_shiftLeft, BitVec.getLsbD_and, BitVec.getLsbD_ushiftRight, getLsbD_lowByte, decide_eq_true hi, Bool.true_and]
  by_cases h : i / 8 = 7 - k
  · have hlow : ¬ i < 56 - 8 * k := by omega
    have hin : i - (56 - 8 * k) < 8 := by omega
    have hmod : i - (56 - 8 * k) = i % 8 := by omega
    rw [decide_eq_true h, decide_eq_false hlow, decide_eq_true hin, hmod, Bool.and_true]
    rfl
  · rw [decide_eq_false h, Bool.false_and]
    by_cases hlow : i < 56 - 8 * k
    · rw [decide_eq_true hlow]
      rfl
    · rw [decide_eq_false (by omega : ¬ i - (56 - 8 * k) < 8), Bool.and_false, Bool.and_false]

theorem extractLsb_byteSwap (x : W64) {k : Nat} (hk : k < 8) : (byteSwap x).extractLsb' (8 * k) 8 = x.extractLsb' (8 * (7 - k)) 8 := by
  apply BitVec.eq_of_getLsbD_eq
  intro i hi
  have hfold : byteSwap x = (List.range 8).foldl (fun y k => y ||| movedByte x k) 0 := by rw [byteSwap, upTo_eq]; rfl
  have hdiv : (8 * k + i) / 8 = 7 - (7 - k) := by omega
  have hmod : (8 * k + i) % 8 = i := by omega
  rw [BitVec.getLsbD_extractLsb', BitVec.getLsbD_extractLsb', hfold, getLsbD_foldl_or_of_unique (j := 7 - k) (by omega),
    getLsbD_movedByte x (by omega) (by omega), decide_eq_true hdiv, hmod, Bool.true_and]
  intro j hj hne
  rw [getLsbD_movedByte x hj (by omega), decide_eq_false (by omega), Bool.false_and]

/-- Settles O4: extensions, negation and ABS are the library's, and the five counts and reversals hold bit by bit. -/
theorem oneOperandScalarResults : Obligations.OneOperandScalarResults := by
  intro s f b p t1 t0 x h hl
  have emits {i : Instr} {g : W64 → W64} {r : W64} (hi : exec i s = scalar1 p 1 [t0, t1] g s) (hg : g x = r) : Emits i s f 1 [t0, t1] (.s r) :=
    emits_scalar1 h hl hi hg
  obtain ⟨hc, hcz, hcs⟩ := leadZeros_counts x
  obtain ⟨hz, hzz, hzs⟩ := lowestSet_counts x.toNat 64
  rw [← toNat_trailZeros] at hz hzz hzs
  exact ⟨emits rfl (sext_eq x (by decide)), emits rfl (sext_eq x (by decide)), emits rfl (sext_eq x (by decide)), emits rfl (zext_eq x (by decide)),
    emits rfl (zext_eq x (by decide)), emits rfl (zext_eq x (by decide)), emits rfl (neg_eq_ofInt x), emits rfl rfl, emits rfl (absOf_eq x),
    leadZeros x, BitVec.ofNat 64 (lowestSet x.toNat 64), popCount x, bitReverse x, byteSwap x, emits rfl rfl, emits rfl rfl, emits rfl rfl, emits rfl rfl,
    emits rfl rfl, hc, hcz, hcs, hz, hzz, hzs, toNat_popCount x,
    fun _ hk => getLsbD_bitReverse x hk, fun _ hk => extractLsb_byteSwap x hk⟩

end Sys2Proof.Machine

/-! PROOF of IntegerLanesWrapWithinTheirSubElements. A lane operation makes each sub-element from the two beside it (`subsAre_vec2`), so every part is a
fact on two numbers below 2^w; their signed reading is that of bit vectors of w bits. -/

namespace Sys2Proof.Machine

/-! ## Sub-elements of a result (R195) -/

/-- A result whose lanes are made sub-element by sub-element where the mask is set, and are 0 elsewhere. -/
theorem subsAre_maskedLanes (ty : ElemTy) (m : Mask) (g : Nat → Nat → Nat) :
    SubsAre ty (.v (maskedLanes m (fun i => mapSubs ty (g i))) m) m (fun i j => g i j % 2 ^ ty.width) := by
  refine ⟨_, rfl, fun i hi => ⟨fun hv j hj => ?_, fun hv => ?_⟩⟩
  · rw [lane_maskedLanes _ _ _ hi, if_pos hv, sub_mapSubs ty _ j hj]
  · rw [lane_maskedLanes _ _ _ hi, hv]
    rfl

theorem SubsAre.congr {ty : ElemTy} {t : Token} {m : Mask} {g g' : Nat → Nat → Nat} (h : SubsAre ty t m g) (hg : ∀ i j, g i j = g' i j) :
    SubsAre ty t m g' := (funext fun i => funext (hg i) : g = g') ▸ h

/-- An element-wise operation on two sub-elements of the lanes that both operands have valid. -/
theorem subsAre_vec2 (ty : ElemTy) (op : LaneOp) (la lb : Lanes) (ma mb : Mask) :
    SubsAre ty (vec2 (laneOp2 ty op) la ma lb mb) (ma &&& mb)
      (fun i j => laneOp ty op (sub (lane la i) j ty.width) (sub (lane lb i) j ty.width) % 2 ^ ty.width) :=
  subsAre_maskedLanes ty (ma &&& mb) _

theorem width_pos (ty : ElemTy) : 0 < ty.width := by cases ty <;> decide

theorem isLaneFloat_of_isLaneInt {ty : ElemTy} (h : ty.isLaneInt = true) : ty.isLaneFloat = false := by
  revert h
  cases ty <;> decide

/-- Whether a lane operation is arithmetic, which a type's class decides, and not bitwise logic (R196). -/
def arithmetic (op : LaneOp) : Bool :=
  match op with
  | .and | .or | .xor => false
  | _ => true

theorem laneOp_arithmetic (ty : ElemTy) {op : LaneOp} (hop : arithmetic op = true) (a b : Nat) :
    laneOp ty op a b = if ty.isLaneFloat then floatOp ty op a b else intOp ty op a b := by
  cases op with
  | and | or | xor => cases hop
  | _ => rfl

theorem laneOp_int {ty : ElemTy} {op : LaneOp} (h : ty.isLaneFloat = false) (hop : arithmetic op = true) : laneOp ty op = intOp ty op := by
  funext a b
  rw [laneOp_arithmetic ty hop, h]
  rfl

theorem laneOp_float {ty : ElemTy} {op : LaneOp} (h : ty.isLaneFloat = true) (hop : arithmetic op = true) : laneOp ty op = floatOp ty op := by
  funext a b
  rw [laneOp_arithmetic ty hop, h]
  rfl

theorem laneLat_int {ty : ElemTy} (h : ty.isLaneFloat = false) (n k : Nat) : laneLat ty n k = n := by rw [laneLat, h]; rfl

theorem laneLat_float {ty : ElemTy} (h : ty.isLaneFloat = true) (n k : Nat) : laneLat ty n k = k := by rw [laneLat, h]; rfl

/-! ## The signed reading of a sub-element (R56) -/

theorem signedOf_eq_toInt {w : Nat} (hw : 0 < w) (x : Nat) : signedOf w x = (BitVec.ofNat w x).toInt := by
  obtain ⟨n, rfl⟩ := Nat.exists_eq_succ_of_ne_zero (Nat.ne_of_gt hw)
  rw [signedOf, BitVec.toInt_eq_toNat_cond, BitVec.toNat_ofNat, Nat.succ_eq_add_one, Nat.add_sub_cancel]
  have : (x % 2 ^ (n + 1) < 2 ^ n) ↔ (2 * (x % 2 ^ (n + 1)) < 2 ^ (n + 1)) := by omega
  simp only [this]

/-- The reading of a sub-element by its type, of a number below 2^w. -/
theorem intElem_eq (ty : ElemTy) {x : Nat} (hx : x < 2 ^ ty.width) :
    intElem ty x = if ty.isSigned then (BitVec.ofNat ty.width x).toInt else (x : Int) := by
  rw [intElem, signedOf_eq_toInt (width_pos ty), Nat.mod_eq_of_lt hx]

theorem intElem_lt_iff (ty : ElemTy) {x y : Nat} (hx : x < 2 ^ ty.width) (hy : y < 2 ^ ty.width) :
    intElem ty x < intElem ty y
      ↔ if ty.isSigned then (BitVec.ofNat ty.width x).toInt < (BitVec.ofNat ty.width y).toInt else x < y := by
  rw [intElem_eq ty hx, intElem_eq ty hy]
  cases ty.isSigned with
  | true => rfl
  | false => exact Int.ofNat_lt

theorem wrapInt_lt (w : Nat) (z : Int) : wrapInt w z < 2 ^ w := by
  have hpos : (0 : Int) < (2 ^ w : Nat) := Int.natCast_pos.mpr (Nat.two_pow_pos w)
  exact (Int.toNat_lt (Int.emod_nonneg _ (Int.ne_of_gt hpos))).mpr (Int.emod_lt_of_pos _ hpos)

theorem wrapInt_eq_toNat (w : Nat) (z : Int) : wrapInt w z = (BitVec.ofInt w z).toNat := (BitVec.toNat_ofInt z).symm

/-- A difference that wraps is the number below 2^w that added to the right operand gives the left. -/
theorem wrapInt_sub_add (w a b : Nat) : (wrapInt w ((a : Int) - b) + b) % 2 ^ w = a % 2 ^ w := by
  have hpos : (0 : Int) < (2 ^ w : Nat) := Int.natCast_pos.mpr (Nat.two_pow_pos w)
  apply Int.ofNat_inj.mp
  rw [wrapInt, Int.natCast_emod, Int.natCast_add, Int.toNat_of_nonneg (Int.emod_nonneg _ (Int.ne_of_gt hpos)), Int.emod_add_emod, Int.sub_add_cancel,
    Int.natCast_emod]

/-- An arithmetic shift right of a sub-element (R71). -/
theorem wrapInt_intElem_div (ty : ElemTy) {x : Nat} (hx : x < 2 ^ ty.width) (c : Nat) :
    wrapInt ty.width (intElem ty x / (2 ^ c : Nat))
      = if ty.isSigned then ((BitVec.ofNat ty.width x).sshiftRight c).toNat else x / 2 ^ c := by
  rw [intElem_eq ty hx]
  cases ty.isSigned with
  | true =>
    rw [if_pos rfl, if_pos rfl, wrapInt_eq_toNat, BitVec.sshiftRight_eq, Int.shiftRight_eq_div_pow]
  | false => exact Nat.mod_eq_of_lt (Nat.lt_of_le_of_lt (Nat.div_le_self ..) hx)

/-! ## Each operation on the integer types (R71, R72) -/

theorem intOp_add (ty : ElemTy) (a b : Nat) : intOp ty .add a b % 2 ^ ty.width = (a + b) % 2 ^ ty.width := Nat.mod_mod ..

theorem intOp_mul (ty : ElemTy) (a b : Nat) : intOp ty .mul a b % 2 ^ ty.width = a * b % 2 ^ ty.width := Nat.mod_mod ..

theorem intOp_shl (ty : ElemTy) (a b : Nat) : intOp ty .shl a b % 2 ^ ty.width = a * 2 ^ (b % ty.width) % 2 ^ ty.width := Nat.mod_mod ..

theorem intOp_sub (ty : ElemTy) (a b : Nat) :
    (intOp ty .sub a b % 2 ^ ty.width + b) % 2 ^ ty.width = a % 2 ^ ty.width ∧ intOp ty .sub a b % 2 ^ ty.width < 2 ^ ty.width := by
  have hlt : intOp ty .sub a b < 2 ^ ty.width := wrapInt_lt ..
  rw [Nat.mod_eq_of_lt hlt]
  exact ⟨wrapInt_sub_add .., hlt⟩

section
variable {ty : ElemTy} {a b : Nat} (ha : a < 2 ^ ty.width) (hb : b < 2 ^ ty.width)
include ha

theorem intOp_shr : intOp ty .shr a b % 2 ^ ty.width = a / 2 ^ (b % ty.width) := by
  rw [intOp, Nat.shiftRight_eq_div_pow]
  exact Nat.mod_eq_of_lt (Nat.lt_of_le_of_lt (Nat.div_le_self ..) ha)

theorem intOp_sar : intOp ty .sar a b % 2 ^ ty.width
    = if ty.isSigned then ((BitVec.ofNat ty.width a).sshiftRight (b % ty.width)).toNat else a / 2 ^ (b % ty.width) :=
  (Nat.mod_eq_of_lt (wrapInt_lt ..)).trans (wrapInt_intElem_div ty ha _)

include hb

theorem intOp_min {less : Prop} (h : intElem ty b < intElem ty a ↔ less) :
    (less → intOp ty .min a b % 2 ^ ty.width = b) ∧ (¬less → intOp ty .min a b % 2 ^ ty.width = a) := by
  rw [← h]
  exact ⟨fun hlt => by rw [intOp, if_pos hlt, Nat.mod_eq_of_lt hb], fun hle => by rw [intOp, if_neg hle, Nat.mod_eq_of_lt ha]⟩

theorem intOp_max {less : Prop} (h : intElem ty a < intElem ty b ↔ less) :
    (less → intOp ty .max a b % 2 ^ ty.width = b) ∧ (¬less → intOp ty .max a b % 2 ^ ty.width = a) := by
  rw [← h]
  exact ⟨fun hlt => by rw [intOp, if_pos hlt, Nat.mod_eq_of_lt hb], fun hle => by rw [intOp, if_neg hle, Nat.mod_eq_of_lt ha]⟩

end

/-- Settles O16: each instruction is its operation on two sub-elements, which are below 2^w. -/
theorem integerLanesWrapWithinTheirSubElements : Obligations.IntegerLanesWrapWithinTheirSubElements := by
  intro s f b p ty t1 t0 la lb ma mb h hl hr hty w x y less gives
  have hint : ty.isLaneFloat = false := isLaneFloat_of_isLaneInt hty
  have hx (i j : Nat) : x i j < 2 ^ w := sub_lt ..
  have hy (i j : Nat) : y i j < 2 ^ w := sub_lt ..
  have emits {i : Instr} {lat : Nat} {op : LaneOp} (hi : exec i s = lanewise p lat ty op t1 t0 s) (hlat : lat = 2) :
      Emits i s f 2 [t0, t1] (vec2 (laneOp2 ty op) la ma lb mb) := hlat ▸ emits_vector2 h hl hr hi
  have subs {op : LaneOp} (hop : arithmetic op = true) :
      SubsAre ty (vec2 (laneOp2 ty op) la ma lb mb) (ma &&& mb) (fun i j => intOp ty op (x i j) (y i j) % 2 ^ w) :=
    (subsAre_vec2 ty op la lb ma mb).congr fun i j => by rw [laneOp_int hint hop]
  refine ⟨⟨_, _, emits rfl (laneLat_int hint ..), subs rfl, fun i j _ _ => intOp_add ..⟩,
    ⟨_, _, emits rfl (laneLat_int hint ..), subs rfl, fun i j _ _ => intOp_sub ..⟩,
    ⟨_, _, emits rfl (laneLat_int hint ..), subs rfl, fun i j _ _ => intOp_mul ..⟩,
    ⟨_, _, emits rfl (laneLat_int hint ..), subs rfl, fun i j _ _ => intOp_min (hx i j) (hy i j) (intElem_lt_iff ty (hy i j) (hx i j))⟩,
    ⟨_, _, emits rfl (laneLat_int hint ..), subs rfl, fun i j _ _ => intOp_max (hx i j) (hy i j) (intElem_lt_iff ty (hx i j) (hy i j))⟩,
    ⟨_, _, emits rfl rfl, subs rfl, fun i j _ _ => intOp_shl ..⟩, ⟨_, _, emits rfl rfl, subs rfl, fun i j _ _ => intOp_shr (hx i j)⟩,
    ⟨_, _, emits rfl rfl, subs rfl, fun i j _ _ => intOp_sar (hx i j)⟩⟩

end Sys2Proof.Machine

/-! PROOF of FloatLanesRoundTheExactResultOnce. The model's operation on two float sub-elements is the exact operation on their values encoded to nearest
even, so each instruction is `subsAre_vec2` read for its operation; VFMA is the same with three operands. -/

namespace Sys2Proof.Machine

theorem fmaSub_float {ty : ElemTy} (h : ty.isLaneFloat = true) (a b c : Nat) :
    fmaSub ty a b c = encodeFloat (fmtOf ty) .ne false (fadd (fmul (decodeFloat (fmtOf ty) a) (decodeFloat (fmtOf ty) b)) (decodeFloat (fmtOf ty) c)) :=
  if_pos h

theorem fmaSub_int {ty : ElemTy} (h : ty.isLaneFloat = false) (a b c : Nat) : fmaSub ty a b c = (a * b + c) % 2 ^ ty.width :=
  if_neg (Bool.eq_false_iff.mp h)

/-- Settles O17: the lanes of each instruction, of the float types and, for VFMA, of the integer types. -/
theorem floatLanesRoundTheExactResultOnce : Obligations.FloatLanesRoundTheExactResultOnce := by
  intro s f b p ty t1 t0 la lb lc ma mb mc hl hr w val gives near
  refine ⟨fun h hty => ?_, fun h h3 => ?_⟩
  · have emits {i : Instr} {op : LaneOp} (hi : exec i s = lanewise p (laneLat ty 2 3) ty op t1 t0 s) :
        Emits i s f 3 [t0, t1] (vec2 (laneOp2 ty op) la ma lb mb) := laneLat_float hty 2 3 ▸ emits_vector2 h hl hr hi
    have subs {op : LaneOp} (hop : arithmetic op = true) : SubsAre ty (vec2 (laneOp2 ty op) la ma lb mb) (ma &&& mb)
        (fun i j => floatOp ty op (sub (lane la i) j w) (sub (lane lb i) j w) % 2 ^ w) :=
      (subsAre_vec2 ty op la lb ma mb).congr fun i j => by rw [laneOp_float hty hop]
    exact ⟨⟨_, emits rfl, subs rfl⟩, ⟨_, emits rfl, subs rfl⟩, ⟨_, emits rfl, subs rfl⟩, ⟨_, emits rfl, subs rfl⟩, ⟨_, emits rfl, subs rfl⟩⟩
  have vfma : Emits (.vfma ty t1 t0) s f (laneLat ty 3 4) [t0, t1] _ := emits_vector3 h hl hr h3 rfl
  refine ⟨fun hty => ?_, fun hty => ?_⟩
  · rw [laneLat_float hty] at vfma
    exact ⟨_, vfma, (subsAre_maskedLanes ..).congr fun i j => by rw [fmaSub_float hty]⟩
  · have hint : ty.isLaneFloat = false := isLaneFloat_of_isLaneInt hty
    rw [laneLat_int hint] at vfma
    exact ⟨_, vfma, (subsAre_maskedLanes ..).congr fun i j => by rw [fmaSub_int hint, Nat.mod_mod]⟩

end Sys2Proof.Machine

/-! PROOF of ReductionsFollowTheTreeAndScansTheSteps. The model folds lists of 16 lanes; read as a function of the lane number, a level of the tree and a
step of the scan are the statement's own, for any lane operation. -/

namespace Sys2Proof.Machine

/-- The latency of VRED and VSCAN: 8 cc for the bitwise operations and the types that are not float, else 12 (R170). -/
theorem redLat_eq (ty : ElemTy) (op : RedOp) :
    redLat ty op = if op = .and ∨ op = .or ∨ op = .xor ∨ ty.isLaneFloat = false then 8 else 12 := by
  cases op with
  | and | or | xor => simp [redLat]
  | add | min | max => cases h : ty.isLaneFloat <;> simp [redLat, laneLat, h]

/-! ## The tree (R82) -/

/-- One level of the tree, by the number of the pair. -/
def pairLevel (o : Word → Word → Word) (y : Nat → Word) (i : Nat) : Word := o (y (2 * i)) (y (2 * i + 1))

theorem pairUp_range (o : Word → Word → Word) (y : Nat → Word) (n a : Nat) :
    pairUp o ((rangeFrom (2 * a) (2 * n)).map y) = (rangeFrom a n).map (pairLevel o y) := by
  induction n generalizing a with
  | zero => rfl
  | succ n ih => exact congrArg _ (ih (a + 1))

/-- The four levels over 16 lanes leave one value. -/
theorem tree16_eq (o : Word → Word → Word) (y : Nat → Word) :
    tree16 o ((upTo 16).map y) = pairLevel o (pairLevel o (pairLevel o (pairLevel o y))) 0 := by
  have level (n : Nat) (y : Nat → Word) : pairUp o ((upTo (2 * n)).map y) = (upTo n).map (pairLevel o y) := pairUp_range o y n 0
  rw [tree16, level 8, level 4, level 2, level 1]
  rfl

/-! ## The scan (R83) -/

/-- One step of the scan, by the lane number. -/
def scanLevel (o : Word → Word → Word) (d : Nat) (y : Nat → Word) (i : Nat) : Word := if d ≤ i then o (y (i - d)) (y i) else y i

theorem getD_upTo_map (y : Nat → Word) {n i : Nat} (h : i < n) : ((upTo n).map y).getD i 0 = y i := by
  rw [upTo_eq, List.getD_eq_getElem?_getD, List.getElem?_map, List.getElem?_range h]
  rfl

theorem scanStep_eq (o : Word → Word → Word) (d : Nat) (y : Nat → Word) : scanStep o d ((upTo 16).map y) = (upTo 16).map (scanLevel o d y) := by
  refine List.map_congr_left fun i hi => ?_
  have hi16 : i < 16 := List.mem_range.mp (upTo_eq 16 ▸ hi)
  rw [getD_upTo_map y hi16, getD_upTo_map y (by omega)]
  rfl

/-- Each lane with the identity in place of an invalid one (R82). -/
def laneOrIdentity (ty : ElemTy) (op : RedOp) (l : Lanes) (m : Mask) (i : Nat) : Word :=
  if m.getLsbD i then lane l i else mapSubs ty (fun _ => redIdentity ty op)

theorem vred_eq (ty : ElemTy) (op : RedOp) (l : Lanes) (m : Mask) :
    let o := laneOp2 ty (redLaneOp op)
    vred ty op l m = if m = 0 ∧ op = .add then 0 else pairLevel o (pairLevel o (pairLevel o (pairLevel o (laneOrIdentity ty op l m)))) 0 := by
  intro o
  simp only [vred, Bool.and_eq_true, beq_iff_eq]
  rw [← tree16_eq]
  rfl

theorem lane_vscan (ty : ElemTy) (op : RedOp) (l : Lanes) (m : Mask) {i : Nat} (hi : i < 16) :
    let o := laneOp2 ty (redLaneOp op)
    lane (vscan ty op l m) i = scanLevel o 8 (scanLevel o 4 (scanLevel o 2 (scanLevel o 1 (laneOrIdentity ty op l m)))) i := by
  intro o
  have hlanes : redLanes ty op l m = (upTo 16).map (laneOrIdentity ty op l m) := rfl
  rw [vscan, lane_mkLanes _ _ hi, hlanes, scanStep_eq, scanStep_eq, scanStep_eq, scanStep_eq, getD_upTo_map _ hi]

/-- Settles O21: the tree and the scan over the lanes with their identities. -/
theorem reductionsFollowTheTreeAndScansTheSteps : Obligations.ReductionsFollowTheTreeAndScansTheSteps := by
  intro s f b p ty op t0 l m h hl o x up stepBy lat
  have hlat : redLat ty op = lat := redLat_eq ty op
  have hred : vred ty op l m = if m = 0 ∧ op = .add then 0 else up (up (up (up x))) 0 := vred_eq ty op l m
  rw [← hlat, ← hred]
  exact ⟨emits_vector1 (g := fun l m => .s ((vred ty op l m).zeroExtend 64)) h hl rfl, vscan ty op l m,
    emits_vector1 (g := fun l m => .v (vscan ty op l m) m) h hl rfl, fun i hi => lane_vscan ty op l m hi⟩

end Sys2Proof.Machine

/-! PROOF of ImmediateFormsUseTheSignExtendedImmediate. Each form is a function of one S operand, the immediate being part of the function; a test
emits the truth of a comparison that decides the relation of the statement. -/

namespace Sys2Proof.Machine

/-- The token of a test whose comparison decides a relation: 1 where the relation holds and 0 where it does not (R185). -/
theorem truth_decides {c : Bool} {r : Prop} (h : c = true ↔ r) : (r → Token.s (truth c) = .s 1) ∧ (¬r → Token.s (truth c) = .s 0) := by
  rw [← h]
  exact ⟨fun hc => by rw [hc]; rfl, fun hc => by rw [Bool.eq_false_iff.mpr hc]; rfl⟩

theorem toInt_imm9 (imm : BitVec 9) : (imm9 imm).toInt = imm.toInt := BitVec.toInt_signExtend_of_le (by decide)

/-- Settles O3: the results by the immediate as the model extends it, and the tests by its value as a signed number. -/
theorem immediateFormsUseTheSignExtendedImmediate : Obligations.ImmediateFormsUseTheSignExtendedImmediate := by
  intro s f b p imm t0 x h hl i one
  have emits {w : Instr} {lat : Nat} {g : W64 → W64} {r : W64} (hw : exec w s = scalar1 p lat [t0] g s) (hg : g x = r) :
      Emits w s f lat [t0] (.s r) := emits_scalar1 h hl hw hg
  have tests {w : Instr} {cmp : W64 → W64 → Bool} {r : Prop} (hw : exec w s = testI p imm t0 cmp s) (hr : cmp x (imm9 imm) = true ↔ r) :
      ∃ t, Emits w s f 1 [t0] t ∧ one r t := ⟨_, emits hw rfl, truth_decides hr⟩
  have hi : (imm9 imm).toInt = i := toInt_imm9 imm
  have heq : x = imm9 imm ↔ x.toInt = i := BitVec.toInt_inj.symm.trans (hi ▸ Iff.rfl)
  have hlt : x.slt (imm9 imm) = true ↔ x.toInt < i := BitVec.slt_iff_toInt_lt.trans (hi ▸ Iff.rfl)
  have hle : x.sle (imm9 imm) = true ↔ x.toInt ≤ i := BitVec.sle_iff_toInt_le.trans (hi ▸ Iff.rfl)
  have hgt : (imm9 imm).slt x = true ↔ i < x.toInt := BitVec.slt_iff_toInt_lt.trans (hi ▸ Iff.rfl)
  have hge : (imm9 imm).sle x = true ↔ i ≤ x.toInt := BitVec.sle_iff_toInt_le.trans (hi ▸ Iff.rfl)
  exact ⟨emits rfl rfl, emits rfl rfl, emits rfl rfl, emits rfl rfl, emits rfl rfl, fun _ => ⟨emits rfl rfl, emits rfl rfl, emits rfl rfl⟩,
    tests rfl (beq_iff_eq.trans heq), tests rfl (bne_iff_ne.trans (not_congr heq)), tests rfl hlt, tests rfl hle, tests (cmp := fun a b => b.slt a) rfl hgt,
    tests (cmp := fun a b => b.sle a) rfl hge⟩

end Sys2Proof.Machine

/-! PROOF of RegisterTestsEmitOneOrZero. Each test is a comparison of two S operands that decides its relation (`truth_decides`). -/

namespace Sys2Proof.Machine

/-- Settles O8: equality, and the library's signed and unsigned comparisons. -/
theorem registerTestsEmitOneOrZero : Obligations.RegisterTestsEmitOneOrZero := by
  intro s f b p t1 t0 x y h hl hr one
  have tests {w : Instr} {cmp : W64 → W64 → Bool} {r : Prop} (hw : exec w s = test2 p t1 t0 cmp s) (hr' : cmp x y = true ↔ r) :
      ∃ t, Emits w s f 1 [t0, t1] t ∧ one r t := ⟨_, emits_scalar2 h hl hr hw rfl, truth_decides hr'⟩
  exact ⟨tests rfl beq_iff_eq, tests rfl bne_iff_ne, tests rfl BitVec.slt_iff_toInt_lt, tests rfl BitVec.sle_iff_toInt_le,
    tests rfl BitVec.ult_iff_toNat_lt, tests rfl BitVec.ule_iff_toNat_le, rfl⟩

end Sys2Proof.Machine

/-! PROOF of AddressesTruthTablesAndFieldExtraction. LOP3 or's minterms together, and for each bit one minterm alone can be set; BFX reads its field as a
number, or as the bit vector of the field's width. -/

namespace Sys2Proof.Machine

/-! ## Truth tables (R193, R214) -/

/-- The minterm of LOP3 that entry n of the truth table gives. -/
def minterm {w : Nat} (tt : BitVec 8) (a b c : BitVec w) (n : Nat) : BitVec w :=
  if tt.getLsbD n then
    (if n.testBit 2 then a else ~~~a) &&& (if n.testBit 1 then b else ~~~b) &&& (if n.testBit 0 then c else ~~~c)
  else 0

theorem lop3_eq {w : Nat} (tt : BitVec 8) (a b c : BitVec w) :
    lop3 tt a b c = (List.range 8).foldl (fun y n => y ||| minterm tt a b c n) 0 := by
  rw [lop3, upTo_eq]
  congr 1
  funext y n
  unfold minterm
  split
  · rfl
  · exact BitVec.or_zero.symm

/-- A bit of an operand or of its complement is set where it is the one asked for. -/
theorem getLsbD_ite_not {w : Nat} (a : BitVec w) (q : Bool) {k : Nat} (hk : k < w) : (if q then a else ~~~a).getLsbD k = (q == a.getLsbD k) := by
  cases q with
  | true => rw [if_pos rfl, Bool.true_beq]
  | false => rw [if_neg Bool.false_ne_true, BitVec.getLsbD_not, decide_eq_true hk, Bool.true_and, Bool.false_beq]

theorem getLsbD_minterm {w : Nat} (tt : BitVec 8) (a b c : BitVec w) (n : Nat) {k : Nat} (hk : k < w) :
    (minterm tt a b c n).getLsbD k
      = (tt.getLsbD n && (n.testBit 2 == a.getLsbD k && n.testBit 1 == b.getLsbD k && n.testBit 0 == c.getLsbD k)) := by
  unfold minterm
  cases tt.getLsbD n with
  | true => rw [if_pos rfl, BitVec.getLsbD_and, BitVec.getLsbD_and, getLsbD_ite_not a _ hk, getLsbD_ite_not b _ hk, getLsbD_ite_not c _ hk, Bool.true_and]
  | false => exact BitVec.getLsbD_zero

/-- The entry of a truth table that three bits name is the one number below 8 that has them. -/
theorem testBits_iff_entry (u v w : Bool) {n : Nat} (hn : n < 8) :
    (n.testBit 2 == u && n.testBit 1 == v && n.testBit 0 == w) = decide (n = 4 * u.toNat + 2 * v.toNat + w.toNat) := by
  revert hn n u v w
  decide

/-- Each bit of LOP3 is the entry of its table that the operands' bits name. -/
theorem getLsbD_lop3 {w : Nat} (tt : BitVec 8) (a b c : BitVec w) {k : Nat} (hk : k < w) :
    (lop3 tt a b c).getLsbD k = tt.getLsbD (4 * (a.getLsbD k).toNat + 2 * (b.getLsbD k).toNat + (c.getLsbD k).toNat) := by
  have hj : 4 * (a.getLsbD k).toNat + 2 * (b.getLsbD k).toNat + (c.getLsbD k).toNat < 8 := by
    have := (a.getLsbD k).toNat_lt; have := (b.getLsbD k).toNat_lt; have := (c.getLsbD k).toNat_lt
    omega
  rw [lop3_eq, getLsbD_foldl_or_of_unique hj, getLsbD_minterm tt a b c _ hk, testBits_iff_entry _ _ _ hj, decide_eq_true rfl, Bool.and_true]
  intro n hn hne
  rw [getLsbD_minterm tt a b c n hk, testBits_iff_entry _ _ _ hn, decide_eq_false hne, Bool.and_false]

/-! ## Fields (R191) -/

theorem fieldPos_eq (c : W64) : fieldPos c = (c.extractLsb' 0 6).toNat := (BitVec.extractLsb'_toNat ..).symm

theorem fieldLen_eq (c : W64) : fieldLen c = if (c.extractLsb' 8 6).toNat = 0 then 64 else (c.extractLsb' 8 6).toNat := by
  have : (c.extractLsb' 8 6).toNat = bits c.toNat 8 6 := BitVec.extractLsb'_toNat ..
  simp only [fieldLen, this, beq_iff_eq]

theorem fieldLen_pos (c : W64) : 0 < fieldLen c := by
  rw [fieldLen_eq]
  split <;> omega

theorem ofInt_signedOf {w : Nat} (hw : 0 < w) (x : Nat) : BitVec.ofInt 64 (signedOf w x) = (BitVec.ofNat w x).signExtend 64 := by
  rw [signedOf_eq_toInt hw]
  rfl

/-- Settles O5: LEA is its own sum, LOP3 holds bit by bit, and BFX reads the field that its position and length name. -/
theorem addressesTruthTablesAndFieldExtraction : Obligations.AddressesTruthTablesAndFieldExtraction := by
  intro s f b p t1 t0 x y h hl hr
  refine ⟨fun sh => emits_scalar2 h hl hr rfl rfl, fun imm tt => ⟨_, emits_scalar2 h hl hr rfl rfl, fun k hk => getLsbD_lop3 tt x y _ hk⟩, ?_⟩
  intro pos len w fld
  have hw : fieldLen y = w := fieldLen_eq y
  have hfld : bits x.toNat (fieldPos y) (fieldLen y) = fld := by rw [hw, fieldPos_eq]; rfl
  have hbfx (sgn : Bool) : Emits (.bfx p sgn t1 t0) s f 1 [t0, t1] (.s (fieldExtract sgn x y)) := emits_scalar2 h hl hr rfl rfl
  refine ⟨?_, ?_⟩
  · exact hfld ▸ hbfx false
  · have hval : fieldExtract true x y = (BitVec.ofNat w fld).signExtend 64 := by
      rw [← hfld, ← hw]
      exact ofInt_signedOf (fieldLen_pos y) _
    exact hval ▸ hbfx true

end Sys2Proof.Machine

/-! PROOF of FieldInsertionUnderItsControlToken. BFI is one function of three S operands, whose position and length are those of BFX. -/

namespace Sys2Proof.Machine

/-! ## A word's answer by the form of its meaning, once it is issued and its predicate lets it fire -/

section
variable {i : Instr} {s v : State} {f : Issue} {b : Block} {p : Pr} {t u w : Token} {n : Issue → State → State}

theorem exec_withIssue {k : Issue → Ctx → Block → State → State} (h : Issued s f b) (hi : exec i s = withIssue s k)
    (hk : k f (ctxOf s f.ctx) b (taken s) = v) : exec i s = .next v := hk ▸ hi.trans (withIssue_issued h k)

theorem exec_fire0 {k : Issue → Ctx → Block → State → State} (h : Ready s f b p) (hi : exec i s = fire0 p s k)
    (hk : k f (ctxOf s f.ctx) b (taken s) = v) : exec i s = .next v := hk ▸ hi.trans (fire0_fires h.1 h.2 k)

theorem exec_fire1 {k : Issue → Ctx → Block → Token → State → State} (h : Ready s f b p) (hl : f.left = some t) (ht : t ≠ .n)
    (hi : exec i s = fire1 p s n k) (hk : k f (ctxOf s f.ctx) b t (taken s) = v) : exec i s = .next v :=
  hk ▸ hi.trans (fire1_fires h.1 h.2 hl ht n k)

theorem exec_fire2 {k : Issue → Ctx → Block → Token → Token → State → State} (h : Ready s f b p) (hl : f.left = some t) (hr : f.right = some u)
    (ht : t ≠ .n) (hu : u ≠ .n) (hi : exec i s = fire2 p s n k) (hk : k f (ctxOf s f.ctx) b t u (taken s) = v) : exec i s = .next v :=
  hk ▸ hi.trans (fire2_fires h.1 h.2 hl hr ht hu n k)

theorem exec_fire3 {k : Issue → Ctx → Block → Token → Token → Token → State → State} (h : Issued s f b) (hl : f.left = some t)
    (hr : f.right = some u) (h3 : f.third = some w) (ht : t ≠ .n) (hu : u ≠ .n) (hw : w ≠ .n) (hi : exec i s = fire3 s n k)
    (hk : k f (ctxOf s f.ctx) b t u w (taken s) = v) : exec i s = .next v :=
  hk ▸ hi.trans (fire3_fires h hl hr h3 ht hu hw n k)

end

/-! ## BFI (R192) -/

theorem emits_scalar3 {i : Instr} {s : State} {f : Issue} {b : Block} {ts : List Target} {g : W64 → W64 → W64 → W64} {x y c : W64}
    (h : Issued s f b) (hl : f.left = some (.s x)) (hr : f.right = some (.s y)) (h3 : f.third = some (.s c)) (hi : exec i s = scalar3 ts g s) :
    Emits i s f 1 ts (.s (g x y c)) := exec_fire3 h hl hr h3 nofun nofun nofun hi rfl

/-- Settles O6: the mask of the statement is the model's, a shift being a product by a power of two. -/
theorem fieldInsertionUnderItsControlToken : Obligations.FieldInsertionUnderItsControlToken := by
  intro s f b t1 t0 x y c h hl hr h3 pos w mask
  have hpos : fieldPos c = pos := fieldPos_eq c
  have hw : fieldLen c = w := (fieldLen_eq c).trans (ite_congr (propext (BitVec.toNat_inj (y := 0))) (fun _ => rfl) fun _ => rfl)
  have hbfi : fieldInsert x y c = (x &&& ~~~mask) ||| ((y <<< pos) &&& mask) := by rw [fieldInsert, hpos, hw, ← Nat.shiftLeft_eq]
  exact ⟨rfl, rfl, hbfi ▸ emits_scalar3 h hl hr h3 rfl⟩

end Sys2Proof.Machine

/-! PROOF of CarriesGoToTheSecondTarget. The carry is the quotient of the sum by 2^64, which is 0 or 1 since the sum is below 2^65. -/

namespace Sys2Proof.Machine

theorem carrySum_eq (x y : W64) (cin : Bool) :
    let sum := x.toNat + y.toNat + cin.toNat
    carrySum x y cin = (BitVec.ofNat 64 sum, if sum < 2 ^ 64 then 0 else 1) := by
  intro sum
  refine congrArg (Prod.mk _) ?_
  change BitVec.ofNat 64 (sum / 2 ^ 64) = _
  split
  · next hlt => exact congrArg _ (Nat.div_eq_of_lt hlt)
  · next hge =>
    have hsum : sum < 2 ^ 65 := by
      have := x.isLt; have := y.isLt; have := cin.toNat_lt
      omega
    exact congrArg _ (by omega : sum / 2 ^ 64 = 1)

theorem exec_addc (p : Pr) (t1 t0 : Target) (s : State) : exec (.addc p t1 t0) s = execAddc p t1 t0 s := rfl

theorem exec_adc (t1 t0 : Target) (s : State) : exec (.adc t1 t0) s = execAdc t1 t0 s := rfl

/-- Settles O7: ADDC adds without a carry in, ADC with bit 0 of the third operand. -/
theorem carriesGoToTheSecondTarget : Obligations.CarriesGoToTheSecondTarget := by
  intro s f b p t1 t0 x y c h hl hr out
  have emits {i : Instr} {cin : Bool} (hi : exec i s = .next (emitCarry (taken s) f t1 t0 (carrySum x y cin))) :
      exec i s = out (x.toNat + y.toNat + cin.toNat) := hi.trans (by rw [carrySum_eq]; rfl)
  refine ⟨fun hp => ?_, fun h3 => ?_⟩
  · exact emits (cin := false) (exec_fire2 ⟨h, hp⟩ hl hr nofun nofun (exec_addc ..) rfl)
  · have hbit : (c.getLsbD 0).toNat = c.toNat % 2 := by rw [BitVec.getLsbD, Nat.toNat_testBit, Nat.pow_zero, Nat.div_one]
    exact hbit ▸ emits (exec_fire3 h hl hr h3 nofun nofun nofun (exec_adc ..) rfl)

end Sys2Proof.Machine

/-! PROOF of ConstantsMovesAndSelection. Each word that takes no predicate answers as an issued word does (`withIssue_issued`), and the others as words of no
data operand do, since they pass a token of any kind. -/

namespace Sys2Proof.Machine

theorem exec_genc (imm : BitVec 16) (t0 : Target) (s : State) : exec (.genc imm t0) s = execGenc imm t0 s := rfl

theorem exec_badr (imm : BitVec 16) (t0 : Target) (s : State) : exec (.badr imm t0) s = execBadr imm t0 s := rfl

theorem exec_null (p : Pr) (t1 t0 : Target) (s : State) : exec (.null p t1 t0) s = execNull p t1 t0 s := rfl

theorem exec_sel (t1 t0 : Target) (s : State) : exec (.sel t1 t0) s = execSel t1 t0 s := rfl

/-- A word that passes its left token passes one of any kind (R182). -/
theorem emits_moveLeft {i : Instr} {s : State} {f : Issue} {b : Block} {p : Pr} {ts : List Target} {t : Token} (h : Ready s f b p)
    (hl : f.left = some t) (hi : exec i s = moveLeft p ts s) : Emits i s f 1 ts t :=
  exec_fire0 h hi (by rw [hl])

/-- Settles O9: the constants and NULL at once, the moves by their left token, and SEL by its third. -/
theorem constantsMovesAndSelection : Obligations.ConstantsMovesAndSelection := by
  intro s f b p imm t3 t2 t1 t0 u v
  refine ⟨fun h => ⟨exec_withIssue h (exec_genc ..) rfl, exec_withIssue h (exec_badr ..) rfl,
      fun x hl => emits_scalar1 (p := .always) ⟨h, trivial⟩ hl rfl rfl⟩,
    fun h hl => ⟨emits_moveLeft h hl rfl, emits_moveLeft h hl rfl⟩, fun h => exec_fire0 h (exec_null ..) rfl, fun h hl hr =>
    ⟨fun h3 => ?_, fun h3 => ?_, fun x hx h3 => ?_, fun l m h3 => ?_⟩⟩
  · exact exec_withIssue h (exec_sel ..) (by rw [hl, hr, h3])
  · exact exec_withIssue h (exec_sel ..) (by rw [hl, hr, h3]; rfl)
  · exact exec_withIssue h (exec_sel ..) (by simp only [hl, hr, h3, if_neg hx])
  · exact exec_withIssue h (exec_sel ..) (by rw [hl, hr, h3]; rfl)

end Sys2Proof.Machine

/-! PROOF of LaneLogicComparisonsAndMasks. Logic on sub-elements is logic on the lane, since a lane is known by its sub-elements (`lane_ext`); VLOP3 is the LOP3
of each lane, and a compare the element-wise result of its condition. -/

namespace Sys2Proof.Machine

/-! ## A lane and its sub-elements (R55) -/

theorem count_mul_width (ty : ElemTy) : ty.count * ty.width = 32 := by cases ty <;> rfl

theorem count_pos (ty : ElemTy) : 0 < ty.count := by cases ty <;> decide

/-- Bit k of sub-element j of a lane. -/
theorem testBit_sub (x : Word) (j : Nat) {w k : Nat} (hk : k < w) : (sub x j w).testBit k = x.getLsbD (j * w + k) := by
  rw [sub, bits, Nat.testBit_mod_two_pow, decide_eq_true hk, Bool.true_and, Nat.testBit_shiftRight]
  rfl

theorem testBit_sub_of_ge (x : Word) (j : Nat) {w k : Nat} (hk : w ≤ k) : (sub x j w).testBit k = false := by
  rw [sub, bits, Nat.testBit_mod_two_pow, decide_eq_false (Nat.not_lt.mpr hk), Bool.false_and]

/-- A lane is known by its sub-elements. -/
theorem lane_ext (ty : ElemTy) {x y : Word} (h : ∀ j, j < ty.count → sub x j ty.width = sub y j ty.width) : x = y := by
  apply BitVec.eq_of_getLsbD_eq
  intro k hk
  have hmod : k % ty.width < ty.width := Nat.mod_lt _ (width_pos ty)
  have hdiv : k / ty.width < ty.count := Nat.div_lt_of_lt_mul (by rw [Nat.mul_comm, count_mul_width]; exact hk)
  have hbit := congrArg (Nat.testBit · (k % ty.width)) (h _ hdiv)
  simpa only [testBit_sub _ _ hmod, Nat.div_add_mod'] using hbit

/-- Sub-elements of a bitwise operation are the operation's on sub-elements. -/
theorem sub_bitwise {g : Word → Word → Word} {o : Bool → Bool → Bool} {n : Nat → Nat → Nat} (ho : o false false = false)
    (hg : ∀ x y k, (g x y).getLsbD k = o (x.getLsbD k) (y.getLsbD k)) (hn : ∀ a b k, (n a b).testBit k = o (a.testBit k) (b.testBit k))
    (x y : Word) (j w : Nat) : sub (g x y) j w = n (sub x j w) (sub y j w) := by
  apply Nat.eq_of_testBit_eq
  intro k
  rw [hn]
  rcases Nat.lt_or_ge k w with hk | hk
  · rw [testBit_sub _ _ hk, testBit_sub _ _ hk, testBit_sub _ _ hk, hg]
  · rw [testBit_sub_of_ge _ _ hk, testBit_sub_of_ge _ _ hk, testBit_sub_of_ge _ _ hk, ho]

/-- A lane operation that is `g` on every sub-element is `g` on the lane. -/
theorem laneOp2_eq {ty : ElemTy} {op : LaneOp} {g : Word → Word → Word}
    (h : ∀ x y j, sub (g x y) j ty.width = laneOp ty op (sub x j ty.width) (sub y j ty.width)) (a b : Word) : laneOp2 ty op a b = g a b := by
  refine lane_ext ty fun j hj => ?_
  rw [laneOp2, sub_mapSubs ty _ j hj, ← h, Nat.mod_eq_of_lt (sub_lt ..)]

theorem laneOp2_and (ty : ElemTy) (a b : Word) : laneOp2 ty .and a b = a &&& b :=
  laneOp2_eq (fun _ _ _ => sub_bitwise rfl (fun _ _ _ => BitVec.getLsbD_and) Nat.testBit_and ..) a b

theorem laneOp2_or (ty : ElemTy) (a b : Word) : laneOp2 ty .or a b = a ||| b :=
  laneOp2_eq (fun _ _ _ => sub_bitwise rfl (fun _ _ _ => BitVec.getLsbD_or) Nat.testBit_or ..) a b

theorem laneOp2_xor (ty : ElemTy) (a b : Word) : laneOp2 ty .xor a b = a ^^^ b :=
  laneOp2_eq (fun _ _ _ => sub_bitwise rfl (fun _ _ _ => BitVec.getLsbD_xor) Nat.testBit_xor ..) a b

/-! ## Results lane by lane -/

theorem lanesAre_maskedLanes (m : Mask) (g : Nat → Word) : LanesAre (.v (maskedLanes m g) m) m g :=
  ⟨_, rfl, fun _ hi => lane_maskedLanes m g _ hi⟩

theorem LanesAre.congr {t : Token} {m : Mask} {g g' : Nat → Word} (h : LanesAre t m g) (hg : ∀ i, g i = g' i) : LanesAre t m g' :=
  (funext hg : g = g') ▸ h

theorem lanesAre_vec2 (g : Word → Word → Word) (la lb : Lanes) (ma mb : Mask) :
    LanesAre (vec2 g la ma lb mb) (ma &&& mb) (fun i => g (lane la i) (lane lb i)) := lanesAre_maskedLanes ..

/-- An element mask: the ones of a sub-element where the condition holds, and 0 where it does not (R198). -/
theorem subsAre_cmp (ty : ElemTy) (c : CmpCond) (la lb : Lanes) (ma mb : Mask) :
    SubsAre ty (vec2 (cmpLane ty c) la ma lb mb) (ma &&& mb)
      (fun i j => if cmpSub ty c (sub (lane la i) j ty.width) (sub (lane lb i) j ty.width) then 2 ^ ty.width - 1 else 0) := by
  refine (subsAre_maskedLanes ty (ma &&& mb) _).congr fun i j => ?_
  have hpos := Nat.two_pow_pos ty.width
  split
  · exact Nat.mod_eq_of_lt (by omega)
  · exact Nat.zero_mod _

/-! ## Words of one V operand, of one S operand, and of both (R168) -/

section
variable {i : Instr} {s : State} {f : Issue} {b : Block} {p : Pr} {ts : List Target} {lat : Nat} {t : Token}

theorem emits_vector1_of_eq {g : Lanes → Mask → Token} {l : Lanes} {m : Mask} (h : Ready s f b p) (hl : f.left = some (.v l m))
    (hi : exec i s = vector1 p lat ts g s) (hg : g l m = t) : Emits i s f lat ts t := hg ▸ emits_vector1 h hl hi

theorem emits_scalarToken {g : W64 → Token} {x : W64} (h : Ready s f b p) (hl : f.left = some (.s x)) (hi : exec i s = scalarToken p lat ts g s)
    (hg : g x = t) : Emits i s f lat ts t := exec_fire1 h hl nofun hi (hg ▸ rfl)

theorem emits_vectorScalar {g : Lanes → Mask → W64 → Token} {l : Lanes} {m : Mask} {x : W64} (h : Ready s f b p) (hl : f.left = some (.v l m))
    (hr : f.right = some (.s x)) (hi : exec i s = vectorScalar p lat ts g s) (hg : g l m x = t) : Emits i s f lat ts t :=
  exec_fire2 h hl hr nofun nofun hi (hg ▸ rfl)

end

/-! ## VMASK (R213) -/

theorem truncate_mask (x : W64) : x.truncate 16 = x.extractLsb' 0 16 := BitVec.setWidth_eq_extractLsb' (by decide)

theorem getLsbD_mask_extended (m : Mask) (i : Nat) : (m.zeroExtend 64).getLsbD i = m.getLsbD i := by
  rw [BitVec.getLsbD_setWidth, Bool.and_eq_right_iff_imp]
  intro h
  have : i < 16 := BitVec.lt_of_getLsbD h
  exact decide_eq_true (by omega)

theorem toNat_mask_extended (m : Mask) : (m.zeroExtend 64).toNat = m.toNat := BitVec.toNat_setWidth_of_le (by decide)

/-- FIRST: the lowest set bit of the low 16, or 16. -/
theorem firstOfMask_counts (x : W64) :
    let r := BitVec.ofNat 64 (lowestSet (x.toNat % 2 ^ 16) 16)
    r.toNat ≤ 16 ∧ (∀ k, k < r.toNat → x.getLsbD k = false) ∧ (r.toNat < 16 → x.getLsbD r.toNat = true) := by
  intro r
  obtain ⟨hle, hz, hs⟩ := lowestSet_counts (x.toNat % 2 ^ 16) 16
  have hr : r.toNat = lowestSet (x.toNat % 2 ^ 16) 16 := Nat.mod_eq_of_lt (Nat.lt_of_le_of_lt hle (by decide))
  have hbit {k : Nat} (hk : k < 16) : (x.toNat % 2 ^ 16).testBit k = x.getLsbD k := by
    rw [Nat.testBit_mod_two_pow, decide_eq_true hk, Bool.true_and]
    rfl
  rw [hr]
  exact ⟨hle, fun k hk => hbit (Nat.lt_of_lt_of_le hk hle) ▸ hz k hk, fun hlt => hbit hlt ▸ hs hlt⟩

/-- Settles O18: the logic on whole lanes, the compares, and each form of VMASK. -/
theorem laneLogicComparisonsAndMasks : Obligations.LaneLogicComparisonsAndMasks := by
  intro s f b p ty t1 t0 la lb ma mb x h m
  refine ⟨fun hl hr => ⟨fun _ => ?logic, ?lop3, ?cmp⟩, fun hl => ⟨?mtos, ?getv, fun hr => ⟨?setv, ?andv⟩⟩, fun hl => ⟨?stom, ?first⟩⟩
  case logic =>
    have emits {i : Instr} {op : LaneOp} {g : Word → Word → Word} (hi : exec i s = lanewise p 2 ty op t1 t0 s) (hg : ∀ a b, laneOp2 ty op a b = g a b) :
        ∃ t, Emits i s f 2 [t0, t1] t ∧ LanesAre t m (fun i => g (lane la i) (lane lb i)) :=
      ⟨_, emits_vector2 h hl hr hi, (lanesAre_vec2 ..).congr fun _ => hg ..⟩
    exact ⟨emits rfl (laneOp2_and ty), emits rfl (laneOp2_or ty), emits rfl (laneOp2_xor ty)⟩
  case lop3 =>
    exact fun imm tt => ⟨_, _, emits_vector2 h hl hr rfl, lanesAre_vec2 .., fun i k hk => getLsbD_lop3 tt _ _ _ hk⟩
  case cmp =>
    exact fun c => ⟨_, emits_vector2 h hl hr rfl, subsAre_cmp ..⟩
  case mtos =>
    refine ⟨_, emits_vector1_of_eq h hl rfl rfl, ?_, fun i hi => ?_⟩
    · rw [toNat_mask_extended]
      exact BitVec.isLt _
    · rw [getLsbD_mask_extended, getLsbD_mkMask _ _ hi]
  case getv => exact emits_vector1_of_eq h hl rfl rfl
  case setv => exact emits_vectorScalar h hl hr rfl (congrArg _ (truncate_mask x))
  case andv => exact emits_vectorScalar h hl hr rfl (congrArg _ (congrArg _ (truncate_mask x)))
  case stom => exact ⟨_, emits_scalarToken h hl rfl rfl, fun i hi => lane_mkLanes _ _ hi⟩
  case first => exact ⟨_, emits_scalarToken h hl rfl rfl, firstOfMask_counts x⟩

end Sys2Proof.Machine

/-! PROOF of PermutedAndSwizzledLanesTakeTheirSources. Both instructions pick whole lanes by a source for each lane (`pickLanes_sources`); a pattern that
exchanges lanes flips one bit of the lane number. -/

namespace Sys2Proof.Machine

/-- Lanes picked by their sources: with the source's valid bit, or invalid and 0 where there is none. -/
theorem pickLanes_sources (src : Nat → Option Nat) (l : Lanes) (m : Mask) : ∃ r v, pickLanes src l m = .v r v ∧ ∀ i, i < 16 →
    (∀ k, src i = some k → v.getLsbD i = m.getLsbD k ∧ lane r i = if m.getLsbD k then lane l k else 0)
    ∧ (src i = none → v.getLsbD i = false ∧ lane r i = 0) := by
  refine ⟨_, _, rfl, fun i hi => ?_⟩
  rw [lane_mkLanes _ _ hi, getLsbD_mkMask _ _ hi]
  exact ⟨fun k hk => by rw [hk]; exact ⟨rfl, rfl⟩, fun hn => by rw [hn]; exact ⟨rfl, rfl⟩⟩

/-! ## The patterns of VSWZ (R204) -/

theorem flipped_bit_of_lane : ∀ i < 16, (i ^^^ 1 = if i % 2 = 0 then i + 1 else i - 1) ∧ (i ^^^ 2 = if i / 2 % 2 = 0 then i + 2 else i - 2)
    ∧ (i ^^^ 4 = if i / 4 % 2 = 0 then i + 4 else i - 4) ∧ (i ^^^ 8 = if i < 8 then i + 8 else i - 8) := by decide

/-- Settles O19: the sources of each instruction as the statement names them. -/
theorem permutedAndSwizzledLanesTakeTheirSources : Obligations.PermutedAndSwizzledLanesTakeTheirSources := by
  intro s f b p pat t1 t0 ld li md mi h hl k src xop
  refine ⟨fun hr => ⟨rfl, ?perm⟩, ?word, ?swz⟩
  case perm =>
    obtain ⟨r, v, ht, hsrc⟩ := pickLanes_sources (fun i => if mi.getLsbD i then some ((lane li i).toNat % 16) else none) ld md
    refine ⟨_, r, v, emits_vector2 (g := permLanes) h hl hr rfl, ht, fun i hi => ?_⟩
    obtain ⟨hsome, hnone⟩ := hsrc i hi
    have hk : (lane li i).toNat % 16 = k i := (BitVec.extractLsb'_toNat 0 4 (lane li i)).symm
    cases hmi : mi.getLsbD i with
    | true =>
      obtain ⟨hm, hlane⟩ := hsome (k i) (by rw [if_pos hmi, hk])
      exact ⟨hm, hm ▸ hlane⟩
    | false =>
      obtain ⟨hm, hlane⟩ := hnone (if_neg (Bool.eq_false_iff.mp hmi))
      exact ⟨hm, by rw [hm]; exact hlane⟩
  case word => cases pat <;> rfl
  case swz =>
    obtain ⟨r, v, ht, hsrc⟩ := pickLanes_sources (swzSrc pat) ld md
    refine ⟨_, r, v, emits_vector1 (g := pickLanes (swzSrc pat)) h hl rfl, ht, fun i hi => ?_⟩
    obtain ⟨h1, h2, h4, h8⟩ := flipped_bit_of_lane i hi
    have hpat : swzSrc pat i = src i := by
      cases pat with
      | x1 => exact congrArg some h1
      | x2 => exact congrArg some h2
      | x4 => exact congrArg some h4
      | x8 => exact congrArg some h8
      | _ => rfl
    exact hpat ▸ hsrc i hi

end Sys2Proof.Machine

/-! PROOF of LaneSelectionInsertionAndExtraction. VSEL is made lane by lane; VSPLAT, VEXT and VINS by sub-elements, where `setSub` replaces the bits of one
and keeps those of the others. -/

namespace Sys2Proof.Machine

/-! ## Sub-elements replaced (R202) -/

/-- Bit k of a field of ones at bit n. -/
theorem getLsbD_ones (w n : Nat) {k : Nat} (hk : k < 32) : (BitVec.ofNat 32 ((2 ^ w - 1) * 2 ^ n)).getLsbD k = decide (n ≤ k ∧ k < n + w) := by
  rw [BitVec.getLsbD_ofNat, decide_eq_true hk, Bool.true_and, Nat.testBit_mul_two_pow, Nat.testBit_two_pow_sub_one, ← Bool.decide_and]
  exact decide_eq_decide.mpr (by omega)

/-- Bit k of a sub-element's value at bit n. -/
theorem getLsbD_placed (w n y : Nat) {k : Nat} (hk : k < 32) :
    (BitVec.ofNat 32 (y % 2 ^ w * 2 ^ n)).getLsbD k = (decide (n ≤ k ∧ k < n + w) && y.testBit (k - n)) := by
  rw [BitVec.getLsbD_ofNat, decide_eq_true hk, Bool.true_and, Nat.testBit_mul_two_pow, Nat.testBit_mod_two_pow, ← Bool.and_assoc, ← Bool.decide_and]
  exact congrArg (· && _) (decide_eq_decide.mpr (by omega))

theorem getLsbD_setSub (x : Word) (j w y : Nat) {k : Nat} (hk : k < 32) :
    (setSub x j w y).getLsbD k = if j * w ≤ k ∧ k < j * w + w then y.testBit (k - j * w) else x.getLsbD k := by
  rw [setSub, BitVec.getLsbD_or, BitVec.getLsbD_and, BitVec.getLsbD_not, decide_eq_true hk, getLsbD_ones _ _ hk, getLsbD_placed _ _ _ hk, Bool.true_and]
  split
  · next h => rw [decide_eq_true h, Bool.not_true, Bool.and_false, Bool.false_or, Bool.true_and]
  · next h => rw [decide_eq_false h, Bool.not_false, Bool.and_true, Bool.false_and, Bool.or_false]

theorem mul_add_self_le {i j : Nat} (w : Nat) (h : j < i) : j * w + w ≤ i * w := Nat.succ_mul j w ▸ Nat.mul_le_mul_right w h

/-- A replaced sub-element reads as its new value, and every other as before. -/
theorem sub_setSub (ty : ElemTy) (x : Word) (y : Nat) {j : Nat} (i : Nat) (hj : j < ty.count) :
    sub (setSub x i ty.width y) j ty.width = if j = i then y % 2 ^ ty.width else sub x j ty.width := by
  apply Nat.eq_of_testBit_eq
  intro k
  rcases Nat.lt_or_ge k ty.width with hk | hk
  case inr =>
    rw [testBit_sub_of_ge _ _ hk]
    split
    · rw [Nat.testBit_mod_two_pow, decide_eq_false (Nat.not_lt.mpr hk), Bool.false_and]
    · rw [testBit_sub_of_ge _ _ hk]
  have hbit : j * ty.width + k < 32 := by
    have := mul_add_self_le ty.width hj
    rw [count_mul_width] at this
    omega
  rw [testBit_sub _ _ hk, getLsbD_setSub _ _ _ _ hbit]
  by_cases hji : j = i
  · subst hji
    rw [if_pos (by omega), if_pos rfl, Nat.testBit_mod_two_pow, decide_eq_true hk, Nat.add_sub_cancel_left, Bool.true_and]
  · have hne : ¬(i * ty.width ≤ j * ty.width + k ∧ j * ty.width + k < i * ty.width + ty.width) := by
      rcases Nat.lt_or_gt_of_ne hji with hlt | hgt
      · have := mul_add_self_le ty.width hlt
        omega
      · have := mul_add_self_le ty.width hgt
        omega
    rw [if_neg hne, if_neg hji, testBit_sub _ _ hk]

/-! ## Scalars and sub-elements (R200 to R202) -/

/-- The bits of a scalar in a sub-element, as the statement has them. -/
def scalarCode (ty : ElemTy) (v : W64) : Nat :=
  if ty = .tern2x16 then (if v.toInt < 0 then 3 else if v = 0 then 0 else 1) else v.toNat % 2 ^ ty.width

theorem ternCode_eq (v : W64) : ternCode v.toInt = if v.toInt < 0 then 3 else if v = 0 then 0 else 1 := by
  have hzero : v = 0 ↔ v.toInt = 0 := BitVec.toInt_inj.symm
  have hclamp : clampInt v.toInt (-1) 1 = if v.toInt < 0 then -1 else if v.toInt = 0 then 0 else 1 := by
    rw [clampInt]
    split
    · omega
    · split <;> omega
  rw [ternCode, hclamp]
  simp only [hzero]
  split
  · rfl
  · split <;> rfl

theorem subOfScalar_eq (ty : ElemTy) (v : W64) : subOfScalar ty v = scalarCode ty v := by
  simp only [subOfScalar, scalarCode, ternCode_eq, beq_iff_eq]

theorem scalarCode_mod (ty : ElemTy) (v : W64) : scalarCode ty v % 2 ^ ty.width = scalarCode ty v := by
  unfold scalarCode
  split
  · next h =>
    subst h
    split
    · rfl
    · split <;> rfl
  · exact Nat.mod_mod ..

theorem every_lane_valid : ∀ i < 16, (0xFFFF : Mask).getLsbD i = true := by decide

theorem subIndex_eq (ty : ElemTy) (x : W64) :
    subIndex ty x = (x.toNat % (16 * ty.count) / ty.count, x.toNat % (16 * ty.count) % ty.count) :=
  congrArg (Prod.mk _) (Nat.mod_mod_of_dvd _ (Nat.dvd_mul_left ..)).symm

theorem scalarOfSub_signed {ty : ElemTy} (h : ty = .i32 ∨ ty = .i16x2 ∨ ty = .i8x4 ∨ ty = .i4x8) (e : Nat) :
    scalarOfSub ty e = (BitVec.ofNat ty.width e).signExtend 64 := by
  rw [← ofInt_signedOf (width_pos ty)]
  rcases h with rfl | rfl | rfl | rfl <;> rfl

theorem toInt_scalarOfSub_tern {e : Nat} (he : e < 4) : (scalarOfSub .tern2x16 e).toInt = if e = 1 then 1 else if e = 3 then -1 else 0 := by
  revert e
  decide

theorem toNat_scalarOfSub {ty : ElemTy} (h : ¬(ty = .i32 ∨ ty = .i16x2 ∨ ty = .i8x4 ∨ ty = .i4x8 ∨ ty = .tern2x16)) {e : Nat} (he : e < 2 ^ ty.width) :
    (scalarOfSub ty e).toNat = e := by
  have hval : scalarOfSub ty e = BitVec.ofNat 64 e := by
    cases ty with
    | i32 | i16x2 | i8x4 | i4x8 | tern2x16 => simp at h
    | _ => rfl
  have hw : ty.width ≤ 32 := Nat.div_le_self ..
  rw [hval]
  exact Nat.mod_eq_of_lt (Nat.lt_of_lt_of_le he (Nat.pow_le_pow_right (by decide) (by omega)))

/-! ## The words of three operands of two kinds -/

theorem exec_vsel (t1 t0 : Target) (s : State) : exec (.vsel t1 t0) s = execVsel t1 t0 s := rfl

theorem exec_vins (ty : ElemTy) (t1 t0 : Target) (s : State) : exec (.vins ty t1 t0) s = execVins ty t1 t0 s := rfl

/-- A lane chosen with its valid bit is the chosen lane where the result is valid. -/
theorem chosenLane_eq {q m n : Bool} (a c : Word) :
    (if q then (if m then a else 0) else if n then c else 0) = if (if q then m else n) then (if q then a else c) else 0 := by
  cases q <;> rfl

/-- Settles O20: VSEL lane by lane, and the others by the sub-element that the index names. -/
theorem laneSelectionInsertionAndExtraction : Obligations.LaneSelectionInsertionAndExtraction := by
  intro s f b p ty t1 t0 la lb lm ma mb mm x v w k code
  have hcode : subOfScalar ty v = code v := subOfScalar_eq ty v
  have hindex : subIndex ty x = (k / ty.count, k % ty.count) := subIndex_eq ty x
  refine ⟨fun h hl hr => ⟨fun h3 => ?bits, fun h3 => ?lanes⟩, fun h hl => ?splat, fun h hl hr => ?ext, fun h hl hr h3 => ?ins⟩
  case bits =>
    refine ⟨_, _, exec_fire3 h hl hr h3 nofun nofun nofun (exec_vsel ..) rfl, fun i hi => ?_⟩
    rw [getLsbD_mkMask _ _ hi, lane_mkLanes _ _ hi]
    exact ⟨rfl, chosenLane_eq ..⟩
  case lanes =>
    exact ⟨_, exec_fire3 h hl hr h3 nofun nofun nofun (exec_vsel ..) rfl, lanesAre_maskedLanes ..⟩
  case splat =>
    refine ⟨_, emits_scalarToken h hl rfl rfl, _, rfl, fun i hi => ⟨fun _ j hj => ?_, fun hv => ?_⟩⟩
    · rw [lane_mkLanes _ _ hi, sub_mapSubs ty _ j hj, hcode]
      exact scalarCode_mod ty v
    · rw [every_lane_valid i hi] at hv
      cases hv
  case ext =>
    let e := sub (lane la (k / ty.count)) (k % ty.count) w
    have he : e < 2 ^ w := sub_lt ..
    have hext : Emits (.vext p ty t1 t0) s f 2 [t0, t1] (if ma.getLsbD (k / ty.count) then .s (scalarOfSub ty e) else .n) :=
      emits_vectorScalar h hl hr rfl (by rw [hindex])
    refine ⟨fun hm => ?_, fun hm => ⟨scalarOfSub ty e, ?_, fun hty => scalarOfSub_signed hty e, fun hty => ?_, fun hty => toNat_scalarOfSub hty he⟩⟩
    · rwa [hm] at hext
    · rwa [hm] at hext
    · subst hty
      exact toInt_scalarOfSub_tern he
  case ins =>
    refine ⟨_, exec_fire3 h hl hr h3 nofun nofun nofun (exec_vins ..) rfl, fun i j hi hj => ?_⟩
    rw [lane_mkLanes _ _ hi, hindex, hcode]
    by_cases hik : i = k / ty.count
    · rw [if_pos (beq_iff_eq.mpr hik), sub_setSub ty _ _ _ hj]
      simp only [hik, true_and]
      exact ite_congr rfl (fun _ => scalarCode_mod ty v) fun _ => rfl
    · rw [if_neg (mt beq_iff_eq.mp hik), if_neg fun hj => hik hj.1]

end Sys2Proof.Machine

/-! PROOF of LaneConversionsAndDotProducts. A conversion makes each sub-element from one exact value; VDOT's fold is the statement's, its sum clamped into the range
where the low 32 bits are the number itself; the special functions' named values are evaluated. -/

namespace Sys2Proof.Machine

/-! ## Dot products of integers (R210) -/

/-- The integer that a sub-element of a dot product stands for, as the statement has it. -/
def dotElem (ty : ElemTy) (u : Nat) : Int :=
  if ty = .tern2x16 then (if u % 4 = 1 then 1 else if u % 4 = 3 then -1 else 0)
  else if ty.isSigned then (BitVec.ofNat ty.width u).toInt else u

/-- The products of two lanes' sub-elements added to an integer. -/
def dotSum (ty : ElemTy) (a b : Word) (c : Int) : Int :=
  (List.range ty.count).foldl (fun acc j => acc + dotElem ty (sub a j ty.width) * dotElem ty (sub b j ty.width)) c

theorem foldl_products_congr {e e' : Nat → Int} {w : Nat} (h : ∀ u < 2 ^ w, e u = e' u) (a b : Word) (js : List Nat) (c : Int) :
    js.foldl (fun acc j => acc + e (sub a j w) * e (sub b j w)) c = js.foldl (fun acc j => acc + e' (sub a j w) * e' (sub b j w)) c := by
  congr 1
  funext acc j
  rw [h _ (sub_lt ..), h _ (sub_lt ..)]

theorem ofNat_wrapInt (z : Int) : BitVec.ofNat 32 (wrapInt 32 z) = BitVec.ofInt 32 z := by
  rw [wrapInt_eq_toNat, BitVec.ofNat_toNat, BitVec.setWidth_eq]

theorem vdotLane_int {ty : ElemTy} (h : ty.isFloat = false) (a b c : Word) :
    vdotLane ty a b c = if ty = .u8x4 ∨ ty = .u16x2 then BitVec.ofInt 32 (clampInt (dotSum ty a b c.toNat) 0 (2 ^ 32 - 1))
      else BitVec.ofInt 32 (clampInt (dotSum ty a b c.toInt) (-(2 ^ 31)) (2 ^ 31 - 1)) := by
  unfold vdotLane
  rw [if_neg (Bool.eq_false_iff.mp h)]
  extract_lets elem isU c0 z
  have helem : ∀ u < 2 ^ ty.width, elem u = dotElem ty u := by
    intro u hu
    simp only [elem, dotElem, beq_iff_eq, intElem_eq ty hu]
    split
    · split
      · next h1 => rw [if_pos h1]
      · next h3 => rw [if_neg (by omega), if_pos h3]
      · next h1 h3 => rw [if_neg h1, if_neg h3]
    · rfl
  have hz : z = dotSum ty a b c0 := by
    rw [dotSum, ← upTo_eq]
    exact foldl_products_congr helem a b _ c0
  have hU : isU = true ↔ ty = .u8x4 ∨ ty = .u16x2 := by
    simp only [isU, Bool.or_eq_true, beq_iff_eq, or_comm]
  rw [ofNat_wrapInt, ofNat_wrapInt, hz]
  by_cases hty : ty = .u8x4 ∨ ty = .u16x2
  · rw [if_pos (hU.mpr hty), if_pos hty, show c0 = (c.toNat : Int) from if_pos (hU.mpr hty)]
  · have hc : c0 = c.toInt := by
      rw [show c0 = signedOf 32 c.toNat from if_neg (mt hU.mp hty), signedOf_eq_toInt (by decide), BitVec.ofNat_toNat, BitVec.setWidth_eq]
    rw [if_neg (mt hU.mp hty), if_neg hty, hc]

/-- A number clamped into the signed range is the signed value of its low 32 bits. -/
theorem toInt_clamped (z : Int) : (BitVec.ofInt 32 (clampInt z (-(2 ^ 31)) (2 ^ 31 - 1))).toInt = max (-(2 : Int) ^ 31) (min (2 ^ 31 - 1) z) := by
  rw [clampInt, Int.min_comm, BitVec.toInt_ofInt, Int.bmod_eq_of_le] <;> omega

/-- A number clamped into the unsigned range is the value of its low 32 bits. -/
theorem toNat_clamped (z : Int) : ((BitVec.ofInt 32 (clampInt z 0 (2 ^ 32 - 1))).toNat : Int) = max 0 (min (2 ^ 32 - 1) z) := by
  rw [clampInt, Int.min_comm, BitVec.toNat_ofInt]
  omega

theorem toNat_vdotLane {ty : ElemTy} (h : ty = .u8x4 ∨ ty = .u16x2) (a b c : Word) :
    ((vdotLane ty a b c).toNat : Int) = max 0 (min (2 ^ 32 - 1) (dotSum ty a b c.toNat)) := by
  have hint : ty.isFloat = false := by rcases h with rfl | rfl <;> rfl
  rw [vdotLane_int hint, if_pos h, toNat_clamped]

theorem toInt_vdotLane {ty : ElemTy} (h : ty.isFloat = false) (h8 : ty ≠ .u8x4) (h16 : ty ≠ .u16x2) (a b c : Word) :
    (vdotLane ty a b c).toInt = max (-(2 : Int) ^ 31) (min (2 ^ 31 - 1) (dotSum ty a b c.toInt)) := by
  rw [vdotLane_int h, if_neg (not_or.mpr ⟨h8, h16⟩), toInt_clamped]

theorem vdotLane_float {ty : ElemTy} (h : ty.isFloat = true) (a b c : Word) :
    vdotLane ty a b c = BitVec.ofNat 32 (encodeFloat fmtF32 .ne false ((List.range ty.count).foldl
      (fun acc j => fadd acc (fmul (decodeFloat (fmtOf ty) (sub a j ty.width)) (decodeFloat (fmtOf ty) (sub b j ty.width))))
      (decodeFloat fmtF32 c.toNat))) := by
  rw [← upTo_eq]
  exact if_pos h

/-! ## The special functions (R211, R212) -/

theorem sfuLane_nan (fn : SfuFn) : sfuLane fn 0x7FC00000 = 0x7FC00000 := by
  have hx : ofF32 (0x7FC00000 : Word).toNat = .nan := by decide
  have hv : sfuVal fn .nan = .nan := by cases fn <;> rfl
  rw [sfuLane, hx, hv]
  rfl

theorem sfuLane_rcp : sfuLane .rcp 0 = 0x7F800000 ∧ sfuLane .rcp 0x80000000 = 0xFF800000 ∧ sfuLane .rcp 0x7F800000 = 0
    ∧ sfuLane .rcp 0xFF800000 = 0x80000000 ∧ sfuLane .rcp 0x40000000 = 0x3F000000 := by decide +kernel

theorem sfuLane_rsq : sfuLane .rsq 0 = 0x7F800000 ∧ sfuLane .rsq 0x7F800000 = 0 ∧ sfuLane .rsq 0xBF800000 = 0x7FC00000
    ∧ sfuLane .rsq 0x40800000 = 0x3F000000 := by decide +kernel

theorem sfuLane_sqrt : sfuLane .sqrt 0 = 0 ∧ sfuLane .sqrt 0x7F800000 = 0x7F800000 ∧ sfuLane .sqrt 0xBF800000 = 0x7FC00000
    ∧ sfuLane .sqrt 0x40800000 = 0x40000000 := by decide +kernel

theorem sfuLane_exp2 : sfuLane .exp2 0 = 0x3F800000 ∧ sfuLane .exp2 0x40400000 = 0x41000000 ∧ sfuLane .exp2 0x7F800000 = 0x7F800000
    ∧ sfuLane .exp2 0xFF800000 = 0 := by decide +kernel

theorem sfuLane_log2 : sfuLane .log2 0 = 0xFF800000 ∧ sfuLane .log2 0x41000000 = 0x40400000 ∧ sfuLane .log2 0xBF800000 = 0x7FC00000
    ∧ sfuLane .log2 0x7F800000 = 0x7F800000 := by decide +kernel

theorem sfuLane_trig : sfuLane .sin 0 = 0 ∧ sfuLane .sin 0x7F800000 = 0x7FC00000 ∧ sfuLane .cos 0 = 0x3F800000
    ∧ sfuLane .cos 0x7F800000 = 0x7FC00000 := by decide +kernel

theorem sfuLane_tanh : sfuLane .tanh 0 = 0 ∧ sfuLane .tanh 0x7F800000 = 0x3F800000 ∧ sfuLane .tanh 0xFF800000 = 0xBF800000 := by decide +kernel

theorem exec_vunpk (p : Pr) (ty : ElemTy) (t1 t0 : Target) (s : State) : exec (.vunpk p ty t1 t0) s = execVunpk p ty t1 t0 s := rfl

/-- Settles O22: the conversions by sub-elements, VDOT lane by lane, and VSFU by its function. -/
theorem laneConversionsAndDotProducts : Obligations.LaneConversionsAndDotProducts := by
  intro s f b p ty dst sat rnd t1 t0 la lb lc ma mb mc hl wide
  refine ⟨fun h _ => ?cvt, fun h _ hr => ?pack, fun h _ => ?unpk, fun h _ hr h3 => ?dot, fun fn h => ?sfu, sfuLane_nan, sfuLane_rcp, sfuLane_rsq,
    sfuLane_sqrt, sfuLane_exp2, sfuLane_log2, sfuLane_trig, sfuLane_tanh⟩
  case cvt => exact ⟨_, emits_vector1_of_eq h hl rfl rfl, subsAre_maskedLanes ..⟩
  case pack => exact ⟨_, emits_vector2 h hl hr rfl, subsAre_maskedLanes ..⟩
  case unpk => exact ⟨_, _, exec_fire1 h hl nofun (exec_vunpk ..) rfl, subsAre_maskedLanes .., subsAre_maskedLanes ..⟩
  case dot =>
    exact ⟨_, fun i => vdotLane ty (lane la i) (lane lb i) (lane lc i), emits_vector3 h hl hr h3 rfl, lanesAre_maskedLanes .., fun i _ =>
      ⟨fun hf => vdotLane_float hf .., fun hty => toNat_vdotLane hty .., fun hf h8 h16 => toInt_vdotLane hf h8 h16 ..⟩⟩
  case sfu => exact ⟨_, emits_vector1_of_eq h hl rfl rfl, lanesAre_maskedLanes ..⟩

end Sys2Proof.Machine
